-- ==== Sys2Proof/Word.lean ====
section
/-! DEFINITION. The word types of the QR-36A and their plainest arithmetic (00_scope R1, R3). -/

namespace Sys2Proof

abbrev Byte := BitVec 8
abbrev Half := BitVec 16
abbrev Word := BitVec 32
abbrev DWord := BitVec 64

/-- One value per lane of a crew (32 of them, lane 0 first); a missing entry reads as zero. -/
abbrev Lanes (w : Nat) := List (BitVec w)

/-- The value of lane `l`. -/
def laneOf {w : Nat} (x : Lanes w) (l : Nat) : BitVec w := x.getD l 0

/-- The lanes computed one by one. -/
def lanesBy {w : Nat} (f : Nat → BitVec w) : Lanes w := (List.range 32).map f

/-- The same value in every lane. -/
def lanesAll {w : Nat} (v : BitVec w) : Lanes w := List.replicate 32 v

end Sys2Proof
end

