-- ==== Sys2Proof/Syntax.lean ====
section
/-! DEFINITION. The instruction words of FLX and the steps of the panel, one constructor of `Instr` for each row of
spec/opcode_table.json. A row with an encoding carries its fields as a `Form` (02 R32) or a `Header` (R27); a row that
no word encodes (a completion, a command of the host, a failure of a part) carries what that event names. -/

namespace Sys2Proof

/-- Word lengths (R24): 64, 96 and 128 bits. -/
inductive Len
  | short | medium | long
  deriving DecidableEq, Repr

/-- Permute patterns of a source (R35). -/
inductive Perm
  | none
  | rot (k : BitVec 5)
  | bc (k : BitVec 5)
  | bf (k : BitVec 5)
  | mir
  deriving DecidableEq, Repr

/-- Source kinds (R34). History ages are held as age − 1, as the index field has them. An immediate names its slot. -/
inductive Src
  | v (n : BitVec 8)
  | h (age : BitVec 4)
  | k (n : BitVec 6)
  | imm (slot : Bool)
  deriving DecidableEq, Repr

/-- A source with the pattern the read crossbar applies. -/
structure Operand where
  src : Src
  perm : Perm
  deriving DecidableEq, Repr

/-- The reserved zero of a source field (R34): also `v0` where the instruction takes a source. -/
def Operand.zero : Operand := ⟨.v 0, .none⟩

/-- The fields of an instruction word (R32) but for len and opc: nd and dst, fs, mod, the extension bits x, the three
sources, and the two immediate slots with the bits the word's length gives them. -/
structure Form where
  len : Len
  mod : BitVec 6
  fs : Bool
  nd : Bool
  dst : BitVec 8
  a : Operand
  b : Operand
  c : Operand
  x : BitVec 6
  imm0 : BitVec 32
  imm1 : BitVec 8
  deriving DecidableEq, Repr

/-- A short word with every field but its length zero. -/
def Form.zero : Form := ⟨.short, 0, false, false, 0, .zero, .zero, .zero, 0, 0, 0⟩

/-- A clause header (R27): count, wait mask, flag A and flag B. -/
structure Header where
  cnt : BitVec 6
  wm : BitVec 12
  fa : BitVec 4
  fb : BitVec 4
  deriving DecidableEq, Repr

/-- A host function: port 0 to 3 and virtual function 0 to 63 (R398). -/
structure Fn where
  port : Nat
  vf : Nat
  deriving DecidableEq, Repr

/-- A dependence of a launch (R375): predecessor sequence and the early flag. -/
structure Dep where
  seq : Nat
  ear : Bool
  deriving DecidableEq, Repr

/-- A launch command (R375). -/
structure LaunchCmd where
  fn : Fn
  irq : Bool
  tis : Bool
  record : DWord
  job : Nat
  phase : Nat
  counter : DWord
  deps : List Dep
  deriving DecidableEq, Repr

/-- A graph record command (R384). -/
structure GraphCmd where
  fn : Fn
  irq : Bool
  ovl : Bool
  graph : Nat
  nodes : Nat
  patch : Nat
  table : DWord
  slot0 : DWord
  slot1 : DWord
  counter : DWord
  deriving DecidableEq, Repr

/-- A graph replay command (R385). -/
structure ReplayCmd where
  fn : Fn
  irq : Bool
  graph : Nat
  job : Nat
  phase : Nat
  source : DWord
  deriving DecidableEq, Repr

/-- A phase or job command (R386). -/
structure UnitCmd where
  fn : Fn
  irq : Bool
  job : Nat
  phase : Nat
  counter : DWord
  ord : Bool
  deriving DecidableEq, Repr

/-- A counter assign or release command (R374). -/
structure CounterCmd where
  fn : Fn
  irq : Bool
  isl : Nat
  counter : Nat
  value : Word
  deriving DecidableEq, Repr

/-- A remote-window lease or release command (R374). -/
structure WindowCmd where
  fn : Fn
  irq : Bool
  isl : Nat
  base : DWord
  len : Nat
  deriving DecidableEq, Repr

/-- What the regulators of one zone read in a measurement (R409): draw in milliwatts and die temperature in degrees. -/
structure PowerReading where
  isl : Nat
  zone : Nat
  milliwatts : Nat
  celsius : Nat
  deriving DecidableEq, Repr

/-- What else draws from the panel's cap (R409): the common regulator groups, the optics, the memory and the edge die, in
milliwatts. -/
structure OtherDraw where
  common : Nat
  optics : Nat
  memory : Nat
  edge : Nat
  deriving DecidableEq, Repr

/-- A regulator measurement of the panel (R409): some zones' readings, and what else draws. -/
structure Measurement where
  zones : List PowerReading
  rest : OtherDraw
  deriving DecidableEq, Repr

/-- Where a write of the host to a register goes: a function's BAR 0 (R400); BAR 4 of a port, from its physical function or
not (R411); the mask bits, one at each offset, of the MSI-X vectors of a virtual function, or of a port's physical one (R398,
R402). -/
inductive RegFile
  | bar0 (fn : Fn)
  | bar4 (port : Nat) (pf : Bool)
  | masks (fn : Fn)
  | masksPf (port : Nat)
  deriving DecidableEq, Repr

/-- What a packet asks of its target (R363, R367); a get's reply carries bytes back to an offset of its destination. -/
inductive Payload
  | put (addr : Nat) (bytes : List Byte)
  | get (addr len : Nat)
  | notify (counter : Nat) (n : Word)
  | atomic (addr ty op : Nat) (cas : Bool) (c d : DWord)
  | reply (off : Nat) (bytes : List Byte)
  deriving DecidableEq, Repr

/-- What a PACKET_ARRIVAL brings (R366, R395): a packet of State at its target; one 8-byte atom of a put or a get ahead of the
others (R340), by its address in atoms; what an island of another panel made of one
(a previous value, the bytes of a get, or the sub-cause of its refusal); an operation that another panel sends here. -/
inductive Arrival
  | here (packet : Nat)
  | atom (packet at8 : Nat)
  | far (packet : Nat) (value : DWord) (bytes : List Byte) (refusal : Option Nat)
  | sent (panel isl target fn : Nat) (ordered : Bool) (what : Payload)
  deriving DecidableEq, Repr

/-- What a COLLECTIVE_COMBINE does (R349, R350, R397): it combines the values of two members, or brings in the contribution
of a member on another panel. -/
inductive Combining
  | step (coll first second : Nat)
  | joins (panel isl fn : Nat) (card : List DWord) (bytes : List Byte)
  deriving DecidableEq, Repr

/-- The rows of spec/opcode_table.json. -/
inductive Instr
  /-- NOP (R26). -/
  | nop (f : Form)
  /-- CLAUSE_HEADER (R28). -/
  | clauseHeader (h : Header)
  /-- ADD (R55). -/
  | add (f : Form)
  /-- SUB (R55). -/
  | sub (f : Form)
  /-- MUL (R55). -/
  | mul (f : Form)
  /-- MULH (R55). -/
  | mulh (f : Form)
  /-- MAD (R55). -/
  | mad (f : Form)
  /-- ABS (R55). -/
  | abs (f : Form)
  /-- MIN (R55). -/
  | min (f : Form)
  /-- MAX (R55). -/
  | max (f : Form)
  /-- AND (R55). -/
  | and (f : Form)
  /-- OR (R55). -/
  | or (f : Form)
  /-- XOR (R55). -/
  | xor (f : Form)
  /-- NOT (R55). -/
  | not (f : Form)
  /-- SHL (R55). -/
  | shl (f : Form)
  /-- SHR (R55). -/
  | shr (f : Form)
  /-- SRA (R55). -/
  | sra (f : Form)
  /-- ROTL (R55). -/
  | rotl (f : Form)
  /-- CLZ (R55). -/
  | clz (f : Form)
  /-- POPC (R55). -/
  | popc (f : Form)
  /-- BREV (R55). -/
  | brev (f : Form)
  /-- BFE (R56). -/
  | bfe (f : Form)
  /-- BFI (R56). -/
  | bfi (f : Form)
  /-- MOV (R57). -/
  | mov (f : Form)
  /-- LEA (R58). -/
  | lea (f : Form)
  /-- SEL (R59). -/
  | sel (f : Form)
  /-- CMP (R60). -/
  | cmp (f : Form)
  /-- BRA (R62). -/
  | bra (f : Form)
  /-- BRC (R62). -/
  | brc (f : Form)
  /-- BRI (R62). -/
  | bri (f : Form)
  /-- CALL (R62). -/
  | call (f : Form)
  /-- CALL_I (R62). -/
  | callI (f : Form)
  /-- RET (R62). -/
  | ret (f : Form)
  /-- LOOP (R62). -/
  | loop (f : Form)
  /-- EXIT (R63). -/
  | exit (f : Form)
  /-- YIELD (R162). -/
  | yield (f : Form)
  /-- WAIT (R64). -/
  | wait (f : Form)
  /-- LD (R69). -/
  | ld (f : Form)
  /-- ST (R69). -/
  | st (f : Form)
  /-- LDK (R71). -/
  | ldk (f : Form)
  /-- STK (R71). -/
  | stk (f : Form)
  /-- SLD (R72). -/
  | sld (f : Form)
  /-- SST (R72). -/
  | sst (f : Form)
  /-- PREF (R73). -/
  | pref (f : Form)
  /-- VGET (R74). -/
  | vget (f : Form)
  /-- VPUT (R74). -/
  | vput (f : Form)
  /-- FADD (R81). -/
  | fadd (f : Form)
  /-- FSUB (R81). -/
  | fsub (f : Form)
  /-- FMUL (R81). -/
  | fmul (f : Form)
  /-- FFMA (R81). -/
  | ffma (f : Form)
  /-- FMIN (R82). -/
  | fmin (f : Form)
  /-- FMAX (R82). -/
  | fmax (f : Form)
  /-- FRND (R85). -/
  | frnd (f : Form)
  /-- FEXPF (R86). -/
  | fexpf (f : Form)
  /-- FLOG2 (R86). -/
  | flog2 (f : Form)
  /-- FRCP (R86). -/
  | frcp (f : Form)
  /-- FRSQ (R86). -/
  | frsq (f : Form)
  /-- FSQRT (R86). -/
  | fsqrt (f : Form)
  /-- FSCL (R87). -/
  | fscl (f : Form)
  /-- FXTR (R88). -/
  | fxtr (f : Form)
  /-- FCLS (R84). -/
  | fcls (f : Form)
  /-- CVT (R89). -/
  | cvt (f : Form)
  /-- FCMP (R83). -/
  | fcmp (f : Form)
  /-- FNEG (R81). -/
  | fneg (f : Form)
  /-- FABS (R81). -/
  | fabs (f : Form)
  /-- FCLAMP (R82). -/
  | fclamp (f : Form)
  /-- HADD2 (R127). -/
  | hadd2 (f : Form)
  /-- HSUB2 (R127). -/
  | hsub2 (f : Form)
  /-- HMUL2 (R127). -/
  | hmul2 (f : Form)
  /-- HMIN2 (R127). -/
  | hmin2 (f : Form)
  /-- HMAX2 (R127). -/
  | hmax2 (f : Form)
  /-- ACS2 (R128). -/
  | acs2 (f : Form)
  /-- HFMA2 (R127). -/
  | hfma2 (f : Form)
  /-- BFMA2 (R127). -/
  | bfma2 (f : Form)
  /-- HCMP2 (R129). -/
  | hcmp2 (f : Form)
  /-- PERM (R130). -/
  | perm (f : Form)
  /-- VOTE_ANY (R131). -/
  | voteAny (f : Form)
  /-- VOTE_ALL (R131). -/
  | voteAll (f : Form)
  /-- VOTE_BALLOT (R132). -/
  | voteBallot (f : Form)
  /-- LRED (R133). -/
  | lred (f : Form)
  /-- LSCAN (R134). -/
  | lscan (f : Form)
  /-- MSPL (R135). -/
  | mspl (f : Form)
  /-- MSK_IF (R136). -/
  | mskIf (f : Form)
  /-- MSK_IF_M (R136). -/
  | mskIfM (f : Form)
  /-- MSK_ELSE (R136). -/
  | mskElse (f : Form)
  /-- MSK_END (R136). -/
  | mskEnd (f : Form)
  /-- MAND (R137). -/
  | mand (f : Form)
  /-- MOR (R137). -/
  | mor (f : Form)
  /-- MXOR (R137). -/
  | mxor (f : Form)
  /-- MNOT (R137). -/
  | mnot (f : Form)
  /-- MCNT (R137). -/
  | mcnt (f : Form)
  /-- MMOV_MASK (R137). -/
  | mmovMask (f : Form)
  /-- MMOV_FROM_UNIFORM (R137). -/
  | mmovFromUniform (f : Form)
  /-- MMOV_TO_UNIFORM (R137). -/
  | mmovToUniform (f : Form)
  /-- SSEG (R139). -/
  | sseg (f : Form)
  /-- SCMP (R140). -/
  | scmp (f : Form)
  /-- SFND (R141). -/
  | sfnd (f : Form)
  /-- SHASH (R142). -/
  | shash (f : Form)
  /-- HMIX (R143). -/
  | hmix (f : Form)
  /-- PART (R144). -/
  | part (f : Form)
  /-- FORK (R166). -/
  | fork (f : Form)
  /-- RDV (R167). -/
  | rdv (f : Form)
  /-- SEQ_END (R168). -/
  | seqEnd (f : Form)
  /-- SEQ_LOOP (R168). -/
  | seqLoop (f : Form)
  /-- LDW (R171). -/
  | ldw (f : Form)
  /-- FLIP (R172). -/
  | flip (f : Form)
  /-- MMA (R175). -/
  | mma (f : Form)
  /-- MMA_C (R202). -/
  | mmaC (f : Form)
  /-- ACLR (R176). -/
  | aclr (f : Form)
  /-- AMOV (R177). -/
  | amov (f : Form)
  /-- QNT (R178). -/
  | qnt (f : Form)
  /-- CPY (R180). -/
  | cpy (f : Form)
  /-- CPYX (R180). -/
  | cpyx (f : Form)
  /-- CPYM (R180). -/
  | cpym (f : Form)
  /-- BAR_INIT (R183). -/
  | barInit (f : Form)
  /-- BAR_ARR (R183). -/
  | barArr (f : Form)
  /-- BAR_ARRX (R183). -/
  | barArrx (f : Form)
  /-- BAR_WAIT (R183). -/
  | barWait (f : Form)
  /-- BAR_TEST (R183). -/
  | barTest (f : Form)
  /-- LDA (R227). -/
  | lda (f : Form)
  /-- STL (R226). -/
  | stl (f : Form)
  /-- ATOM (R230). -/
  | atom (f : Form)
  /-- ATOM_CAS (R229). -/
  | atomCas (f : Form)
  /-- FENCE_ACQ (R231). -/
  | fenceAcq (f : Form)
  /-- FENCE_REL (R231). -/
  | fenceRel (f : Form)
  /-- FENCE_SC (R231). -/
  | fenceSc (f : Form)
  /-- TRAP (R232). -/
  | trap (f : Form)
  /-- SYS (R232). -/
  | sys (f : Form)
  /-- ERET (R275). -/
  | eret (f : Form)
  /-- NPS_BEGIN (R235). -/
  | npsBegin (f : Form)
  /-- NPS_END (R235). -/
  | npsEnd (f : Form)
  /-- ROUND (R237). -/
  | round (f : Form)
  /-- TRIG (R238). -/
  | trig (f : Form)
  /-- SPAWN (R239). -/
  | spawn (f : Form)
  /-- SRD (R240). -/
  | srd (f : Form)
  /-- SWR (R240). -/
  | swr (f : Form)
  /-- GTIME (R242). -/
  | gtime (f : Form)
  /-- THD (R283). -/
  | thd (f : Form)
  /-- THL (R283). -/
  | thl (f : Form)
  /-- THS (R283). -/
  | ths (f : Form)
  /-- TLD (R284). -/
  | tld (f : Form)
  /-- TST (R284). -/
  | tst (f : Form)
  /-- RELAY (R286). -/
  | relay (f : Form)
  /-- THQ (R288). -/
  | thq (f : Form)
  /-- THW (R287). -/
  | thw (f : Form)
  /-- THPF (R284). -/
  | thpf (f : Form)
  /-- PUT (R339). -/
  | put (f : Form)
  /-- MPUT (R339). -/
  | mput (f : Form)
  /-- GET (R341). -/
  | get (f : Form)
  /-- RATM (R344). -/
  | ratm (f : Form)
  /-- RATM_CAS (R344). -/
  | ratmCas (f : Form)
  /-- NTF (R342). -/
  | ntf (f : Form)
  /-- FLUSHP (R346). -/
  | flushp (f : Form)
  /-- CWAIT (R343). -/
  | cwait (f : Form)
  /-- COLL (R348). -/
  | coll (f : Form)
  /-- RFENCE_REL (R347). -/
  | rfenceRel (f : Form)
  /-- RFENCE_ACQ (R347). -/
  | rfenceAcq (f : Form)
  /-- OPERATION_COMPLETES (R30). -/
  | operationCompletes (crew op : Nat)
  /-- SWAP_START (R158). -/
  | swapStart (core quarter : Nat)
  /-- SWAP_ENDS (R157). -/
  | swapEnds (core quarter : Nat)
  /-- DISPLACEMENT (R159). -/
  | displacement (core quarter : Nat)
  /-- SEQUENCER_FETCH (R166). -/
  | sequencerFetch (core : Nat) (copy : Bool)
  /-- SEQ_END_COMPLETES (R168). -/
  | seqEndCompletes (core : Nat) (copy : Bool)
  /-- JOB_START (R218). -/
  | jobStart (core job : Nat)
  /-- JOB_COMPLETION (R180). -/
  | jobCompletion (core job : Nat)
  /-- CPYM_BEAT (R212). -/
  | cpymBeat (core job window beat : Nat)
  /-- ARRIVAL_APPLIED (R184). -/
  | arrivalApplied (arrival : Nat)
  /-- PRODUCER_CONTEXT_FREED (R214). -/
  | producerContextFreed (crew : Nat)
  /-- TEAM_END (R215). -/
  | teamEnd (team : Nat)
  /-- GANG_PLACEMENT (R111). -/
  | gangPlacement (launch gang : Nat) (cores : List Nat)
  /-- LAUNCH_COMPLETION (R378). -/
  | launchCompletion (launch : Nat)
  /-- SECTION_OVERRUN (R236). -/
  | sectionOverrun (crew : Nat)
  /-- TRAP_ENTRY (R272). -/
  | trapEntry (crew : Nat)
  /-- IMPRECISE_DELIVERY (R274). -/
  | impreciseDelivery (team : Nat)
  /-- SURRENDER (R254). -/
  | surrender (core seq : Nat)
  /-- EVICTION (R248). -/
  | eviction (core line : Nat)
  /-- POWER_GATING (R258). -/
  | powerGating (core : Nat)
  /-- HOST_SNOOP (R399). -/
  | hostSnoop (addr : Nat)
  /-- HOST_WRITE_INVALIDATE (R399). -/
  | hostWriteInvalidate (addr : Nat) (bytes : List Byte)
  /-- PREEMPTION (R277). -/
  | preemption (launch gang : Nat)
  /-- RESUMPTION (R278). -/
  | resumption (launch gang : Nat) (cores : List Nat)
  /-- REGULATOR_FAILURE (R321). -/
  | regulatorFailure (isl group : Nat)
  /-- ZONE_LOSS (R323). -/
  | zoneLoss (isl zone : Nat)
  /-- ROUND_COMMIT (R327). -/
  | roundCommit (team : Nat)
  /-- RE_MIRROR (R329). -/
  | reMirror (isl zone : Nat)
  /-- GUARDED_RESTART (R328). -/
  | guardedRestart (team : Nat) (cores : List Nat)
  /-- ROVING_TEST_DUE (R332). -/
  | rovingTestDue (core : Nat)
  /-- TEST_OVERDUE (R333). -/
  | testOverdue (core : Nat)
  /-- TEST_COMPLETE (R334). -/
  | testComplete (core : Nat) (pass full : Bool)
  /-- CORE_RETURN (R334). -/
  | coreReturn (core : Nat)
  /-- STAGING (R307). -/
  | staging (launch : Nat)
  /-- LEASE_RENEWAL (R309). -/
  | leaseRenewal (lease : Nat)
  /-- LEASE_VOID (R309). -/
  | leaseVoid (lease : Nat)
  /-- TIME_BROADCAST (R310). -/
  | timeBroadcast (elapsed : Nat) (offsets : List (Nat × Int))
  /-- MIGRATION_REQUEST (R312). -/
  | migrationRequest (lease unit : Nat)
  /-- MIGRATION_PROCEEDS (R312). -/
  | migrationProceeds (lease unit : Nat)
  /-- TILE_CONVERSION (R300). -/
  | tileConversion (isl conversion : Nat)
  /-- PACKET_ARRIVAL (R366). -/
  | packetArrival (a : Arrival)
  /-- ACKNOWLEDGEMENT (R339). -/
  | acknowledgement (packet : Nat)
  /-- COLLECTIVE_COMBINE (R349). -/
  | collectiveCombine (x : Combining)
  /-- LINK_DECLARED_DEAD (R372). -/
  | linkDeclaredDead (isl port : Nat)
  /-- ISLAND_DECLARED_DEAD (R414). -/
  | islandDeclaredDead (isl : Nat)
  /-- PLANE_DEAD (R396). -/
  | planeDead (plane panelA islA panelB islB : Nat)
  /-- HOLD_MET (R382). -/
  | holdMet (launch : Nat)
  /-- DEPENDENCE_MET (R383). -/
  | dependenceMet (launch : Nat)
  /-- LAUNCH (R375). -/
  | launch (c : LaunchCmd)
  /-- GRAPH_RECORD (R384). -/
  | graphRecord (c : GraphCmd)
  /-- GRAPH_REPLAY (R385). -/
  | graphReplay (c : ReplayCmd)
  /-- REPLAY_SLOT_TAKEN (R385). -/
  | replaySlotTaken (replay : Nat)
  /-- PHASE_OPEN (R386). -/
  | phaseOpen (c : UnitCmd)
  /-- PHASE_CLOSE (R386). -/
  | phaseClose (c : UnitCmd)
  /-- JOB_OPEN (R386). -/
  | jobOpen (c : UnitCmd)
  /-- JOB_CLOSE (R386). -/
  | jobClose (c : UnitCmd)
  /-- CANCEL (R379). -/
  | cancel (fn : Fn) (irq : Bool) (target : Nat)
  /-- COUNTER_ASSIGN (R374). -/
  | counterAssign (c : CounterCmd)
  /-- COUNTER_RELEASE (R374). -/
  | counterRelease (c : CounterCmd)
  /-- REMOTE_WINDOW_LEASE (R374). -/
  | remoteWindowLease (c : WindowCmd)
  /-- LEASE_RELEASE (R374). -/
  | leaseRelease (c : WindowCmd)
  /-- HANDLER_SET (R374). -/
  | handlerSet (fn : Fn) (irq : Bool) (isl : Nat) (addr : DWord)
  /-- SUBMISSION_TAIL_DOORBELL (R401). -/
  | submissionTailDoorbell (fn : Fn) (q tail : Nat)
  /-- COMPLETION_HEAD_DOORBELL (R402). -/
  | completionHeadDoorbell (fn : Fn) (q head : Nat)
  /-- HELD_COMPLETION_RECORD (R402). -/
  | heldCompletionRecord (fn : Fn) (q : Nat)
  /-- QUEUE_ENABLE (R400). -/
  | queueEnable (fn : Fn) (q : Nat) (ctl : DWord)
  /-- QUEUE_ERR_CLEAR (R400). -/
  | queueErrClear (fn : Fn) (q : Nat) (ctl : DWord)
  /-- REGISTER_WRITE (R398, R400, R402, R411). -/
  | registerWrite (file : RegFile) (offset : Nat) (value : DWord)
  /-- BAR2_ACCESS (R398). -/
  | bar2Access (fn : Fn) (offset : Nat) (store : Option DWord)
  /-- PANEL_CAP_WRITE (R411). -/
  | panelCapWrite (watts : Nat)
  /-- VF_WEIGHT_WRITE (R403). -/
  | vfWeightWrite (fn : Fn) (weight : Nat)
  /-- FUNCTION_LEVEL_RESET (R404). -/
  | functionLevelReset (fn : Fn)
  /-- PANEL_RESET (R405). -/
  | panelReset
  /-- GET_VERSION (R407). -/
  | getVersion (port : Nat)
  /-- GET_CAPABILITIES (R407). -/
  | getCapabilities (port : Nat)
  /-- NEGOTIATE_ALGORITHMS (R407). -/
  | negotiateAlgorithms (port hash sign : Nat)
  /-- GET_DIGESTS (R407). -/
  | getDigests (port : Nat)
  /-- GET_CERTIFICATE (R407). -/
  | getCertificate (port : Nat)
  /-- CHALLENGE (R407). -/
  | challenge (port : Nat) (nonce : DWord)
  /-- GET_MEASUREMENTS (R407). -/
  | getMeasurements (port index : Nat)
  /-- REGULATOR_MEASUREMENT (R409). -/
  | regulatorMeasurement (readings : Measurement)
  /-- CORE_WAKE (R258). -/
  | coreWake (core : Nat)
  deriving DecidableEq, Repr

end Sys2Proof
end

