-- ==== Sys2Proof/Machine/FieldRules.lean ====
section
/-! DEFINITION. What each instruction accepts in each field of its word (02 R26-R38 and each instruction chapter): the
kinds and widths of its sources, its destination, its mod and x bits, its tag. The decoder reports the lowest bit number
of what a word breaks (R39), and the operand reads take the same kinds and widths from here. -/

namespace Sys2Proof

/-- How an instruction takes one source field. -/
inductive Use
  /-- the field is absent: reserved, with its permute -/
  | no
  /-- any kind, reading n named registers (1, 2 or 4) -/
  | any (n : Nat)
  /-- data of a store: as `any`, an immediate in slot 1 only (R67) -/
  | data (n : Nat)
  /-- uniform or immediate -/
  | uni
  /-- uniform or immediate data of `stk`: slot 1 only (R67, R71) -/
  | uniData
  /-- uniform or immediate, or absent -/
  | uniOpt
  /-- uniform, or the immediate of slot 0 (R64) -/
  | uniSlot0
  /-- uniform only, reading n registers, its index a multiple of `al` and at most `top` -/
  | k (n al top : Nat)
  /-- uniform base of an address, or absent (R66) -/
  | kOpt
  /-- index of an address: named or history, or absent (R66) -/
  | idxOpt
  /-- named or history -/
  | idx
  /-- n named registers only, from an index that is a multiple of `al` -/
  | named (n al : Nat)
  /-- a segment quad (R138): named, a multiple of 4, no permute -/
  | seg
  /-- a mask operand up to number `top` (R126): 8 is `em` -/
  | mask (top : Nat)
  /-- a mask number in bits [2:0] below a reserved field [7:3] (R59, R62) -/
  | mask3
  deriving DecidableEq, Repr

/-- What dst names. -/
inductive DstUse
  /-- no result: nd and dst are zero -/
  | no
  /-- n named registers from a multiple of n; nd = 0 for history only -/
  | v (n : Nat)
  /-- a uniform register; with `req` nd must be 1 -/
  | k (req : Bool)
  /-- a mask register up to number `top`; with `req` nd must be 1 -/
  | m (req : Bool) (top : Nat)
  deriving DecidableEq, Repr

/-- What an instruction accepts: mod as a whole, fs, the x bits, other bit numbers its rules give, its operands, whether
it uses immediate slot 0 itself, and whether its immediates are 16-bit floats (R36). -/
structure Desc where
  modOk : Bool
  fsOk : Bool
  xMask : Nat
  extra : List Nat
  dst : DstUse
  a : Use
  b : Use
  c : Use
  slot0 : Bool
  half : Bool
  /-- scale of the index and width in bytes of an access that each lane makes aligned (R66, R75) -/
  acc : Option (Nat × Nat)
  deriving DecidableEq, Repr

/-- Every field zero (R32). -/
def Desc.bare : Desc := ⟨true, false, 0, [], .no, .no, .no, .no, false, false, none⟩

def Form.modN (f : Form) : Nat := f.mod.toNat
/-- Type code mod[3:0] (R33). -/
def Form.ty (f : Form) : Nat := f.mod.toNat % 16
/-- mod[5:4]. -/
def Form.hi (f : Form) : Nat := f.mod.toNat / 16
/-- mod[4]. -/
def Form.m4 (f : Form) : Bool := f.mod.getLsbD 4
/-- mod[5]: the uniform form where there is one (R54). -/
def Form.m5 (f : Form) : Bool := f.mod.getLsbD 5
def Form.xBit (f : Form) (i : Nat) : Bool := f.x.getLsbD i

/-- Registers of a value of an integer type: two for the 64-bit types (R53). -/
def regsOf (ty : Nat) : Nat := if ty = 2 ∨ ty = 3 ∨ ty = 12 then 2 else 1

def isHalfTy (ty : Nat) : Bool := ty == 9 || ty == 10

/-- The bits of a permute field (R35). -/
def Perm.bits : Perm → BitVec 8
  | .none => 0
  | .rot k => 1#3 ++ k
  | .bc k => 2#3 ++ k
  | .bf k => 3#3 ++ k
  | .mir => 4#3 ++ 0#5

/-- The bits of a source field (R34). -/
def Src.bits : Src → BitVec 10
  | .v n => 0#2 ++ n
  | .h a => 1#2 ++ (0#4 ++ a)
  | .k n => 2#2 ++ (0#2 ++ n)
  | .imm s => 3#2 ++ (0#7 ++ BitVec.ofBool s)

/-- Bit number of the lowest one of a field that starts at bit `lo`. -/
def lowBitFrom (lo w : Nat) (x : Nat) : List Nat :=
  ((List.range w).filter (fun i => x.testBit i)).map (lo + ·)

/-- A condition that charges one bit number. -/
def chargeIf (bad : Bool) (n : Nat) : List Nat := if bad then [n] else []

def Src.isUni : Src → Bool
  | .k _ => true
  | .imm _ => true
  | _ => false

/-- A source that the word does not take, or takes without a permute: its permute field is reserved (R35). -/
def Use.noPermute (u : Use) (o : Operand) : Bool :=
  match u with
  | .no | .mask _ | .mask3 => true
  | .uniOpt | .kOpt | .idxOpt => o.src == .v 0
  | _ => false

/-- Bit numbers a source field gives: `lo` the field's lowest bit, `plo` its permute's. -/
def sourceFaults (lo plo : Nat) (u : Use) (o : Operand) : List Nat :=
  let own := lowBitFrom lo 10 o.src.bits.toNat
  let noPerm := lowBitFrom plo 8 o.perm.bits.toNat
  let crossbar := chargeIf (o.src.isUni && decide (o.perm ≠ .none)) lo
  let namedOk (n : Nat) : Bool := match o.src with
    | .v i => i.toNat % n == 0
    | _ => true
  match u with
  | .no => own ++ noPerm
  | .any n => chargeIf (!namedOk n) lo ++ crossbar
  | .data n => chargeIf (!namedOk n || o.src == .imm false) lo ++ crossbar
  | .uni => chargeIf (!o.src.isUni) lo ++ crossbar ++ (if o.src.isUni then [] else noPerm)
  | .uniData => chargeIf (!o.src.isUni || o.src == .imm false) lo ++ crossbar
  | .uniSlot0 => chargeIf (!o.src.isUni || o.src == .imm true) lo ++ crossbar ++ (if o.src.isUni then [] else noPerm)
  | .uniOpt => if o.src = .v 0 then noPerm else chargeIf (!o.src.isUni) lo ++ crossbar ++ (if o.src.isUni then [] else noPerm)
  | .k _ al top => (match o.src with
    | .k n => chargeIf (n.toNat % al != 0 || decide (top < n.toNat)) lo
    | _ => [lo]) ++ crossbar ++ noPerm
  | .kOpt => if o.src = .v 0 then noPerm else (match o.src with
    | .k _ => []
    | _ => [lo]) ++ crossbar ++ noPerm
  | .idxOpt => if o.src = .v 0 then noPerm else chargeIf o.src.isUni lo ++ crossbar
  | .idx => chargeIf o.src.isUni lo ++ crossbar
  | .named _ al => (match o.src with
    | .v n => chargeIf (n.toNat % al != 0) lo
    | _ => [lo]) ++ crossbar
  | .seg => (match o.src with
    | .v n => chargeIf (n.toNat % 4 != 0) lo
    | _ => [lo]) ++ chargeIf (decide (o.perm ≠ .none)) plo
  | .mask top => ((own.filter (fun i => lo + 4 ≤ i && i < lo + 8)))
      ++ chargeIf (decide (top < o.src.bits.toNat % 16) || decide (256 ≤ o.src.bits.toNat)) lo ++ noPerm
  | .mask3 => own.filter (fun i => lo + 3 ≤ i && i < lo + 8) ++ chargeIf (decide (256 ≤ o.src.bits.toNat)) lo ++ noPerm

/-- Bit numbers that nd and dst give (R37). -/
def dstFaults (u : DstUse) (nd : Bool) (dst : Nat) : List Nat :=
  let req (r : Bool) : List Nat := if nd then [] else chargeIf r 19 ++ lowBitFrom 20 8 dst
  match u with
  | .no => chargeIf nd 19 ++ lowBitFrom 20 8 dst
  | .v n => if nd then chargeIf (dst % n != 0) 20 else lowBitFrom 20 8 dst
  | .k r => if nd then chargeIf (decide (63 < dst)) 20 else req r
  | .m r top => if nd then chargeIf (decide (top < dst)) 20 else req r

def usesSlot (s : Bool) (u : Use) (o : Operand) : Bool := u != .no && o.src == .imm s

/-- Bit numbers of the immediate slots that nothing uses, and of the upper half of a 16-bit float (R36). -/
def immFaults (d : Desc) (f : Form) : List Nat :=
  let named0 := usesSlot false d.a f.a || usesSlot false d.b f.b || usesSlot false d.c f.c
  let named1 := usesSlot true d.a f.a || usesSlot true d.b f.b || usesSlot true d.c f.c
  let lo0 := match f.len with
    | .short => 48
    | .medium => 88
    | .long => 96
  (if d.slot0 || named0 then (if d.half && f.len == .long then lowBitFrom 112 16 (f.imm0.toNat / 65536) else [])
    else lowBitFrom lo0 32 f.imm0.toNat)
  ++ (if named1 then [] else lowBitFrom 88 8 f.imm1.toNat)

/-- Every bit number that a word gives under its description (R39). -/
def descFaults (d : Desc) (f : Form) : List Nat :=
  chargeIf (!d.modOk) 12 ++ chargeIf (f.fs && !d.fsOk) 18 ++ dstFaults d.dst f.nd f.dst.toNat
  ++ sourceFaults 28 64 d.a f.a ++ sourceFaults 38 72 d.b f.b ++ sourceFaults 48 80 d.c f.c
  ++ (lowBitFrom 58 6 f.x.toNat).filter (fun i => !d.xMask.testBit (i - 58)) ++ d.extra ++ immFaults d f

/-! ### Shapes of the instruction families -/

def intTys (ty : Nat) : Bool := ty < 4
def bitTys (ty : Nat) : Bool := ty == 11 || ty == 12
def floatTys (ty : Nat) : Bool := ty == 8 || ty == 9 || ty == 10
/-- Load types (R68). -/
def loadTys (ty : Nat) : Bool := ty ≤ 7 || (11 ≤ ty && ty ≤ 14)
/-- Store types (R68). -/
def storeTys (ty : Nat) : Bool := 11 ≤ ty && ty ≤ 14

def Use.ifUni (uniform : Bool) (u : Use) : Use := if uniform then .uni else u

def dstOf (uniform : Bool) (n : Nat) : DstUse := if uniform then .k false else .v n

/-- Integer and bit operations (R55-R57): accepted types, `.sat`, registers of b and c (0 for absent) and of the result. -/
def aluDesc (f : Form) (tys : Nat → Bool) (sat : Bool) (nb nc nd : Nat) : Desc :=
  let u := f.m5
  { Desc.bare with
    modOk := tys f.ty && (sat || !f.m4)
    dst := dstOf u nd
    a := Use.ifUni u (.any (regsOf f.ty))
    b := if nb = 0 then .no else Use.ifUni u (.any nb)
    c := if nc = 0 then .no else Use.ifUni u (.any nc) }

/-- Scalar float operations (R81): count of sources and whether there is a uniform form. -/
def fltDesc (f : Form) (n : Nat) (uniform : Bool) : Desc :=
  let u := f.m5 && uniform
  { Desc.bare with
    modOk := floatTys f.ty && !f.m4 && (uniform || !f.m5)
    dst := dstOf u 1
    a := Use.ifUni u (.any 1)
    b := if n < 2 then .no else Use.ifUni u (.any 1)
    c := if n < 3 then .no else Use.ifUni u (.any 1)
    half := isHalfTy f.ty }

/-- x[2:0] as a rounding mode (R78). -/
def modeFaults (f : Form) : List Nat := chargeIf (decide (4 < f.x.toNat % 8)) 58

/-- The function units (R86). -/
def unitDesc (f : Form) : Desc := { Desc.bare with modOk := f.modN = 8, dst := .v 1, a := .any 1 }

/-- Conversion pairings (R89): registers of the source and of the result, or none where mod is not listed. -/
def cvtRegs (m : Nat) : Option (Nat × Nat) :=
  if m ≤ 5 then some (1, 1)
  else if m = 8 ∨ m = 9 then some (1, 1)
  else if m = 10 ∨ m = 11 then some (2, 1)
  else if 12 ≤ m ∧ m ≤ 17 then some (1, 1)
  else if m = 18 ∨ m = 19 then some (1, 2)
  else if 20 ≤ m ∧ m ≤ 27 then some (1, 1)
  else none

/-- Pairings whose source is a 16-bit float. -/
def cvtHalf (m : Nat) : Bool := m == 0 || m == 1 || m == 4 || m == 5 || (24 ≤ m && m ≤ 27)

/-- Packed pairs (R127). -/
def packTys (ty : Nat) : Bool := ty == 4 || ty == 5 || ty == 9 || ty == 10

def packDesc (f : Form) (modOk : Bool) (n : Nat) : Desc :=
  { Desc.bare with
    modOk := modOk, dst := .v 1, a := .any 1, b := .any 1
    c := if n < 3 then .no else .any 1, half := isHalfTy f.ty }

/-- x[0] is the scale of 16 and goes with mod[5:4] = 3 only (R66). -/
def scaleOk (f : Form) : Bool := !f.xBit 0 || f.hi == 3

/-- The 128-bit width bit (R68). -/
def wideMem (f : Form) : Bool := f.xBit 1

def memRegs (f : Form) (wide : Bool) : Nat := if wide then 4 else regsOf f.ty

/-- Bytes of an access by its type (R68). -/
def memWidth (ty : Nat) (wide : Bool) : Nat :=
  if wide then 16
  else
    match ty with
    | 2 | 3 | 12 => 8
    | 4 | 5 | 13 => 2
    | 6 | 7 | 14 => 1
    | _ => 4

/-- The scale of an index (R66). -/
def memScale (f : Form) : Nat := if f.xBit 0 then 16 else 2 ^ f.hi

/-- Loads of a lane (R66-R69, R72). -/
def loadDesc (f : Form) : Desc :=
  { Desc.bare with
    modOk := loadTys f.ty && scaleOk f && (!wideMem f || f.ty == 12)
    fsOk := true, xMask := 3, dst := .v (memRegs f (wideMem f))
    a := .kOpt, b := .idxOpt, slot0 := true, acc := some (memScale f, memWidth f.ty (wideMem f)) }

/-- Stores of a lane (R66-R69, R72). -/
def storeDesc (f : Form) : Desc :=
  { Desc.bare with
    modOk := storeTys f.ty && scaleOk f && (!wideMem f || f.ty == 12)
    fsOk := true, xMask := 3, a := .kOpt, b := .idxOpt
    c := if wideMem f then .named 4 4 else .data (regsOf f.ty), slot0 := true, acc := some (memScale f, memWidth f.ty (wideMem f)) }

/-- Types and operations of an atomic (R228): mod whole. -/
def atomOk (f : Form) : Bool :=
  match f.ty with
  | 0 | 2 => true
  | 1 | 3 => f.hi != 3
  | 11 | 12 => true
  | 8 => f.hi != 3
  | _ => false

/-- Scopes of synchronisation accesses: x[2:0] at most 3 (R222). -/
def scopeFaults (f : Form) : List Nat := chargeIf (decide (3 < f.x.toNat % 8)) 58

/-- Reductions and scans (R133). -/
def reduceOk (f : Form) : Bool := (intTys f.ty || f.ty == 8 || bitTys f.ty) && f.hi != 3

/-- Formats with block scales (R173). -/
def blockFmt (fmt : Nat) : Bool := fmt == 7 || fmt == 8 || fmt == 9

def engineDesc (modOk : Bool) (xMask : Nat) (b : Use) : Desc :=
  { Desc.bare with modOk := modOk, xMask := xMask, a := .uni, b := b, c := .uni }

/-- Remote operations: mod[0] `.rlx` and mod[4] `.sl` (R339). -/
def putModOk (f : Form) : Bool := (f.modN / 2) % 8 == 0 && !f.m5

/-- What each instruction accepts. The steps that no word encodes accept nothing. -/
def Instr.desc : Instr → Desc
  | .nop f => { Desc.bare with modOk := f.modN = 0 }
  | .clauseHeader _ => Desc.bare
  | .add f | .sub f | .mul f => aluDesc f intTys true (regsOf f.ty) 0 (regsOf f.ty)
  | .mulh f | .min f | .max f => aluDesc f intTys false (regsOf f.ty) 0 (regsOf f.ty)
  | .mad f => aluDesc f intTys true (regsOf f.ty) (regsOf f.ty) (regsOf f.ty)
  | .abs f => aluDesc f (fun t => t == 1 || t == 3) true 0 0 (regsOf f.ty)
  | .and f | .or f | .xor f => aluDesc f bitTys false (regsOf f.ty) 0 (regsOf f.ty)
  | .not f | .brev f => aluDesc f bitTys false 0 0 (regsOf f.ty)
  | .shl f | .shr f | .rotl f => aluDesc f bitTys false 1 0 (regsOf f.ty)
  | .sra f => aluDesc f (fun t => t == 1 || t == 3) false 1 0 (regsOf f.ty)
  | .clz f | .popc f => aluDesc f bitTys false 0 0 1
  | .bfe f => aluDesc f intTys false 1 1 (regsOf f.ty)
  | .bfi f => aluDesc f bitTys false (regsOf f.ty) 1 (regsOf f.ty)
  | .mov f => aluDesc f bitTys false 0 0 (regsOf f.ty)
  | .lea f =>
    let u := f.mod.getLsbD 0
    { Desc.bare with
      modOk := (f.modN / 2) % 8 == 0 && scaleOk f, xMask := 1, dst := dstOf u 2
      a := .kOpt, b := if u then .no else .idxOpt, slot0 := true }
  | .sel f =>
    let n := regsOf f.ty
    { Desc.bare with
      modOk := bitTys f.ty && !(f.m4 && f.m5), dst := dstOf f.m5 n
      a := Use.ifUni f.m5 (.any n), b := Use.ifUni f.m5 (.any n)
      c := if f.m4 then .mask3 else Use.ifUni f.m5 (.any 1) }
  | .cmp f =>
    { Desc.bare with
      modOk := intTys f.ty || (bitTys f.ty && f.hi < 2), dst := .m false 7
      a := .any (regsOf f.ty), b := .any (regsOf f.ty) }
  | .bra f => { Desc.bare with modOk := f.modN = 0, slot0 := true }
  | .brc f =>
    let m := 2 ≤ f.modN
    { Desc.bare with
      modOk := f.modN < 5, a := if m then .mask3 else .k 1 1 63, slot0 := true }
  | .bri f | .ret f => { Desc.bare with modOk := f.modN = 0, a := .k 1 1 63 }
  | .call f => { Desc.bare with modOk := f.modN = 0, dst := .k true, slot0 := true }
  | .callI f => { Desc.bare with modOk := f.modN = 16, dst := .k true, a := .k 1 1 63 }
  | .loop f | .seqLoop f => { Desc.bare with modOk := f.modN = 0, dst := .k true, slot0 := true }
  | .exit f | .yield f | .rdv f | .seqEnd f | .flip f | .eret f | .npsBegin f | .npsEnd f | .trig f | .flushp f =>
    { Desc.bare with modOk := f.modN = 0 }
  | .fork f => { Desc.bare with modOk := f.modN = 0, a := .k 1 1 63, b := .k 1 1 63 }
  | .aclr f => { Desc.bare with modOk := f.modN = 0, a := .uni }
  | .trap f => { Desc.bare with modOk := f.modN = 0, slot0 := true }
  | .sys f => { Desc.bare with modOk := f.modN = 0, a := .kOpt, slot0 := true }
  | .srd f => { Desc.bare with modOk := f.modN = 0, dst := .k true, slot0 := true }
  | .swr f => { Desc.bare with modOk := f.modN = 0, a := .uni, slot0 := true }
  | .gtime f => { Desc.bare with modOk := f.modN = 0, fsOk := true, dst := .k true }
  | .spawn f => { Desc.bare with modOk := f.modN = 0, dst := .k true, a := .named 8 8, slot0 := true }
  | .cwait f => { Desc.bare with modOk := f.modN = 0, a := .uni, b := .uni }
  | .coll f => { Desc.bare with modOk := f.modN = 0, fsOk := true, dst := .k false, a := .uni }
  | .wait f => { Desc.bare with modOk := f.modN < 5, a := .uniSlot0 }
  | .ld f | .sld f => loadDesc f
  | .st f | .sst f => storeDesc f
  | .ldk f =>
    { Desc.bare with
      modOk := loadTys f.ty && scaleOk f, fsOk := true, xMask := 1, dst := .k false, a := .kOpt, slot0 := true }
  | .stk f =>
    { Desc.bare with
      modOk := storeTys f.ty && scaleOk f, fsOk := true, xMask := 1, a := .kOpt, c := .uniData, slot0 := true }
  | .pref f =>
    { Desc.bare with
      modOk := (f.modN / 2) % 8 == 0 && scaleOk f, xMask := 1, a := .kOpt, b := .idxOpt, slot0 := true }
  | .vget f =>
    { Desc.bare with modOk := bitTys f.ty && f.hi = 0, fsOk := true, dst := .v (regsOf f.ty), a := .uni, b := .idx }
  | .vput f =>
    { Desc.bare with modOk := bitTys f.ty && f.hi = 0, fsOk := true, a := .uni, b := .idx, c := .any (regsOf f.ty) }
  | .fadd f | .fsub f | .fmul f | .fmin f | .fmax f => fltDesc f 2 true
  | .ffma f => fltDesc f 3 true
  | .frnd f => { fltDesc f 1 false with xMask := 7, extra := modeFaults f }
  | .fexpf f | .flog2 f | .frcp f | .frsq f | .fsqrt f => unitDesc f
  | .fscl f => { unitDesc f with b := .any 1 }
  | .fxtr f => { unitDesc f with modOk := f.modN = 8 || f.modN = 24 }
  | .fcls f => fltDesc f 1 false
  | .cvt f =>
    match cvtRegs f.modN with
    | none => { Desc.bare with modOk := false, xMask := 7, extra := modeFaults f, a := .any 1, dst := .v 1 }
    | some (ns, nr) =>
      { Desc.bare with
        modOk := !(f.modN < 2 && f.x.toNat % 8 != 0), xMask := 7, extra := modeFaults f
        dst := .v nr, a := .any ns, half := cvtHalf f.modN }
  | .fcmp f =>
    { Desc.bare with modOk := floatTys f.ty, xMask := 1, dst := .m false 7, a := .any 1, b := .any 1, half := isHalfTy f.ty }
  | .fneg f | .fabs f => fltDesc f 1 true
  | .fclamp f => fltDesc f 3 false
  | .hadd2 f | .hsub2 f | .hmul2 f => packDesc f (packTys f.ty && !f.m5 && (!f.m4 || f.ty < 8)) 2
  | .hmin2 f | .hmax2 f => packDesc f (packTys f.ty && f.hi = 0) 2
  | .acs2 f => packDesc f ((f.ty == 4 || f.ty == 5) && !f.m4) 3
  | .hfma2 f => packDesc f (f.modN = 9) 3
  | .bfma2 f => packDesc f (f.modN = 10) 3
  | .hcmp2 f => { packDesc f (packTys f.ty && (f.hi != 3 || 8 < f.ty)) 2 with xMask := 1 }
  | .perm f =>
    { Desc.bare with modOk := bitTys f.ty && !f.m5, dst := .v (regsOf f.ty), a := .any (regsOf f.ty), b := .any 1 }
  | .voteAny f | .voteAll f => { Desc.bare with modOk := f.modN = 0, dst := .k false, a := .any 1 }
  | .voteBallot f =>
    { Desc.bare with
      modOk := f.modN = 0 || f.modN = 16, dst := if f.m4 then .m true 7 else .k false, a := .any 1, b := .uniOpt }
  | .lred f => { Desc.bare with modOk := reduceOk f, dst := .k false, a := .any (regsOf f.ty) }
  | .lscan f => { Desc.bare with modOk := reduceOk f, xMask := 1, dst := .v (regsOf f.ty), a := .any (regsOf f.ty) }
  | .mspl f | .hmix f => { Desc.bare with modOk := f.modN = 11, dst := .v 1, a := .any 1 }
  | .mskIf f => { Desc.bare with modOk := f.modN = 0, dst := .m true 7, a := .any 1 }
  | .mskIfM f => { Desc.bare with modOk := f.modN = 16, dst := .m true 7, a := .mask 8 }
  | .mskElse f | .mskEnd f => { Desc.bare with modOk := f.modN = 0, a := .mask 7 }
  | .mand f | .mor f | .mxor f => { Desc.bare with modOk := f.modN = 0, dst := .m true 8, a := .mask 8, b := .mask 8 }
  | .mnot f | .mmovMask f => { Desc.bare with modOk := f.modN = 0, dst := .m true 8, a := .mask 8 }
  | .mcnt f => { Desc.bare with modOk := f.modN = 0, dst := .k false, a := .mask 8 }
  | .mmovFromUniform f => { Desc.bare with modOk := f.modN = 1, dst := .m true 8, a := .uni }
  | .mmovToUniform f => { Desc.bare with modOk := f.modN = 2, dst := .k false, a := .mask 8 }
  | .sseg f =>
    { Desc.bare with
      modOk := f.ty = 0 && scaleOk f, fsOk := true, xMask := 1, dst := .v 4
      a := .kOpt, b := .idxOpt, c := .data 1, slot0 := true }
  | .scmp f => { Desc.bare with modOk := f.modN = 0 || f.modN = 16, dst := .v 1, a := .seg, b := .seg, c := .any 1 }
  | .sfnd f => { Desc.bare with modOk := f.ty = 0, dst := .v 1, a := .seg, b := .any 1, c := .any 1 }
  | .shash f => { Desc.bare with modOk := f.modN = 0, dst := .v 1, a := .seg, b := .any 1, c := .any 1 }
  | .part f => { Desc.bare with modOk := f.modN = 0, dst := .v 1, a := .any 1, b := .any 1 }
  | .ldw f => engineDesc (f.hi < 3 && (f.hi = 0 || (f.ty != 0 && f.ty < 13))) 32 .no
  | .mma f => engineDesc (f.modN < 13 && (blockFmt f.ty == (f.b.src != .v 0))) 32 (if f.b.src = .v 0 then .no else .uni)
  | .mmaC f => engineDesc (13 ≤ f.modN && f.modN < 16) 32 .no
  | .amov f => engineDesc (f.ty < 3 && !f.m5) 32 .no
  | .qnt f => engineDesc (7 ≤ f.ty && f.ty < 10) 48 .uni
  | .cpy f | .cpyx f | .cpym f => { Desc.bare with modOk := f.modN = 0, xMask := 32, a := .k 1 1 63 }
  | .barInit f | .barArr f => { Desc.bare with modOk := f.hi = 0, a := .uniOpt }
  | .barArrx f => { Desc.bare with modOk := f.hi = 0, a := .uniOpt, b := .uni }
  | .barWait f => { Desc.bare with modOk := f.hi = 0, a := .uni }
  | .barTest f => { Desc.bare with modOk := f.hi = 0, dst := .k false }
  | .lda f =>
    { Desc.bare with
      modOk := loadTys f.ty, fsOk := true, xMask := 7, extra := scopeFaults f, dst := .v (regsOf f.ty)
      a := .kOpt, b := .idxOpt, slot0 := true, acc := some (2 ^ f.hi, memWidth f.ty false) }
  | .stl f =>
    { Desc.bare with
      modOk := storeTys f.ty, fsOk := true, xMask := 7, extra := scopeFaults f
      a := .kOpt, b := .idxOpt, c := .data (regsOf f.ty), slot0 := true, acc := some (2 ^ f.hi, memWidth f.ty false) }
  | .atom f =>
    { Desc.bare with
      modOk := atomOk f, fsOk := true, xMask := 63, extra := scopeFaults f
      dst := if f.xBit 3 then .v (regsOf f.ty) else .no
      a := .kOpt, b := .idxOpt, c := .data (regsOf f.ty), slot0 := true, acc := some (memWidth f.ty false, memWidth f.ty false) }
  | .atomCas f =>
    { Desc.bare with
      modOk := bitTys f.ty && f.hi = 0, fsOk := true, xMask := 0x37, extra := scopeFaults f
      dst := .v (regsOf f.ty), a := .kOpt, b := .idxOpt
      c := .named (2 * regsOf f.ty) (2 * regsOf f.ty), slot0 := true, acc := some (memWidth f.ty false, memWidth f.ty false) }
  | .fenceAcq f | .fenceRel f | .fenceSc f => { Desc.bare with modOk := f.modN < 5 }
  | .round f => { Desc.bare with modOk := f.modN < 9, a := .k 1 1 63, slot0 := true }
  | .thd f => { Desc.bare with modOk := f.hi = 0, a := .k 8 8 56 }
  | .thl f => { Desc.bare with modOk := f.hi = 0, fsOk := true, a := .kOpt, slot0 := true }
  | .ths f => { Desc.bare with modOk := f.hi = 0, fsOk := true, a := .kOpt, slot0 := true }
  | .tld f => { Desc.bare with modOk := f.hi < 2, fsOk := true, dst := .v 1, a := .named 2 2, b := .uniOpt }
  | .tst f => { Desc.bare with modOk := f.hi = 0, fsOk := true, a := .named 2 2, b := .uniOpt, c := .any 1 }
  | .relay f => { Desc.bare with modOk := f.hi = 0, a := .k 1 1 63, b := .k 1 1 63, c := .k 1 1 63 }
  | .thq f => { Desc.bare with modOk := f.hi = 0, fsOk := true, dst := .k false }
  | .thw f => { Desc.bare with modOk := f.hi = 0 }
  | .thpf f => { Desc.bare with modOk := f.hi < 2, a := .named 2 2, b := .uniOpt }
  | .put f => { Desc.bare with modOk := putModOk f, fsOk := true, a := .uni, b := .uni, c := .uni }
  | .mput f => { Desc.bare with modOk := putModOk f, fsOk := true, a := .uni, b := .uni, c := .k 2 2 62 }
  | .get f => { Desc.bare with modOk := putModOk f, fsOk := true, dst := .k false, a := .uni, b := .uni, c := .uni }
  | .ntf f => { Desc.bare with modOk := f.modN < 2, fsOk := true, a := .uni, b := .uni }
  | .ratm f =>
    { Desc.bare with modOk := atomOk f, fsOk := true, xMask := 0x30, dst := .k false, a := .uni, b := .uni, c := .uni }
  | .ratmCas f =>
    { Desc.bare with
      modOk := bitTys f.ty && f.hi = 0, fsOk := true, xMask := 0x30, dst := .k false
      a := .uni, b := .uni, c := .k 2 2 62 }
  | .rfenceRel f => { Desc.bare with modOk := f.modN = 0 }
  | .rfenceAcq f => { Desc.bare with modOk := f.modN = 1 }
  | _ => Desc.bare

end Sys2Proof
end

