-- ==== Sys2Proof/Machine/Encoding.lean ====
section
/-! DEFINITION. The opcode map (02 R50): opcodes, the shape of the short form, who may execute what. -/

namespace Sys2Proof

/-- Opcode and fields of an instruction word (R50); the clause header and the steps that no word encodes have none. -/
def Instr.word? : Instr → Option (Nat × Form)
  | .nop f => some (0x000, f)
  | .add f => some (0x001, f)
  | .sub f => some (0x002, f)
  | .mul f => some (0x003, f)
  | .mulh f => some (0x004, f)
  | .mad f => some (0x005, f)
  | .abs f => some (0x006, f)
  | .min f => some (0x007, f)
  | .max f => some (0x008, f)
  | .and f => some (0x009, f)
  | .or f => some (0x00A, f)
  | .xor f => some (0x00B, f)
  | .not f => some (0x00C, f)
  | .shl f => some (0x00D, f)
  | .shr f => some (0x00E, f)
  | .sra f => some (0x00F, f)
  | .rotl f => some (0x010, f)
  | .clz f => some (0x011, f)
  | .popc f => some (0x012, f)
  | .brev f => some (0x013, f)
  | .bfe f => some (0x014, f)
  | .bfi f => some (0x015, f)
  | .mov f => some (0x016, f)
  | .lea f => some (0x017, f)
  | .sel f => some (0x018, f)
  | .cmp f => some (0x019, f)
  | .bra f => some (0x020, f)
  | .brc f => some (0x021, f)
  | .bri f => some (0x022, f)
  | .call f => some (0x023, f)
  | .callI f => some (0x023, f)
  | .ret f => some (0x024, f)
  | .loop f => some (0x025, f)
  | .exit f => some (0x026, f)
  | .yield f => some (0x027, f)
  | .wait f => some (0x028, f)
  | .ld f => some (0x030, f)
  | .st f => some (0x031, f)
  | .ldk f => some (0x032, f)
  | .stk f => some (0x033, f)
  | .sld f => some (0x034, f)
  | .sst f => some (0x035, f)
  | .pref f => some (0x036, f)
  | .vget f => some (0x037, f)
  | .vput f => some (0x038, f)
  | .fadd f => some (0x040, f)
  | .fsub f => some (0x041, f)
  | .fmul f => some (0x042, f)
  | .ffma f => some (0x043, f)
  | .fmin f => some (0x044, f)
  | .fmax f => some (0x045, f)
  | .frnd f => some (0x046, f)
  | .fexpf f => some (0x047, f)
  | .flog2 f => some (0x048, f)
  | .frcp f => some (0x049, f)
  | .frsq f => some (0x04A, f)
  | .fsqrt f => some (0x04B, f)
  | .fscl f => some (0x04C, f)
  | .fxtr f => some (0x04D, f)
  | .fcls f => some (0x04E, f)
  | .cvt f => some (0x04F, f)
  | .fcmp f => some (0x050, f)
  | .fneg f => some (0x051, f)
  | .fabs f => some (0x052, f)
  | .fclamp f => some (0x053, f)
  | .hadd2 f => some (0x060, f)
  | .hsub2 f => some (0x061, f)
  | .hmul2 f => some (0x062, f)
  | .hmin2 f => some (0x063, f)
  | .hmax2 f => some (0x064, f)
  | .acs2 f => some (0x065, f)
  | .hfma2 f => some (0x066, f)
  | .bfma2 f => some (0x067, f)
  | .hcmp2 f => some (0x068, f)
  | .perm f => some (0x070, f)
  | .voteAny f => some (0x071, f)
  | .voteAll f => some (0x072, f)
  | .voteBallot f => some (0x073, f)
  | .lred f => some (0x074, f)
  | .lscan f => some (0x075, f)
  | .mspl f => some (0x076, f)
  | .mskIf f => some (0x080, f)
  | .mskIfM f => some (0x080, f)
  | .mskElse f => some (0x081, f)
  | .mskEnd f => some (0x082, f)
  | .mand f => some (0x083, f)
  | .mor f => some (0x084, f)
  | .mxor f => some (0x085, f)
  | .mnot f => some (0x086, f)
  | .mcnt f => some (0x087, f)
  | .mmovMask f => some (0x088, f)
  | .mmovFromUniform f => some (0x088, f)
  | .mmovToUniform f => some (0x088, f)
  | .sseg f => some (0x090, f)
  | .scmp f => some (0x091, f)
  | .sfnd f => some (0x092, f)
  | .shash f => some (0x093, f)
  | .hmix f => some (0x094, f)
  | .part f => some (0x095, f)
  | .fork f => some (0x0A0, f)
  | .rdv f => some (0x0A1, f)
  | .seqEnd f => some (0x0A2, f)
  | .seqLoop f => some (0x0A3, f)
  | .ldw f => some (0x0A4, f)
  | .flip f => some (0x0A5, f)
  | .mma f => some (0x0A6, f)
  | .mmaC f => some (0x0A7, f)
  | .aclr f => some (0x0A8, f)
  | .amov f => some (0x0A9, f)
  | .qnt f => some (0x0AA, f)
  | .cpy f => some (0x0AB, f)
  | .cpyx f => some (0x0AC, f)
  | .cpym f => some (0x0AD, f)
  | .barInit f => some (0x0B0, f)
  | .barArr f => some (0x0B1, f)
  | .barArrx f => some (0x0B2, f)
  | .barWait f => some (0x0B3, f)
  | .barTest f => some (0x0B4, f)
  | .lda f => some (0x0C0, f)
  | .stl f => some (0x0C1, f)
  | .atom f => some (0x0C2, f)
  | .atomCas f => some (0x0C3, f)
  | .fenceAcq f => some (0x0C4, f)
  | .fenceRel f => some (0x0C5, f)
  | .fenceSc f => some (0x0C6, f)
  | .trap f => some (0x0C8, f)
  | .sys f => some (0x0C9, f)
  | .eret f => some (0x0CA, f)
  | .npsBegin f => some (0x0CB, f)
  | .npsEnd f => some (0x0CC, f)
  | .round f => some (0x0CD, f)
  | .trig f => some (0x0CE, f)
  | .spawn f => some (0x0CF, f)
  | .srd f => some (0x0D0, f)
  | .swr f => some (0x0D1, f)
  | .gtime f => some (0x0D2, f)
  | .thd f => some (0x0E0, f)
  | .thl f => some (0x0E1, f)
  | .ths f => some (0x0E2, f)
  | .tld f => some (0x0E3, f)
  | .tst f => some (0x0E4, f)
  | .relay f => some (0x0E5, f)
  | .thq f => some (0x0E6, f)
  | .thw f => some (0x0E7, f)
  | .thpf f => some (0x0E8, f)
  | .put f => some (0x0F0, f)
  | .mput f => some (0x0F1, f)
  | .get f => some (0x0F2, f)
  | .ratm f => some (0x0F3, f)
  | .ratmCas f => some (0x0F3, f)
  | .ntf f => some (0x0F4, f)
  | .flushp f => some (0x0F5, f)
  | .cwait f => some (0x0F6, f)
  | .coll f => some (0x0F7, f)
  | .rfenceRel f => some (0x0F8, f)
  | .rfenceAcq f => some (0x0F8, f)
  | _ => none

/-- The instruction of an opcode (R50); opcodes that two rows share differ in mod or x. -/
def mkInstr (opc : Nat) (f : Form) : Option Instr :=
  match opc with
  | 0x000 => some (.nop f)
  | 0x001 => some (.add f)
  | 0x002 => some (.sub f)
  | 0x003 => some (.mul f)
  | 0x004 => some (.mulh f)
  | 0x005 => some (.mad f)
  | 0x006 => some (.abs f)
  | 0x007 => some (.min f)
  | 0x008 => some (.max f)
  | 0x009 => some (.and f)
  | 0x00A => some (.or f)
  | 0x00B => some (.xor f)
  | 0x00C => some (.not f)
  | 0x00D => some (.shl f)
  | 0x00E => some (.shr f)
  | 0x00F => some (.sra f)
  | 0x010 => some (.rotl f)
  | 0x011 => some (.clz f)
  | 0x012 => some (.popc f)
  | 0x013 => some (.brev f)
  | 0x014 => some (.bfe f)
  | 0x015 => some (.bfi f)
  | 0x016 => some (.mov f)
  | 0x017 => some (.lea f)
  | 0x018 => some (.sel f)
  | 0x019 => some (.cmp f)
  | 0x020 => some (.bra f)
  | 0x021 => some (.brc f)
  | 0x022 => some (.bri f)
  | 0x023 => if f.m4 then some (.callI f) else some (.call f)
  | 0x024 => some (.ret f)
  | 0x025 => some (.loop f)
  | 0x026 => some (.exit f)
  | 0x027 => some (.yield f)
  | 0x028 => some (.wait f)
  | 0x030 => some (.ld f)
  | 0x031 => some (.st f)
  | 0x032 => some (.ldk f)
  | 0x033 => some (.stk f)
  | 0x034 => some (.sld f)
  | 0x035 => some (.sst f)
  | 0x036 => some (.pref f)
  | 0x037 => some (.vget f)
  | 0x038 => some (.vput f)
  | 0x040 => some (.fadd f)
  | 0x041 => some (.fsub f)
  | 0x042 => some (.fmul f)
  | 0x043 => some (.ffma f)
  | 0x044 => some (.fmin f)
  | 0x045 => some (.fmax f)
  | 0x046 => some (.frnd f)
  | 0x047 => some (.fexpf f)
  | 0x048 => some (.flog2 f)
  | 0x049 => some (.frcp f)
  | 0x04A => some (.frsq f)
  | 0x04B => some (.fsqrt f)
  | 0x04C => some (.fscl f)
  | 0x04D => some (.fxtr f)
  | 0x04E => some (.fcls f)
  | 0x04F => some (.cvt f)
  | 0x050 => some (.fcmp f)
  | 0x051 => some (.fneg f)
  | 0x052 => some (.fabs f)
  | 0x053 => some (.fclamp f)
  | 0x060 => some (.hadd2 f)
  | 0x061 => some (.hsub2 f)
  | 0x062 => some (.hmul2 f)
  | 0x063 => some (.hmin2 f)
  | 0x064 => some (.hmax2 f)
  | 0x065 => some (.acs2 f)
  | 0x066 => some (.hfma2 f)
  | 0x067 => some (.bfma2 f)
  | 0x068 => some (.hcmp2 f)
  | 0x070 => some (.perm f)
  | 0x071 => some (.voteAny f)
  | 0x072 => some (.voteAll f)
  | 0x073 => some (.voteBallot f)
  | 0x074 => some (.lred f)
  | 0x075 => some (.lscan f)
  | 0x076 => some (.mspl f)
  | 0x080 => if f.m4 then some (.mskIfM f) else some (.mskIf f)
  | 0x081 => some (.mskElse f)
  | 0x082 => some (.mskEnd f)
  | 0x083 => some (.mand f)
  | 0x084 => some (.mor f)
  | 0x085 => some (.mxor f)
  | 0x086 => some (.mnot f)
  | 0x087 => some (.mcnt f)
  | 0x088 => if f.modN = 1 then some (.mmovFromUniform f) else if f.modN = 2 then some (.mmovToUniform f) else some (.mmovMask f)
  | 0x090 => some (.sseg f)
  | 0x091 => some (.scmp f)
  | 0x092 => some (.sfnd f)
  | 0x093 => some (.shash f)
  | 0x094 => some (.hmix f)
  | 0x095 => some (.part f)
  | 0x0A0 => some (.fork f)
  | 0x0A1 => some (.rdv f)
  | 0x0A2 => some (.seqEnd f)
  | 0x0A3 => some (.seqLoop f)
  | 0x0A4 => some (.ldw f)
  | 0x0A5 => some (.flip f)
  | 0x0A6 => some (.mma f)
  | 0x0A7 => some (.mmaC f)
  | 0x0A8 => some (.aclr f)
  | 0x0A9 => some (.amov f)
  | 0x0AA => some (.qnt f)
  | 0x0AB => some (.cpy f)
  | 0x0AC => some (.cpyx f)
  | 0x0AD => some (.cpym f)
  | 0x0B0 => some (.barInit f)
  | 0x0B1 => some (.barArr f)
  | 0x0B2 => some (.barArrx f)
  | 0x0B3 => some (.barWait f)
  | 0x0B4 => some (.barTest f)
  | 0x0C0 => some (.lda f)
  | 0x0C1 => some (.stl f)
  | 0x0C2 => some (.atom f)
  | 0x0C3 => some (.atomCas f)
  | 0x0C4 => some (.fenceAcq f)
  | 0x0C5 => some (.fenceRel f)
  | 0x0C6 => some (.fenceSc f)
  | 0x0C8 => some (.trap f)
  | 0x0C9 => some (.sys f)
  | 0x0CA => some (.eret f)
  | 0x0CB => some (.npsBegin f)
  | 0x0CC => some (.npsEnd f)
  | 0x0CD => some (.round f)
  | 0x0CE => some (.trig f)
  | 0x0CF => some (.spawn f)
  | 0x0D0 => some (.srd f)
  | 0x0D1 => some (.swr f)
  | 0x0D2 => some (.gtime f)
  | 0x0E0 => some (.thd f)
  | 0x0E1 => some (.thl f)
  | 0x0E2 => some (.ths f)
  | 0x0E3 => some (.tld f)
  | 0x0E4 => some (.tst f)
  | 0x0E5 => some (.relay f)
  | 0x0E6 => some (.thq f)
  | 0x0E7 => some (.thw f)
  | 0x0E8 => some (.thpf f)
  | 0x0F0 => some (.put f)
  | 0x0F1 => some (.mput f)
  | 0x0F2 => some (.get f)
  | 0x0F3 => if f.xBit 5 then some (.ratmCas f) else some (.ratm f)
  | 0x0F4 => some (.ntf f)
  | 0x0F5 => some (.flushp f)
  | 0x0F6 => some (.cwait f)
  | 0x0F7 => some (.coll f)
  | 0x0F8 => if f.modN = 1 then some (.rfenceAcq f) else some (.rfenceRel f)
  | _ => none

/-- Opcodes whose short form has source c in place of imm16 (R32, shape B). DESIGN CHOICE (assumption 82): 03 gives `vget`,
`vput` and `pref` no shape; here `vput` has shape B and the two others have shape A. -/
def shapeB (opc : Nat) : Bool :=
  [0x005, 0x014, 0x015, 0x018, 0x031, 0x033, 0x035, 0x038, 0x043, 0x053, 0x065, 0x066, 0x067, 0x090, 0x091].contains opc ||
  [0x092, 0x093, 0x0A4, 0x0A6, 0x0A7, 0x0A9, 0x0AA, 0x0C1, 0x0C2, 0x0C3, 0x0E4, 0x0E5, 0x0F0, 0x0F1, 0x0F2, 0x0F3].contains opc
/-- Opcodes of the matrix sequencer (R163). -/
def matrixOps : List Nat := [0x000, 0x0A2, 0x0A3, 0x0A4, 0x0A5, 0x0A6, 0x0A7, 0x0A9, 0x0AA, 0x0B1]

/-- Opcodes of the copy sequencer (R163). -/
def copyOps : List Nat := [0x000, 0x0A2, 0x0A3, 0x0AB, 0x0AC, 0x0AD, 0x0B1]

/-- Opcodes that no crew may execute (R50). -/
def sequencerOnly : List Nat := [0x0A2, 0x0A3, 0x0A4, 0x0A5, 0x0A6, 0x0A7, 0x0A9, 0x0AA]

/-- Executors of words: a crew, or one of the two sequencers of a core. -/
inductive ExecKind
  | crew
  | matrix
  | copy
  deriving DecidableEq, Repr

/-- The executor column of R50 and the subsets of R163. -/
def permitted (k : ExecKind) (opc : Nat) : Bool :=
  match k with
  | .crew => !sequencerOnly.contains opc
  | .matrix => matrixOps.contains opc
  | .copy => copyOps.contains opc

/-- Control-transfer instructions (R29). -/
def isControl (opc : Nat) : Bool :=
  [0x020, 0x021, 0x022, 0x023, 0x024, 0x025, 0x026, 0x0CA, 0x0A2, 0x0A3].contains opc

/-- Bytes of a word of each length (R24). -/
def Len.bytes : Len → Nat
  | .short => 8
  | .medium => 12
  | .long => 16

/-- Bytes of an instruction's word; a clause header has 8 (R24, R27). -/
def Instr.size (i : Instr) : Nat :=
  match i.word? with
  | some (_, f) => f.len.bytes
  | none => 8

/-- Whether a source's immediate slot exists in the word (R34). -/
def slotFits (l : Len) (b : Bool) (o : Operand) : Bool :=
  match o.src with
  | .imm false => l != .short || !b
  | .imm true => l == .long
  | _ => true

/-- The fields of a form fit its length (R32): what a word of that length has no bits for is zero. -/
def Form.fits (opc : Nat) (f : Form) : Bool :=
  let b := shapeB opc
  slotFits f.len b f.a && slotFits f.len b f.b && slotFits f.len b f.c &&
  match f.len with
  | .short =>
    decide (f.x = 0) && decide (f.imm1 = 0) && decide (f.a.perm = .none) && decide (f.b.perm = .none)
      && decide (f.c.perm = .none)
      && (if b then decide (f.imm0 = 0) else decide (f.c = .zero) && decide (f.imm0.toNat < 2 ^ 16))
  | .medium => decide (f.imm1 = 0) && decide (f.imm0.toNat < 2 ^ 8)
  | .long => true

/-- Bit numbers that a clause header gives (R27, R28, R40). -/
def headerFaults (k : ExecKind) (h : Header) : List Nat :=
  match k with
  | .crew => (if 12 ≤ h.fa.toNat ∧ h.fa.toNat < 15 then [20] else [])
      ++ (if 12 ≤ h.fb.toNat ∧ h.fb.toNat < 15 then [24] else [])
  | _ => lowBitFrom 8 12 h.wm.toNat ++ (if h.fa.toNat ≠ 15 then [20] else [])
      ++ (if h.fb.toNat ≠ 15 then [24] else [])

end Sys2Proof
end

