-- ==== Sys2Proof/Config.lean ====
section
/-! DEFINITION. What an implementation fixes and the free values of the model: constants without a body, so that
nothing can be proved about their values (assumption 2). -/

namespace Sys2Proof.Config

/-- A result that the spec bounds and does not state (R86): the unit's answer for an argument at a draw. -/
opaque freeWord : Word → Nat → Word

/-- A choice between two outcomes that the spec allows (R8), at a draw. -/
opaque freeBit : Nat → Bool

/-- A value that the spec names and gives no value for (a signature, a set of capabilities), at a draw. -/
opaque freeDWord : Nat → DWord

/-- A word of the SHA-384 digest of some words (R406, R407). -/
opaque sha384 : List DWord → Nat → DWord

end Sys2Proof.Config
end

