-- ==== Sys2Proof/Machine/Fp.lean ====
section
/-! DEFINITION. Scalar floating point (spec/06_scalar_formats.md, spec/04_float_instructions.md): layouts, exact values,
rounding, special values, the operations of one lane and the flags they raise. A value is held in the low bits of a
64-bit pattern of its format; an exact real is an integer times a power of two. -/

namespace Sys2Proof.Machine

/-- A scalar format (R95): widths of the exponent and fraction fields. -/
structure Fmt where
  wE : Nat
  wF : Nat
  deriving DecidableEq, Repr

def f32 : Fmt := ⟨8, 23⟩
def f16 : Fmt := ⟨5, 10⟩
def bf16 : Fmt := ⟨8, 7⟩

def Fmt.bias (F : Fmt) : Int := 2 ^ (F.wE - 1) - 1
def Fmt.emin (F : Fmt) : Int := 1 - F.bias
def Fmt.signBit (F : Fmt) : Nat := 2 ^ (F.wE + F.wF)
def Fmt.infBits (F : Fmt) : Nat := (2 ^ F.wE - 1) * 2 ^ F.wF
def Fmt.quietBit (F : Fmt) : Nat := 2 ^ (F.wF - 1)
def Fmt.defaultNan (F : Fmt) : Nat := F.infBits + F.quietBit
def Fmt.maxFinite (F : Fmt) : Nat := F.infBits - 1

/-- Rounding modes (R78). -/
inductive Rm
  | rne | rtz | rdn | rup | rna
  deriving DecidableEq, Repr

/-- x[2:0] to the mode; 5 to 7 are reserved. -/
def Rm.ofCode : Nat → Option Rm
  | 0 => some .rne
  | 1 => some .rtz
  | 2 => some .rdn
  | 3 => some .rup
  | 4 => some .rna
  | _ => none

/-- Exception flags as bits of fxs (R102). -/
abbrev FFlags := BitVec 5

def flagNv : FFlags := 1
def flagDz : FFlags := 2
def flagOf : FFlags := 4
def flagUf : FFlags := 8
def flagNx : FFlags := 16

/-- What an encoding stands for (R96). A finite value is ± mag × 2^ex, zero when mag is zero. -/
inductive FVal
  | nan (signalling : Bool)
  | inf (neg : Bool)
  | fin (neg : Bool) (mag : Nat) (ex : Int)
  deriving DecidableEq, Repr

/-- Reads an encoding (R96). -/
def unpack (F : Fmt) (bits : Nat) : FVal :=
  let neg := decide (bits / F.signBit % 2 = 1)
  let E := bits / 2 ^ F.wF % 2 ^ F.wE
  let fr := bits % 2 ^ F.wF
  if E = 2 ^ F.wE - 1 then
    if fr = 0 then .inf neg else .nan (decide (fr / F.quietBit = 0))
  else if E = 0 then .fin neg fr (F.emin - F.wF)
  else .fin neg (2 ^ F.wF + fr) (E - F.bias - F.wF)

/-- Sets the quiet bit of a NaN (R97). -/
def quiet (F : Fmt) (bits : Nat) : Nat := if bits / F.quietBit % 2 = 1 then bits else bits + F.quietBit

def signed (F : Fmt) (neg : Bool) (mag : Nat) : Nat := if neg then F.signBit + mag else mag

/-- An exact real: m × 2^e. -/
structure Dy where
  m : Int
  e : Int
  deriving DecidableEq, Repr

def Dy.zero : Dy := ⟨0, 0⟩

def shl2 (m : Int) (n : Int) : Int := m * 2 ^ n.toNat

def Dy.add (a b : Dy) : Dy :=
  let e := min a.e b.e
  ⟨shl2 a.m (a.e - e) + shl2 b.m (b.e - e), e⟩

def Dy.neg (a : Dy) : Dy := ⟨-a.m, a.e⟩
def Dy.mul (a b : Dy) : Dy := ⟨a.m * b.m, a.e + b.e⟩
def Dy.abs (a : Dy) : Dy := ⟨a.m.natAbs, a.e⟩

/-- Order of exact reals. -/
def Dy.lt (a b : Dy) : Bool := decide ((a.add b.neg).m < 0)
def Dy.le (a b : Dy) : Bool := decide ((a.add b.neg).m ≤ 0)
def Dy.eq (a b : Dy) : Bool := decide ((a.add b.neg).m = 0)

/-- floor(log2 |x|) of a non-zero real. -/
def Dy.log2 (a : Dy) : Int := (Nat.log2 a.m.natAbs : Int) + a.e

def FVal.dy : FVal → Dy
  | .fin neg mag ex => ⟨if neg then -(mag : Int) else mag, ex⟩
  | _ => .zero

/-- Rounds mag × 2^ex to a multiple of 2^qe and gives the multiple and whether it was exact (R99). -/
def roundMag (neg : Bool) (mag : Nat) (ex qe : Int) (mode : Rm) : Nat × Bool :=
  if qe ≤ ex then (mag * 2 ^ (ex - qe).toNat, true)
  else
    let sh := (qe - ex).toNat
    let n := mag / 2 ^ sh
    let r := mag % 2 ^ sh
    let h := 2 ^ (sh - 1)
    let up := match mode with
      | .rne => decide (h < r) || (decide (r = h) && decide (n % 2 = 1))
      | .rna => decide (h ≤ r)
      | .rtz => false
      | .rdn => neg && decide (r ≠ 0)
      | .rup => !neg && decide (r ≠ 0)
    (if up then n + 1 else n, decide (r = 0))

/-- The result of an overflow (R99). -/
def overflowMag (F : Fmt) (neg : Bool) (mode : Rm) : Nat :=
  match mode with
  | .rne | .rna => F.infBits
  | .rtz => F.maxFinite
  | .rdn => if neg then F.infBits else F.maxFinite
  | .rup => if neg then F.maxFinite else F.infBits

/-- round_to of a non-zero real (R99) with the flags of R80. -/
def roundNz (F : Fmt) (x : Dy) (mode : Rm) : Nat × FFlags :=
  let neg := decide (x.m < 0)
  let mag := x.m.natAbs
  let L := x.log2
  let E := max L F.emin
  let (n, exact) := roundMag neg mag x.e (E - F.wF) mode
  let bits := (E + F.bias - 1).toNat * 2 ^ F.wF + n
  if F.infBits ≤ bits then (signed F neg (overflowMag F neg mode), flagOf ||| flagNx)
  else
    let (n', _) := roundMag neg mag x.e (L - F.wF) mode
    let tiny := decide (L < F.emin) && !(decide (L = F.emin - 1) && decide (n' = 2 ^ (F.wF + 1)))
    (signed F neg bits, if exact then 0 else if tiny then flagUf ||| flagNx else flagNx)

/-- round_to, with the sign an exact zero takes. -/
def roundTo (F : Fmt) (x : Dy) (mode : Rm) (zeroNeg : Bool) : Nat × FFlags :=
  if x.m = 0 then (signed F zeroNeg 0, 0) else roundNz F x mode

def isNan : FVal → Bool
  | .nan _ => true
  | _ => false

def isSnan : FVal → Bool
  | .nan s => s
  | _ => false

def isZero : FVal → Bool
  | .fin _ m _ => decide (m = 0)
  | _ => false

def FVal.isNeg : FVal → Bool
  | .nan _ => false
  | .inf n => n
  | .fin n _ _ => n

/-- The invalid flag of signalling sources (R79). -/
def snanFlag (vs : List FVal) : FFlags := if vs.any isSnan then flagNv else 0

/-- The first NaN source of R79 in the order given, quieted. -/
def firstNan (F : Fmt) (bs : List Nat) : Option Nat :=
  (bs.find? (fun b => isNan (unpack F b))).map (quiet F)

/-- a + b (R81). -/
def fpAdd (F : Fmt) (a b : Nat) : Nat × FFlags :=
  let x := unpack F a
  let y := unpack F b
  match firstNan F [a, b] with
  | some q => (q, snanFlag [x, y])
  | none =>
    match x, y with
    | .inf s, .inf t => if s = t then (signed F s F.infBits, 0) else (F.defaultNan, flagNv)
    | .inf s, _ => (signed F s F.infBits, 0)
    | _, .inf t => (signed F t F.infBits, 0)
    | _, _ => roundTo F (x.dy.add y.dy) .rne (x.isNeg && y.isNeg && isZero x && isZero y)

/-- The sign inverted (R81: fneg). -/
def fpNeg (F : Fmt) (a : Nat) : Nat := if a / F.signBit % 2 = 1 then a - F.signBit else a + F.signBit

/-- The sign cleared (R81: fabs). -/
def fpAbs (F : Fmt) (a : Nat) : Nat := a % F.signBit

/-- a − b: the NaN rule sees b as it stands (R79). -/
def fpSub (F : Fmt) (a b : Nat) : Nat × FFlags :=
  match firstNan F [a, b] with
  | some q => (q, snanFlag [unpack F a, unpack F b])
  | none => fpAdd F a (fpNeg F b)

/-- a × b (R81). -/
def fpMul (F : Fmt) (a b : Nat) : Nat × FFlags :=
  let x := unpack F a
  let y := unpack F b
  let s := x.isNeg != y.isNeg
  match firstNan F [a, b] with
  | some q => (q, snanFlag [x, y])
  | none =>
    match x, y with
    | .inf _, .inf _ => (signed F s F.infBits, 0)
    | .inf _, _ => if isZero y then (F.defaultNan, flagNv) else (signed F s F.infBits, 0)
    | _, .inf _ => if isZero x then (F.defaultNan, flagNv) else (signed F s F.infBits, 0)
    | _, _ => roundTo F (x.dy.mul y.dy) .rne s

/-- 0 × ∞ in either order. -/
def zeroTimesInf : FVal → FVal → Bool
  | .inf _, .fin _ m _ => decide (m = 0)
  | .fin _ m _, .inf _ => decide (m = 0)
  | _, _ => false

/-- a × b + c with one rounding (R81). -/
def fpFma (F : Fmt) (a b c : Nat) : Nat × FFlags :=
  let x := unpack F a
  let y := unpack F b
  let z := unpack F c
  let s := x.isNeg != y.isNeg
  match firstNan F [a, b, c] with
  | some q => (q, snanFlag [x, y, z] ||| (if zeroTimesInf x y then flagNv else 0))
  | none =>
    if zeroTimesInf x y then (F.defaultNan, flagNv)
    else match x, y, z with
    | .fin _ _ _, .fin _ _ _, .fin _ _ _ =>
      let p := x.dy.mul y.dy
      roundTo F (p.add z.dy) .rne (decide (p.m = 0) && isZero z && s && z.isNeg)
    | .fin _ _ _, .fin _ _ _, _ => (c, 0)
    | _, _, .inf t => if s = t then (signed F s F.infBits, 0) else (F.defaultNan, flagNv)
    | _, _, _ => (signed F s F.infBits, 0)

/-- Numbers in order, −0 below +0 (R82). -/
def fpBelow (x y : FVal) : Bool :=
  match x, y with
  | .inf s, .inf t => s && !t
  | .inf s, _ => s
  | _, .inf t => !t
  | _, _ =>
    if x.dy.eq y.dy then decide (isZero x) && x.isNeg && !y.isNeg else x.dy.lt y.dy

/-- minimumNumber or maximumNumber (R82). -/
def fpMinMax (F : Fmt) (isMax : Bool) (a b : Nat) : Nat × FFlags :=
  let x := unpack F a
  let y := unpack F b
  let fl := snanFlag [x, y]
  if isNan x then
    if isNan y then (quiet F a, fl) else (b, fl)
  else if isNan y then (a, fl)
  else if isMax then (if fpBelow x y then b else a, fl)
  else (if fpBelow y x then b else a, fl)

/-- fclamp (R82). -/
def fpClamp (F : Fmt) (a lo hi : Nat) : Nat × FFlags :=
  let fl := snanFlag [unpack F a, unpack F lo, unpack F hi]
  if isNan (unpack F a) then (quiet F a, fl)
  else
    let m := (fpMinMax F true a lo).1
    ((fpMinMax F false m hi).1, fl)

/-- The comparison of R83 by its code, before inversion: 0 eq, 1 lt, 2 le, 3 un; with the invalid flag. -/
def fpCmp (F : Fmt) (cond : Nat) (a b : Nat) : Bool × FFlags :=
  let x := unpack F a
  let y := unpack F b
  let un := isNan x || isNan y
  let sig := snanFlag [x, y]
  let any : FFlags := if un then flagNv else 0
  let zz := isZero x && isZero y
  let eq := !un && (zz || (!fpBelow x y && !fpBelow y x))
  let lt := !un && !zz && fpBelow x y
  match cond with
  | 0 => (eq, sig)
  | 1 => (lt, any)
  | 2 => (lt || eq, any)
  | _ => (un, sig)

/-- The class bit of R84. -/
def fpClass (F : Fmt) (a : Nat) : Nat :=
  match unpack F a with
  | .nan s => if s then 1 else 2
  | .inf n => if n then 4 else 512
  | .fin n m _ =>
    if m = 0 then (if n then 32 else 64)
    else if m < 2 ^ F.wF then (if n then 16 else 128)
    else (if n then 8 else 256)

/-- An integer multiple of one nearest to a real under a mode. -/
def roundInt (x : Dy) (mode : Rm) : Int :=
  let n := (roundMag (decide (x.m < 0)) x.m.natAbs x.e 0 mode).1
  if x.m < 0 then -(n : Int) else n

/-- frnd (R85). -/
def fpRound (F : Fmt) (mode : Rm) (a : Nat) : Nat × FFlags :=
  match unpack F a with
  | .nan s => (quiet F a, if s then flagNv else 0)
  | .inf _ => (a, 0)
  | .fin neg m e =>
    if m = 0 ∨ 0 ≤ e then (a, 0)
    else
      let n := roundInt (FVal.dy (.fin neg m e)) mode
      ((roundTo F ⟨n, 0⟩ .rne neg).1, 0)

/-- fscl (R87). Beyond 1000 either way the result no longer depends on n, which keeps the exact product small. -/
def fpScale (a : Nat) (n : Int) : Nat × FFlags :=
  match unpack f32 a with
  | .nan s => (quiet f32 a, if s then flagNv else 0)
  | .inf _ => (a, 0)
  | .fin neg m e => if m = 0 then (a, 0) else roundTo f32 ⟨(FVal.dy (.fin neg m e)).m, e + max (-1000) (min 1000 n)⟩ .rne neg

/-- fxtr (R88), exponent or significand. -/
def fpExtract (sig : Bool) (a : Nat) : Nat × FFlags :=
  match unpack f32 a with
  | .nan s => if sig then (quiet f32 a, if s then flagNv else 0) else (0x7FFFFFFF, flagNv)
  | .inf _ => if sig then (a, 0) else (0x7FFFFFFF, flagNv)
  | .fin neg m e =>
    if m = 0 then (if sig then (a, 0) else (0x80000000, flagNv))
    else
      let x := FVal.dy (.fin neg m e)
      let ex := x.log2
      if sig then ((roundTo f32 ⟨x.m, x.e - ex⟩ .rne neg).1, 0)
      else ((BitVec.ofInt 32 ex).toNat, 0)

/-- A float format to another, exact or narrowing (R90). -/
def fpConvert (S D : Fmt) (mode : Rm) (a : Nat) : Nat × FFlags :=
  let neg := decide (a / S.signBit % 2 = 1)
  match unpack S a with
  | .nan s =>
    let fr := a % 2 ^ S.wF
    let frD := if S.wF ≤ D.wF then fr * 2 ^ (D.wF - S.wF) else fr / 2 ^ (S.wF - D.wF)
    (quiet D (signed D neg (D.infBits + frD)), if s then flagNv else 0)
  | .inf _ => (signed D neg D.infBits, 0)
  | .fin n m e => roundTo D (FVal.dy (.fin n m e)) mode neg

/-- An integer to a float (R90). -/
def fpOfInt (D : Fmt) (mode : Rm) (i : Int) : Nat × FFlags := roundTo D ⟨i, 0⟩ mode false

/-- A float to an integer clamped to [lo, hi] (R90). -/
def fpToInt (S : Fmt) (mode : Rm) (lo hi : Int) (a : Nat) : Int × FFlags :=
  match unpack S a with
  | .nan _ => (0, flagNv)
  | .inf n => (if n then lo else hi, flagNv)
  | .fin n m e =>
    let x := FVal.dy (.fin n m e)
    let i := roundInt x mode
    if i < lo then (lo, flagNv)
    else if hi < i then (hi, flagNv)
    else (i, if x.eq ⟨i, 0⟩ then 0 else flagNx)

/-- floor(√n) from bit i down, with r found so far. -/
def isqrtFrom : Nat → Nat → Nat → Nat
  | 0, n, r => if (r + 1) * (r + 1) ≤ n then r + 1 else r
  | i + 1, n, r =>
    let t := r + 2 ^ (i + 1)
    isqrtFrom i n (if t * t ≤ n then t else r)

def isqrt (n : Nat) : Nat := isqrtFrom (Nat.log2 n / 2 + 1) n 0

/-- √(m × 2^e) as a real with a sticky low bit: enough bits that every rounding to FP32 is that of the exact root. -/
def sqrtDy (m : Nat) (e : Int) : Dy :=
  let odd : Int := e % 2
  let k : Nat := 64
  let n := m * 2 ^ (2 * k + odd.toNat)
  let r := isqrt n
  ⟨(2 * r + (if r * r = n then 0 else 1) : Nat), (e - odd) / 2 - k - 1⟩

/-- fsqrt (R86). -/
def fpSqrt (a : Nat) : Nat × FFlags :=
  match unpack f32 a with
  | .nan s => (quiet f32 a, if s then flagNv else 0)
  | .inf n => if n then (f32.defaultNan, flagNv) else (a, 0)
  | .fin neg m e =>
    if m = 0 then (a, 0)
    else if neg then (f32.defaultNan, flagNv)
    else roundTo f32 (sqrtDy m e) .rne false

/-- The two FP32 values that bracket a real (R86): one value twice when it is exact. -/
def bracket (x : Dy) : Nat × Nat := ((roundTo f32 x .rdn false).1, (roundTo f32 x .rup false).1)

/-- One of the two bracketing values, by a free bit (R8, R86). -/
def pickBracket (x : Dy) (draw : Nat) : Nat :=
  let (lo, hi) := bracket x
  if lo = hi then lo else if Config.freeBit draw then hi else lo

/-- frcp (R86). -/
def fpRcp (a : Nat) (draw : Nat) : Nat × FFlags :=
  match unpack f32 a with
  | .nan s => (quiet f32 a, if s then flagNv else 0)
  | .inf n => (signed f32 n 0, 0)
  | .fin neg m e =>
    if m = 0 then (signed f32 neg f32.infBits, flagDz)
    else if Dy.le ⟨m, e⟩ ⟨1, -128⟩ then (signed f32 neg f32.infBits, flagOf)
    else
      let q := 2 ^ 80 / m
      let st : Nat := if 2 ^ 80 % m = 0 then 0 else 1
      (signed f32 neg (pickBracket ⟨(2 * q + st : Nat), -81 - e⟩ draw), 0)

/-- frsq (R86). -/
def fpRsq (a : Nat) (draw : Nat) : Nat × FFlags :=
  match unpack f32 a with
  | .nan s => (quiet f32 a, if s then flagNv else 0)
  | .inf n => if n then (f32.defaultNan, flagNv) else (0, 0)
  | .fin neg m e =>
    if m = 0 then (signed f32 neg f32.infBits, flagDz)
    else if neg then (f32.defaultNan, flagNv)
    else
      let odd : Int := e % 2
      let m' := m * 2 ^ odd.toNat
      let r := isqrt (2 ^ 160 / m')
      let st : Nat := if r * r * m' = 2 ^ 160 then 0 else 1
      (pickBracket ⟨(2 * r + st : Nat), -81 - (e - odd) / 2⟩ draw, 0)

/-- 2^(t / 2^150) in units of 2^−200, truncated, by the roots 2^(1/2^i): the bits of t from the top, `c` the root of
this bit, `n` bits still to come. -/
def exp2Bits : Nat → Nat → Nat → Nat → Nat
  | 0, _, _, acc => acc
  | n + 1, t, c, acc =>
    let acc' := if t / 2 ^ n % 2 = 1 then acc * c / 2 ^ 200 else acc
    if t % 2 ^ n = 0 then acc' else exp2Bits n t (isqrt (c * 2 ^ 200)) acc'

/-- 2^a for |a| ≤ 1, as a real with a sticky bit; exact at −1, 0 and 1. -/
def exp2Dy (neg : Bool) (m : Nat) (e : Int) : Dy :=
  let t := (shl2 m (e + 150)).toNat
  if t = 0 then ⟨1, 0⟩
  else if t = 2 ^ 150 then ⟨1, if neg then -1 else 1⟩
  else
    let (t', base) := if neg then (2 ^ 150 - t, (-1 : Int)) else (t, 0)
    ⟨(2 * exp2Bits 150 t' (isqrt (2 * 2 ^ 400)) (2 ^ 200) + 1 : Nat), base - 201⟩

/-- An FP32 value less than 2 ulp from a real (R86). -/
def nearBy (x : Dy) (c : Nat) : Bool :=
  match unpack f32 c with
  | .fin n m e => Dy.lt ((FVal.dy (.fin n m e)).add x.neg).abs ⟨2, x.log2 - 23⟩
  | _ => false

/-- fexpf (R86): a bracketing value up to 0.5; above it any FP32 value less than 2 ulp off. -/
def fpExp2 (a : Nat) (draw : Nat) : Nat × FFlags :=
  match unpack f32 a with
  | .nan s => (quiet f32 a, if s then flagNv else 0)
  | .inf _ => (f32.defaultNan, flagNv)
  | .fin neg m e =>
    if m = 0 then (0x3F800000, 0)
    else if Dy.lt ⟨1, 0⟩ ⟨m, e⟩ then (f32.defaultNan, flagNv)
    else
      let x := exp2Dy neg m e
      if Dy.le ⟨m, e⟩ ⟨1, -1⟩ then (pickBracket x draw, 0)
      else
        let c := (Config.freeWord (BitVec.ofNat 32 a) draw).toNat
        (if nearBy x c then c else pickBracket x draw, 0)

/-- Bits of log2 of m / 2^160 in [1, 2): n more bits below those found in acc. -/
def log2Bits : Nat → Nat → Nat → Nat
  | 0, _, acc => acc
  | n + 1, m, acc =>
    let s := m * m / 2 ^ 160
    if 2 ^ 161 ≤ s then log2Bits n (s / 2) (2 * acc + 1) else log2Bits n s (2 * acc)

/-- log2 of a positive real, with a sticky bit when it is not an integer. -/
def log2Dy (m : Nat) (e : Int) : Dy :=
  let L := Dy.log2 ⟨m, e⟩
  let mant := m * 2 ^ (160 - Nat.log2 m)
  if mant = 2 ^ 160 then ⟨L, 0⟩
  else ⟨L * 2 ^ 97 + (2 * log2Bits 96 mant 0 + 1 : Nat), -97⟩

/-- flog2 (R86): any FP32 value within max(1 ulp, 2^−24) of the logarithm; DESIGN CHOICE (assumption 70): log2(1)
is +0. -/
def fpLog2 (a : Nat) (draw : Nat) : Nat × FFlags :=
  match unpack f32 a with
  | .nan s => (quiet f32 a, if s then flagNv else 0)
  | .inf n => if n then (f32.defaultNan, flagNv) else (a, 0)
  | .fin neg m e =>
    if m = 0 then (signed f32 true f32.infBits, flagDz)
    else if neg then (f32.defaultNan, flagNv)
    else
      let x := log2Dy m e
      if x.e = 0 then ((roundTo f32 x .rne false).1, 0)
      else
        let ulp : Dy := ⟨1, max (x.log2 - 23) (-24)⟩
        let c := (Config.freeWord (BitVec.ofNat 32 a) draw).toNat
        match unpack f32 c with
        | .fin n' m' e' =>
          let y := FVal.dy (.fin n' m' e')
          (if Dy.lt (y.add x.neg).abs ulp then c else pickBracket x draw, 0)
        | _ => (pickBracket x draw, 0)

end Sys2Proof.Machine
end

