-- ==== Sys2Proof/Machine/Sparse.lean ====
section
/-! DEFINITION. Sparse maps from numbers: association lists with rising keys. A map with a default value lists no entry
that equals the default, so that equal maps are equal lists. -/

namespace Sys2Proof.Machine

abbrev PMap (β : Type) := List (Nat × β)

/-- The entry of a key. -/
def pfind {β : Type} : PMap β → Nat → Option β
  | [], _ => none
  | (a, b) :: m, k => if k = a then some b else pfind m k

/-- Puts an entry, keeping the keys in rising order. -/
def pput {β : Type} : PMap β → Nat → β → PMap β
  | [], k, v => [(k, v)]
  | (a, b) :: m, k, v =>
    if k < a then (k, v) :: (a, b) :: m
    else if k = a then (k, v) :: m
    else (a, b) :: pput m k v

/-- Removes the entry of a key. -/
def pdel {β : Type} (m : PMap β) (k : Nat) : PMap β := m.filter (fun e => decide (e.1 ≠ k))

/-- Reads a map whose unlisted keys hold `d`. -/
def pget {β : Type} (d : β) (m : PMap β) (k : Nat) : β := (pfind m k).getD d

/-- Writes a map whose unlisted keys hold `d`. -/
def pset {β : Type} [DecidableEq β] (d : β) (m : PMap β) (k : Nat) (v : β) : PMap β :=
  if v = d then pdel m k else pput m k v

/-- Changes an entry that is there. -/
def pmod {β : Type} (m : PMap β) (k : Nat) (f : β → β) : PMap β :=
  match pfind m k with
  | some v => pput m k (f v)
  | none => m

/-- Changes every entry by its key. -/
def peach {β : Type} (m : PMap β) (f : Nat → β → β) : PMap β := m.map (fun e => (e.1, f e.1 e.2))

/-- Keys strictly rising. -/
def pRising {β : Type} : PMap β → Bool
  | [] => true
  | [_] => true
  | (a, _) :: (b, y) :: m => decide (a < b) && pRising ((b, y) :: m)

/-- The canonical form of a map with default `d`. -/
def pCanon {β : Type} [DecidableEq β] (d : β) (m : PMap β) : Bool :=
  pRising m && m.all (fun e => decide (e.2 ≠ d))

/-- Memory: bytes by address; an unlisted byte reads as zero (assumption 11). -/
abbrev Memory := PMap Byte

def Memory.wf (m : Memory) : Bool := pCanon 0 m

def Memory.read (m : Memory) (a : Nat) : Byte := pget 0 m a

def Memory.write (m : Memory) (a : Nat) (b : Byte) : Memory := pset 0 m a b

/-- The n bytes from an address on, lowest first. -/
def Memory.readBytes (m : Memory) (a n : Nat) : List Byte := (List.range n).map (fun i => m.read (a + i))

/-- Writes bytes from an address on, lowest first. -/
def Memory.writeBytes : Memory → Nat → List Byte → Memory
  | m, _, [] => m
  | m, a, b :: bs => (m.write a b).writeBytes (a + 1) bs

/-- The entries that bytes from an address on make: those that are not zero. -/
def byteCells : Nat → List Byte → Memory
  | _, [] => []
  | a, b :: bs => if b = 0 then byteCells (a + 1) bs else (a, b) :: byteCells (a + 1) bs

/-- Writes a long run of bytes at once: the same memory as `writeBytes`, made in one pass. -/
def Memory.splice (m : Memory) (a : Nat) (bs : List Byte) : Memory :=
  m.filter (fun e => decide (e.1 < a)) ++ byteCells a bs ++ m.filter (fun e => decide (a + bs.length ≤ e.1))

/-- Bytes listed by offset, those below n, as memory from an address on. -/
def Memory.shift (c : Memory) (a n : Nat) : Memory :=
  (c.filter (fun e => decide (e.1 < n))).foldr (fun e m => m.write (a + e.1) e.2) []

/-- Writes n bytes from an address on at once: those listed at their offsets, the others zero. -/
def Memory.place (m : Memory) (a n : Nat) (c : Memory) : Memory :=
  m.filter (fun e => decide (e.1 < a)) ++ c.shift a n ++ m.filter (fun e => decide (a + n ≤ e.1))

/-- Little-endian number of bytes (R3). -/
def leNat : List Byte → Nat
  | [] => 0
  | b :: bs => b.toNat + 256 * leNat bs

/-- The low n bytes of a number, lowest first (R3). -/
def leBytes : Nat → Nat → List Byte
  | 0, _ => []
  | n + 1, v => BitVec.ofNat 8 v :: leBytes n (v / 256)

end Sys2Proof.Machine
end

