-- ==== Sys2Proof/Machine/State.lean ====
section
/-! DEFINITION. The state of the QR-36A as plain data: everything the spec gives the panel, its islands, cores, teams and
crews, its command processor, host ports and fabric, and the model's own fields (the script of the environment, the
executor chosen, the counter of free values). INVENTORY.md lists each field with its rule and reset value. -/

namespace Sys2Proof.Machine

/-- Who executes the next word: a crew, or a sequencer of a core. -/
inductive Exec
  | crew (id : Nat)
  | seq (core : Nat) (copy : Bool)
  deriving DecidableEq, Repr

/-! ### Crews -/

/-- In-flight counters of a crew (R65); `none` for the tagged register moves that count on no path (R74). -/
inductive Path
  | ld | st | sl | rm | tn | none
  deriving DecidableEq, Repr

/-- An outstanding operation of a crew (R30, R31, R65): where it counts, its flag, and the values that arrive late. -/
structure Op where
  id : Nat
  path : Path
  /-- flag it is tagged with, 15 for none -/
  flag : Nat
  /-- completed, while an older operation of its path is not (R65) -/
  done : Bool
  /-- lanes that receive a value -/
  mask : Word
  /-- first named register awaiting, and one value per register -/
  vreg : Option Nat
  vvals : List (Lanes 32)
  /-- uniform register awaiting, and its value -/
  kreg : Option Nat
  kval : DWord
  /-- value of the reserved history entry -/
  hvals : Option (Lanes 64)
  /-- outstanding-transaction entry: 0 none, 1 shared, 2 of the quarter (R220) -/
  ott : Nat
  /-- belongs to the context saved in the trap slot (R273), with the age of its history entry there -/
  frozen : Bool
  age : Nat
  /-- waits for something other than its own completion: a held write, a remote answer -/
  held : Bool
  /-- operations of the crew that must be done first (R74) -/
  after : List Nat
  /-- team register that it names, and the record that a `thl` brings it (R281, R286) -/
  hn : Option Nat
  hrec : Option (BitVec 512)
  deriving DecidableEq, Repr

/-- One history entry: its value per lane, and the operation it awaits (R116, R118). -/
structure Hist where
  vals : Lanes 64
  pend : Option Nat
  deriving DecidableEq, Repr

/-- A cause with its sub-cause and information (R267, R268). -/
structure Cause where
  code : Nat
  sub : Nat
  info : DWord
  lane : Option Nat
  n : Word
  org : Nat
  deriving DecidableEq, Repr

/-- Why a crew does not issue (R155, R156). -/
inductive Stall
  | none
  /-- a clause header or a long-latency wait whose condition did not hold when last tested -/
  | long
  /-- stalled in `round` (R237) -/
  | round
  /-- a short stall (R155): the `vput` hold (R74) -/
  | hold
  deriving DecidableEq, Repr

/-- Place of a crew in its quarter (R155). -/
inductive Place
  | active | pending | movingIn | movingOut
  /-- it has exited and holds no place (R157); its context may still be resident (R214) -/
  | left
  deriving DecidableEq, Repr

/-- A crew (07 R113-R121, 01 R21). -/
structure Crew where
  isl : Nat
  core : Nat
  quarter : Nat
  team : Nat
  num : Nat
  /-- named registers R (R120) -/
  nreg : Nat
  pc : DWord
  /-- clause: header address, instructions passed, instructions left, flags, wait mask not yet passed (R27-R29) -/
  hdr : DWord
  idx : Nat
  left : Nat
  fa : Nat
  fb : Nat
  wm : BitVec 12
  em : Word
  m : PMap Word
  k : PMap DWord
  v : PMap (Lanes 32)
  hist : List Hist
  fxs : DWord
  ops : List Op
  /-- trap slot address (R269), handler mode, imprecise causes queued while not deliverable -/
  slot : Nat
  handler : Bool
  queued : List Cause
  /-- a cause taken and not yet entered: it waits for operations that cannot be drained at once (R272) -/
  trap : Option Cause
  /-- panel time of the open section (R235) -/
  sect : Option DWord
  triggered : Bool
  /-- it has executed a `trig` that took effect: a second one has none (R238) -/
  trigDone : Bool
  /-- the earlier accesses that a `trig` waits for (R238) -/
  trigWait : Option (List Nat)
  exiting : Bool
  /-- scope of a `fence.rel` not yet consumed (R231) -/
  relScope : Option Nat
  /-- lines that the last synchronisation access or relaxed atomic read, by island memory address (R231) -/
  syncLines : List Nat
  /-- its operation -/
  syncOp : Option Nat
  /-- length of the `round` it is stalled in, its part contributed (R237) -/
  inRound : Option Nat
  place : Place
  stall : Stall
  /-- age stamp, wait stamp, order of entry into the active set, issues in a row (R154-R159) -/
  stamp : Nat
  wstamp : Nat
  entered : Nat
  run : Nat
  yielded : Bool
  /-- issues of its quarter since it became waiting in the pending set (R159) -/
  waited : Nat
  /-- the `cwait` it is stalled in: counter, threshold, and whether a step has reached it (R369) -/
  cw : Option (Nat × Word × Bool)
  /-- the last value that a `gtime` of the crew returned (R242) -/
  lastTime : DWord
  deriving DecidableEq, Repr

/-! ### Teams -/

/-- A barrier record (R182), and whether an arrival at bench scope has still to be acquired (R185). -/
structure Bar where
  ph : BitVec 16
  arr : Nat
  exp : Nat
  bench : Bool
  deriving DecidableEq, Repr

def Bar.zero : Bar := ⟨0, 0, 0, false⟩

/-- A crew's part of a round record (R237): number, restart target, saved registers, `k0`-`k15`. -/
structure RoundPart where
  num : Nat
  target : DWord
  regs : List (Nat × Lanes 32)
  ks : List DWord
  deriving DecidableEq, Repr

/-- A round record (R237, R326): round number, crew parts, barriers. No part means the start state. -/
structure Record where
  no : Nat
  parts : List RoundPart
  bars : PMap Bar
  deriving DecidableEq, Repr

def Record.start : Record := ⟨0, [], []⟩

/-- A team on its core (07 R110-R115, 14 R208-R215). -/
structure Team where
  isl : Nat
  core : Nat
  launch : Nat
  num : Nat
  gang : Nat
  tw : Nat
  slab : Nat
  tag : BitVec 8
  win : Memory
  bars : PMap Bar
  /-- handle records, 64 bytes as a number (R293) -/
  tn : PMap (BitVec 512)
  prod : Nat
  roundNo : Nat
  /-- contributions of the open round, and its phase (R327): 0 none, 1 gathering, 2 written in the pending primary slot,
  3 committed by the buddy -/
  parts : List RoundPart
  phase : Nat
  /-- the barriers as they stood when the last crew issued `round` (R237) -/
  roundBars : PMap Bar
  /-- a crew of the team has triggered (R238) -/
  trigged : Bool
  /-- sequencers started by the last fork (R167) -/
  forkM : Bool
  forkC : Bool
  /-- cause word of a fatal cause (R267) -/
  fatal : Option Word
  /-- bytes of the window that an unfinished job has written, as they were before (R181): offset, job, byte -/
  prior : List (Nat × Nat × Byte)
  deriving DecidableEq, Repr

/-! ### Cores -/

/-- A line of an L1 (R248-R256): bytes, dirty mask, class, stamp, mark (none for open or clean), exclusive ownership and
whether the owned line's record named another core (R254). -/
structure Line where
  bytes : List Byte
  dirty : BitVec 64
  cxl : Bool
  /-- generation of its clean bytes, none once a sweep has passed over it (R255) -/
  stamp : Option (BitVec 4)
  mark : Option Word
  excl : Bool
  other : Bool
  /-- a bench-scope release made under ownership and not yet recorded at the home (R223, R253) -/
  bench : Option Word
  deriving DecidableEq, Repr

/-- A weight plane with its latches (R171): the image that `ldw` read. -/
structure Plane where
  loaded : Bool
  fmt : Nat
  spars : Nat
  kl : Nat
  image : List Byte
  deriving DecidableEq, Repr

def Plane.zero : Plane := ⟨false, 0, 0, 0, []⟩

/-- States of a sequencer (R216). -/
inductive SeqState
  | idle | running | gated | held | ending | faulted
  deriving DecidableEq, Repr

/-- A sequencer (14 R216). -/
structure Sequencer where
  st : SeqState
  pc : DWord
  hdr : DWord
  idx : Nat
  left : Nat
  k : PMap DWord
  deriving DecidableEq, Repr

def Sequencer.idle : Sequencer := ⟨.idle, 0, 0, 0, 0, []⟩

/-- Kinds of engine jobs (R181). -/
inductive JobKind
  | ldw | mma | mmaC | amov | qnt | cpy | cpyx | cpym
  deriving DecidableEq, Repr

/-- A region of the footprint checker (R218): space (0 memory of an island, 1 slab of a team, 2 accumulator, 3 plane),
owner of the space, first granule and one past the last. -/
structure Region where
  space : Nat
  owner : Nat
  lo : Nat
  hi : Nat
  deriving DecidableEq, Repr

/-- An engine job held by the checker (R217): kind, issuing team and source, instruction fields, operand values, card,
regions. -/
structure Job where
  id : Nat
  kind : JobKind
  team : Nat
  /-- issuing crew, or none for a sequencer -/
  crew : Option Nat
  /-- address reported for imprecise causes -/
  addr : DWord
  /-- the word of a matrix sequencer's instruction (R276) -/
  word : Nat
  mod : Nat
  seed : Bool
  a : DWord
  b : DWord
  c : DWord
  card : List DWord
  reads : List Region
  writes : List Region
  started : Bool
  /-- gate of the card: barrier and phase (R179) -/
  gate : Option (Nat × Nat)
  /-- the fault that stopped it (R180) -/
  fault : Option Cause
  /-- handle records read with the card (R281) -/
  srcTn : BitVec 512
  dstTn : BitVec 512
  /-- `cpym`: windows as (team index, team, core, recorded tag), and those that lost a beat -/
  windows : List (Nat × Nat × Nat × BitVec 8)
  spoiled : List Nat
  /-- those whose team has ended and whose units a later window has taken (R211, R212) -/
  retaken : List Nat
  /-- `cpym` beats still to deliver, with their bytes: window, offset in the window, bytes -/
  beats : List (Nat × Nat × List Byte)
  deriving DecidableEq, Repr

/-- Service of a core (R258, R321, R332-R334). -/
inductive Service
  | live | draining | testing | retired | spare | gated | lost
  deriving DecidableEq, Repr

/-- A translation held by a TLB (R304): page size in bits and leaf entry. -/
structure Tlb where
  bits : Nat
  entry : DWord
  deriving DecidableEq, Repr

/-- A core (01 R16, 11 R164, 14, 17). -/
structure Core where
  lines : PMap Line
  gI : BitVec 4
  gS : BitVec 4
  relSeq : Word
  spoil : DWord
  acqf : DWord
  acqs : DWord
  surra : DWord
  wbln : DWord
  tagc : BitVec 8
  service : Service
  due : Option DWord
  /-- tests passed since retirement, the full test passed, retired, in the live core count (R18, R334) -/
  passes : Nat
  fullPass : Bool
  retired : Bool
  counted : Bool
  owner : Option Nat
  acc : PMap Word
  active : Plane
  shadow : Plane
  gen : Word
  ms : Sequencer
  cs : Sequencer
  jobs : List Job
  /-- arrivals of sequencers owed behind their earlier jobs: sequencer, jobs awaited, barrier, count -/
  owed : List (Bool × List Nat × Nat × Nat)
  tlb : PMap Tlb
  /-- which of the two planes is the active one (R218: a plane's identity outlives `flip`) -/
  flipped : Bool
  /-- per quarter: next stamp, and the swap in progress (crew out, crew in) -/
  stamps : PMap Nat
  swaps : PMap (Option Nat × Option Nat)
  /-- per quarter: issues since its swap began (R158) -/
  swapAge : PMap Nat
  deriving DecidableEq, Repr

/-! ### Islands -/

/-- A write held because its tile is MOVING (R299): who made it (a crew's operation, or a job of a core), its elements in
the new layout: virtual bit address, width and value; and the bytes that a later write of the crew has taken over (R70, R284). -/
structure HeldWrite where
  tile : Nat
  job : Bool
  owner : Nat
  id : Nat
  elems : List (Nat × Nat × Nat)
  lost : List Nat
  deriving DecidableEq, Repr

/-- A conversion of the relayout engine (R286, R296-R301). -/
structure Conv where
  id : Nat
  launch : Nat
  asid : Nat
  /-- the record with pd set -/
  handle : BitVec 512
  tiles : Nat
  /-- tiles below `next` are NEW; `moving` while tile `next` is MOVING -/
  next : Nat
  moving : Bool
  /-- operations (crew, number) and jobs (core, number) issued before the `relay` (R286) -/
  waitOps : List (Nat × Nat)
  waitJobs : List (Nat × Nat)
  /-- held-write count, and held writes in order of resolution -/
  hw : Nat
  held : List HeldWrite
  /-- it is to stop at the next tile boundary (R301) -/
  stopped : Bool
  /-- complete: every tile NEW, every held write performed (R287, R300) -/
  complete : Bool
  /-- its place in the order in which conversions became eligible (R300) -/
  elig : Option Nat
  lease : Nat
  deriving DecidableEq, Repr

/-- An address-space identifier in use (R306): function, last use. -/
structure Asid where
  fn : Nat
  used : Nat
  deriving DecidableEq, Repr

/-- A stored round record (R326): zone, launch, team number, primary or copy, committed or pending. -/
structure Stored where
  zone : Nat
  launch : Nat
  team : Nat
  copy : Bool
  committed : Bool
  data : Record
  deriving DecidableEq, Repr

/-- An island (01 R13-R18, 17, 21, 23, 26). -/
structure Island where
  /-- table roots per ASID (R302) -/
  roots : PMap Nat
  asids : PMap Asid
  /-- release records per line: core and sequence (R250) -/
  rel : PMap (Nat × Word)
  /-- exclusive owners per line (R254) -/
  excl : PMap Nat
  counters : PMap Word
  owners : PMap Nat
  ttlb : PMap Tlb
  /-- the shared cache of table entries of levels 4 to 2 (R304) -/
  upper : PMap DWord
  convs : List Conv
  /-- place of the conversion whose tile the engine took last (R300), and issues since its last step (assumption 1) -/
  convTurn : Nat
  convAge : Nat
  offset : Int
  zone : DWord
  isolated : BitVec 4
  /-- panel time at which each lost zone lost its power (R323) -/
  lostAt : PMap DWord
  commonLost : Nat
  stores : List Stored
  steps : PMap Nat
  /-- since when the draw of a zone has stayed below 90 % of its share (R409) -/
  lowSince : PMap Nat
  stepAt : PMap Nat
  live : Nat
  /-- free runs of 64 KiB frames in HBM4E and in the LPDDR6 tier, as first frame and length (R307) -/
  frames : List (Nat × Nat)
  tier : List (Nat × Nat)
  dead : Bool
  deriving DecidableEq, Repr

/-! ### Command processor -/

/-- A declared range (R108). -/
structure Range where
  base : Nat
  len : Nat
  r : Bool
  w : Bool
  deriving DecidableEq, Repr

/-- States of a gang: waiting, placed, pre-empted (saved), retired, dropped. -/
inductive GangState
  | waiting | placed | saved | retired | dropped
  deriving DecidableEq, Repr

/-- A crew and a team saved by pre-emption (R276, R277). -/
structure SavedTeam where
  id : Nat
  team : Team
  owner : Bool
  acc : PMap Word
  active : Plane
  shadow : Plane
  flipped : Bool
  gen : Word
  ms : Sequencer
  cs : Sequencer
  jobs : List Job
  owed : List (Bool × List Nat × Nat × Nat)
  deriving DecidableEq, Repr

structure Gang where
  st : GangState
  /-- pre-emption (R277): 0 none, 1 asked for and waiting, 2 its crews have stopped issuing -/
  want : Nat
  teams : List SavedTeam
  crews : List (Nat × Crew)
  /-- teams that wait for a guarded restart (R328): former identifier, team number, the record to restart from -/
  restart : List (Nat × Nat × Record)
  deriving DecidableEq, Repr

def Gang.waiting : Gang := ⟨.waiting, 0, [], [], []⟩

/-- States of a unit (R376): 0 accepted, 1 started, 2 completed, 3 cancelled, 4 failed. -/
abbrev UState := Nat

/-- A launch (07 R105-R112, 27 R375-R383). -/
structure Launch where
  port : Nat
  vf : Nat
  irq : Bool
  tis : Bool
  /-- kind of journal entry: a launch command, or a node of a replay -/
  object : DWord
  isl : Nat
  asid : Nat
  entry : DWord
  param : DWord
  hen : BitVec 16
  hidx : List Nat
  htab : Nat
  pre : BitVec 7
  slab : Nat
  nreg : Nat
  prod : Nat
  ncrew : Nat
  ranges : List Range
  nteam : Nat
  gsz : Nat
  grd : Bool
  hold : Option (Nat × Word)
  held : Bool
  /-- dependences not yet met: predecessor and early flag -/
  deps : List (Nat × Bool)
  counterAt : Nat
  counter : Word
  job : Nat
  phase : Nat
  replay : Option (Nat × Nat)
  queue : Option Nat
  st : UState
  code : Nat
  aux : Word
  handler : DWord
  lcores : Nat
  staged : Bool
  lease : Option Nat
  gangs : PMap Gang
  /-- teams whose crews have exited, and teams that have triggered (R238, R383) -/
  ended : List Nat
  trigTeams : List Nat
  fatal : Option Word
  cores : List Nat
  finalDue : Bool
  /-- panel time of the loss that cancelled it (R323) -/
  endAt : Option DWord
  deriving DecidableEq, Repr

/-- A recorded graph (R384). -/
structure Graph where
  key : Nat
  num : Nat
  ovl : Bool
  patch : Nat
  slot0 : Nat
  slot1 : Nat
  /-- nodes: record address, parameter offset where `ps` is set, predecessors with early flags, launch record bytes -/
  nodes : List (Nat × Option Nat × List (Nat × Bool) × List Byte)
  counterAt : Nat
  counter : Word
  port : Nat
  deriving DecidableEq, Repr

/-- A replay (R385). -/
structure Replay where
  port : Nat
  vf : Nat
  irq : Bool
  graph : Nat
  job : Nat
  phase : Nat
  source : Nat
  slot : Option Nat
  st : UState
  code : Nat
  queue : Option Nat
  deriving DecidableEq, Repr

/-- A phase or a job (R386). -/
structure GroupUnit where
  seq : Nat
  /-- unit of a phase's job, 0 for job 0 -/
  jobSeq : Nat
  port : Nat
  vf : Nat
  irq : Bool
  isPhase : Bool
  job : Nat
  phase : Nat
  ord : Bool
  closed : Bool
  counterAt : Nat
  counter : Word
  st : UState
  queue : Option Nat
  deriving DecidableEq, Repr

/-- A lease (R309): who holds it, on which island, its units, its expiry. -/
structure Lease where
  isl : Nat
  /-- ASID it serves -/
  asid : Nat
  fn : Nat
  window : Bool
  launch : Option Nat
  units : List (Nat × Nat)
  expiry : Nat
  void : Bool
  deriving DecidableEq, Repr

/-- A migration or unmapping of a leased unit that waits at the lease table (R312): the lease and the unit it names, and the
address space that they belong to. -/
structure Migration where
  lease : Nat
  unit : Nat
  isl : Nat
  asid : Nat
  deriving DecidableEq, Repr

/-! ### Host -/

/-- A queue pair (R400). -/
structure Queue where
  sqBase : DWord
  ctl : DWord
  sqTail : Nat
  sqHead : Nat
  cqBase : DWord
  cqHead : Nat
  cqTail : Nat
  /-- completion records held back, each 32 bytes, and the vector's request (R402) -/
  heldRecs : List (List DWord × Bool)
  deriving DecidableEq, Repr

def Queue.reset : Queue := ⟨0, 0, 0, 0, 0, 0, 0, []⟩

/-- A virtual function (R398, R402-R404): its status word, pending and mask bits of its vectors, and the vectors it has
sent, the latest first. -/
structure Vf where
  status : DWord
  pending : BitVec 16
  masked : BitVec 16
  fired : List Nat
  resetting : Bool
  deriving DecidableEq, Repr

def Vf.reset : Vf := ⟨0, 0, 0, [], false⟩

/-- The one vector of a port's physical function (R398): its mask and pending bits, and how often it was sent. -/
structure Pf where
  masked : Bool
  pending : Bool
  fired : Nat
  deriving DecidableEq, Repr

def Pf.reset : Pf := ⟨false, false, 0⟩

/-! ### Fabric -/

/-- Progress of a packet: held back at its sender (R365), in flight, held at its target (R366), performed or refused with
its acknowledgement or result on the way. -/
inductive PktState
  | queued | flying | heldAt | performed
  deriving DecidableEq, Repr

/-- A packet (R363-R366): its remote operation, pair, stream place and route. -/
structure Packet where
  rop : Nat
  /-- issuing function (R337) -/
  fn : Nat
  src : Nat
  dst : Nat
  ordered : Bool
  seq : Nat
  /-- its index within the operation, and the operation's packet count (R365) -/
  index : Nat
  count : Nat
  epoch : Nat
  /-- route word used, or 2^32 + plane off the panel -/
  route : Nat
  what : Payload
  st : PktState
  /-- previous value of an atomic -/
  reply : DWord
  /-- sub-cause of the refusal (R371) -/
  err : Option Nat
  /-- atoms performed ahead of the others (R340), by address in atoms: of a get what was read -/
  part : PMap (List Byte)
  deriving DecidableEq, Repr

/-- Kinds of remote operations. -/
inductive RKind
  | put | get | notify | atomic | coll
  deriving DecidableEq, Repr

/-- A remote operation not yet completed (R339-R351), by the number of its crew's operation. -/
structure ROp where
  kind : RKind
  crew : Nat
  core : Nat
  team : Nat
  isl : Nat
  asid : Nat
  fn : Nat
  /-- local side: the team of a slab window, else memory, or the crew's trap slot -/
  slab : Option Nat
  inSlot : Bool
  loc : Nat
  len : Nat
  /-- the first byte of a result is written (R341) -/
  begun : Bool
  /-- targets that have not acknowledged, or bytes of a reply not yet written -/
  left : Nat
  deriving DecidableEq, Repr

/-- The stream of a pair (R364, R365, R373): next number, epoch, next route in turn. -/
structure Stream where
  next : Nat
  epoch : Nat
  turn : Nat
  deriving DecidableEq, Repr

def Stream.zero : Stream := ⟨0, 0, 0⟩

/-- A member of a collective (R348): island, remote operation, empty, completed, its contribution accepted by a combining stage. -/
structure Member where
  isl : Nat
  rop : Nat
  empty : Bool
  final : Bool
  taken : Bool
  deriving DecidableEq, Repr

/-- A collective under way (R348-R351): function and agreed card, members that issued, values not yet combined by island, and
whether it has ended in a remote error, with its sub-cause (R371). -/
structure Coll where
  fn : Nat
  card : List DWord
  members : List Member
  parts : PMap (List Nat)
  broken : Bool
  why : Nat
  deriving DecidableEq, Repr

/-- The topology table's own facts (R361): the route entries follow from them (assumption 8). -/
structure Topo where
  gen : Nat
  deadPorts : PMap (BitVec 8)
  written : Bool
  deriving DecidableEq, Repr

/-- A firmware image or token as the boot sees it (R406): which signatures verify, whether both are there, the one-time key
index, the digest in six words, and index and digest of the image last accepted. -/
structure Image where
  ecdsa : Bool
  lms : Bool
  signed : Bool
  index : Nat
  digest : List DWord
  lastIndex : Nat
  lastDigest : List DWord
  deriving DecidableEq, Repr

/-- A feature token (R408): its image, and the panel serial, token version and enable mask that it binds. -/
structure Token where
  image : Image
  serial : DWord
  version : DWord
  mask : BitVec 4
  deriving DecidableEq, Repr

/-- Boot status and what the boot verifies (R405-R412). -/
structure Boot where
  step : Nat
  fstep : Nat
  code : Nat
  /-- step 2 brings up the host ports and the SPDM responder (R405) -/
  ports : Bool
  cp : Image
  island : Image
  /-- feature token (R408) -/
  token : Option Token
  /-- digest of the operator policy (R334, R407) -/
  policy : Option (List DWord)
  /-- spare benches enabled -/
  spares : BitVec 4
  /-- enabled cores that fail the full test of step 5 -/
  failing : List Nat
  /-- routes that the panel firmware lists, for the pair (i, j) at 36 i + j (R362) -/
  routes : PMap (List (List Nat))
  deriving DecidableEq, Repr

/-- What manufacture fixed (R11, R17, R331, R406-R408): populated sites, banks of repaired cores, serial, the version of the
boot ROM, and the identity certificate with the two signatures that it carries. -/
structure Fuses where
  sites : List Nat
  rfBanks : PMap Nat
  slabBanks : PMap Nat
  serial : DWord
  rom : DWord
  cert : List DWord
  deriving DecidableEq, Repr

/-- An SPDM responder (R407): how far a connection is set up (1 version, 2 capabilities, 3 algorithms asked for), whether
algorithms are agreed, and its last answer. -/
structure Spdm where
  stage : Nat
  negotiated : Bool
  answer : List DWord
  deriving DecidableEq, Repr

/-- The whole machine. -/
structure State where
  script : List Instr
  cur : Option Exec
  free : Nat
  nextId : Nat
  fuses : Fuses
  boot : Boot
  spdm : PMap Spdm
  time : DWord
  cap : Nat
  topo : Topo
  panelNum : Nat
  /-- panel numbers that the domain holds (R394) -/
  panels : BitVec 64
  deadPlanes : List (Nat × Nat × Nat × Nat × Nat)
  /-- island and host memory: byte addresses in one space (see `islKey`) -/
  mem : Memory
  crews : PMap Crew
  teams : PMap Team
  cores : PMap Core
  isls : PMap Island
  launches : PMap Launch
  graphs : List Graph
  replays : PMap Replay
  units : List GroupUnit
  leases : PMap Lease
  /-- tail-pointer writes in the order they came (R374): function, queue pair and tail -/
  waiting : List (Nat × Nat × Nat)
  /-- migrations of leased units that wait at the lease table (R312), and those done, as (lease, unit) -/
  migrating : List Migration
  moved : List (Nat × Nat)
  nextSeq : Nat
  journalBase : Nat
  handlers : PMap DWord
  staging : PMap (Nat × Nat)
  queues : PMap Queue
  vfs : PMap Vf
  /-- physical functions, by port -/
  pfs : PMap Pf
  weights : PMap (BitVec 8)
  deficits : PMap Nat
  cxl : List (Nat × Nat × Nat)
  /-- quarter that issued last: the default order goes on from it (assumption 1) -/
  last : Nat
  /-- answer of the last BAR 2 or register read, for the host -/
  hostRead : DWord
  packets : PMap Packet
  rops : PMap ROp
  streams : PMap Stream
  colls : PMap Coll
  /-- cards of the collectives that completed last, by function and tag (R348, R351) -/
  collsMet : PMap (List DWord)
  /-- arrivals of transfer units not yet applied: team, barrier, issuing team, core of the job -/
  arrivals : PMap (Nat × Nat × Nat × Nat)
  deriving DecidableEq, Repr

/-- Model faults. `noExecutor` is raised by a meaning of an instruction word when State selects no executor that can run
it (no crew, or a sequencer of the other kind); no step of a machine does so. Safe: the machine stops. -/
inductive Fault
  | noExecutor
  deriving DecidableEq, Repr

/-- Model refusals. `notModelled` is answered by exec alone, for an instruction that has no meaning yet. Safe. -/
inductive Refusal
  | notModelled (mnemonic : String)
  deriving DecidableEq, Repr

/-! ### Fresh parts and reset -/

/-- A core after panel reset (R241, R249, R255). -/
def Core.fresh : Core :=
  { lines := [], gI := 0, gS := 0, relSeq := 0, spoil := 0, acqf := 0, acqs := 0, surra := 0, wbln := 0, tagc := 0
    service := .live, due := none, passes := 0, fullPass := false, retired := false, counted := true, owner := none, acc := [], active := .zero
    shadow := .zero, gen := 0, ms := .idle, cs := .idle, jobs := [], owed := [], tlb := [], flipped := false, stamps := [], swaps := []
    swapAge := [] }

/-- The upper half of 512 GiB, in frames: what is free of each of an island's memories (assumption 14). -/
def freeHalf : List (Nat × Nat) := [(2 ^ 22, 2 ^ 22)]

/-- An island after panel reset (R317, R368). -/
def Island.fresh : Island :=
  { roots := [], asids := [], rel := [], excl := [], counters := [], owners := [], ttlb := [], upper := [], convs := [], convTurn := 0, convAge := 0, offset := 0
    zone := 0x3900, isolated := 0, lostAt := [], commonLost := 0, stores := [], steps := [], lowSince := [], stepAt := [], live := 0, frames := freeHalf
    tier := freeHalf
    dead := false }

/-- A crew at placement but for its place and its preloads (R114). -/
def Crew.fresh : Crew :=
  { isl := 0, core := 0, quarter := 0, team := 0, num := 0, nreg := 32, pc := 0, hdr := 0, idx := 0, left := 0, fa := 15
    fb := 15, wm := 0, em := 0xFFFFFFFF, m := [], k := [], v := [], hist := [], fxs := 0, ops := [], slot := 0
    handler := false, queued := [], trap := none, sect := none, triggered := false, trigDone := false, trigWait := none, exiting := false
    relScope := none, syncLines := [], syncOp := none, inRound := none, place := .active, stall := .none, stamp := 0, wstamp := 0
    entered := 0, run := 0, yielded := false, waited := 0, cw := none, lastTime := 0 }

/-- A firmware image that verifies (assumption 6). -/
def Image.good : Image := ⟨true, true, true, 1, [0, 0, 0, 0, 0, 0], 0, []⟩

/-- The machine right after panel reset: boot step 0 (R405, R412), every register of the table of INVENTORY.md at its
reset value. -/
def State.reset : State :=
  { script := [], cur := none, free := 0, nextId := 0
    fuses := ⟨List.range 36, [], [], 0, 0, []⟩
    boot := ⟨0, 0, 0, true, .good, .good, none, none, 0, [], []⟩
    spdm := [], time := 0, cap := 65000, topo := ⟨0, [], false⟩, panelNum := 0, panels := 1, deadPlanes := []
    mem := [], crews := [], teams := [], cores := [], isls := [], launches := [], graphs := [], replays := []
    units := [], leases := [], waiting := [], migrating := [], moved := [], nextSeq := 1, journalBase := 0x1000, handlers := []
    staging := [], queues := [], vfs := [], pfs := [], weights := [], deficits := [], cxl := [], last := 0, hostRead := 0, packets := []
    rops := [], streams := [], colls := [], collsMet := [], arrivals := [] }

end Sys2Proof.Machine
end

