-- ==== Sys2Proof/Machine/Operands.lean ====
section
/-! DEFINITION. Operand forms of a crew (02 R31-R37, 03 R53, 07 R116-R120): reading sources with their permutes,
widening immediates, writing destinations, pushing history, and the checks that come before any effect. -/

namespace Sys2Proof

def lowWord (x : DWord) : Word := x.setWidth 32
def highWord (x : DWord) : Word := x.extractLsb' 32 32
def pairWord (lo hi : Word) : DWord := hi ++ lo

/-! ### Immediates (R36) -/

/-- Sign-extends the low `w` bits. -/
def sext64 (w : Nat) (x : Nat) : DWord := (BitVec.ofNat w x).signExtend 64

/-- An immediate of `w` bits widened to the type: codes of R33. -/
def immWiden (ty w : Nat) (raw : Nat) : DWord :=
  if ty = 1 ∨ ty = 5 ∨ ty = 7 then (((sext64 w raw).setWidth 32 : Word)).setWidth 64
  else if ty = 3 then sext64 w raw
  else if ty = 8 then
    if w = 16 then BitVec.ofNat 64 (raw * 65536)
    else if w = 8 then BitVec.ofNat 64 (Machine.fpOfInt Machine.f32 .rne (BitVec.ofNat 8 raw).toInt).1
    else BitVec.ofNat 64 raw
  else if ty = 9 ∨ ty = 10 then
    if w = 8 then BitVec.ofNat 64 (Machine.fpOfInt (if ty = 9 then Machine.f16 else Machine.bf16) .rne (BitVec.ofNat 8 raw).toInt).1
    else BitVec.ofNat 64 (raw % 65536)
  else BitVec.ofNat 64 raw

/-- Bits of an immediate slot and its raw value (R32, R34). -/
def Form.slotRaw (f : Form) (slot : Bool) : Nat × Nat :=
  if slot then (8, f.imm1.toNat)
  else
    match f.len with
    | .short => (16, f.imm0.toNat)
    | .medium => (8, f.imm0.toNat)
    | .long => (32, f.imm0.toNat)

def Form.imm (f : Form) (ty : Nat) (slot : Bool) : DWord :=
  immWiden ty (f.slotRaw slot).1 (f.slotRaw slot).2

/-- A signed byte offset in slot 0 (R66). -/
def Form.offset (f : Form) : DWord := f.imm 3 false

/-- A number in slot 0 as u32 (R232, R240). -/
def Form.number (f : Form) : Word := lowWord (f.imm 0 false)

/-- The lane that a lane reads (R35). -/
def Perm.lane (p : Perm) (l : Nat) : Nat :=
  match p with
  | .none => l
  | .rot k => (l + k.toNat) % 32
  | .bc k => k.toNat
  | .bf k => l ^^^ k.toNat
  | .mir => 31 - l

/-- Named registers that a use of a source reads. -/
def Use.regs : Use → Nat
  | .any n => n
  | .data n => n
  | .named n _ => n
  | .seg => 4
  | _ => 1

/-- Uniform registers that a use of a uniform source reads. -/
def Use.uniRegs : Use → Nat
  | .k n _ _ => n
  | _ => 1

def Use.taken (u : Use) (o : Operand) : Bool :=
  match u with
  | .no => false
  | .mask _ | .mask3 => false
  | .kOpt => o != .zero
  | .uniOpt => o != .zero
  | .idxOpt => o.src != .v 0
  | _ => true

end Sys2Proof

namespace Sys2Proof.Machine

/-! ### Registers of a crew -/

def Crew.vget (c : Crew) (n : Nat) : Lanes 32 := pget (lanesAll 0) c.v n
def Crew.kget (c : Crew) (n : Nat) : DWord := pget 0 c.k n
/-- Mask registers `m0`-`m7`, and 8 for `em` (R126). -/
def Crew.mget (c : Crew) (n : Nat) : Word := if n = 8 then c.em else pget 0 c.m n
def Crew.vset (c : Crew) (n : Nat) (x : Lanes 32) : Crew := { c with v := pset (lanesAll 0) c.v n x }
def Crew.kset (c : Crew) (n : Nat) (x : DWord) : Crew := { c with k := pset 0 c.k n x }
def Crew.mset (c : Crew) (n : Nat) (x : Word) : Crew :=
  if n = 8 then { c with em := x } else { c with m := pset 0 c.m n x }

def Crew.isActive (c : Crew) (l : Nat) : Bool := c.em.getLsbD l

def zeroHist : Hist := ⟨lanesAll 0, none⟩

/-- The history entry of an age less one (R116). -/
def Crew.hget (c : Crew) (age : Nat) : Hist := c.hist.getD age zeroHist

/-- Pushes an entry (R116). -/
def Crew.push (c : Crew) (h : Hist) : Crew := { c with hist := h :: c.hist.take 15 }

/-- Pushes a per-lane result: zero in inactive lanes (R116). -/
def Crew.pushLanes (c : Crew) (res : Nat → DWord) : Crew :=
  c.push ⟨lanesBy (fun l => if c.isActive l then res l else 0), none⟩

/-- Pushes a uniform result in all lanes (R116). -/
def Crew.pushUniform (c : Crew) (v : DWord) : Crew := c.push ⟨lanesAll v, none⟩

/-- Writes named registers in the active lanes only (R51): the low 32 bits, and for two registers the high ones (R53). -/
def Crew.writeV (c : Crew) (n : Nat) (f : Nat → Word) : Crew :=
  let old := c.vget n
  c.vset n (lanesBy (fun l => if c.isActive l then f l else laneOf old l))

/-- A per-lane result of one or two registers: written where nd says so, and pushed (R37, R53, R116). -/
def Crew.resultLanes (c : Crew) (f : Form) (regs : Nat) (res : Nat → DWord) : Crew :=
  let d := f.dst.toNat
  let c' :=
    if f.nd then
      let c1 := c.writeV d (fun l => lowWord (res l))
      if regs = 2 then c1.writeV (d + 1) (fun l => highWord (res l)) else c1
    else c
  c'.pushLanes res

/-- A uniform result: written to `k`dst where nd says so, and pushed (R54, R116). -/
def Crew.resultUniform (c : Crew) (f : Form) (v : DWord) : Crew :=
  (if f.nd then c.kset f.dst.toNat v else c).pushUniform v

/-! ### Sources -/

/-- A source before its permute, per lane, at 64 bits: a named operand reads the even and odd pair (R34, R53). -/
def Crew.raw64 (c : Crew) (f : Form) (ty : Nat) (s : Src) (l : Nat) : DWord :=
  match s with
  | .v n => pairWord (laneOf (c.vget n.toNat) l) (laneOf (c.vget (n.toNat + 1)) l)
  | .h a => laneOf (c.hget a.toNat).vals l
  | .k n => c.kget n.toNat
  | .imm i => f.imm ty i

/-- A source before its permute, per lane, at 32 bits. -/
def Crew.raw32 (c : Crew) (f : Form) (ty : Nat) (s : Src) (l : Nat) : Word :=
  match s with
  | .v n => laneOf (c.vget n.toNat) l
  | .h a => lowWord (laneOf (c.hget a.toNat).vals l)
  | .k n => lowWord (c.kget n.toNat)
  | .imm i => lowWord (f.imm ty i)

def Crew.src64 (c : Crew) (f : Form) (ty : Nat) (o : Operand) (l : Nat) : DWord := c.raw64 f ty o.src (o.perm.lane l)
def Crew.src32 (c : Crew) (f : Form) (ty : Nat) (o : Operand) (l : Nat) : Word := c.raw32 f ty o.src (o.perm.lane l)

/-- A source of one or two registers by its type (R53), as 64 bits with zero above a 32-bit value. -/
def Crew.srcTy (c : Crew) (f : Form) (ty : Nat) (o : Operand) (l : Nat) : DWord :=
  if regsOf ty = 2 then c.src64 f ty o l else (c.src32 f ty o l).setWidth 64

/-- A uniform or immediate source (R54). -/
def Crew.uni (c : Crew) (f : Form) (ty : Nat) (o : Operand) : DWord :=
  match o.src with
  | .k n => c.kget n.toNat
  | .imm i => f.imm ty i
  | .v n => (laneOf (c.vget n.toNat) 0).setWidth 64
  | .h a => laneOf (c.hget a.toNat).vals 0

def Crew.uniTy (c : Crew) (f : Form) (ty : Nat) (o : Operand) : DWord :=
  if regsOf ty = 2 then c.uni f ty o else (lowWord (c.uni f ty o)).setWidth 64

/-- A mask operand (R126). -/
def Crew.maskSrc (c : Crew) (o : Operand) : Word := c.mget (o.src.bits.toNat % 16)

/-- A mask built lane by lane. -/
def maskBy (p : Nat → Bool) : Word :=
  (List.range 32).foldr (fun l acc => (if p l then BitVec.ofNat 32 (2 ^ l) else 0) ||| acc) 0

/-! ### Addresses (R66) -/

/-- Active lanes, lowest first. -/
def Crew.lanes (c : Crew) : List Nat := (List.range 32).filter c.isActive

/-- The effective address of a lane (R66), with a scale. -/
def Crew.eaScaled (c : Crew) (f : Form) (scale : Nat) (l : Nat) : DWord :=
  let base := if f.a = .zero then 0 else c.uni f 2 f.a
  let index : DWord := if f.b.src = .v 0 then 0 else (c.src32 f 1 f.b l).signExtend 64
  base + index * BitVec.ofNat 64 scale + f.offset

def Crew.ea (c : Crew) (f : Form) (l : Nat) : DWord := c.eaScaled f (memScale f) l

/-- The address of an access made once per crew: no index (R58, R71). -/
def Crew.eaUniform (c : Crew) (f : Form) : DWord := (if f.a = .zero then 0 else c.uni f 2 f.a) + f.offset

/-! ### Checks before any effect (R31, R120) -/

/-- An operation that still owes its values to the live context. -/
def Op.awaited (o : Op) : Bool := !o.done && !o.frozen

def Crew.vAwaits (c : Crew) (n : Nat) : Bool :=
  c.ops.any (fun o => o.awaited && match o.vreg with
    | some r => decide (r ≤ n) && decide (n < r + o.vvals.length)
    | none => false)

def Crew.kAwaits (c : Crew) (n : Nat) : Bool := c.ops.any (fun o => o.awaited && o.kreg == some n)

/-- Whether a source, or one of the registers it reads, awaits a value (R31, R152). -/
def Crew.srcAwaits (c : Crew) (u : Use) (o : Operand) : Bool :=
  u.taken o && match o.src with
  | .v n => (List.range u.regs).any (fun j => c.vAwaits (n.toNat + j))
  | .h a => (c.hget a.toNat).pend.isSome
  | .k n => (List.range u.uniRegs).any (fun j => c.kAwaits (n.toNat + j))
  | .imm _ => false

def Crew.dstAwaits (c : Crew) (u : DstUse) (f : Form) : Bool :=
  f.nd && match u with
  | .v n => (List.range n).any (fun j => c.vAwaits (f.dst.toNat + j))
  | .k _ => c.kAwaits f.dst.toNat
  | _ => false

/-- The lowest register at or above R of a run of named registers (R267). -/
def boundsOf (nreg n cnt : Nat) : Option Nat := if nreg < n + cnt then some (max n nreg) else none

def Crew.srcBounds (c : Crew) (u : Use) (o : Operand) : Option Nat :=
  if u.taken o then
    match o.src with
    | .v n => boundsOf c.nreg n.toNat u.regs
    | _ => none
  else none

def mkCause (code sub : Nat) (info : DWord) : Cause := ⟨code, sub, info, none, 0, 0⟩

def causePending : Cause := mkCause 3 0 0
def causeBounds (n : Nat) : Cause := mkCause 6 0 (BitVec.ofNat 64 n)

/-- Pending operand of an instruction (R31). -/
def Crew.pendingFault (c : Crew) (d : Desc) (f : Form) : Option Cause :=
  if c.srcAwaits d.a f.a || c.srcAwaits d.b f.b || c.srcAwaits d.c f.c || c.dstAwaits d.dst f then some causePending
  else none

/-- Register bounds of an instruction's sources and destination (R120). -/
def Crew.boundsFault (c : Crew) (d : Desc) (f : Form) : Option Cause :=
  match c.srcBounds d.a f.a, c.srcBounds d.b f.b, c.srcBounds d.c f.c with
  | some n, _, _ => some (causeBounds n)
  | _, some n, _ => some (causeBounds n)
  | _, _, some n => some (causeBounds n)
  | _, _, _ =>
    if f.nd then
      match d.dst with
      | .v n => (boundsOf c.nreg f.dst.toNat n).map causeBounds
      | _ => none
    else none

/-- The misaligned access of the lowest active lane (R75), where its address can be had: its index is within bounds. -/
def Crew.alignFault (c : Crew) (d : Desc) (f : Form) : Option Cause :=
  match d.acc, c.lanes with
  | some (scale, n), l :: _ =>
    let ea := c.eaScaled f scale l
    if (c.srcBounds d.b f.b).isNone && ea.toNat % n != 0 then some (mkCause 4 0 ea) else none
  | _, _ => none

/-- What stands before every effect of a word: pending operands, then register bounds (R120), in the order of R75, which has a
misaligned access first. DESIGN CHOICE (assumption 86): a named register at or above R traps in `lea` and `pref` too, which R58
and R73 say never trap after decode; and with no active lane. -/
def Crew.preFault (c : Crew) (d : Desc) (f : Form) : Option Cause :=
  match c.pendingFault d f, c.boundsFault d f with
  | some x, _ => some x
  | none, some x => some ((c.alignFault d f).getD x)
  | none, none => none

/-! ### In-flight counters and flags (R30, R65, R121) -/

def Crew.count (c : Crew) (p : Path) : Nat := (c.ops.filter (fun o => o.path = p && !o.frozen)).length

def Crew.flagSet (c : Crew) (n : Nat) : Bool := c.ops.any (fun o => o.awaited && o.flag == n)

/-- Most operations outstanding on a path (R121). -/
def Path.limit : Path → Nat
  | .ld => 64 | .st => 64 | .sl => 32 | .rm => 64 | .tn => 16 | .none => 4096

/-- The flag an instruction's fs selects, 15 for none (R30). -/
def Crew.flagOf (c : Crew) (f : Form) : Nat := if f.fs then c.fb else c.fa

/-- Some flag of the clause's wait mask is set (R28). -/
def Crew.clauseWaits (c : Crew) : Bool := (List.range 12).any (fun n => c.wm.getLsbD n && c.flagSet n)

end Sys2Proof.Machine
end

