-- ==== Sys2Proof/Machine/Addr.lean ====
section
/-! DEFINITION. Parts of the state by number, address translation (21 R302-R305) and the checks of an access (03 R75). -/

namespace Sys2Proof.Machine

/-! ### Parts by number -/

/-- Cores are numbered island × 256 + place: places 0 to 159 in benches of four and zones of forty, 160 to 167 the spare
benches of two, one per zone (01 R15). -/
def coreIsl (ck : Nat) : Nat := ck / 256
def coreZone (ck : Nat) : Nat := let p := ck % 256; if p < 160 then p / 40 else (p - 160) / 2
def coreBench (ck : Nat) : Nat := let p := ck % 256; if p < 160 then p / 4 else 40 + (p - 160) / 2
def coreSpare (ck : Nat) : Bool := decide (160 ≤ ck % 256)

/-- A core: one that nothing has changed is fresh, and a spare one is disabled unless the token enables it (R15, R408). -/
def State.core (s : State) (ck : Nat) : Core :=
  match pfind s.cores ck with
  | some c => c
  | none =>
    if coreSpare ck && !s.boot.spares.getLsbD (coreZone ck) then { Core.fresh with service := .spare, counted := false } else Core.fresh

def State.setCore (s : State) (ck : Nat) (c : Core) : State := { s with cores := pput s.cores ck c }
def State.modCore (s : State) (ck : Nat) (f : Core → Core) : State := s.setCore ck (f (s.core ck))

def State.isl (s : State) (i : Nat) : Island := pget Island.fresh s.isls i
def State.setIsl (s : State) (i : Nat) (x : Island) : State := { s with isls := pput s.isls i x }
def State.modIsl (s : State) (i : Nat) (f : Island → Island) : State := s.setIsl i (f (s.isl i))

def State.setCrew (s : State) (id : Nat) (c : Crew) : State := { s with crews := pput s.crews id c }
def State.modCrew (s : State) (id : Nat) (f : Crew → Crew) : State := { s with crews := pmod s.crews id f }
def State.setTeam (s : State) (id : Nat) (t : Team) : State := { s with teams := pput s.teams id t }
def State.modTeam (s : State) (id : Nat) (f : Team → Team) : State := { s with teams := pmod s.teams id f }
def State.modLaunch (s : State) (n : Nat) (f : Launch → Launch) : State := { s with launches := pmod s.launches n f }

/-- Number of populated sites: islands 0 to P − 1 (R11, R12). -/
def State.islands (s : State) : Nat := s.fuses.sites.length

/-- Panel time as an island sees it (R310). -/
def State.islTime (s : State) (i : Nat) : DWord := BitVec.ofInt 64 (max 0 ((s.time.toNat : Int) + (s.isl i).offset))

/-! ### One address space for all memories

Byte addresses of an island: HBM4E frames below 2^52, the LPDDR6 tier from 2^52, lines of CXL windows from 2^54 and
context memory from 2^58 (assumption 15). Host memory of port p is island 64 + p. -/

def lpddrBase : Nat := 2 ^ 52
def cxlBase : Nat := 2 ^ 54
def ctxBase : Nat := 2 ^ 58

def isCxl (la : Nat) : Bool := decide (cxlBase ≤ la) && decide (la < ctxBase)

/-- The port of the CXL window that holds a host physical address; port 0 where none is declared (assumption 19). -/
def cxlPort : List (Nat × Nat × Nat) → Nat → Nat
  | [], _ => 0
  | (p, b, n) :: ws, a => if b ≤ a ∧ a < b + n then p else cxlPort ws a

/-- The home byte of an island's address (R248). -/
def State.homeKey (s : State) (i la : Nat) : Nat :=
  if isCxl la then (64 + cxlPort s.cxl (la - cxlBase)) * 2 ^ 64 + (la - cxlBase) else i * 2 ^ 64 + la

def hostKey (port a : Nat) : Nat := (64 + port) * 2 ^ 64 + a

def State.homeRead (s : State) (i la n : Nat) : List Byte := s.mem.readBytes (s.homeKey i la) n
def State.homeWrite (s : State) (i la : Nat) (bs : List Byte) : State :=
  { s with mem := s.mem.writeBytes (s.homeKey i la) bs }

/-! ### Page tables (R302, R303) -/

/-- Lowest bit that a level indexes, and how many bits. -/
def levelBits : Nat → Nat × Nat
  | 4 => (45, 12)
  | 3 => (35, 10)
  | 2 => (30, 5)
  | 1 => (21, 9)
  | _ => (16, 5)

/-- Malformed entries (R303). -/
def malformed (e : Nat) : Bool :=
  let mt := e / 64 % 4
  (e.testBit 5 && mt != 0) || mt == 3 || (e.testBit 4 && mt != 2) || decide (2 ^ 52 ≤ e)

/-- Walks the tables from a level down (R302). -/
def State.walk (s : State) (i : Nat) : Nat → Nat → Nat → Option Tlb
  | level, table, va =>
    let (lo, w) := levelBits level
    let e := leNat (s.mem.readBytes (s.homeKey i (table + 8 * (va / 2 ^ lo % 2 ^ w))) 8)
    if !e.testBit 0 || malformed e then none
    else if e.testBit 1 then (if level = 4 then none else some ⟨lo, BitVec.ofNat 64 e⟩)
    else
      match level with
      | 0 => none
      | n + 1 => s.walk i n (e % 2 ^ 52 / 256 * 256) va

/-- The table that an entry leads to (R303). -/
def tableOf (e : Nat) : Nat := e % 2 ^ 52 / 256 * 256

/-- Key of a cached table entry: ASID, level and place in its tree (R304). -/
def upperKey (asid level va : Nat) : Nat := (asid * 8 + level) * 2 ^ 41 + va / 2 ^ (levelBits level).1

/-- A walk that starts below the lowest entry that the shared cache holds (R304). -/
def State.walkVa (s : State) (i asid va : Nat) : Option Tlb :=
  let held (level : Nat) : Option DWord := pfind (s.isl i).upper (upperKey asid level va)
  match held 2, held 3, held 4 with
  | some e, _, _ => s.walk i 1 (tableOf e.toNat) va
  | none, some e, _ => s.walk i 2 (tableOf e.toNat) va
  | none, none, some e => s.walk i 3 (tableOf e.toNat) va
  | none, none, none => s.walk i 4 (pget 0 (s.isl i).roots asid) va

/-- Page sizes in bits (R302). -/
def pageSizes : List Nat := [16, 21, 30, 35]

/-- Key of a translation: ASID, page size and page (R304). -/
def tlbKey (asid bits va : Nat) : Nat := (asid * 64 + bits) * 2 ^ 41 + va / 2 ^ bits

/-- The translation that a TLB holds for an address, of any page size (R304). -/
def tlbFind (tlb : PMap Tlb) (asid va : Nat) : Option Tlb := pageSizes.findSome? (fun b => pfind tlb (tlbKey asid b va))

/-- Translates, from a TLB where it holds the page (R304). -/
def State.leaf (s : State) (i : Nat) (tlb : PMap Tlb) (asid va : Nat) : Option Tlb :=
  match tlbFind tlb asid va with
  | some t => some t
  | none => s.walkVa i asid va

/-- The table entries of levels 4 to 2 on the way to an address, from a level and its table down. -/
def State.upperPath (s : State) (i asid va : Nat) : Nat → Nat → List (Nat × DWord)
  | 0, _ => []
  | n + 1, table =>
    let level := n + 2
    let (lo, w) := levelBits level
    let e := leNat (s.mem.readBytes (s.homeKey i (table + 8 * (va / 2 ^ lo % 2 ^ w))) 8)
    if !e.testBit 0 || malformed e || e.testBit 1 then []
    else (upperKey asid level va, BitVec.ofNat 64 e) :: s.upperPath i asid va n (tableOf e)

/-- Adds an entry to a bounded map: a full one gives up its first (assumption 20). -/
def pfill {β : Type} (cap : Nat) (m : PMap β) (k : Nat) (v : β) : PMap β :=
  pput (if decide (cap ≤ m.length) && (pfind m k).isNone then m.tail else m) k v

/-- Adds an entry to a cache of `sets` sets by the low bits of the key: a set whose ways are all taken gives up its first
(assumption 20). -/
def wfill {β : Type} (sets ways : Nat) (m : PMap β) (k : Nat) (v : β) : PMap β :=
  let same := m.filter (fun e => e.1 % sets == k % sets)
  pput (if decide (ways ≤ same.length) && (pfind m k).isNone then (match same with
    | [] => m
    | e :: _ => pdel m e.1) else m) k v

/-- The shared cache takes the table entries of a walk (R304). -/
def State.fillUpper (s : State) (i asid va : Nat) : State :=
  s.modIsl i (fun x => { x with upper :=
    (s.upperPath i asid va 3 (pget 0 x.roots asid)).foldl (fun m e => pfill 64 m e.1 e.2) x.upper })

/-- A place in memory: the island's byte address and whether its page is atomic-home (R223). -/
structure Loc where
  la : Nat
  ah : Bool
  deriving DecidableEq, Repr

/-- Leaf fields (R303). -/
def Tlb.mt (t : Tlb) : Nat := t.entry.toNat / 64 % 4
/-- The byte that a leaf names. DESIGN CHOICE (assumption 80): a frame at or above the 512 GiB of its memory names memory as
any other, for each of the 52 bits of an address. -/
def Tlb.loc (t : Tlb) (va : Nat) : Loc :=
  let pa := t.entry.toNat % 2 ^ 52 / 2 ^ t.bits * 2 ^ t.bits + va % 2 ^ t.bits
  ⟨if t.mt = 1 then lpddrBase + pa else if t.mt = 2 then cxlBase + pa else pa, t.entry.getLsbD 5⟩

/-! ### Checks of an access (R75, R305) -/

/-- What an access needs. -/
inductive Acc
  | read | write | both | fetch
  deriving DecidableEq, Repr

def Acc.inRange (k : Acc) (r : Range) : Bool :=
  match k with
  | .read => r.r
  | .fetch => r.r
  | .write => r.w
  | .both => r.r && r.w

def Acc.onPage (k : Acc) (t : Tlb) : Bool :=
  match k with
  | .read => true
  | .fetch => t.entry.getLsbD 2
  | _ => t.entry.getLsbD 3

def Range.has (r : Range) (va n : Nat) : Bool := decide (r.base ≤ va) && decide (va + n ≤ r.base + r.len)

/-- The declared-range step of R305: address bits, then the ranges. -/
def rangeFault (ranges : List Range) (k : Acc) (va n : Nat) : Option Cause :=
  if 2 ^ 57 ≤ va then some (mkCause 7 0 (BitVec.ofNat 64 va))
  else if ranges.any (fun r => r.has va n && k.inRange r) then none
  else if ranges.any (fun r => r.has va n) then some (mkCause 7 1 (BitVec.ofNat 64 va))
  else some (mkCause 8 0 (BitVec.ofNat 64 va))

/-- Whether a launch's lease is void (R311). -/
def State.leaseVoid (s : State) (l : Launch) : Bool :=
  match l.lease with
  | some n =>
    match pfind s.leases n with
    | some x => x.void
    | none => false
  | none => false

/-- Ranges, page entry and lease of one access (R305, R311). DESIGN CHOICE (assumption 92): a page without a valid leaf, which
R305 does not list, denies the access with sub-cause 2; under a void lease it is what the void lease left, and the access raises
lease lost. -/
def State.checkPlain (s : State) (l : Launch) (tlb : PMap Tlb) (k : Acc) (va n : Nat) : Except Cause Loc :=
  match rangeFault l.ranges k va n with
  | some c => .error c
  | none =>
    match s.leaf l.isl tlb l.asid va with
    | none => .error (if s.leaseVoid l then mkCause 9 0 (BitVec.ofNat 64 va) else mkCause 7 2 (BitVec.ofNat 64 va))
    | some t =>
      if !k.onPage t then .error (mkCause 7 2 (BitVec.ofNat 64 va))
      else if s.leaseVoid l then .error (mkCause 9 0 (BitVec.ofNat 64 va))
      else .ok (t.loc va)

/-- Checks one access of a launch and finds its place (R305): `slot` is the trap slot that the crew may use (R269). -/
def State.checkAccess (s : State) (l : Launch) (tlb : PMap Tlb) (slot : Option Range) (k : Acc) (va n : Nat) :
    Except Cause Loc :=
  match slot with
  | some r => if r.has va n then .ok ⟨ctxBase + va, false⟩ else s.checkPlain l tlb k va n
  | none => s.checkPlain l tlb k va n

end Sys2Proof.Machine
end

