-- ==== Sys2Proof/Machine/Cache.lean ====
section
/-! DEFINITION. The L1 caches and the lazy-release mechanism (17 R248-R263): fills, write-backs, ownership, release
records, surrenders, generation numbers and eager releases. -/

namespace Sys2Proof.Machine

/-- Lines an L1 holds (01 R16): 256 KiB of 64 bytes. -/
def l1Capacity : Nat := 4096

def Core.genOf (c : Core) (cxl : Bool) : BitVec 4 := if cxl then c.gS else c.gI

/-- The dirty bytes of a line laid over other bytes. -/
def overlay (dirty : BitVec 64) (own other : List Byte) : List Byte :=
  (List.range 64).map (fun j => if dirty.getLsbD j then own.getD j 0 else other.getD j 0)

/-- Writes the masked bytes of a line at the home, as one unit (R260). -/
def maskedWrite (m : Memory) (a : Nat) (dirty : BitVec 64) (bytes : List Byte) : Memory :=
  (List.range 64).foldl (fun m j => if dirty.getLsbD j then m.write (a + j) (bytes.getD j 0) else m) m

/-- Writes a line of a core back in full: it becomes clean and loses its mark (R249). -/
def State.putBack (s : State) (ck li : Nat) : State :=
  match pfind (s.core ck).lines li with
  | none => s
  | some ln =>
    let key := s.homeKey (coreIsl ck) (64 * li)
    let s1 := { s with mem := maskedWrite s.mem key ln.dirty ln.bytes }
    s1.modCore ck (fun c => { c with lines := pput c.lines li { ln with dirty := 0, mark := none } })

/-- A write-back reaches a line that another core owns (R223, R262): the owner's dirty bytes are at the home before it, and
its copy follows (assumption 72). -/
def State.followBack (s : State) (ck li p : Nat) : State :=
  match pfind (s.core ck).lines li with
  | none => s
  | some ln => ((s.putBack p li).putBack ck li).modCore p (fun c => { c with lines := pmod c.lines li (fun o =>
      { o with bytes := overlay ln.dirty ln.bytes o.bytes }) })

/-- Writes a line of a core back (R249). -/
def State.writeBack (s : State) (ck li : Nat) : State :=
  match pfind (s.isl (coreIsl ck)).excl li with
  | some p => if p = ck then s.putBack ck li else s.followBack ck li p
  | none => s.putBack ck li

def dirtyLines (c : Core) (p : Line → Bool) : List Nat :=
  (c.lines.filter (fun e => e.2.dirty != 0 && p e.2)).map (·.1)

def State.writeBackAll (s : State) (ck : Nat) : List Nat → State
  | [] => s
  | li :: lis => (s.writeBack ck li).writeBackAll ck lis

/-- An eager release (R257): the whole dirty set, CXL bytes at system scope only. `count` says whether `wbln` counts it
(R241: surrender, `fence.sc`, `round`, `trig`). -/
def State.eagerRelease (s : State) (ck : Nat) (sys count : Bool) : State :=
  let lis := dirtyLines (s.core ck) (fun l => sys || !l.cxl)
  let s1 := s.writeBackAll ck lis
  if count then s1.modCore ck (fun c => { c with wbln := c.wbln + BitVec.ofNat 64 lis.length }) else s1

/-- Records a release at the home of a line (R253 step 3 without the surrender of another core). -/
def State.putRecord (s : State) (i li ck : Nat) (n : Word) : State :=
  s.modIsl i (fun x => { x with rel := pput x.rel li (ck, n) })

def State.clearRecord (s : State) (i li : Nat) : State := s.modIsl i (fun x => { x with rel := pdel x.rel li })

/-- A core answers a surrender for a sequence (R254): it writes back every dirty line marked with it or earlier. A lost
or gated core has nothing marked (R258, R322). -/
def State.surrender (s : State) (p : Nat) (n : Word) : State :=
  let lis := dirtyLines (s.core p) (fun l => match l.mark with
    | some m => decide (m.toNat ≤ n.toNat)
    | none => false)
  let s1 := s.writeBackAll p lis
  match (s.core p).service with
  | .lost => s1
  | .gated => s1
  | _ => s1.modCore p (fun c => { c with surra := c.surra + 1, wbln := c.wbln + BitVec.ofNat 64 lis.length })

/-- A release reaches the home (R253 step 3): another core's release is surrendered first. -/
def State.recordRelease (s : State) (ck li : Nat) (n : Word) : State :=
  let i := coreIsl ck
  let s1 := match pfind (s.isl i).rel li with
    | some (q, m) => if q = ck then s else s.surrender q m
    | none => s
  s1.putRecord i li ck n

/-- Recalls exclusive ownership of a line (R223, R224): the owner's dirty bytes reach the home, and a bench-scope release
still in its L1 is recorded. -/
def State.recall (s : State) (i li : Nat) : State :=
  match pfind (s.isl i).excl li with
  | none => s
  | some q =>
    let s1 := s.writeBack q li
    let s2 := match pfind (s1.core q).lines li with
      | some ln =>
        let s' := s1.modCore q (fun c =>
          { c with lines := pput c.lines li { ln with excl := false, other := false, bench := none } })
        match ln.bench with
        | some n => s'.recordRelease q li n
        | none => s'
      | none => s1
    s2.modIsl i (fun x => { x with excl := pdel x.excl li })

/-- Drops a line: its dirty bytes are written back first, and ownership is returned (R248, R258). -/
def State.dropLine (s : State) (ck li : Nat) : State :=
  let s1 := match pfind (s.isl (coreIsl ck)).excl li with
    | some q => if q = ck then s.recall (coreIsl ck) li else s
    | none => s
  (s1.writeBack ck li).modCore ck (fun c => { c with lines := pdel c.lines li })

/-- The line a full L1 evicts: the first but the one in use (assumption 20). -/
def victim (lines : PMap Line) (li : Nat) : Option Nat :=
  match lines.filter (fun e => e.1 != li) with
  | [] => none
  | e :: _ => some e.1

/-- Fills a line from its home, laying the core's dirty bytes over it (R255, R256). -/
def State.fill (s : State) (ck li : Nat) : State :=
  let i := coreIsl ck
  let cxl := isCxl (64 * li)
  let s0 :=
    if l1Capacity ≤ (s.core ck).lines.length && (pfind (s.core ck).lines li).isNone then
      match victim (s.core ck).lines li with
      | some v => s.dropLine ck v
      | none => s
    else s
  let home := s0.homeRead i (64 * li) 64
  s0.modCore ck (fun c =>
    let ln := match pfind c.lines li with
      | some ln => { ln with bytes := overlay ln.dirty ln.bytes home, stamp := some (c.genOf cxl) }
      | none => ⟨home, 0, cxl, some (c.genOf cxl), none, false, false, none⟩
    { c with lines := pput c.lines li ln })

/-- Bits off to off + n − 1 of a line's mask. -/
def lineBits (off n : Nat) : BitVec 64 := BitVec.ofNat 64 ((2 ^ n - 1) * 2 ^ off)

/-- Whether a line answers for some bytes without its home: all of them dirty, or the line not stale (R255, R256). -/
def lineServes (c : Core) (ln : Line) (off n : Nat) : Bool :=
  ln.stamp == some (c.genOf ln.cxl) || ln.dirty &&& lineBits off n == lineBits off n

/-- A line's 64 bytes: a shorter list ends in zeros. -/
def lineFull (old : List Byte) : List Byte := old ++ List.replicate (64 - old.length) 0

/-- Reads n bytes that lie in one line, through the L1 (R248). Atomic-home pages are read at the base die (R263). -/
def State.l1Load (s : State) (ck : Nat) (p : Loc) (n : Nat) : State × List Byte :=
  if p.ah then (s, s.homeRead (coreIsl ck) p.la n)
  else
    let li := p.la / 64
    let off := p.la % 64
    let s1 := match pfind (s.core ck).lines li with
      | some ln => if lineServes (s.core ck) ln off n then s else s.fill ck li
      | none => s.fill ck li
    match pfind (s1.core ck).lines li with
    | some ln => (s1, ((lineFull ln.bytes).drop off).take n)
    | none => (s1, [])

/-- A line's bytes with some replaced. -/
def putBytes (old : List Byte) (off : Nat) (bs : List Byte) : List Byte :=
  (lineFull old).take off ++ bs ++ (lineFull old).drop (off + bs.length)

/-- Writes bytes that lie in one line, in the L1 (R248, R249). On an atomic-home page they go to the base die (R263). -/
def State.l1Store (s : State) (ck : Nat) (p : Loc) (bs : List Byte) : State :=
  if p.ah then s.homeWrite (coreIsl ck) p.la bs
  else
    let li := p.la / 64
    let off := p.la % 64
    let s1 := if (pfind (s.core ck).lines li).isSome then s else s.fill ck li
    s1.modCore ck (fun c => { c with lines := pmod c.lines li (fun ln =>
      { ln with bytes := putBytes ln.bytes off bs, dirty := ln.dirty ||| lineBits off bs.length
                mark := if ln.dirty = 0 then none else ln.mark }) })

/-- Reads bytes that may cross lines, each part through the L1. -/
def State.l1LoadRun (s : State) (ck : Nat) : List Loc → State × List Byte
  | [] => (s, [])
  | p :: ps =>
    let (s1, b) := s.l1Load ck p 1
    let (s2, bs) := s1.l1LoadRun ck ps
    (s2, b ++ bs)

/-! ### Releases and acquires -/

/-- The next release sequence (R249); before the counter wraps, the core writes back its whole dirty set. -/
def State.nextSequence (s : State) (ck : Nat) : State × Word :=
  let s1 := if (s.core ck).relSeq = 0xFFFFFFFF then s.eagerRelease ck true false else s
  let n := (s1.core ck).relSeq + 1
  (s1.modCore ck (fun c => { c with relSeq := n }), n)

/-- Marks every open dirty line with a release's sequence (R249). -/
def State.markOpen (s : State) (ck : Nat) (n : Word) : State :=
  s.modCore ck (fun c => { c with lines := c.lines.map (fun e =>
    if e.2.dirty != 0 && e.2.mark.isNone then (e.1, { e.2 with mark := some n }) else e) })

/-- The sweep of a class (R255): every clean line goes, owned ones with their bench-scope release recorded, and what is
clean in a dirty line is stale for good. -/
def State.sweep (s : State) (ck : Nat) (cxl : Bool) : State :=
  let clean := ((s.core ck).lines.filter (fun e => e.2.cxl == cxl && e.2.dirty == 0)).map (·.1)
  (clean.foldl (fun s li => s.dropLine ck li) s).modCore ck (fun c => { c with lines := c.lines.map (fun e =>
    if e.2.cxl = cxl then (e.1, { e.2 with stamp := none }) else e) })

/-- Raises a generation number; from 15 to 0 the class is swept (R255). -/
def State.raiseNum (s : State) (ck : Nat) (cxl : Bool) : State :=
  let g := (s.core ck).genOf cxl + 1
  (if g = 0 then s.sweep ck cxl else s).modCore ck (fun c => if cxl then { c with gS := g } else { c with gI := g })

/-- Scopes (R222): 0 island, 1 core, 2 bench, 3 system, 4 crew. Raising of an acquire at a scope (R255). -/
def State.raiseGen (s : State) (ck scope : Nat) : State :=
  if scope = 0 ∨ scope = 2 then s.raiseNum ck false
  else if scope = 3 then (s.raiseNum ck false).raiseNum ck true
  else s

/-- How wide a scope is, for the wider of two (R231). -/
def scopeRank (scope : Nat) : Nat := match scope with
  | 4 => 0 | 1 => 1 | 2 => 2 | 0 => 3 | _ => 4

def widerScope (a b : Nat) : Nat := if scopeRank a < scopeRank b then b else a

/-- Takes exclusive ownership of a line (R223, R224, R262): it is recalled from another owner, every other core's dirty
bytes of the line are written back, and the grant carries the state of the record (R254). -/
def State.takeExclusive (s : State) (ck li : Nat) : State :=
  let i := coreIsl ck
  if pfind (s.isl i).excl li = some ck then s
  else
    let s1 := s.recall i li
    let others := (s1.cores.filter (fun e => coreIsl e.1 == i && e.1 != ck && match pfind e.2.lines li with
      | some ln => ln.dirty != 0
      | none => false)).map (·.1)
    let s2 := others.foldl (fun s q => s.writeBack q li) s1
    let s3 := s2.fill ck li
    let other := match pfind (s3.isl i).rel li with
      | some (q, _) => q != ck
      | none => false
    (s3.modIsl i (fun x => { x with excl := pput x.excl li ck })).modCore ck (fun c =>
      { c with lines := pmod c.lines li (fun ln => { ln with excl := true, other := other }) })

/-- The record of a line at an acquire (R254): another core's release is surrendered and the record cleared. Whether a
surrender was needed comes with the state. -/
def State.acquireLine (s : State) (ck li : Nat) : State × Bool :=
  let i := coreIsl ck
  match pfind (s.isl i).rel li with
  | some (q, n) => if q = ck then (s, false) else ((s.surrender q n).clearRecord i li, true)
  | none => (s, false)

/-- The lines an acquire reads, one after another; at bench scope a line that the core owns asks for it by its mark alone
(R254). -/
def State.acquireLines (s : State) (ck scope : Nat) : List Nat → State × Bool
  | [] => (s, false)
  | li :: lis =>
    let needs := scope != 2 || match pfind (s.core ck).lines li with
      | some ln => ln.other || !ln.excl
      | none => true
    let (s1, b) := if needs then s.acquireLine ck li else (s, false)
    let s2 := if scope = 2 then s1.modCore ck (fun c =>
      { c with lines := pmod c.lines li (fun ln => { ln with other := false }) }) else s1
    let (s3, b') := s2.acquireLines ck scope lis
    (s3, b || b')

/-- The end of an acquire at a scope (R227, R241): its counter, and the generation numbers. -/
def State.acquireEnd (s : State) (ck scope : Nat) (b : Bool) : State :=
  if scope = 1 ∨ scope = 4 then s
  else
    (s.modCore ck (fun c => if b then { c with acqs := c.acqs + 1 } else { c with acqf := c.acqf + 1 })).raiseGen ck scope

/-- The records of the lines that an acquire reads (R254); core and crew scope look at none. -/
def State.acquireRecords (s : State) (ck scope : Nat) (lis : List Nat) : State × Bool :=
  if scope = 1 ∨ scope = 4 then (s, false) else s.acquireLines ck scope lis

/-- The start of a release at a scope (R226, R253 step 1): its sequence, and the marks. A release on a CXL word at
system scope writes back the core's CXL bytes first (R253). -/
def State.releaseStart (s : State) (ck scope : Nat) (cxl : Bool) : State × Word :=
  if scope = 1 ∨ scope = 4 then (s, 0)
  else
    let (s1, n) := s.nextSequence ck
    let s2 := if cxl && scope == 3 then
      s1.writeBackAll ck (dirtyLines (s1.core ck) (fun l => l.cxl)) else s1
    (s2.markOpen ck n, n)

/-- The place of a synchronisation access (R223): in the L1, or at the home. -/
def atHome (p : Loc) (scope : Nat) : Bool := p.ah || isCxl p.la || scope == 0 || scope == 3

/-- Makes a line ready for an access of this group (R223, R224): ownership in the L1 at core scope for read-modify-writes
and at bench scope, else recall and the core's own write-back before the home is used. -/
def State.syncPrepare (s : State) (ck : Nat) (p : Loc) (scope : Nat) (rmw : Bool) : State :=
  let li := p.la / 64
  if p.ah then s
  else if atHome p scope then (s.recall (coreIsl ck) li).writeBack ck li
  else if rmw || scope == 2 then s.takeExclusive ck li
  else s

/-- Reads a word at the place of R223. -/
def State.syncLoad (s : State) (ck : Nat) (p : Loc) (scope n : Nat) : State × List Byte :=
  if atHome p scope then (s, s.homeRead (coreIsl ck) p.la n) else s.l1Load ck p n

/-- Writes a word at the place of R223. A copy of the line that the core keeps follows (R70). -/
def State.syncStore (s : State) (ck : Nat) (p : Loc) (scope : Nat) (bs : List Byte) : State :=
  if atHome p scope then
    let s1 := s.homeWrite (coreIsl ck) p.la bs
    if p.ah then s1
    else s1.modCore ck (fun c => { c with lines := pmod c.lines (p.la / 64) (fun ln =>
      { ln with bytes := putBytes ln.bytes (p.la % 64) bs }) })
  else s.l1Store ck p bs

/-- A release recorded for a line at its scope (R223, R253): at bench scope in the owned line, else at the home, that of an
atomic-home page being the base die (R263). -/
def State.releaseLine (s : State) (ck scope : Nat) (n : Word) (li : Nat) : State :=
  if scope = 1 ∨ scope = 4 then s
  else if scope = 2 && pfind (s.isl (coreIsl ck)).excl li = some ck then
    s.modCore ck (fun c => { c with lines := pmod c.lines li (fun ln => { ln with bench := some n }) })
  else s.recordRelease ck li n

def State.releaseLines (s : State) (ck scope : Nat) (n : Word) : List Nat → State
  | [] => s
  | li :: lis => (s.releaseLine ck scope n li).releaseLines ck scope n lis

end Sys2Proof.Machine
end

