-- ==== Sys2Proof/Machine/Ops.lean ====
section
/-! DEFINITION. The named operations of a crew: outstanding operations and their completion (02 R30, 03 R65), the walk
through clauses (02 R29), lane accesses to memory and slab (03 R66-R75), taking a trap and returning from it (18
R267-R275), and the frame that every meaning of a word runs in. -/

namespace Sys2Proof.Machine

/-! ### Launch and team of a crew -/

def blankLaunch : Launch :=
  { port := 0, vf := 0, irq := false, tis := false, object := 0, isl := 0, asid := 0, entry := 0, param := 0, hen := 0
    hidx := [], htab := 0, pre := 0, slab := 0, nreg := 32, prod := 0, ncrew := 1, ranges := [], nteam := 1, gsz := 0
    grd := false, hold := none, held := false, deps := [], counterAt := 0, counter := 0, job := 0, phase := 0
    replay := none, queue := none, st := 0, code := 0, aux := 0, handler := 0, lcores := 0, staged := false
    lease := none, gangs := [], ended := [], trigTeams := [], fatal := none, cores := [], finalDue := false
    endAt := none }

def blankTeam : Team :=
  { isl := 0, core := 0, launch := 0, num := 0, gang := 0, tw := 0, slab := 0, tag := 0, win := [], bars := [], tn := []
    prod := 0, roundNo := 0, parts := [], phase := 0, roundBars := [], trigged := false, forkM := false, forkC := false
    fatal := none, prior := [] }

def State.team (s : State) (t : Nat) : Team := pget blankTeam s.teams t
def State.launch (s : State) (n : Nat) : Launch := pget blankLaunch s.launches n
def State.launchOf (s : State) (c : Crew) : Launch := s.launch (s.team c.team).launch

/-- Live crews of a team. -/
def State.crewsOf (s : State) (t : Nat) : PMap Crew := s.crews.filter (fun e => e.2.team == t)

/-- Teams of one gang. -/
def State.gangTeams (s : State) (launch gang : Nat) : PMap Team :=
  s.teams.filter (fun e => e.2.launch == launch && e.2.gang == gang)

/-- Panel-wide function number: port × 64 + VF. -/
def Launch.fn (l : Launch) : Nat := l.port * 64 + l.vf

/-! ### Outstanding operations (R30, R65, R220) -/

def blankOp : Op :=
  { id := 0, path := .none, flag := 15, done := false, mask := 0, vreg := none, vvals := [], kreg := none, kval := 0
    hvals := none, ott := 0, frozen := false, age := 0, held := false, after := [], hn := none, hrec := none }

/-- Removes the oldest operations of a path that are done (R65): a counter falls in issue order. The saved context counts by
itself (R273). -/
def popDone : List Op → List (Path × Bool) → List Op
  | [], _ => []
  | o :: os, blocked =>
    if o.done && (o.path = .none || !blocked.contains (o.path, o.frozen)) then popDone os blocked
    else o :: popDone os ((o.path, o.frozen) :: blocked)

/-- Entries of the core's table in use (R220): of the shared ones, and of one quarter's. -/
def State.ottUsed (s : State) (ck kind : Nat) (quarter : Option Nat) : Nat :=
  (s.crews.map (fun e =>
    if e.2.core = ck && (match quarter with
      | some q => e.2.quarter == q
      | none => true)
    then (e.2.ops.filter (fun o => o.ott = kind && !o.done)).length else 0)).sum

/-- The entry an operation takes (R220): shared where one is free, else one of its quarter's, else none. -/
def State.ottPick (s : State) (c : Crew) : Option Nat :=
  if s.ottUsed c.core 1 none < 224 then some 1
  else if s.ottUsed c.core 2 (some c.quarter) < 8 then some 2
  else none

/-- An operation of a crew that has no entry takes one where there is one (R220). -/
def State.giveEntry (s : State) (crew op : Nat) : State :=
  match pfind s.crews crew with
  | none => s
  | some c =>
    match if c.ops.any (fun o => o.id == op && o.ott == 0) then s.ottPick c else none with
    | none => s
    | some k => s.setCrew crew { c with ops := c.ops.map (fun o => if o.id = op && o.ott = 0 then { o with ott := k } else o) }

/-- Whether an operation must wait at issue (R121, R220). -/
def State.issueWaits (s : State) (c : Crew) (p : Path) (needsOtt : Bool) : Bool :=
  decide (p.limit ≤ c.count p) || (needsOtt && (s.ottPick c).isNone)

/-- Adds an operation to a crew. -/
def Crew.addOp (c : Crew) (o : Op) : Crew := { c with ops := c.ops ++ [o] }

/-- The values of an operation reach the live context (R30, R118). -/
def Crew.land (c : Crew) (o : Op) : Crew :=
  let c1 := match o.vreg with
    | none => c
    | some r => (o.vvals.zip (List.range o.vvals.length)).foldl (fun c (x, j) =>
        let old := c.vget (r + j)
        c.vset (r + j) (lanesBy (fun l => if o.mask.getLsbD l then laneOf x l else laneOf old l))) c
  let c2 := match o.kreg with
    | none => c1
    | some n => c1.kset n o.kval
  match o.hvals with
  | none => c2
  | some x => { c2 with hist := c2.hist.map (fun h => if h.pend = some o.id then ⟨x, none⟩ else h) }

/-- Bytes of lanes, each of `n` bytes. -/
def laneBytes {w : Nat} (n : Nat) (x : Lanes w) : List Byte :=
  ((List.range 32).map (fun l => leBytes n (laneOf x l).toNat)).flatten

/-- Marks an operation done and lets its counter fall (R65). -/
def Crew.finishOp (c : Crew) (id : Nat) : Crew :=
  { c with ops := popDone (c.ops.map (fun o => if o.id = id then { o with done := true, held := false } else o)) [] }

/-- Place of a path's counter in a slot (R270). -/
def Path.slotByte : Path → Nat
  | .ld => 0x64 | .st => 0x65 | .sl => 0x66 | .rm => 0x67 | _ => 0x68

/-- The core gives up its copies of a run of an island's bytes, dirty ones written back. -/
def State.flushRun (s : State) (ck la n : Nat) : State :=
  let lis := ((s.core ck).lines.filter (fun e => decide (la / 64 ≤ e.1) && decide (e.1 ≤ (la + n) / 64))).map (·.1)
  lis.foldl (fun s li => s.dropLine ck li) s

/-- Writes bytes of a crew's trap slot, whose copies the core gives up first (R273). -/
def State.slotPut (s : State) (c : Crew) (off : Nat) (bs : List Byte) : State :=
  let s1 := s.flushRun c.core (ctxBase + c.slot + off) bs.length
  { s1 with mem := s1.mem.writeBytes (s1.homeKey c.isl (ctxBase + c.slot) + off) bs }

/-- Clears bit b of the field of a slot that starts at a byte (R270). -/
def State.slotClear (s : State) (c : Crew) (off b : Nat) : State :=
  let s1 := s.flushRun c.core (ctxBase + c.slot + off + b / 8) 1
  let key := s1.homeKey c.isl (ctxBase + c.slot) + off + b / 8
  { s1 with mem := s1.mem.write key (s1.mem.read key &&& ~~~(1#8 <<< (b % 8))) }

/-- Writes the lanes of a mask in a named register of a slot. -/
def State.slotLanes (s : State) (c : Crew) (n : Nat) (mask : Word) (x : Lanes 32) : State :=
  ((List.range 32).filter (fun l => mask.getLsbD l)).foldl (fun s l =>
    s.slotPut c (0x1300 + 128 * n + 4 * l) (leBytes 4 (laneOf x l).toNat)) s

/-- An operation saved with the context completes (R273): its values reach the trap slot, where its flag count and its
counter fall and its awaiting bits are cleared. `c` is the crew with the operation finished. -/
def State.landSlot (s : State) (c : Crew) (o : Op) : State :=
  let s1 := match o.vreg with
    | some r => (o.vvals.zip (List.range o.vvals.length)).foldl (fun (s : State) (x, j) =>
        (s.slotLanes c (r + j) o.mask x).slotClear c 0x80 (r + j)) s
    | none => s
  let s2 := match o.kreg with
    | some n => (s1.slotPut c (0x100 + 8 * n) (leBytes 8 o.kval.toNat)).slotClear c 0xE0 n
    | none => s1
  let s3 := match o.hvals with
    | some x => if o.age = 0 then s2 else
        (s2.slotPut c (0x300 + 256 * (o.age - 1)) (laneBytes 8 x)).slotClear c 0x70 (o.age - 1)
    | none => s2
  let s4 := if o.flag < 12 then
      s3.slotPut c (0x58 + o.flag) [BitVec.ofNat 8 (c.ops.filter (fun x => x.frozen && !x.done && x.flag == o.flag)).length]
    else s3
  if o.path = .none then s4
  else s4.slotPut c o.path.slotByte [BitVec.ofNat 8 (c.ops.filter (fun x => x.frozen && x.path == o.path)).length]

/-- Every team of a launch has executed `trig` or exited (R383). -/
def Launch.triggered (l : Launch) : Bool :=
  (List.range l.nteam).all (fun t => l.trigTeams.contains t || l.ended.contains t)

/-- How a dependence stands: 0 not met, 1 met, 2 its predecessor ended cancelled or failed. -/
def State.depState (s : State) (d : Nat × Bool) : Nat :=
  let below := decide (d.1 + 65536 < s.nextSeq)
  match pfind s.launches d.1 with
  | some p =>
    if p.st = 2 && !p.finalDue then 1
    else if p.st = 3 || p.st = 4 then (if below then 1 else 2)
    else if d.2 && p.st = 1 && p.triggered then 1
    else 0
  | none =>
    match pfind s.replays d.1 with
    | some r => if r.st = 2 then 1 else if r.st = 3 || r.st = 4 then (if below then 1 else 2) else 0
    | none => 1

/-- Launches that wait leave the dependences that are met (R383): whatever the predecessor then becomes, they stay met. -/
def State.latchDeps (s : State) : State :=
  { s with launches := peach s.launches (fun _ l =>
    if l.st = 0 then { l with deps := l.deps.filter (fun d => s.depState d ≠ 1) } else l) }

/-- Some launch that is not final depends on a launch (R383). -/
def State.hasDependent (s : State) (n : Nat) : Bool :=
  s.launches.any (fun e => decide (e.2.st < 2) && e.2.deps.any (fun d => d.1 == n))

/-- A team has triggered once every live crew of it has triggered or exited (R238). -/
def State.checkTrig (s : State) (t : Nat) : State :=
  if (s.team t).trigged && (s.crewsOf t).all (fun e => e.2.trigDone || e.2.exiting) then
    (s.modLaunch (s.team t).launch (fun l =>
      if l.trigTeams.contains (s.team t).num then l else { l with trigTeams := (s.team t).num :: l.trigTeams })).latchDeps
  else s

/-- The release of a `trig`, and its mark (R238, R383): the slot shows a crew as triggered where the launch has a dependent by then
(assumption 41). -/
def State.trigNow (s : State) (crew : Nat) (c : Crew) : State :=
  let mark := s.hasDependent (s.team c.team).launch
  let s1 := (s.eagerRelease c.core (!(s.launchOf c).tis) true).modCrew crew (fun c =>
    { c with trigWait := none, trigDone := true, triggered := c.triggered || mark })
  (s1.modTeam c.team (fun t => { t with trigged := true })).checkTrig c.team

/-- A `trig` that waits no more takes effect (R238). -/
def State.settleTrig (s : State) (crew : Nat) : State :=
  match pfind s.crews crew with
  | none => s
  | some c =>
    match c.trigWait with
    | none => s
    | some ids => if c.ops.any (fun o => ids.contains o.id && !o.done) then s else s.trigNow crew c

/-- Completes an operation of a crew (R30, R65, R273), where nothing holds it back. -/
def State.completeOp (s : State) (crew id : Nat) : State :=
  match pfind s.crews crew with
  | none => s
  | some c =>
    match c.ops.find? (fun o => o.id = id && !o.done) with
    | none => s
    | some o =>
      if o.held || o.after.any (fun a => c.ops.any (fun x => x.id = a && !x.done)) then s
      else
        let s0 := match o.hn, o.hrec with
          | some n, some r => s.modTeam c.team (fun t => { t with tn := pset 0 t.tn n r })
          | _, _ => s
        let s1 := if o.frozen then (s0.landSlot (c.finishOp id) o).setCrew crew (c.finishOp id)
          else s0.setCrew crew ((c.land o).finishOp id)
        s1.settleTrig crew

/-- Completes every operation of a crew on the paths that a trap entry drains (R272), oldest first. -/
def State.drain (s : State) (crew : Nat) : List Op → State
  | [] => s
  | o :: os => (if o.path = .rm || o.frozen then s else s.completeOp crew o.id).drain crew os

/-- Operations that a trap entry must wait for are left: those of the four paths of R272; a copy job is none of them. -/
def Crew.undrained (c : Crew) : Bool := c.ops.any (fun o => o.path ≠ .rm && !(o.path = .none && o.held) && !o.frozen && !o.done)

/-- What held an operation back is over, and it completes. -/
def State.completeHeld (s : State) (crew id : Nat) : State :=
  (s.modCrew crew (fun c => { c with ops := c.ops.map (fun o => if o.id = id then { o with held := false } else o) })).completeOp crew id

/-! ### Clauses and control (R28, R29) -/

/-- The crew passes one instruction word. -/
def Crew.advance (c : Crew) (size : Nat) : Crew :=
  { c with pc := c.pc + BitVec.ofNat 64 size, idx := c.idx + 1, left := c.left - 1, wm := 0, stall := .none, yielded := false
           cw := none }

/-- Control goes to a clause header (R29). -/
def Crew.jump (c : Crew) (target : DWord) : Crew :=
  { c with pc := target, hdr := target, idx := 0, left := 0, wm := 0, stall := .none, yielded := false, cw := none }

/-- The target of a direct transfer (R61). -/
def directTarget (pc : DWord) (f : Form) : DWord := pc + f.offset * 4

/-- Reads code bytes of a launch at their homes or in the core's L1 copy: code is read like a load (R304, R248). -/
def State.fetchBytes (s : State) (c : Nat) (p : Loc) (n : Nat) : List Byte :=
  (s.l1Load c p n).2

/-- The kind of the word at an address (R24), for a target check; none where nothing may be fetched. -/
def State.wordKind (s : State) (ck : Nat) (l : Launch) (a : DWord) : Option Nat :=
  if a.toNat % 4 ≠ 0 then none
  else
    match s.checkPlain l (s.core ck).tlb .fetch a.toNat 4 with
    | .ok p => some (((s.fetchBytes ck p 4).headD 0).toNat % 4)
    | .error _ => none

/-- A transfer target that can be fetched and is no clause header: sub-cause 7 (R61, R39). A target outside the ranges
is fetched, and traps, after the transfer. DESIGN CHOICE (assumption 81): a target at block offset 28 whose low bits are 0b11
is no clause header, so it gives sub-cause 7 at the transfer and not sub-cause 0 at the fetch after it (R25). DESIGN CHOICE
(assumption 89): a target in a range that may not be fetched there traps at the fetch too, the transfer complete. -/
def State.targetFault (s : State) (ck : Nat) (l : Launch) (a : DWord) : Option Cause :=
  if a.toNat % 4 ≠ 0 then some (mkCause 1 7 a)
  else
    match s.wordKind ck l a with
    | some 3 => if 24 < a.toNat % 32 then some (mkCause 1 7 a) else none
    | some _ => some (mkCause 1 7 a)
    | none => none

/-! ### Traps (R267-R275) -/

/-- The cause word (R268). -/
def Cause.word (x : Cause) : DWord :=
  let low := x.code + 2 ^ 8 * x.sub + (match x.lane with
    | some l => 2 ^ 21 + 2 ^ 16 * l
    | none => 0) + 2 ^ 28 * x.org
  x.n ++ BitVec.ofNat 32 low

/-- Fatal causes (R267). -/
def Cause.fatal (x : Cause) : Bool :=
  x.code == 8 || x.code == 9 || x.code == 0x14 || x.code == 0x17 || (x.code == 0x13 && (x.sub == 8 || x.sub == 9))

def bits8 (n : Nat) (p : Nat → Bool) : List Byte :=
  leBytes n ((List.range (8 * n)).map (fun i => if p i then 2 ^ i else 0)).sum

/-- Bytes of the queued imprecise causes (R270). -/
def queueBytes (q : List Cause) : List Byte :=
  ((List.range 4).map (fun i => match q[i]? with
    | some x => leBytes 8 x.word.toNat ++ leBytes 8 x.info.toNat
    | none => List.replicate 16 0)).flatten

/-- Word 0x008 of a slot (R270). -/
def slotFlags (c : Crew) (idx : Nat) (handler : Bool) : Nat :=
  idx + (if handler then 2 ^ 8 else 0) + (if c.sect.isSome then 2 ^ 9 else 0) + (if c.triggered then 2 ^ 10 else 0)
    + (if c.exiting then 2 ^ 11 else 0)

/-- The bytes of a save slot (R270): resume point, handler mode, cause, address of the faulting word, information, then the
state. -/
def Crew.slotBytes (c : Crew) (hdr : DWord) (idx : Nat) (mode : Bool) (x : Cause) (fpc : DWord) : List Byte :=
  leBytes 8 hdr.toNat ++ leBytes 8 (slotFlags c idx mode) ++ leBytes 8 x.word.toNat ++ leBytes 8 fpc.toNat
  ++ leBytes 8 x.info.toNat ++ leBytes 8 c.em.toNat
  ++ ((List.range 8).map (fun n => leBytes 4 (c.mget n).toNat)).flatten ++ leBytes 8 c.fxs.toNat
  ++ (List.range 12).map (fun n => BitVec.ofNat 8 (c.ops.filter (fun o => !o.done && o.flag = n)).length)
  ++ [Path.ld, .st, .sl, .rm, .tn].map (fun p => BitVec.ofNat 8 (c.ops.filter (fun o => o.path = p)).length)
  ++ List.replicate 7 0 ++ bits8 2 (fun a => (c.hget a).pend.isSome) ++ List.replicate 6 0
  ++ leBytes 8 (c.sect.getD 0).toNat ++ bits8 32 c.vAwaits ++ queueBytes c.queued ++ bits8 8 c.kAwaits
  ++ List.replicate 24 0 ++ ((List.range 64).map (fun n => leBytes 8 (c.kget n).toNat)).flatten
  ++ ((List.range 16).map (fun a => laneBytes 8 (c.hget a).vals)).flatten
  ++ ((List.range c.nreg).map (fun n => laneBytes 4 (c.vget n))).flatten

def slotSize (nreg : Nat) : Nat := 0x1300 + 128 * nreg

/-- A queued cause as a slot holds it: the cause word and its information (R268, R270). -/
def causeOf (word info : Nat) : Cause :=
  { code := word % 2 ^ 8, sub := word / 2 ^ 8 % 2 ^ 8, info := BitVec.ofNat 64 info
    lane := if word.testBit 21 then some (word / 2 ^ 16 % 2 ^ 5) else none, n := BitVec.ofNat 32 (word / 2 ^ 32)
    org := word / 2 ^ 28 % 4 }

/-- The queue that 64 bytes of a slot hold: entries up to the first that is zero (R270). -/
def queueOf : Nat → List Byte → List Cause
  | 0, _ => []
  | n + 1, bs =>
    let w := leNat (bs.take 8)
    if w = 0 then [] else causeOf w (leNat ((bs.drop 8).take 8)) :: queueOf n (bs.drop 16)

/-- The queue of a crew's trap slot, as its own loads see it (R270, R271). -/
def State.slotQueue (s : State) (c : Crew) : List Cause :=
  let half (off : Nat) : List Byte := (s.l1Load c.core ⟨ctxBase + c.slot + off, false⟩ 32).2
  queueOf 4 (half 0xA0 ++ half 0xC0)

/-- A crew of a team that a fatal cause has ended: it issues nothing more, and its context stays until the team ends (R215).
Operations that stand for jobs which never start are gone. -/
def Crew.halt (c : Crew) (dropped : List Nat) : Crew :=
  { c with
    exiting := true, place := .left, stall := .none, trap := none, queued := [], sect := none, inRound := none
    trigWait := none, cw := none, yielded := false, ops := c.ops.filter (fun o => !dropped.contains o.id) }

/-- Ends a team by a fatal cause (R267): its crews stop, its sequencers stop, jobs not started are dropped. The team ends
by R215 once what has started is done. -/
def State.teamFatal (s : State) (t : Nat) (word : Word) : State :=
  let team := s.team t
  let s1 := s.modTeam t (fun x => { x with fatal := some (x.fatal.getD (word ||| 0x80000000)), phase := 0, parts := [] })
  let dropped := ((s.core team.core).jobs.filter (fun j => j.team == t && !j.started)).map (·.id)
  let s2 := { s1 with crews := peach s1.crews (fun _ c => if c.team = t then c.halt dropped else c) }
  let s3 := s2.modCore team.core (fun c =>
    let c1 := { c with jobs := c.jobs.filter (fun j => j.team != t || j.started)
                       owed := if c.owner = some t then [] else c.owed }
    if c.owner = some t then { c1 with ms := .idle, cs := .idle } else c1)
  s3.modLaunch team.launch (fun l => { l with fatal := some (l.fatal.getD (word ||| 0x80000000)) })

/-- Whether the handler address of a launch can be entered (R272). -/
def Launch.handlerOk (l : Launch) : Bool :=
  l.handler != 0 && l.handler.toNat % 32 == 0 && l.ranges.any (fun r => r.has l.handler.toNat 1 && r.r)

/-- The live context at the handler's entry (R272 steps 3 and 4): masks, flags, counters and `fxs` start afresh, and the
operations left on the `rm` path belong to the saved context. -/
def Crew.enterLive (c : Crew) (entry : DWord) : Crew :=
  let ages := c.hist.zip (List.range 16)
  let freeze (o : Op) : Op :=
    if o.frozen then o
    else { o with frozen := true, age := match ages.find? (fun e => e.1.pend = some o.id) with
      | some e => e.2 + 1
      | none => 0 }
  let live : Crew := { c with
    em := 0xFFFFFFFF, fxs := 0, handler := true, trap := none, ops := c.ops.map freeze
    hist := c.hist.map (fun h => { h with pend := none }) }
  live.jump entry

/-- The operations of a trap entry (R272), the drain behind it: the state goes to the trap slot, and the crew to its
handler. `skip` is 1 where the resume point is the instruction after (R267). -/
def State.enterTrap (s : State) (crew : Nat) (x : Cause) (skip : Nat) : State :=
  match pfind s.crews crew with
  | none => s
  | some c =>
    let l := s.launchOf c
    let s1 := s.flushRun c.core (ctxBase + c.slot) (slotSize c.nreg)
    let bytes := c.slotBytes c.hdr (c.idx + skip) true x c.pc
    let s2 := { s1 with mem := s1.mem.splice (s1.homeKey c.isl (ctxBase + c.slot)) bytes }
    s2.setCrew crew (c.enterLive l.handler)

/-- Takes a trap (R267, R272, R274): fatal causes end the team, a trap within the handler is a double fault, and else the
crew enters its handler, at once where nothing must be waited for. -/
def State.raiseTrap (s : State) (crew : Nat) (x : Cause) (skip : Nat) : State :=
  match pfind s.crews crew with
  | none => s
  | some c =>
    let l := s.launchOf c
    if x.fatal then s.teamFatal c.team (lowWord x.word)
    else if c.handler then
      s.teamFatal c.team (lowWord (Cause.word (mkCause 0x17 x.code 0)))
    else if !l.handlerOk then s.teamFatal c.team (lowWord x.word)
    else
      let s1 := s.drain crew c.ops
      match pfind s1.crews crew with
      | none => s1
      | some c1 =>
        if c1.undrained then s1.setCrew crew { c1 with trap := some x, idx := c1.idx + skip, stall := .none, yielded := false }
        else s1.enterTrap crew x skip

/-- Delivers an imprecise cause to a producer crew (R274): queued in the handler, a double fault on the fifth, else taken
before its next issue. An exiting producer ends its team (R214). -/
def State.deliver (s : State) (crew : Nat) (x : Cause) : State :=
  match pfind s.crews crew with
  | none => s
  | some c =>
    let q := if c.handler then s.slotQueue c else c.queued
    if x.fatal || c.exiting then s.teamFatal c.team (lowWord x.word)
    else if q.length < 4 then
      let c1 := { c with queued := q ++ [x] }
      let s1 := s.setCrew crew c1
      if c.handler then s1.slotPut c 0xA0 (queueBytes c1.queued) else s1
    else s.teamFatal c.team (lowWord (Cause.word (mkCause 0x17 x.code 0)))

/-- The producer crew of a team (R105). -/
def State.producer (s : State) (t : Nat) : Option Nat :=
  ((s.crewsOf t).find? (fun e => e.2.num == (s.team t).prod)).map (·.1)

/-- An imprecise cause of a team's engines goes to its producer; with no producer left the team ends (R214, R267). -/
def State.imprecise (s : State) (t : Nat) (x : Cause) : State :=
  match s.producer t with
  | some id => s.deliver id x
  | none => s.teamFatal t (lowWord x.word)

/-- Reads a word of a crew's trap slot as its own load would (R271). -/
def State.slotRead (s : State) (c : Crew) (off n : Nat) : Nat :=
  leNat (s.l1Load c.core ⟨ctxBase + c.slot + off, false⟩ n).2

def listWords (n : Nat) : Nat → List Byte → List Nat
  | 0, _ => []
  | k + 1, bs => leNat (bs.take n) :: listWords n k (bs.drop n)

/-- The state that `eret` reloads from a slot's bytes (R275): everything but flag counts, counters and awaiting bits,
which come from the crew's own record of its operations. -/
def Crew.reload (c : Crew) (bs : List Byte) : Crew :=
  let at8 (o : Nat) : Nat := leNat ((bs.drop o).take 8)
  let flags := at8 8
  let ks := listWords 8 64 ((bs.drop 0x100).take 512)
  let hs := (chunksOf 16 ((bs.drop 0x300).take 4096) 256)
  let vs := (chunksOf c.nreg (bs.drop 0x1300) 128)
  { c with
    hdr := BitVec.ofNat 64 (at8 0), idx := flags % 64
    em := BitVec.ofNat 32 (at8 0x28)
    m := ((listWords 4 8 ((bs.drop 0x30).take 32)).zip (List.range 8)).foldl (fun m (x, n) => pset 0 m n (BitVec.ofNat 32 x)) []
    fxs := BitVec.ofNat 64 (at8 0x50 % 32)
    k := (ks.zip (List.range 64)).foldl (fun m (x, n) => pset 0 m n (BitVec.ofNat 64 x)) []
    hist := (hs.zip (List.range 16)).map (fun (b, a) =>
      ⟨(listWords 8 32 b).map (BitVec.ofNat 64), (c.ops.find? (fun o => o.frozen && !o.done && o.age = a + 1)).map (·.id)⟩)
    v := (vs.zip (List.range c.nreg)).foldl (fun m (b, n) => pset (lanesAll 0) m n ((listWords 4 32 b).map (BitVec.ofNat 32))) []
    ops := c.ops.map (fun o => { o with frozen := false, age := 0 })
    sect := if flags.testBit 9 then some (BitVec.ofNat 64 (at8 0x78)) else none
    triggered := flags.testBit 10, exiting := flags.testBit 11, handler := false, queued := [] }
where
  /-- Cuts bytes into n runs of w. -/
  chunksOf : Nat → List Byte → Nat → List (List Byte)
    | 0, _, _ => []
    | n + 1, bs, w => bs.take w :: chunksOf n (bs.drop w) w

/-! ### The frame of a word's meaning -/

/-- What an instruction does when a crew issues it. -/
inductive Eff
  /-- its effect, after which the crew passes the word -/
  | ok (s : State)
  /-- its effect with the transfer or the end of the crew made -/
  | moved (s : State)
  /-- a precise trap: no effect of its own -/
  | trap (x : Cause)
  /-- a precise trap that resumes behind the instruction (`trap`, `sys`) -/
  | trapNext (x : Cause)
  /-- a long-latency stall: not issued (R156) -/
  | stall
  /-- a short stall: not issued (R155) -/
  | hold

/-- The crew that State selects. -/
def State.curCrew (s : State) : Option (Nat × Crew) :=
  match s.cur with
  | some (.crew id) => (pfind s.crews id).map (fun c => (id, c))
  | _ => none

/-- The step of a crew: the selection is used up. -/
def State.issued (s : State) : State := { s with cur := none }

/-- Takes the next age stamp of a quarter (R154). -/
def State.nextStamp (s : State) (ck q : Nat) : State × Nat :=
  let n := pget 0 (s.core ck).stamps q
  (s.modCore ck (fun c => { c with stamps := pput c.stamps q (n + 1) }), n)

def Crew.stalled (c : Crew) : Bool := c.stall = .long || c.stall = .round

/-- A crew stalls for long (R156, R237), at a stamp of its quarter that tells which stalled first (R158). -/
def State.stallAs (s : State) (id : Nat) (st : Stall) : State :=
  match pfind s.crews id with
  | none => s
  | some c =>
    if c.stalled then s.setCrew id { c with stall := st }
    else
      let (s1, n) := s.nextStamp c.core c.quarter
      s1.setCrew id { c with stall := st, wstamp := n }

/-- A crew meets a long-latency stall (R156). -/
def State.stallCrew (s : State) (id : Nat) : State := s.stallAs id .long

/-- Ends a word's meaning. -/
def Eff.finish (e : Eff) (s : State) (id size : Nat) : State :=
  match e with
  | .ok t => (t.modCrew id (fun c => c.advance size)).issued
  | .moved t => t.issued
  | .trap x => (s.raiseTrap id x 0).issued
  | .trapNext x => (s.raiseTrap id x 1).issued
  | .stall => (s.stallCrew id).issued
  | .hold => (s.modCrew id (fun c => { c with stall := .hold })).issued

/-- Runs a word on the selected crew: operand checks (R31, R120), then its effect. -/
def runCrew (i : Instr) (f : Form) (s : State) (body : State → Nat → Crew → Eff) : Host.Outcome State Fault Refusal :=
  match s.curCrew with
  | none => .fault .noExecutor
  | some (id, c) =>
    match c.preFault i.desc f with
    | some x => .next ((Eff.trap x).finish s id f.len.bytes)
    | none => .next ((body s id c).finish s id f.len.bytes)

/-- The common case: an instruction that changes its crew alone. -/
def runLocal (i : Instr) (f : Form) (s : State) (g : Crew → Crew) : Host.Outcome State Fault Refusal :=
  runCrew i f s (fun s id c => .ok (s.setCrew id (g c)))

end Sys2Proof.Machine
end

