-- ==== Sys2Proof/Machine/Flags.lean ====
section
/-! DEFINITION. Flag computations: the sticky exception flags of a crew (04 R80, 06 R102, R103). The completion flags are
counts of outstanding operations and stand in Operands.lean (`Crew.flagSet`). -/

namespace Sys2Proof.Machine

/-- ORs flags into `fxs` (R80, R103). -/
def Crew.raiseFlags (c : Crew) (x : FFlags) : Crew := { c with fxs := c.fxs ||| x.setWidth 64 }

/-- The flags of all active lanes together (R80). -/
def Crew.laneFlags (c : Crew) (g : Nat → FFlags) : FFlags :=
  (List.range 32).foldl (fun acc l => if c.isActive l then acc ||| g l else acc) 0

end Sys2Proof.Machine
end

