-- ==== Sys2Proof/Machine/IntOps.lean ====
section
/-! DEFINITION. Integer and bit operations, moves, addresses, selects and compares (03 R51-R60), opcodes 0x000 to
0x019. -/

namespace Sys2Proof.Machine

/-! ### Integer types (R53) -/

def tyWidth (ty : Nat) : Nat := if regsOf ty = 2 then 64 else 32
def tySigned (ty : Nat) : Bool := ty == 1 || ty == 3

/-- The number an operand of a type holds. -/
def tyVal (ty : Nat) (x : DWord) : Int :=
  if tySigned ty then (if regsOf ty = 2 then x.toInt else (lowWord x).toInt)
  else (if regsOf ty = 2 then (x.toNat : Int) else ((lowWord x).toNat : Int))

def tyMin (ty : Nat) : Int := if tySigned ty then -(2 ^ (tyWidth ty - 1)) else 0
def tyMax (ty : Nat) : Int := if tySigned ty then 2 ^ (tyWidth ty - 1) - 1 else 2 ^ tyWidth ty - 1

/-- A result stored into the type's width: clamped with `.sat`, else wrapped (R55). -/
def tyStore (ty : Nat) (sat : Bool) (r : Int) : DWord :=
  let x := if sat then max (tyMin ty) (min (tyMax ty) r) else r
  BitVec.ofNat 64 (x % 2 ^ tyWidth ty).toNat

/-- The shared description of R55: operands by type, the exact result, its width, and the destination. `tb` and `tc` are
the types of b and c, `tr` the type of the result. -/
def aluEff (f : Form) (tb tc tr : Nat) (op : Int → Int → Int → Int) (c : Crew) : Crew :=
  let ty := f.ty
  let res (a b x : DWord) : DWord := tyStore tr f.m4 (op (tyVal ty a) (tyVal tb b) (tyVal tc x))
  if f.m5 then c.resultUniform f (res (c.uniTy f ty f.a) (c.uniTy f tb f.b) (c.uniTy f tc f.c))
  else c.resultLanes f (regsOf tr) (fun l => res (c.srcTy f ty f.a l) (c.srcTy f tb f.b l) (c.srcTy f tc f.c l))

/-- `nop` (R26): it passes and changes nothing. -/
def execNop (f : Form) (s : State) : Host.Outcome State Fault Refusal :=
  match s.cur with
  | some (.seq ck cp) =>
    .next (s.modCore ck (fun c =>
      let step (q : Sequencer) : Sequencer :=
        { q with pc := q.pc + BitVec.ofNat 64 f.len.bytes, idx := q.idx + 1, left := q.left - 1 }
      if cp then { c with cs := step c.cs } else { c with ms := step c.ms })).issued
  | _ => runLocal (.nop f) f s id

def execAdd (f : Form) (s : State) : Host.Outcome State Fault Refusal :=
  runLocal (.add f) f s (aluEff f f.ty f.ty f.ty (fun a b _ => a + b))
def execSub (f : Form) (s : State) : Host.Outcome State Fault Refusal :=
  runLocal (.sub f) f s (aluEff f f.ty f.ty f.ty (fun a b _ => a - b))
def execMul (f : Form) (s : State) : Host.Outcome State Fault Refusal :=
  runLocal (.mul f) f s (aluEff f f.ty f.ty f.ty (fun a b _ => a * b))
/-- The high w bits of the product (R55). -/
def execMulh (f : Form) (s : State) : Host.Outcome State Fault Refusal :=
  runLocal (.mulh f) f s (aluEff f f.ty f.ty f.ty (fun a b _ => a * b / 2 ^ tyWidth f.ty))
def execMad (f : Form) (s : State) : Host.Outcome State Fault Refusal :=
  runLocal (.mad f) f s (aluEff f f.ty f.ty f.ty (fun a b x => a * b + x))
def execAbs (f : Form) (s : State) : Host.Outcome State Fault Refusal :=
  runLocal (.abs f) f s (aluEff f f.ty f.ty f.ty (fun a _ _ => a.natAbs))
def execMin (f : Form) (s : State) : Host.Outcome State Fault Refusal :=
  runLocal (.min f) f s (aluEff f f.ty f.ty f.ty (fun a b _ => min a b))
def execMax (f : Form) (s : State) : Host.Outcome State Fault Refusal :=
  runLocal (.max f) f s (aluEff f f.ty f.ty f.ty (fun a b _ => max a b))
def execAnd (f : Form) (s : State) : Host.Outcome State Fault Refusal :=
  runLocal (.and f) f s (aluEff f f.ty f.ty f.ty (fun a b _ => ((a.toNat &&& b.toNat : Nat) : Int)))
def execOr (f : Form) (s : State) : Host.Outcome State Fault Refusal :=
  runLocal (.or f) f s (aluEff f f.ty f.ty f.ty (fun a b _ => ((a.toNat ||| b.toNat : Nat) : Int)))
def execXor (f : Form) (s : State) : Host.Outcome State Fault Refusal :=
  runLocal (.xor f) f s (aluEff f f.ty f.ty f.ty (fun a b _ => ((a.toNat ^^^ b.toNat : Nat) : Int)))
def execNot (f : Form) (s : State) : Host.Outcome State Fault Refusal :=
  runLocal (.not f) f s (aluEff f f.ty f.ty f.ty (fun a _ _ => 2 ^ tyWidth f.ty - 1 - a))

/-- A shift amount: bits [7:0] (R55). -/
def shiftN (b : Int) : Nat := b.toNat % 256

def execShl (f : Form) (s : State) : Host.Outcome State Fault Refusal :=
  runLocal (.shl f) f s (aluEff f 0 0 f.ty (fun a b _ => if tyWidth f.ty ≤ shiftN b then 0 else a * 2 ^ shiftN b))
def execShr (f : Form) (s : State) : Host.Outcome State Fault Refusal :=
  runLocal (.shr f) f s (aluEff f 0 0 f.ty (fun a b _ => if tyWidth f.ty ≤ shiftN b then 0 else a / 2 ^ shiftN b))
def execSra (f : Form) (s : State) : Host.Outcome State Fault Refusal :=
  runLocal (.sra f) f s (aluEff f 0 0 f.ty (fun a b _ => a / 2 ^ min (shiftN b) (tyWidth f.ty - 1)))
def execRotl (f : Form) (s : State) : Host.Outcome State Fault Refusal :=
  runLocal (.rotl f) f s (aluEff f 0 0 f.ty (fun a b _ =>
    let w := tyWidth f.ty
    let n := shiftN b % w
    a * 2 ^ n % 2 ^ w + a / 2 ^ (w - n)))

/-- Leading zero bits of the low w bits (R55). -/
def clzBits : Nat → Nat → Nat
  | 0, _ => 0
  | w + 1, a => if a.testBit w then 0 else clzBits w a + 1

/-- One bits of the low w bits (R55). -/
def popBits : Nat → Nat → Nat
  | 0, _ => 0
  | w + 1, a => popBits w a + if a.testBit w then 1 else 0

/-- Bit i moved to bit w − 1 − i (R55). -/
def revBits (w a : Nat) : Nat := ((List.range w).map (fun i => if a.testBit i then 2 ^ (w - 1 - i) else 0)).sum

def execClz (f : Form) (s : State) : Host.Outcome State Fault Refusal :=
  runLocal (.clz f) f s (aluEff f f.ty f.ty 0 (fun a _ _ => clzBits (tyWidth f.ty) a.toNat))
def execPopc (f : Form) (s : State) : Host.Outcome State Fault Refusal :=
  runLocal (.popc f) f s (aluEff f f.ty f.ty 0 (fun a _ _ => popBits (tyWidth f.ty) a.toNat))
def execBrev (f : Form) (s : State) : Host.Outcome State Fault Refusal :=
  runLocal (.brev f) f s (aluEff f f.ty f.ty f.ty (fun a _ _ => revBits (tyWidth f.ty) a.toNat))

/-- A field of a (R56): sign-extended from its top bit for s types. -/
def bfeVal (w : Nat) (signed : Bool) (a : Int) (p n : Nat) : Int :=
  if w ≤ p ∨ n = 0 then 0
  else
    let n := min n (w - p)
    let x := a / 2 ^ p % 2 ^ n
    if signed && decide (2 ^ (n - 1) ≤ x) then x - 2 ^ n else x

/-- a with a field replaced by the low bits of b (R56). -/
def bfiVal (w : Nat) (a b : Int) (p n : Nat) : Int :=
  if w ≤ p ∨ n = 0 then a
  else
    let n := min n (w - p)
    a - a / 2 ^ p % 2 ^ n * 2 ^ p + b % 2 ^ n * 2 ^ p

def execBfe (f : Form) (s : State) : Host.Outcome State Fault Refusal :=
  runLocal (.bfe f) f s (aluEff f 0 0 f.ty (fun a p n =>
    bfeVal (tyWidth f.ty) (tySigned f.ty) a (p.toNat % 128) (n.toNat % 128)))
def execBfi (f : Form) (s : State) : Host.Outcome State Fault Refusal :=
  runLocal (.bfi f) f s (aluEff f f.ty 0 f.ty (fun a b ctl =>
    bfiVal (tyWidth f.ty) a b (ctl.toNat % 128) (ctl.toNat / 256 % 128)))

/-- `mov` (R57). -/
def execMov (f : Form) (s : State) : Host.Outcome State Fault Refusal :=
  runLocal (.mov f) f s (fun c =>
    if f.m5 then c.resultUniform f (c.uniTy f f.ty f.a)
    else c.resultLanes f (regsOf f.ty) (c.srcTy f f.ty f.a))

/-- `lea` (R58). -/
def execLea (f : Form) (s : State) : Host.Outcome State Fault Refusal :=
  runLocal (.lea f) f s (fun c =>
    if f.mod.getLsbD 0 then c.resultUniform f (c.eaUniform f) else c.resultLanes f 2 (c.ea f))

/-- `sel` and `sel.m` (R59). -/
def execSel (f : Form) (s : State) : Host.Outcome State Fault Refusal :=
  runLocal (.sel f) f s (fun c =>
    if f.m5 then
      c.resultUniform f (if lowWord (c.uni f 0 f.c) ≠ 0 then c.uniTy f f.ty f.a else c.uniTy f f.ty f.b)
    else
      c.resultLanes f (regsOf f.ty) (fun l =>
        let p := if f.m4 then (c.maskSrc f.c).getLsbD l else decide (c.src32 f 0 f.c l ≠ 0)
        if p then c.srcTy f f.ty f.a l else c.srcTy f f.ty f.b l))

/-- A compare's result (R60): the mask register, and 1 or 0 in each active lane's entry. -/
def Crew.resultMask (c : Crew) (f : Form) (p : Nat → Bool) : Crew :=
  let c1 := if f.nd then c.mset f.dst.toNat (maskBy (fun l => c.isActive l && p l)) else c
  c1.pushLanes (fun l => if p l then 1 else 0)

/-- Conditions of `cmp` (R60): eq, ne, lt, le. -/
def cmpCond (cond : Nat) (a b : Int) : Bool :=
  match cond with
  | 0 => decide (a = b)
  | 1 => decide (a ≠ b)
  | 2 => decide (a < b)
  | _ => decide (a ≤ b)

def execCmp (f : Form) (s : State) : Host.Outcome State Fault Refusal :=
  runLocal (.cmp f) f s (fun c =>
    c.resultMask f (fun l => cmpCond f.hi (tyVal f.ty (c.srcTy f f.ty f.a l)) (tyVal f.ty (c.srcTy f f.ty f.b l))))

end Sys2Proof.Machine
end

