-- ==== Sys2Proof/Machine/Rounds.lean ====
section
/-! DEFINITION. Rounds of a guarded team (15 R237, 23 R326, R327): contributing, the last contribution, the mirror and the
commit. -/

namespace Sys2Proof.Machine

/-- The zone that holds the copies of a zone (R317, R329): field bud of the zone status word. -/
def buddyOf (zoneWord : DWord) (z : Nat) : Nat := zoneWord.toNat / 2 ^ (8 + 2 * z) % 4

/-- Bit of a zone in lost and in rmir (R317). -/
def zoneLost (zoneWord : DWord) (z : Nat) : Bool := zoneWord.getLsbD z
def zoneRmir (zoneWord : DWord) (z : Nat) : Bool := zoneWord.getLsbD (4 + z)

/-- A record in a slot of a zone's store: the older one of that slot goes (R326). -/
def Island.putStored (x : Island) (r : Stored) : Island :=
  { x with stores := x.stores.filter (fun e => !(e.zone == r.zone && e.launch == r.launch && e.team == r.team
      && e.copy == r.copy && e.committed == r.committed)) ++ [r] }

/-- The record in a slot. -/
def Island.stored (x : Island) (z launch team : Nat) (copy committed : Bool) : Option Record :=
  (x.stores.find? (fun e => e.zone == z && e.launch == launch && e.team == team && e.copy == copy
    && e.committed == committed)).map (·.data)

/-- The latest committed record of a team that some zone still holds. -/
def Island.survivor (x : Island) (launch team : Nat) : Option Record :=
  (x.stores.filter (fun e => e.launch == launch && e.team == team && e.committed)).foldl (fun best e => match best with
    | none => some e.data
    | some r => if r.no < e.data.no then some e.data else some r) none

/-- Forgets a team's round records (R326). -/
def Island.dropStored (x : Island) (launch team : Nat) : Island :=
  { x with stores := x.stores.filter (fun e => !(e.launch == launch && e.team == team)) }

/-- The committed record of a team that comes to another zone goes into the stores of that zone and of its buddy (R326, R328
step 2); a start state is held by the command processor. -/
def Island.moveStored (x : Island) (launch team z : Nat) (r : Record) : Island :=
  if r.no = 0 then x
  else
    let y := (x.dropStored launch team).putStored ⟨z, launch, team, false, true, r⟩
    if buddyOf x.zone z = z then y else y.putStored ⟨buddyOf x.zone z, launch, team, true, true, r⟩

/-- The pending round of a team as a record (R237). -/
def Team.record (t : Team) : Record := ⟨t.roundNo + 1, t.parts, t.roundBars⟩

/-- Every live crew of the team has issued `round` (R237): the release at island scope, and the pending primary slot
(R327 step 1). -/
def State.closeRound (s : State) (t : Nat) : State :=
  let team := s.team t
  let live := (s.crewsOf t).filter (fun e => !e.2.exiting)
  if team.phase = 1 && !live.isEmpty && live.all (fun e => e.2.inRound.isSome) then
    let s1 := s.eagerRelease team.core false true
    let joined : Team := { team with phase := 2, roundBars := team.bars }
    let r : Stored := ⟨coreZone team.core, team.launch, team.num, false, false, joined.record⟩
    (s1.modIsl team.isl (·.putStored r)).setTeam t joined
  else s

/-- A crew whose `round` has committed goes on behind it (R237). -/
def Crew.leaveRound (c : Crew) : Crew :=
  match c.inRound with
  | some n => { c.advance n with inRound := none }
  | none => c

/-- The acknowledgement of the copy (R327 step 4): the primary is committed, the team's round number rises, and its crews
resume. -/
def State.roundDone (s : State) (t : Nat) : State :=
  let team := s.team t
  let r : Stored := ⟨coreZone team.core, team.launch, team.num, false, true, team.record⟩
  let s1 := s.modIsl team.isl (fun x =>
    let y := x.putStored r
    { y with stores := y.stores.filter (fun e => !(e.launch == team.launch && e.team == team.num && !e.copy && !e.committed)) })
  let s2 := s1.modTeam t (fun x => { x with roundNo := x.roundNo + 1, parts := [], phase := 0 })
  { s2 with crews := s2.crews.map (fun e => if e.2.team = t then (e.1, e.2.leaveRound) else e) }

/-- A zone without power (R321). -/
def Island.isolatedZone (x : Island) (z : Nat) : Bool := x.isolated.getLsbD z

/-- Whether a pending round can go on (R327, R329): none does while its zone is being mirrored again, and an isolated zone or
buddy does nothing, acknowledge a copy neither (R321). -/
def State.roundMoves (s : State) (t : Nat) : Bool :=
  let team := s.team t
  let x := s.isl team.isl
  let z := coreZone team.core
  let b := buddyOf x.zone z
  !x.isolatedZone z && (b == z || !x.isolatedZone b) && (team.phase == 3 || (team.phase == 2 && !zoneRmir x.zone z))

/-- One step of a pending round (R327): the copy is written and committed at the buddy, then the acknowledgement. The only
live zone commits by itself (R329). -/
def State.roundStep (s : State) (t : Nat) : State :=
  let team := s.team t
  let z := coreZone team.core
  let b := buddyOf (s.isl team.isl).zone z
  if !s.roundMoves t then s
  else if team.phase = 3 || b = z then s.roundDone t
  else
    (s.modIsl team.isl (·.putStored ⟨b, team.launch, team.num, true, true, team.record⟩)).modTeam t (fun x =>
      { x with phase := 3 })

/-- A crew leaves a round that its buddy has not committed (R236, R274, R277): its contribution is discarded, and a round that
was being written gathers again. -/
def State.quitRound (s : State) (id : Nat) (c : Crew) : State :=
  if c.inRound.isNone then s
  else
    let s1 := s.modCrew id (fun c => { c with inRound := none, stall := .none })
    s1.modTeam c.team (fun t =>
      let ps := t.parts.filter (fun p => p.num != c.num)
      { t with parts := ps, phase := if ps.isEmpty then 0 else 1 })

end Sys2Proof.Machine
end

