-- ==== Sys2Proof/Machine/Control.lean ====
section
/-! DEFINITION. Clause headers, control transfer, `exit`, `yield` and `wait` (02 R27-R29, 03 R61-R65, 10 R157, R162). -/

namespace Sys2Proof.Machine

/-- The crew passes a clause header (R27-R29). -/
def Crew.enterClause (c : Crew) (h : Header) : Crew :=
  { c with hdr := c.pc, pc := c.pc + 8, idx := 0, left := h.cnt.toNat, fa := h.fa.toNat, fb := h.fb.toNat, wm := h.wm
           stall := .none }

def Sequencer.enterClause (q : Sequencer) (h : Header) : Sequencer :=
  { q with hdr := q.pc, pc := q.pc + 8, idx := 0, left := h.cnt.toNat }

/-- The selected sequencer, changed. -/
def State.modSeq (s : State) (ck : Nat) (cp : Bool) (g : Sequencer → Sequencer) : State :=
  s.modCore ck (fun c => if cp then { c with cs := g c.cs } else { c with ms := g c.ms })

/-- A clause header (R28): the flags of its wait mask hold back the first instruction, not the header; a crew that waits on
one is stalled from here on. -/
def execClauseHeader (h : Header) (s : State) : Host.Outcome State Fault Refusal :=
  match s.cur with
  | some (.seq ck cp) => .next (s.modSeq ck cp (·.enterClause h)).issued
  | _ =>
    match s.curCrew with
    | some (id, c) =>
      let s1 := s.setCrew id (c.enterClause h)
      .next (if (c.enterClause h).clauseWaits then s1.stallCrew id else s1).issued
    | none => .fault .noExecutor

/-- A transfer of a crew to a target (R29, R61): a target that is no clause header is sub-cause 7, and the transfer has
not happened. -/
def transferEff (s : State) (id : Nat) (c : Crew) (target : DWord) (g : Crew → Crew) : Eff :=
  match s.targetFault c.core (s.launchOf c) target with
  | some x => .trap x
  | none => .moved (s.setCrew id ((g c).jump target))

/-- Passes the word without a transfer. -/
def Crew.fall (c : Crew) (f : Form) : Crew := c.advance f.len.bytes

def execBra (f : Form) (s : State) : Host.Outcome State Fault Refusal :=
  runCrew (.bra f) f s (fun s id c => transferEff s id c (directTarget c.pc f) (fun c => c))

/-- The conditions of `brc` (R62). -/
def brcHolds (c : Crew) (f : Form) : Bool :=
  match f.modN with
  | 0 => c.uni f 2 f.a == 0
  | 1 => c.uni f 2 f.a != 0
  | 2 => c.maskSrc f.a &&& c.em != 0
  | 3 => c.maskSrc f.a &&& c.em == 0
  | _ => c.maskSrc f.a &&& c.em == c.em

def execBrc (f : Form) (s : State) : Host.Outcome State Fault Refusal :=
  runCrew (.brc f) f s (fun s id c =>
    if brcHolds c f then transferEff s id c (directTarget c.pc f) (fun c => c) else .ok s)

def execBri (f : Form) (s : State) : Host.Outcome State Fault Refusal :=
  runCrew (.bri f) f s (fun s id c => transferEff s id c (c.uni f 2 f.a) (fun c => c))

/-- `call` (R62): the return address is the address of the call and its length. -/
def execCall (f : Form) (s : State) : Host.Outcome State Fault Refusal :=
  runCrew (.call f) f s (fun s id c =>
    transferEff s id c (directTarget c.pc f) (fun c => c.kset f.dst.toNat (c.pc + BitVec.ofNat 64 f.len.bytes)))

def execCallI (f : Form) (s : State) : Host.Outcome State Fault Refusal :=
  runCrew (.callI f) f s (fun s id c =>
    transferEff s id c (c.uni f 2 f.a) (fun c => c.kset f.dst.toNat (c.pc + BitVec.ofNat 64 f.len.bytes)))

def execRet (f : Form) (s : State) : Host.Outcome State Fault Refusal :=
  runCrew (.ret f) f s (fun s id c => transferEff s id c (c.uni f 2 f.a) (fun c => c))

/-- `loop` (R62). -/
def execLoop (f : Form) (s : State) : Host.Outcome State Fault Refusal :=
  runCrew (.loop f) f s (fun s id c =>
    let n := c.kget f.dst.toNat - 1
    if n ≠ 0 then transferEff s id c (directTarget c.pc f) (fun c => c.kset f.dst.toNat n)
    else .ok (s.setCrew id (c.kset f.dst.toNat n)))

/-- Whether an exiting crew's context can be freed (R63, R214): its operations have completed, and for a producer both
sequencers have stopped and its jobs have completed. Those of a team that a fatal cause has ended go with the team (R215). -/
def State.freeable (s : State) (id : Nat) (c : Crew) : Bool :=
  let core := s.core c.core
  let stopped (q : Sequencer) : Bool := q.st == .idle || q.st == .faulted
  let producer := (s.team c.team).prod == c.num
  c.exiting && c.ops.isEmpty && c.trigWait.isNone && (s.team c.team).fatal.isNone
    && (!producer || ((core.owner != some c.team || (stopped core.ms && stopped core.cs))
      && !core.jobs.any (fun j => j.crew == some id)))

/-- Frees the context of an exiting crew where it can be (R63, R214). -/
def State.tryFree (s : State) (id : Nat) : State :=
  match pfind s.crews id with
  | none => s
  | some c => if s.freeable id c then { s with crews := pdel s.crews id } else s

/-- `exit` (R63, R157, R214, R235): the crew issues nothing more, leaves its place, and its section closes. A trigger or a round that waited for
this crew goes on (R237, R238). -/
def execExit (f : Form) (s : State) : Host.Outcome State Fault Refusal :=
  runCrew (.exit f) f s (fun s id c =>
    let s1 := s.setCrew id { c.fall f with exiting := true, sect := none, place := .left }
    .moved (((s1.checkTrig c.team).closeRound c.team).tryFree id))

/-- `yield` (R157, R162): the crew becomes youngest and is first to be moved out. -/
def execYield (f : Form) (s : State) : Host.Outcome State Fault Refusal :=
  runCrew (.yield f) f s (fun s id c =>
    let (s1, n) := s.nextStamp c.core c.quarter
    .moved (s1.setCrew id { c.fall f with stamp := n, run := 0, yielded := true }))

def pathOf : Nat → Path
  | 0 => .ld | 1 => .st | 2 => .sl | 3 => .rm | _ => .tn

/-- `wait` (R64). -/
def execWait (f : Form) (s : State) : Host.Outcome State Fault Refusal :=
  runCrew (.wait f) f s (fun s _ c => if (c.uni f 2 f.a).toNat < c.count (pathOf f.modN) then .stall else .ok s)

end Sys2Proof.Machine
end

