-- ==== Sys2Proof/Machine/MemOps.lean ====
section
/-! DEFINITION. Loads, stores, slab accesses, prefetch, indirect registers and segment loads (03 R66-R75, 08 R138, R139),
opcodes 0x030 to 0x038 and 0x090. An access is performed at its issue; its value arrives, and its counter falls, at its
completion (R65). -/

namespace Sys2Proof.Machine

/-! ### Checking an access in every active lane (R75) -/

/-- The lowest-numbered faulting lane's cause, else the places of all lanes (R75). -/
def laneLocs {α : Type} (check : Nat → Except Cause α) : List Nat → Except Cause (List (Nat × α))
  | [] => .ok []
  | l :: ls =>
    match check l with
    | .error x => .error { x with lane := some l }
    | .ok p =>
      match laneLocs check ls with
      | .error x => .error x
      | .ok r => .ok ((l, p) :: r)

/-- The trap slot as a declared range of a crew in its handler (R269). -/
def Crew.slotRange (c : Crew) : Option Range :=
  if c.handler then some ⟨c.slot, slotSize c.nreg, true, true⟩ else none

/-- One naturally aligned access of a crew (R68, R75, R305). -/
def State.accessAt (s : State) (c : Crew) (k : Acc) (va : DWord) (n : Nat) : Except Cause Loc :=
  if va.toNat % n ≠ 0 then .error (mkCause 4 0 va)
  else s.checkAccess (s.launchOf c) (s.core c.core).tlb c.slotRange k va.toNat n

/-- A core's TLB of 1,024 entries in 8 ways takes the translation of an access, and the shared cache its table entries (R304). -/
def State.fillTlb (s : State) (ck : Nat) (l : Launch) (va : Nat) : State :=
  if (tlbFind (s.core ck).tlb l.asid va).isSome then s
  else
    match s.walkVa l.isl l.asid va with
    | none => s
    | some t => (s.fillUpper l.isl l.asid va).modCore ck (fun c =>
        { c with tlb := wfill 128 8 c.tlb (tlbKey l.asid t.bits va) t })

/-- The translations of a list of addresses. -/
def State.fillTlbs (s : State) (c : Crew) : List DWord → State
  | [] => s
  | a :: as => (s.fillTlb c.core (s.launchOf c) a.toNat).fillTlbs c as

/-! ### Issuing an operation (R30, R31, R118, R220) -/

/-- Adds an operation to the issuing crew, with its fresh number. -/
def State.issueOp (s : State) (id : Nat) (o : Op) (h : Option Hist) : State :=
  let n := s.nextId
  let s1 := { s with nextId := n + 1 }
  s1.modCrew id (fun c =>
    let c1 := c.addOp { o with id := n }
    match h with
    | some x => c1.push { x with pend := x.pend.map (fun _ => n) }
    | none => c1)

/-- The table entry of an operation that takes one (R220). -/
def State.ottFor (s : State) (c : Crew) (needs : Bool) : Nat := if needs then (s.ottPick c).getD 0 else 0

def pendHist : Hist := ⟨lanesAll 0, some 0⟩

/-- A late result per lane (R31, R69): `val` gives each lane's value, `regs` the registers it fills. DESIGN CHOICE (assumption
87): with no active lane there is no value to await, and the slot and the register still count as awaiting until the operation
completes. -/
def State.lateLanes (s : State) (id : Nat) (c : Crew) (f : Form) (p : Path) (needs : Bool) (regs : Nat)
    (held : Bool) (after : List Nat) (val : Nat → BitVec 128) : State :=
  s.issueOp id
    { blankOp with
      path := p, flag := c.flagOf f, mask := c.em, vreg := if f.nd then some f.dst.toNat else none
      vvals := if f.nd then (List.range regs).map (fun j => lanesBy (fun l => (val l).extractLsb' (32 * j) 32)) else []
      hvals := some (lanesBy (fun l => if c.isActive l then (val l).setWidth 64 else 0))
      ott := s.ottFor c needs, held := held, after := after }
    (some pendHist)

/-- A late uniform result (R31, R71, R116). -/
def State.lateUniform (s : State) (id : Nat) (c : Crew) (f : Form) (p : Path) (needs held : Bool) (v : DWord) : State :=
  s.issueOp id
    { blankOp with
      path := p, flag := c.flagOf f, kreg := if f.nd then some f.dst.toNat else none, kval := v
      hvals := some (lanesAll v), ott := s.ottFor c needs, held := held }
    (some pendHist)

/-- An operation on a handle without a result (R280): the team register it names, and the record that it brings. -/
def State.lateHandle (s : State) (id : Nat) (c : Crew) (f : Form) (held : Bool) (hrec : Option (BitVec 512)) : State :=
  s.issueOp id
    { blankOp with path := .tn, flag := c.flagOf f, ott := s.ottFor c true, held := held, hn := some f.ty, hrec := hrec } none

/-- An operation without a result that may be tagged (R30). -/
def State.lateNone (s : State) (id : Nat) (c : Crew) (f : Form) (p : Path) (needs held : Bool) : State :=
  s.issueOp id { blankOp with path := p, flag := c.flagOf f, ott := s.ottFor c needs, held := held } none

/-! ### Widths and values (R68) -/

/-- A loaded value in a lane's registers: zero- or sign-extended to 32 bits (R68). -/
def loadExt (ty x : Nat) : BitVec 128 :=
  match ty with
  | 5 => (((BitVec.ofNat 16 x).signExtend 32 : Word)).setWidth 128
  | 7 => (((BitVec.ofNat 8 x).signExtend 32 : Word)).setWidth 128
  | _ => BitVec.ofNat 128 x

/-- A loaded value in a uniform register: zero- or sign-extended to 64 bits (R71). -/
def loadExtK (ty x : Nat) : DWord :=
  match ty with
  | 1 => sext64 32 x
  | 5 => sext64 16 x
  | 7 => sext64 8 x
  | _ => BitVec.ofNat 64 x

/-- The value a list of lanes gives a lane. -/
def laneVal (vs : List (Nat × Nat)) (l : Nat) : Nat :=
  match vs.find? (fun e => e.1 = l) with
  | some e => e.2
  | none => 0

/-- Loads each lane's bytes through the L1, lowest lane first. -/
def State.loadLanes (s : State) (ck n : Nat) : List (Nat × Loc) → State × List (Nat × Nat)
  | [] => (s, [])
  | (l, p) :: r =>
    let (s1, bs) := s.l1Load ck p n
    let (s2, vs) := s1.loadLanes ck n r
    (s2, (l, leNat bs) :: vs)

/-- Stores each lane's bytes in the L1, lowest lane first: of lanes that write one byte the highest wins (R70). -/
def State.storeLanes (s : State) (ck n : Nat) (val : Nat → Nat) : List (Nat × Loc) → State
  | [] => s
  | (l, p) :: r => (s.l1Store ck p (leBytes n (val l))).storeLanes ck n val r

/-- The data of a store in a lane: one register, a pair, or a quad (R67, R68). -/
def Crew.storeVal (c : Crew) (f : Form) (l : Nat) : Nat :=
  if wideMem f then
    match f.c.src with
    | .v n => ((List.range 4).map (fun j => (laneOf (c.vget (n.toNat + j)) (f.c.perm.lane l)).toNat * 2 ^ (32 * j))).sum
    | _ => 0
  else (c.srcTy f f.ty f.c l).toNat

/-! ### Held writes of the crew (R70, R284)

A `tst` to a tile that is MOVING waits in the translator while later accesses of its crew go on; these are ordered with it by
address. -/

/-- Single bytes from a place on. -/
def locRun (p : Loc) (n : Nat) : List Loc := (List.range n).map (fun j => ⟨p.la + j, p.ah⟩)

/-- The place of a byte of a conversion, through the translator (R304); none where no leaf maps it. -/
def State.convByte (s : State) (i : Nat) (v : Conv) (va : Nat) : Option Loc :=
  (s.leaf i (s.isl i).ttlb v.asid va).map (fun t => t.loc va)

def HeldWrite.ofCrew (h : HeldWrite) (id : Nat) : Bool := !h.job && h.owner == id

/-- The bytes of an element that a held write is to store, with their places, but for those taken over. -/
def State.heldElem (s : State) (i : Nat) (v : Conv) (h : HeldWrite) (e : Nat × Nat × Nat) : List (Nat × Byte) :=
  (List.range (e.2.1 / 8)).filterMap (fun j =>
    (s.convByte i v (e.1 / 8 + j)).bind (fun p =>
      if h.lost.contains p.la then none else some (p.la, BitVec.ofNat 8 (e.2.2 / 256 ^ j))))

/-- What a crew's held writes are to store on an island: operation, address, byte. -/
def State.heldBytes (s : State) (i id : Nat) : List (Nat × Nat × Byte) :=
  ((s.isl i).convs.map (fun v => ((v.held.filter (fun h => h.ofCrew id)).map (fun h =>
    (h.elems.map (fun e => (s.heldElem i v h e).map (fun b => (h.id, b)))).flatten)).flatten)).flatten

/-- The byte that the crew's latest held write of an address is to store there. -/
def State.heldByte (s : State) (i id a : Nat) : Option Byte :=
  (((s.heldBytes i id).filter (fun e => e.2.1 == a)).foldl (fun (b : Option (Nat × Byte)) e => match b with
    | some x => if x.1 ≤ e.1 then some (e.1, e.2.2) else b
    | none => some (e.1, e.2.2)) none).map (·.2)

/-- Bytes of some places as the crew reads them: those of its held writes first. -/
def State.ownRun (s : State) (i id : Nat) (ps : List Loc) (bs : List Byte) : List Byte :=
  (ps.zip bs).map (fun (p, b) => (s.heldByte i id p.la).getD b)

/-- The same for the values that lanes have read, n bytes each. -/
def State.ownVals (s : State) (i id n : Nat) (ps : List (Nat × Loc)) (vs : List (Nat × Nat)) : List (Nat × Nat) :=
  (ps.zip vs).map (fun (p, v) => (v.1, leNat (s.ownRun i id (locRun p.2 n) (leBytes n v.2))))

/-- A crew's write takes its bytes over from the crew's held writes: these do not store them any more. -/
def State.takeOver (s : State) (i id : Nat) (as : List Nat) : State :=
  let mine := as.filter (fun a => (s.heldByte i id a).isSome)
  if mine.isEmpty then s
  else s.modIsl i (fun x => { x with convs := x.convs.map (fun v =>
    { v with held := v.held.map (fun h => if h.ofCrew id then { h with lost := h.lost ++ mine } else h) }) })

/-- The bytes of lanes' accesses, n each. -/
def lanesBytes (n : Nat) (ps : List (Nat × Loc)) : List Nat := (ps.map (fun e => (locRun e.2 n).map (·.la))).flatten

/-! ### Meanings -/

/-- `ld` (R69). -/
def execLd (f : Form) (s : State) : Host.Outcome State Fault Refusal :=
  runCrew (.ld f) f s (fun s id c =>
    let n := memWidth f.ty (wideMem f)
    match laneLocs (fun l => s.accessAt c .read (c.ea f l) n) c.lanes with
    | .error x => .trap x
    | .ok ps =>
      if s.issueWaits c .ld true then .stall
      else
        let (s1, vs) := (s.fillTlbs c (c.lanes.map (c.ea f))).loadLanes c.core n ps
        let us := s.ownVals c.isl id n ps vs
        .ok (s1.lateLanes id c f .ld true (memRegs f (wideMem f)) false [] (fun l => loadExt f.ty (laneVal us l))))

/-- `st` (R69). -/
def execSt (f : Form) (s : State) : Host.Outcome State Fault Refusal :=
  runCrew (.st f) f s (fun s id c =>
    let n := memWidth f.ty (wideMem f)
    match laneLocs (fun l => s.accessAt c .write (c.ea f l) n) c.lanes with
    | .error x => .trap x
    | .ok ps =>
      if s.issueWaits c .st true then .stall
      else
        let s1 := ((s.takeOver c.isl id (lanesBytes n ps)).fillTlbs c (c.lanes.map (c.ea f))).storeLanes c.core n (c.storeVal f) ps
        .ok (s1.lateNone id c f .st true false))

/-- `ldk` (R71). -/
def execLdk (f : Form) (s : State) : Host.Outcome State Fault Refusal :=
  runCrew (.ldk f) f s (fun s id c =>
    let n := memWidth f.ty false
    match s.accessAt c .read (c.eaUniform f) n with
    | .error x => .trap x
    | .ok p =>
      if s.issueWaits c .ld true then .stall
      else
        let (s1, bs) := (s.fillTlbs c [c.eaUniform f]).l1Load c.core p n
        .ok (s1.lateUniform id c f .ld true false (loadExtK f.ty (leNat (s.ownRun c.isl id (locRun p n) bs)))))

/-- `stk` (R71). -/
def execStk (f : Form) (s : State) : Host.Outcome State Fault Refusal :=
  runCrew (.stk f) f s (fun s id c =>
    let n := memWidth f.ty false
    match s.accessAt c .write (c.eaUniform f) n with
    | .error x => .trap x
    | .ok p =>
      if s.issueWaits c .st true then .stall
      else
        let s1 := ((s.takeOver c.isl id (lanesBytes n [(0, p)])).fillTlbs c [c.eaUniform f]).l1Store c.core p (leBytes n (c.uni f f.ty f.c).toNat)
        .ok (s1.lateNone id c f .st true false))

/-! ### The slab (R72, R209) -/

/-- The team and the offset that a slab address names (R72). -/
def State.slabPlace (s : State) (t : Nat) (a n : Nat) : Option (Nat × Nat) :=
  let team := s.team t
  let off := a % 2 ^ 19
  let gw := a.testBit 22
  let tw := a / 2 ^ 20 % 4
  let own : Option Nat :=
    if gw then
      if (s.launch team.launch).gsz < tw then none
      else ((s.gangTeams team.launch team.gang).find? (fun e => e.2.tw == tw)).map (·.1)
    else if tw = 0 then some t else none
  match own with
  | none => none
  | some u => if a / 2 ^ 23 = 0 && !a.testBit 19 && off + n ≤ (s.team u).slab * 4096 then some (u, off) else none

/-- One slab access of a crew (R72, R75). -/
def State.slabAt (s : State) (c : Crew) (ea : DWord) (n : Nat) : Except Cause (Nat × Nat) :=
  let a := ea.toNat % 2 ^ 32
  if a % n ≠ 0 then .error (mkCause 4 0 ea)
  else
    match s.slabPlace c.team a n with
    | some p => .ok p
    | none => .error (mkCause 5 0 (BitVec.ofNat 64 a))

/-- Writes bytes in a team's window: what they were before is past. -/
def State.winWrite (s : State) (t off : Nat) (bs : List Byte) : State :=
  s.modTeam t (fun x => { x with
    win := x.win.writeBytes off bs
    prior := x.prior.filter (fun e => decide (e.1 < off) || decide (off + bs.length ≤ e.1)) })

def State.winRead (s : State) (t off n : Nat) : List Byte := (s.team t).win.readBytes off n

/-- A byte of a window as a crew reads it: its own value, or of a byte that an unfinished job has written the old or the new
one (R181), by the draw given. -/
def State.sldByte (s : State) (t a draw : Nat) : Byte :=
  match (s.team t).prior.find? (fun e => e.1 == a) with
  | some e => if Config.freeBit draw then e.2.2 else (s.team t).win.read a
  | none => (s.team t).win.read a

/-- The bytes of one lane's access (R72, R181). -/
def State.sldBytes (s : State) (t off n draw : Nat) : List Byte :=
  (List.range n).map (fun j => s.sldByte t (off + j) (draw + j))

def State.storeSlab (s : State) (n : Nat) (val : Nat → Nat) : List (Nat × Nat × Nat) → State
  | [] => s
  | (l, t, off) :: r => (s.winWrite t off (leBytes n (val l))).storeSlab n val r

/-- `sld` (R72): an entry of the table only for a bench-mate's window (R220). -/
def execSld (f : Form) (s : State) : Host.Outcome State Fault Refusal :=
  runCrew (.sld f) f s (fun s id c =>
    let n := memWidth f.ty (wideMem f)
    match laneLocs (fun l => s.slabAt c (c.ea f l) n) c.lanes with
    | .error x => .trap x
    | .ok ps =>
      let mate := ps.any (fun e => e.2.1 != c.team)
      if s.issueWaits c .sl mate then .stall
      else
        let vs := ps.map (fun e => (e.1, leNat (s.sldBytes e.2.1 e.2.2 n (s.free + n * e.1))))
        .ok ({ s with free := s.free + n * 32 }.lateLanes id c f .sl mate (memRegs f (wideMem f)) false [] (fun l => loadExt f.ty (laneVal vs l))))

/-- `sst` (R72). -/
def execSst (f : Form) (s : State) : Host.Outcome State Fault Refusal :=
  runCrew (.sst f) f s (fun s id c =>
    let n := memWidth f.ty (wideMem f)
    match laneLocs (fun l => s.slabAt c (c.ea f l) n) c.lanes with
    | .error x => .trap x
    | .ok ps =>
      let mate := ps.any (fun e => e.2.1 != c.team)
      if s.issueWaits c .sl mate then .stall
      else .ok ((s.storeSlab n (c.storeVal f) ps).lateNone id c f .sl mate false))

/-- `pref` (R73): the lane's address is translated, and the L1 takes the line where the lane may read it; island SRAM is no
state of its own. DESIGN CHOICE (assumption 82): `pref` has no width, so a lane's address is judged as one byte and is never
misaligned. -/
def State.prefLanes (s : State) (c : Crew) (f : Form) : List Nat → State
  | [] => s
  | l :: ls =>
    let s1 := match s.accessAt c .read (c.ea f l) 1 with
      | .ok p =>
        let s0 := s.fillTlb c.core (s.launchOf c) (c.ea f l).toNat
        if f.mod.getLsbD 0 || p.ah then s0 else (s0.l1Load c.core ⟨p.la / 64 * 64, false⟩ 64).1
      | .error _ => s
    s1.prefLanes c f ls

def execPref (f : Form) (s : State) : Host.Outcome State Fault Refusal :=
  runCrew (.pref f) f s (fun s _ c => .ok (s.prefLanes c f c.lanes))

/-! ### Indirect registers (R74) -/

/-- The register that a lane names. -/
def Crew.indirect (c : Crew) (f : Form) (l : Nat) : Nat := (lowWord (c.uni f 0 f.a) + c.src32 f 0 f.b l).toNat

/-- Its bounds (R74, R267). -/
def Crew.indirectAt (c : Crew) (f : Form) (l : Nat) : Except Cause Nat :=
  let n := c.indirect f l
  if regsOf f.ty = 2 then
    if n % 2 = 1 || c.nreg ≤ n then .error (causeBounds n)
    else if c.nreg ≤ n + 1 then .error (causeBounds (n + 1))
    else .ok n
  else if c.nreg ≤ n then .error (causeBounds n)
  else .ok n

/-- The operation that a register of a lane awaits. -/
def Crew.awaitedBy (c : Crew) (n l : Nat) : Option Op :=
  c.ops.find? (fun o => o.awaited && o.mask.getLsbD l && match o.vreg with
    | some r => decide (r ≤ n) && decide (n < r + o.vvals.length)
    | none => false)

/-- A register of a lane as it is once the value it awaits has arrived. -/
def Crew.settled (c : Crew) (n l : Nat) : Word :=
  match c.awaitedBy n l with
  | some o => laneOf (o.vvals.getD (n - o.vreg.getD 0) []) l
  | none => laneOf (c.vget n) l

/-- The operations that the registers of an indirect access await. -/
def Crew.indirectAwaits (c : Crew) (regs : Nat) (ps : List (Nat × Nat)) : List Nat :=
  (ps.map (fun e => (List.range regs).filterMap (fun j => (c.awaitedBy (e.2 + j) e.1).map (·.id)))).flatten

/-- `vget` (R74): it completes after the operations that its registers await. -/
def execVget (f : Form) (s : State) : Host.Outcome State Fault Refusal :=
  runCrew (.vget f) f s (fun s id c =>
    match laneLocs (c.indirectAt f) c.lanes with
    | .error x => .trap x
    | .ok ps =>
      let val (l : Nat) : BitVec 128 :=
        let n := c.indirect f l
        if regsOf f.ty = 2 then ((c.settled (n + 1) l) ++ (c.settled n l) : DWord).setWidth 128
        else (c.settled n l).setWidth 128
      .ok (s.lateLanes id c f .none false (regsOf f.ty) false (c.indirectAwaits (regsOf f.ty) ps) val))

/-- Writes lanes one by one. -/
def Crew.putLanes (c : Crew) (f : Form) (d : Crew) : List (Nat × Nat) → Crew
  | [] => d
  | (l, n) :: r =>
    let put (x : Crew) (n : Nat) (w : Word) : Crew :=
      let old := x.vget n
      x.vset n (lanesBy (fun j => if j = l then w else laneOf old j))
    let v := c.srcTy f f.ty f.c l
    let d1 := put d n (lowWord v)
    c.putLanes f (if regsOf f.ty = 2 then put d1 (n + 1) (highWord v) else d1) r

/-- `vput` (R74): it is held while a target still awaits a value. -/
def execVput (f : Form) (s : State) : Host.Outcome State Fault Refusal :=
  runCrew (.vput f) f s (fun s id c =>
    match laneLocs (c.indirectAt f) c.lanes with
    | .error x => .trap x
    | .ok ps =>
      if !(c.indirectAwaits (regsOf f.ty) ps).isEmpty then .hold
      else .ok ((s.setCrew id (c.putLanes f c ps)).lateNone id c f .none false false))

/-! ### Segment loads (R139) -/

/-- Order of the causes of one lane (R75). -/
def causeRank (x : Cause) : Nat := if x.code = 4 then 0 else if x.code = 5 ∨ x.code = 6 then 1 else if x.code = 7 then 2
  else if x.code = 8 then 3 else 4

/-- The first cause in the order of R75. -/
def firstCause : List Cause → Option Cause
  | [] => none
  | x :: xs =>
    match firstCause xs with
    | none => some x
    | some y => if causeRank y < causeRank x then some y else some x

/-- Places of single bytes; all must be readable. -/
def State.bytesAt (s : State) (c : Crew) (k : Acc) (ea : DWord) (n : Nat) : Except Cause (List Loc) :=
  let rs := (List.range n).map (fun j =>
    s.checkAccess (s.launchOf c) (s.core c.core).tlb c.slotRange k (ea + BitVec.ofNat 64 j).toNat 1)
  let bad := rs.filterMap (fun r => match r with
    | .error x => some x
    | .ok _ => none)
  match firstCause bad with
  | some x => .error x
  | none => .ok (rs.filterMap (fun r => match r with
    | .ok p => some p
    | .error _ => none))

/-- Loads each lane's bytes one by one. -/
def State.loadRuns (s : State) (ck : Nat) : List (Nat × List Loc) → State × List (Nat × List Byte)
  | [] => (s, [])
  | (l, ps) :: r =>
    let (s1, bs) := s.l1LoadRun ck ps
    let (s2, vs) := s1.loadRuns ck r
    (s2, (l, bs) :: vs)

/-- `sseg` (R139). -/
def execSseg (f : Form) (s : State) : Host.Outcome State Fault Refusal :=
  runCrew (.sseg f) f s (fun s id c =>
    let len (l : Nat) : Nat := min ((c.src32 f 0 f.c l).toNat % 256) 16
    match laneLocs (fun l => s.bytesAt c .read (c.ea f l) (len l)) c.lanes with
    | .error x => .trap x
    | .ok ps =>
      if s.issueWaits c .ld true then .stall
      else
        let used := (c.lanes.filter (fun l => len l != 0)).map (c.ea f)
        let (s1, rs) := (s.fillTlbs c used).loadRuns c.core ps
        let vs := (ps.zip rs).map (fun (p, r) => (r.1, leNat (s.ownRun c.isl id p.2 r.2)))
        .ok (s1.lateLanes id c f .ld true 4 false [] (fun l => BitVec.ofNat 128 (laneVal vs l))))

end Sys2Proof.Machine
end

