-- ==== Sys2Proof/Machine/Barrier.lean ====
section
/-! DEFINITION. Barrier registers and their instructions (11 R182-R185, 14 R219), opcodes 0x0B0 to 0x0B4, and the frame of a
sequencer's instruction (14 R216). -/

namespace Sys2Proof.Machine

/-! ### The frame of a sequencer's instruction -/

/-- What a sequencer's instruction does. -/
inductive SeqEff
  /-- its effect, after which the sequencer passes the word -/
  | pass (s : State)
  /-- its effect with the transfer or the stop made -/
  | moved (s : State)
  /-- not issued: gated or held (R216) -/
  | wait (st : SeqState)
  /-- an imprecise trap: the sequencer stops as faulted (R186) -/
  | fault (x : Cause)

/-- Origin of a sequencer's imprecise cause (R268). -/
def seqOrg (copy : Bool) : Nat := if copy then 2 else 1

def Sequencer.pass (q : Sequencer) (size : Nat) : Sequencer :=
  { q with st := .running, pc := q.pc + BitVec.ofNat 64 size, idx := q.idx + 1, left := q.left - 1 }

/-- A sequencer stops as faulted (R40, R216): what it has issued before goes on (assumption 69). -/
def State.stopSeq (s : State) (ck : Nat) (cp : Bool) : State := s.modSeq ck cp (fun q => { q with st := .faulted })

/-- Ends a sequencer's word. -/
def SeqEff.finish (e : SeqEff) (s : State) (ck : Nat) (cp : Bool) (size : Nat) : State :=
  match e with
  | .pass t => (t.modSeq ck cp (·.pass size)).issued
  | .moved t => t.issued
  | .wait st => (s.modSeq ck cp (fun q => { q with st := st })).issued
  | .fault x =>
    let s1 := s.stopSeq ck cp
    (match (s.core ck).owner with
      | some t => s1.imprecise t x
      | none => s1).issued

/-- The team whose sequencers run on a core. -/
def State.seqTeam (s : State) (ck : Nat) : Nat := (s.core ck).owner.getD 0

/-- Runs a word on the selected sequencer. -/
def runSeq (f : Form) (s : State) (body : State → Nat → Bool → Sequencer → SeqEff) : Host.Outcome State Fault Refusal :=
  match s.cur with
  | some (.seq ck cp) =>
    let c := s.core ck
    .next ((body s ck cp (if cp then c.cs else c.ms)).finish s ck cp f.len.bytes)
  | _ => .fault .noExecutor

/-- Runs a word that crews and sequencers share. -/
def runEither (i : Instr) (f : Form) (s : State) (crew : State → Nat → Crew → Eff)
    (seq : State → Nat → Bool → Sequencer → SeqEff) : Host.Outcome State Fault Refusal :=
  match s.cur with
  | some (.seq _ _) => runSeq f s seq
  | _ => runCrew i f s crew

/-- A source of a sequencer: uniform or immediate (R165). -/
def Sequencer.uni (q : Sequencer) (f : Form) (o : Operand) : DWord :=
  match o.src with
  | .k n => pget 0 q.k n.toNat
  | .imm i => f.imm 2 i
  | _ => 0

/-- Adds to the base register of a `.inc` form (R165). DESIGN CHOICE (assumption 90): where the base is an immediate there is no
register, and nothing is added. -/
def Sequencer.inc (q : Sequencer) (o : Operand) (n : Nat) : Sequencer :=
  match o.src with
  | .k r => { q with k := pset 0 q.k r.toNat (pget 0 q.k r.toNat + BitVec.ofNat 64 n) }
  | _ => q

/-! ### Arrivals (R183-R185) -/

def causeBarrier (sub b org : Nat) : Cause := { mkCause 0x0D sub (BitVec.ofNat 64 b) with org := org }

def State.bar (s : State) (t b : Nat) : Bar := pget Bar.zero (s.team t).bars b
def State.setBar (s : State) (t b : Nat) (x : Bar) : State := s.modTeam t (fun y => { y with bars := pset Bar.zero y.bars b x })

/-- n arrivals (R183): every full count advances the phase. -/
def Bar.arrive (x : Bar) (n : Nat) : Bar :=
  if x.exp = 0 then x
  else { x with arr := (x.arr + n) % x.exp, ph := x.ph + BitVec.ofNat 16 ((x.arr + n) / x.exp) }

/-- Arrivals on a team's barrier made from a core: those from another core are a release at bench scope, here with the
core's dirty set written back, and are acquired by the wait (R185). -/
def State.arrive (s : State) (ck t b n : Nat) : State :=
  let other := (s.team t).core != ck
  let s1 := if other then ((s.releaseStart ck 2 false).1).eagerRelease ck true false else s
  s1.setBar t b { (s1.bar t b).arrive n with bench := (s1.bar t b).bench || other }

/-- The acquire of a wait that passes or a gate that opens (R185): core scope needs nothing, bench scope the generation
numbers. -/
def State.acquireBar (s : State) (t b : Nat) : State :=
  let x := s.bar t b
  if x.bench then (s.setBar t b { x with bench := false }).raiseGen (s.team t).core 3 else s

/-- The count of an arrival or of `bar.init` (R183): absent means 1. -/
def barCount (o : Operand) (v : DWord) : Option Nat :=
  let n := if o = .zero then 1 else v.toNat
  if n = 0 || 1023 < n then none else some n

/-- The team of a gang with a team index. -/
def State.mate (s : State) (t tw : Nat) : Option Nat :=
  ((s.gangTeams (s.team t).launch (s.team t).gang).find? (fun e => e.2.tw == tw)).map (·.1)

/-! ### Meanings -/

/-- `bar.init` (R183, R219). -/
def execBarInit (f : Form) (s : State) : Host.Outcome State Fault Refusal :=
  runCrew (.barInit f) f s (fun s _ c =>
    match barCount f.a (c.uni f 2 f.a) with
    | none => .trap (causeBarrier 0 f.ty 0)
    | some n => .ok (s.setBar c.team f.ty { s.bar c.team f.ty with exp := n, arr := 0 }))

/-- `bar.arr` of a sequencer (R184): at once where nothing earlier is left, else when its jobs have completed. -/
def seqArrive (f : Form) (s : State) (ck : Nat) (cp : Bool) (q : Sequencer) : SeqEff :=
  let t := s.seqTeam ck
  match barCount f.a (q.uni f f.a) with
  | none => .fault (causeBarrier 0 f.ty (seqOrg cp))
  | some n =>
    let mine := (s.core ck).jobs.filter (fun j => j.crew.isNone && (match j.kind with
      | .cpy | .cpyx | .cpym => cp
      | _ => !cp))
    if mine.isEmpty then
      if (s.bar t f.ty).exp = 0 then .fault (causeBarrier 2 f.ty (seqOrg cp)) else .pass (s.arrive ck t f.ty n)
    else .pass (s.modCore ck (fun c => { c with owed := c.owed ++ [(cp, mine.map (·.id), f.ty, n)] }))

/-- `bar.arr` (R183, R184): the crew's earlier stores are performed at their issue. -/
def execBarArr (f : Form) (s : State) : Host.Outcome State Fault Refusal :=
  runEither (.barArr f) f s
    (fun s _ c =>
      match barCount f.a (c.uni f 2 f.a) with
      | none => .trap (causeBarrier 0 f.ty 0)
      | some n =>
        if (s.bar c.team f.ty).exp = 0 then .trap (causeBarrier 2 f.ty 0)
        else .ok (s.arrive c.core c.team f.ty n))
    (fun s ck cp q => seqArrive f s ck cp q)

/-- `bar.arrx` (R183). DESIGN CHOICE (assumption 100): of several causes the count comes first, then the team, then an exp of 0. -/
def execBarArrx (f : Form) (s : State) : Host.Outcome State Fault Refusal :=
  runCrew (.barArrx f) f s (fun s _ c =>
    match barCount f.a (c.uni f 2 f.a) with
    | none => .trap (causeBarrier 0 f.ty 0)
    | some n =>
      let tw := (c.uni f 2 f.b).toNat
      if (s.launchOf c).gsz < tw then .trap (causeBarrier 1 f.ty 0)
      else
        match s.mate c.team tw with
        | none => .trap (causeBarrier 2 f.ty 0)
        | some t =>
          if (s.bar t f.ty).exp = 0 then .trap (causeBarrier 2 f.ty 0) else .ok (s.arrive c.core t f.ty n))

/-- `bar.wait` (R183, R185). -/
def execBarWait (f : Form) (s : State) : Host.Outcome State Fault Refusal :=
  runCrew (.barWait f) f s (fun s _ c =>
    let x := s.bar c.team f.ty
    if x.exp = 0 then .trap (causeBarrier 2 f.ty 0)
    else if x.ph = (c.uni f 2 f.a).setWidth 16 then .stall
    else .ok (s.acquireBar c.team f.ty))

/-- The record as software reads it (R182). -/
def Bar.word (x : Bar) : DWord := BitVec.ofNat 64 (x.ph.toNat * 2 ^ 48 + x.arr * 2 ^ 32 + x.exp)

/-- `bar.test` (R183). -/
def execBarTest (f : Form) (s : State) : Host.Outcome State Fault Refusal :=
  runCrew (.barTest f) f s (fun s id c => .ok (s.setCrew id (c.resultUniform f (s.bar c.team f.ty).word)))

end Sys2Proof.Machine
end

