-- ==== Sys2Proof/WellFormed.lean ====
section
/-! DEFINITION. Which instructions a word encodes: the fields fit the length and break no rule of R26-R38. -/

namespace Sys2Proof

/-- A word encodes the instruction, for an executor of the given kind. The steps of the panel that no word encodes are
not well formed as words. -/
def Instr.wellFormed (k : ExecKind) (i : Instr) : Bool :=
  match i with
  | .clauseHeader h => decide (h.cnt ≠ 0) && (headerFaults k h).isEmpty
  | _ =>
    match i.word? with
    | some (opc, f) => permitted k opc && f.fits opc && (descFaults i.desc f).isEmpty
    | none => false

end Sys2Proof
end

