-- ==== Sys2Proof/Decode.lean ====
section
/-! DEFINITION. Decoding and encoding of words (02 R24-R40): total on any bytes, a refusal by the trap's own name. -/

namespace Sys2Proof

/-- Why a word does not decode: the illegal-opcode trap with its sub-cause, or the reserved-field trap with the lowest
bit number (R39). `tooShort` is for a list of bytes that ends within the word. -/
inductive DecodeFault
  | illegal (sub : Nat)
  | reserved (bit : Nat)
  | tooShort
  deriving DecidableEq, Repr

/-- Length of an instruction word by its two low bits (R24); none for a clause header. -/
def lenOf (b : BitVec 2) : Option Len :=
  match b.toNat with
  | 0 => some .short
  | 1 => some .medium
  | 2 => some .long
  | _ => none

def lenBits : Len → BitVec 2
  | .short => 0
  | .medium => 1
  | .long => 2

/-- A source field (R34). Reserved index bits and slots are charged by `srcStruct`. -/
def srcOf (b : BitVec 10) : Src :=
  match (b.extractLsb' 8 2).toNat with
  | 0 => .v (b.extractLsb' 0 8)
  | 1 => .h (b.extractLsb' 0 4)
  | 2 => .k (b.extractLsb' 0 6)
  | _ => .imm (b.getLsbD 0)

/-- Reserved bits of a source field and slots the word does not have (R34, R39); a field that the instruction does not take
is reserved bit by bit. -/
def srcStruct (u : Use) (lo slots : Nat) (b : BitVec 10) : List Nat :=
  if u = .no then lowBitFrom lo 10 b.toNat
  else
    match (b.extractLsb' 8 2).toNat with
    | 0 => []
    | 1 => lowBitFrom (lo + 4) 4 (b.extractLsb' 4 4).toNat
    | 2 => lowBitFrom (lo + 6) 2 (b.extractLsb' 6 2).toNat
    | _ => chargeIf (decide (slots ≤ (b.extractLsb' 0 8).toNat)) lo

/-- A permute field (R35); reserved values are charged by `permFaults`. -/
def permOf (b : BitVec 8) : Perm :=
  match (b.extractLsb' 5 3).toNat with
  | 1 => .rot (b.extractLsb' 0 5)
  | 2 => .bc (b.extractLsb' 0 5)
  | 3 => .bf (b.extractLsb' 0 5)
  | 4 => .mir
  | _ => .none

/-- Reserved patterns, and a k that must be zero (R35). -/
def permStruct (lo : Nat) (b : BitVec 8) : List Nat :=
  let p := (b.extractLsb' 5 3).toNat
  chargeIf (decide (5 ≤ p) || ((p == 0 || p == 4) && decide (b.extractLsb' 0 5 ≠ 0))) lo

/-- Bit numbers that the bits of a permute field give beside its source (R35): a field that is not taken is reserved bit
by bit; a reserved pattern on a uniform or immediate source is a pattern on it. -/
def permFaults (lo plo : Nat) (u : Use) (o : Operand) (b : BitVec 8) : List Nat :=
  if u.noPermute o then lowBitFrom plo 8 b.toNat
  else permStruct plo b ++ chargeIf (o.src.isUni && decide (5 ≤ (b.extractLsb' 5 3).toNat)) lo

/-- Immediate slots of a word (R32). -/
def slotsOf (l : Len) (b : Bool) : Nat :=
  match l with
  | .short => if b then 0 else 1
  | .medium => 1
  | .long => 2

/-- The fields of a word (R32). -/
def formOf (l : Len) (b : Bool) (w : BitVec 128) : Form :=
  let mod : BitVec 6 := w.extractLsb' 12 6
  let fs := w.getLsbD 18
  let nd := w.getLsbD 19
  let dst : BitVec 8 := w.extractLsb' 20 8
  let sa := srcOf (w.extractLsb' 28 10)
  let sb := srcOf (w.extractLsb' 38 10)
  match l with
  | .short =>
    if b then ⟨.short, mod, fs, nd, dst, ⟨sa, .none⟩, ⟨sb, .none⟩, ⟨srcOf (w.extractLsb' 48 10), .none⟩, 0, 0, 0⟩
    else ⟨.short, mod, fs, nd, dst, ⟨sa, .none⟩, ⟨sb, .none⟩, .zero, 0, 0#16 ++ w.extractLsb' 48 16, 0⟩
  | .medium =>
    ⟨.medium, mod, fs, nd, dst, ⟨sa, permOf (w.extractLsb' 64 8)⟩, ⟨sb, permOf (w.extractLsb' 72 8)⟩,
      ⟨srcOf (w.extractLsb' 48 10), permOf (w.extractLsb' 80 8)⟩, w.extractLsb' 58 6,
      0#24 ++ w.extractLsb' 88 8, 0⟩
  | .long =>
    ⟨.long, mod, fs, nd, dst, ⟨sa, permOf (w.extractLsb' 64 8)⟩, ⟨sb, permOf (w.extractLsb' 72 8)⟩,
      ⟨srcOf (w.extractLsb' 48 10), permOf (w.extractLsb' 80 8)⟩, w.extractLsb' 58 6,
      w.extractLsb' 96 32, w.extractLsb' 88 8⟩

/-- Bit numbers that the layout of a word gives with what its opcode takes (R32, R34, R35). -/
def formStruct (d : Desc) (f : Form) (l : Len) (b : Bool) (w : BitVec 128) : List Nat :=
  let n := slotsOf l b
  srcStruct d.a 28 n (w.extractLsb' 28 10) ++ srcStruct d.b 38 n (w.extractLsb' 38 10) ++
  match l with
  | .short => if b then srcStruct d.c 48 n (w.extractLsb' 48 10) ++ lowBitFrom 58 6 (w.extractLsb' 58 6).toNat else []
  | _ => srcStruct d.c 48 n (w.extractLsb' 48 10) ++ permFaults 28 64 d.a f.a (w.extractLsb' 64 8)
      ++ permFaults 38 72 d.b f.b (w.extractLsb' 72 8) ++ permFaults 48 80 d.c f.c (w.extractLsb' 80 8)

/-- The lowest of the bit numbers. -/
def lowest : List Nat → Option Nat
  | [] => none
  | n :: ns => some (ns.foldl min n)

/-- The clause header of a word (R27). -/
def headerOf (w : BitVec 128) : Header :=
  ⟨w.extractLsb' 2 6, w.extractLsb' 8 12, w.extractLsb' 20 4, w.extractLsb' 24 4⟩

/-- Decodes a word by itself: sub-cause 3, sub-cause 4, sub-cause 5, then the reserved fields (R39). -/
def decodeWord (k : ExecKind) (w : BitVec 128) : Except DecodeFault Instr :=
  match lenOf (w.extractLsb' 0 2) with
  | none =>
    let h := headerOf w
    if h.cnt = 0 then .error (.illegal 3)
    else
      match lowest (headerFaults k h ++ lowBitFrom 28 36 (w.extractLsb' 28 36).toNat) with
      | some n => .error (.reserved n)
      | none => .ok (.clauseHeader h)
  | some l =>
    let opc := (w.extractLsb' 2 10).toNat
    let b := shapeB opc
    let f := formOf l b w
    match mkInstr opc f with
    | none => .error (.illegal 4)
    | some i =>
      if !permitted k opc then .error (.illegal 5)
      else
        match lowest (formStruct i.desc f l b w ++ descFaults i.desc f) with
        | some n => .error (.reserved n)
        | none => .ok i

/-- Decodes a run of bytes (R24): the instruction and the bytes after it. -/
def decode (k : ExecKind) (bs : List Byte) : Except DecodeFault (Instr × List Byte) :=
  match bs with
  | [] => .error .tooShort
  | b0 :: _ =>
    let n := match lenOf (b0.extractLsb' 0 2) with
      | some l => l.bytes
      | none => 8
    if bs.length < n then .error .tooShort
    else
      match decodeWord k (BitVec.ofNat 128 (((bs.take n).foldr (fun b acc => b.toNat + 256 * acc) 0))) with
      | .ok i => .ok (i, bs.drop n)
      | .error e => .error e

/-! ### The encoder -/

/-- The low 48 bits, which every length shares (R32). -/
def encodeLow (opc : Nat) (f : Form) : BitVec 48 :=
  f.b.src.bits ++ f.a.src.bits ++ f.dst ++ BitVec.ofBool f.nd ++ BitVec.ofBool f.fs ++ f.mod
    ++ BitVec.ofNat 10 opc ++ lenBits f.len

/-- Bits 95 to 0 of a medium or long word, less the immediate (R32). -/
def encodeMid (opc : Nat) (f : Form) : BitVec 88 :=
  f.c.perm.bits ++ f.b.perm.bits ++ f.a.perm.bits ++ f.x ++ f.c.src.bits ++ encodeLow opc f

/-- The word of an instruction, its unused upper bits zero (R32). -/
def encodeForm (opc : Nat) (f : Form) : BitVec 128 :=
  match f.len with
  | .short =>
    if shapeB opc then 0#64 ++ (0#6 ++ f.c.src.bits ++ encodeLow opc f)
    else 0#64 ++ (f.imm0.extractLsb' 0 16 ++ encodeLow opc f)
  | .medium => 0#32 ++ (f.imm0.extractLsb' 0 8 ++ encodeMid opc f)
  | .long => f.imm0 ++ f.imm1 ++ encodeMid opc f

/-- The word of a clause header (R27). -/
def encodeHeader (h : Header) : BitVec 128 := 0#100 ++ h.fb ++ h.fa ++ h.wm ++ h.cnt ++ 3#2

/-- The word of a well-formed instruction; none for the steps that no word encodes. -/
def encode (i : Instr) : Option (BitVec 128) :=
  match i with
  | .clauseHeader h => some (encodeHeader h)
  | _ => i.word?.map (fun (opc, f) => encodeForm opc f)

/-- The bytes of a word, lowest address first (R24). -/
def wordBytes (n : Nat) (w : BitVec 128) : List Byte := (List.range n).map (fun j => w.extractLsb' (8 * j) 8)

/-- Executor that a table word is decoded for: a sequencer where no crew may execute it. -/
def tableKind (w : BitVec 128) : ExecKind :=
  let opc := (w.extractLsb' 2 10).toNat
  if (w.extractLsb' 0 2).toNat = 3 then .crew
  else if sequencerOnly.contains opc then .matrix else .crew

/-- What the decoder reads from an instruction whose bits are w, the bits above nbits zero. -/
def decodeTableWord (nbits w : Nat) : Option Instr :=
  let word := BitVec.ofNat 128 (w % 2 ^ nbits)
  match decode (tableKind word) (wordBytes 16 word) with
  | .ok (i, _) => some i
  | .error _ => none

end Sys2Proof
end

