-- ==== Sys2Proof/Machine/Narrow.lean ====
section
/-! DEFINITION. The formats of the matrix array, block scales, the sum of one group and the quantiser
(spec/13_narrow_formats.md). A format is named by its code of R170. -/

namespace Sys2Proof.Machine

/-- A value of a format in which every code is finite (R192). -/
def unpackSmall (wE wF : Nat) (bias : Int) (c : Nat) : FVal :=
  let neg := decide (c / 2 ^ (wE + wF) % 2 = 1)
  let E := c / 2 ^ wF % 2 ^ wE
  let fr := c % 2 ^ wF
  if E = 0 then .fin neg fr (1 - bias - wF) else .fin neg (2 ^ wF + fr) (E - bias - wF)

def finInt (i : Int) : FVal := .fin (decide (i < 0)) i.natAbs 0

/-- The value of an element code of a real format (R192, R193, R194). -/
def elemVal (fmt c : Nat) : FVal :=
  match fmt with
  | 0 => unpack f32 c
  | 1 => unpack bf16 c
  | 2 => unpack f16 c
  | 3 | 9 => if c % 128 = 127 then .nan false else unpackSmall 4 3 7 c
  | 4 =>
    match unpack ⟨5, 2⟩ c with
    | .fin n m e => if c / 4 % 32 = 0 then .fin n 0 e else .fin n m e
    | v => v
  | 5 => unpackSmall 3 2 3 c
  | 6 => unpackSmall 2 3 1 c
  | 7 | 8 => unpackSmall 2 1 1 c
  | 10 => finInt (BitVec.ofNat 8 c).toInt
  | 11 => finInt (c : Int)
  | _ => finInt (BitVec.ofNat 4 c).toInt

/-- Bits of one element by format code (R170); a complex element is two parts. -/
def elemWidth : Nat → Nat
  | 0 => 32
  | 1 | 2 => 16
  | 3 | 4 | 9 | 10 | 11 => 8
  | 5 | 6 => 6
  | 7 | 8 | 12 => 4
  | 13 | 14 => 32
  | _ => 16

/-- The real format of the parts of a complex format (R194). -/
def partFmt : Nat → Nat
  | 13 => 2
  | 14 => 1
  | _ => 3

/-- Present elements of a column that a plane holds (R170). -/
def planeCap : Nat → Nat
  | 0 => 32
  | 1 | 2 => 64
  | 3 | 4 | 9 | 10 | 11 => 128
  | 5 | 6 | 7 | 8 | 12 => 256
  | 13 | 14 => 32
  | _ => 64

/-- Block size of a block-scaled format (R170), 0 for the others. -/
def blockSize : Nat → Nat
  | 7 => 8
  | 8 => 32
  | 9 => 16
  | _ => 0

/-- The E of R173: elements of one dense activation row. -/
def rowElems : Nat → Nat
  | 0 => 32
  | 1 | 2 => 64
  | 3 | 4 | 9 | 10 | 11 => 128
  | 5 | 6 | 7 | 8 | 12 => 256
  | 13 | 14 => 32
  | _ => 64

/-- E3M5 scale (R195). -/
def e3m5 (c : Nat) : FVal :=
  if c / 32 % 8 = 0 then .fin false 0 0 else .fin false (32 + c % 32) (((c / 32 % 8 : Nat) : Int) - 3 - 5)

/-- E8M0 scale (R195). -/
def e8m0 (c : Nat) : FVal := if c = 255 then .nan false else .fin false 1 ((c : Int) - 127)

/-- Band scale (R195). -/
def bandVal (w : Nat) : FVal :=
  let neg := decide (w / 2 ^ 19 % 2 = 1)
  let e : Nat := w / 2 ^ 11 % 256
  if e = 0 then .fin neg 0 0 else .fin neg (2048 + w % 2048) ((e : Int) - 127 - 11)

/-- The scale of a block-scaled format by code. -/
def scaleVal (fmt c : Nat) : FVal := if fmt = 8 then e8m0 c else e3m5 c

/-- The exact product of two values: NaN for a NaN source and for 0 × ∞ (R199). DESIGN CHOICE (assumption 103): a zero product
has the sign that the factors' signs give, for the integer formats too. -/
def prodVal (a b : FVal) : FVal :=
  match a, b with
  | .nan _, _ => .nan false
  | _, .nan _ => .nan false
  | .inf s, .inf t => .inf (s != t)
  | .inf s, .fin t m _ => if m = 0 then .nan false else .inf (s != t)
  | .fin s m _, .inf t => if m = 0 then .nan false else .inf (s != t)
  | .fin s m e, .fin t n f => .fin (s != t) (m * n) (e + f)

def negVal : FVal → FVal
  | .inf s => .inf (!s)
  | .fin s m e => .fin (!s) m e
  | v => v

def isInfOf (neg : Bool) : FVal → Bool
  | .inf s => s == neg
  | _ => false

/-- The largest floor(log2 |t|) of the terms (R198), given one of them. -/
def maxLog2 : Int → List FVal → Int
  | acc, [] => acc
  | acc, t :: ts => maxLog2 (max acc t.dy.log2) ts

/-- One term in the window: its multiple of 2^qe toward −∞ and whether a part was lost (R198). -/
def windowTerm (qe : Int) (t : FVal) : Int × Bool :=
  let x := t.dy
  if qe ≤ x.e then (shl2 x.m (x.e - qe), false)
  else
    let d : Int := 2 ^ (qe - x.e).toNat
    (x.m / d, decide (x.m % d ≠ 0))

/-- group_sum (R198, R199, R201): one incoming FP32 value and the exact products of a group. -/
def groupSum (c : Nat) (prods : List FVal) : Nat :=
  let cv := unpack f32 c
  let all := cv :: prods
  if isNan cv then quiet f32 c
  else if prods.any isNan then f32.defaultNan
  else if all.any (isInfOf true) && all.any (isInfOf false) then f32.defaultNan
  else if all.any (isInfOf true) then signed f32 true f32.infBits
  else if all.any (isInfOf false) then f32.infBits
  else
    match all.filter (fun t => !isZero t) with
    | [] => if all.all FVal.isNeg then signed f32 true 0 else 0
    | t :: ts =>
      let qe := maxLog2 t.dy.log2 ts - 48
      let parts := (t :: ts).map (windowTerm qe)
      let s := (parts.map (·.1)).sum
      let st := parts.any (·.2)
      (roundTo f32 ⟨4 * s + (if st then 1 else 0), qe - 2⟩ .rne false).1

/-- One step of the generator (R205). -/
def genStep (g : Word) : Word :=
  let g := g ^^^ (g <<< 13)
  let g := g ^^^ (g >>> 17)
  g ^^^ (g <<< 5)

/-- The draw of column n (R206): the top half of the rotated word. -/
def genDraw (g : Word) (n : Nat) : Nat := (g.rotateLeft ((5 * (n % 32)) % 32)).toNat / 2 ^ 16

/-- Largest positive element code of a quantiser format, and its sign bit. -/
def qMaxCode (fmt : Nat) : Nat := if fmt = 9 then 0x7E else 7
def qSignBit (fmt : Nat) : Nat := if fmt = 9 then 0x80 else 8

/-- The magnitude of a positive element code. -/
def qMag (fmt c : Nat) : Dy := (elemVal fmt c).dy

/-- The largest code from n down whose magnitude times T is at most |v|. -/
def qFloor (fmt : Nat) (T v : Dy) : Nat → Nat
  | 0 => 0
  | n + 1 => if Dy.le ((qMag fmt (n + 1)).mul T) v then n + 1 else qFloor fmt T v n

/-- floor of a quotient of non-negative reals. -/
def dyDiv (a b : Dy) : Nat :=
  let e := min a.e b.e
  (shl2 a.m (a.e - e) / shl2 b.m (b.e - e)).toNat

/-- The positive code of |v| / T (R204), nearest or by a draw (R206). -/
def qCode (fmt : Nat) (T v : Dy) (sr : Option Nat) : Nat :=
  let i := qFloor fmt T v (qMaxCode fmt)
  if i = qMaxCode fmt then i
  else
    let lo := (qMag fmt i).mul T
    let hi := (qMag fmt (i + 1)).mul T
    match sr with
    | some r =>
      let d := dyDiv ⟨(v.add lo.neg).m * 2 ^ 16, (v.add lo.neg).e⟩ (hi.add lo.neg)
      if 2 ^ 16 ≤ d + r then i + 1 else i
    | none =>
      let twice : Dy := ⟨v.m * 2, v.e⟩
      let mid := lo.add hi
      if Dy.lt mid twice then i + 1
      else if Dy.lt twice mid then i
      else if i % 2 = 0 then i else i + 1

/-- An element at total scale S × B: its code with sign (R204). The second argument is the sign of the band. DESIGN CHOICE
(assumption 104): the code of an infinity has v's sign, whatever the band's. -/
def qElem (fmt : Nat) (bneg : Bool) (T : Dy) (v : FVal) (sr : Option Nat) : Nat :=
  match v with
  | .fin neg m e =>
    let c := qCode fmt T ⟨m, e⟩ sr
    let s := if c = 0 then neg else neg != bneg
    if s then qSignBit fmt + c else c
  | .inf neg => if neg then qSignBit fmt + qMaxCode fmt else qMaxCode fmt
  | .nan _ => 0

/-- Σ (v − value(q) × S × B)² over the finite values of a block (R203). -/
def qError (fmt : Nat) (SB : Dy) : List (FVal × Nat) → Dy
  | [] => .zero
  | (v, q) :: r =>
    match v with
    | .fin _ _ _ =>
      let d := v.dy.add ((elemVal fmt q).dy.mul SB).neg
      (d.mul d).add (qError fmt SB r)
    | _ => qError fmt SB r

/-- The smallest E3M5 code from c up, n codes to try, whose value × M_e × |B| reaches amax (R203). -/
def qRefScale (fmt : Nat) (absB amax : Dy) : Nat → Nat → Nat
  | 0, _ => 255
  | n + 1, c =>
    if Dy.le amax (((e3m5 c).dy.mul (qMag fmt (qMaxCode fmt))).mul absB) then c
    else qRefScale fmt absB amax n (c + 1)

def absDyMax : Dy → List FVal → Dy
  | acc, [] => acc
  | acc, .fin _ m e :: r => absDyMax (if Dy.lt acc ⟨m, e⟩ then ⟨m, e⟩ else acc) r
  | acc, _ :: r => absDyMax acc r

/-- The candidate of least error (R203): of two that tie the larger scale, of three the middle one. -/
def qChoose : List (Nat × Dy) → Nat
  | [] => 0
  | [(a, _)] => a
  | [(a, x), (b, y)] => if Dy.lt x y then a else b
  | (a, x) :: (b, y) :: (c, z) :: _ =>
    if Dy.eq x y && Dy.eq y z then b
    else if Dy.le z x && Dy.le z y then c
    else if Dy.le y x then b else a

/-- One block: the scale code and the element codes (R203, R204). `draws` gives each element its draw, with `.sr`. -/
def qBlock (fmt : Nat) (band : FVal) (vs : List FVal) (draws : List (Option Nat)) : Nat × List Nat :=
  let special (neg : Bool) (v : FVal) : Option Nat := match v with
    | .nan _ => some (if fmt = 9 then (if neg then 0xFF else 0x7F) else 0)
    | _ => none
  let hasSpecial := vs.any (fun v => match v with | .fin _ _ _ => false | _ => true)
  let amax := absDyMax .zero vs
  if fmt = 8 && hasSpecial then (255, vs.map (fun _ => 0))
  else if amax.m = 0 then
    (0, vs.map (fun v => (special false v).getD (qElem fmt false ⟨1, 0⟩ v none)))
  else
    let B := band.dy
    let ref := if fmt = 8 then (max 0 (min 254 (127 + amax.log2 - 2))).toNat
      else qRefScale fmt B.abs amax 224 0x20
    let lowest := if fmt = 8 then 0 else 0x20
    let highest := if fmt = 8 then 0xFE else 0xFF
    let cands := (if lowest < ref then [ref - 1] else []) ++ [ref] ++ (if ref < highest then [ref + 1] else [])
    let codes (S : Nat) : List Nat :=
      let T := ((scaleVal fmt S).dy.mul B).abs
      (vs.zip draws).map (fun (v, r) => (special false v).getD (qElem fmt band.isNeg T v r))
    let best := qChoose (cands.map (fun S => (S, qError fmt ((scaleVal fmt S).dy.mul B) (vs.zip (codes S)))))
    (best, codes best)

/-- Cuts a list into runs of n. -/
def chunks {α : Type} (n : Nat) : Nat → List α → List (List α)
  | 0, _ => []
  | k + 1, l => l.take n :: chunks n k (l.drop n)

/-- Puts the sign of a NaN into the `.be4m3` code (R204). -/
def qNanSign (fmt bits code : Nat) : Nat :=
  if fmt = 9 && isNan (unpack f32 bits) && decide (bits / 2 ^ 31 % 2 = 1) then 0xFF else code

/-- Packs element codes little-endian at a width in bits. -/
def packCodes (w : Nat) : List Nat → Nat
  | [] => 0
  | c :: cs => c + 2 ^ w * packCodes w cs

/-- The record of one row of 64 FP32 values (R178). -/
def qRecord (fmt band : Nat) (sr : Bool) (g : Word) (row : List Nat) : List Byte :=
  let bs := blockSize fmt
  let nb := 64 / bs
  let bandV : FVal := if fmt = 7 then bandVal band else .fin false 1 0
  let draws := (List.range 64).map (fun n => if sr then some (genDraw g n) else none)
  let blocks := (chunks bs nb (row.map (unpack f32))).zip (chunks bs nb draws)
  let res := blocks.map (fun (vs, ds) => qBlock fmt bandV vs ds)
  let codes := (row.zip (res.map (·.2)).flatten).map (fun (b, c) => qNanSign fmt b c)
  let w := if fmt = 9 then 8 else 4
  leBytes (8 * w) (packCodes w codes) ++ res.map (fun r => BitVec.ofNat 8 r.1)
    ++ (if fmt = 8 then List.replicate 6 0 else if fmt = 9 then List.replicate 4 0 else [])

end Sys2Proof.Machine
end

