-- ==== Sys2Proof/Machine/Handle.lean ====
section
/-! DEFINITION. Handle records, layouts and tiles (21 R293-R298), and element accesses by bit address. -/

namespace Sys2Proof.Machine

/-- A field of a record. -/
def hField (r : BitVec 512) (lo w : Nat) : Nat := r.toNat / 2 ^ lo % 2 ^ w

def hBase (r : BitVec 512) : Nat := hField r 0 57
/-- Dimensions less one. -/
def hNd (r : BitVec 512) : Nat := hField r 57 3
def hFmt (r : BitVec 512) : Nat := hField r 60 4
def hExt (r : BitVec 512) (i : Nat) : Nat :=
  match i with
  | 0 => hField r 64 32
  | 1 => hField r 96 32
  | 2 => hField r 128 21
  | 3 => hField r 149 21
  | _ => hField r 170 21
/-- Extent of a dimension, 1 for an absent one. -/
def hDim (r : BitVec 512) (i : Nat) : Nat := if i ≤ hNd r then hExt r i else 1
def hStride (r : BitVec 512) (i : Nat) : Nat := hField r (192 + 40 * i) 40
def hTag (r : BitVec 512) : Nat := hField r 392 4
def hNtag (r : BitVec 512) : Nat := hField r 396 4
def hDest (r : BitVec 512) : Nat := hField r 400 51 * 64
def hMap (r : BitVec 512) : Nat := hField r 456 45 * 4096
/-- Relay pending (R281). -/
def hPd (r : BitVec 512) : Bool := r.getLsbD 511

/-- Formats that a layout takes (R295). -/
def tagAllows (tag fmt : Nat) : Bool :=
  match tag with
  | 0 | 1 => decide (fmt ≤ 6) || (decide (10 ≤ fmt) && decide (fmt ≤ 12))
  | 2 | 3 | 4 => decide (fmt ≤ 6) || decide (10 ≤ fmt)
  | 5 => decide (7 ≤ fmt) && decide (fmt ≤ 9)
  | 6 => decide (13 ≤ fmt)
  | _ => false

def tagTiled (tag : Nat) : Bool := decide (2 ≤ tag) && decide (tag ≤ 5)

/-- Tiles along dimensions 0 and 1, and in all (R296). -/
def hT0 (r : BitVec 512) : Nat := (hDim r 0 + 63) / 64
def hT1 (r : BitVec 512) : Nat := (hDim r 1 + 63) / 64
def hTiles (r : BitVec 512) : Nat := hT0 r * hT1 r * hDim r 2 * hDim r 3 * hDim r 4

/-- The higher-dimension index h (R295). -/
def hHigh (r : BitVec 512) (c : List Nat) : Nat := c.getD 2 0 + hDim r 2 * (c.getD 3 0 + hDim r 3 * c.getD 4 0)

/-- The tile of coordinates (R296). -/
def hTile (r : BitVec 512) (c : List Nat) : Nat :=
  c.getD 0 0 / 64 + hT0 r * (c.getD 1 0 / 64 + hT1 r * hHigh r c)

def dimProd (r : BitVec 512) (n : Nat) : Nat := ((List.range n).map (hDim r)).prod

/-- Dense strides of a layout (R295). -/
def denseStride (r : BitVec 512) (tag i : Nat) : Nat :=
  if tag = 1 then (match i with
    | 0 => hDim r 1
    | 1 => 1
    | _ => dimProd r i)
  else dimProd r i

/-- Element offset of coordinates in a layout (R295). -/
def elemOffset (r : BitVec 512) (tag : Nat) (stride : Nat → Nat) (c : List Nat) : Nat :=
  let x := c.getD 0 0 % 64
  let y := c.getD 1 0 % 64
  match tag with
  | 2 => 4096 * hTile r c + 64 * y + x
  | 3 => 4096 * (c.getD 1 0 / 64 + hT1 r * (c.getD 0 0 / 64) + hT0 r * hT1 r * hHigh r c) + 64 * y + x
  | 4 => 4096 * hTile r c + 64 * y + 8 * ((x / 8) ^^^ (y % 8)) + x % 8
  | _ => ((List.range 5).map (fun i => c.getD i 0 * stride i)).sum

/-- Bit address of an element in the old or the new layout of a record (R298). -/
def hBitAddr (r : BitVec 512) (new : Bool) (c : List Nat) : Nat :=
  if new then 8 * hDest r + elemWidth (hFmt r) * elemOffset r (hNtag r) (denseStride r (hNtag r)) c
  else 8 * hBase r + elemWidth (hFmt r) * elemOffset r (hTag r) (hStride r) c

/-- Bytes of a record of a block-scaled format (R178, R295). -/
def packedRow (fmt : Nat) : Nat := if fmt = 9 then 72 else 40

/-- Bytes of a tile of tag 5, and where tile t lies (R295). -/
def packedTile (r : BitVec 512) : Nat := 64 + 64 * packedRow (hFmt r)
def packedAddr (r : BitVec 512) (t : Nat) : Nat := hBase r + t * packedTile r

/-- Bytes of a layout's whole region (R294). -/
def layoutBytes (r : BitVec 512) (tag : Nat) (stride : Nat → Nat) : Nat :=
  let w := elemWidth (hFmt r)
  if tag = 5 then hTiles r * packedTile r
  else if tagTiled tag then hTiles r * 4096 * w / 8
  else ((((List.range 5).map (fun i => (hDim r i - 1) * stride i)).sum + 1) * w + 7) / 8

def oldBytes (r : BitVec 512) : Nat := layoutBytes r (hTag r) (hStride r)
def newBytes (r : BitVec 512) : Nat := layoutBytes r (hNtag r) (denseStride r (hNtag r))

/-- The validity check (R294). -/
def hValid (r : BitVec 512) : Bool :=
  let fmt := hFmt r
  let tag := hTag r
  decide (hNd r ≤ 4)
  && (List.range 5).all (fun i =>
    if i ≤ hNd r then decide (1 ≤ hExt r i) else hExt r i == 0 && (tagTiled tag || hStride r i == 0))
  && decide (dimProd r 5 ≤ 2 ^ 40)
  && tagAllows tag fmt
  && hBase r % ((elemWidth fmt + 7) / 8) == 0 && (!tagTiled tag || hBase r % 64 == 0)
  && decide (hBase r + oldBytes r ≤ 2 ^ 57)
  && (if hPd r then tagAllows (hNtag r) fmt && hNtag r != tag
    else hNtag r == 0 && hField r 400 51 == 0 && hField r 456 45 == 0)

/-- A field of a record, replaced. -/
def hPut (r : BitVec 512) (lo w v : Nat) : BitVec 512 :=
  BitVec.ofNat 512 (r.toNat - hField r lo w * 2 ^ lo + v % 2 ^ w * 2 ^ lo)

/-- The record as `relay` leaves it (R286). -/
def hRelay (r : BitVec 512) (tag dest map : Nat) : BitVec 512 :=
  hPut (hPut (hPut (hPut r 396 4 tag) 400 51 (dest / 64)) 456 45 (map / 4096)) 511 1 1

def hStrides (r : BitVec 512) (f : Nat → Nat) : List Nat → BitVec 512
  | [] => r
  | i :: is => hStrides (hPut r (192 + 40 * i) 40 (f i)) f is

/-- The record as a completed `thw` leaves it (R287, R300). -/
def hSettle (r : BitVec 512) : BitVec 512 :=
  let tag := hNtag r
  let dense (i : Nat) : Nat := if i ≤ hNd r then denseStride r tag i else 0
  let r1 := if tagTiled tag then r else hStrides r dense [0, 1, 2, 3, 4]
  let r2 := hPut (hPut r1 0 57 (hDest r)) 392 4 tag
  hPut (hPut (hPut (hPut r2 396 4 0) 400 51 0) 456 45 0) 511 1 0

/-! ### Tile states (R297, R298) -/

/-- The conversion of a map, a complete one among them: it is known until another takes its map (R287, R288). -/
def State.convAt (s : State) (i asid map : Nat) : Option Conv :=
  (s.isl i).convs.find? (fun v => v.asid == asid && hMap v.handle == map)

/-- The conversion whose state the translator holds for a map (R297). -/
def State.convOf (s : State) (i asid map : Nat) : Option Conv :=
  (s.isl i).convs.find? (fun v => v.asid == asid && hMap v.handle == map && !v.complete)

/-- The state of a tile: 0 OLD, 1 MOVING, 2 NEW, from the translator or from the map in memory (R297). A malformed entry
is the translation trap with sub-cause 3; its address is reported. -/
def State.tileState (s : State) (l : Launch) (r : BitVec 512) (tile : Nat) : Except Cause Nat :=
  if !hPd r then .ok 0
  else
    match s.convOf l.isl l.asid (hMap r) with
    | some v => .ok (if tile < v.next then 2 else if tile = v.next && v.moving then 1 else 0)
    | none =>
      let va := hMap r + 8 * tile
      match s.checkPlain l (s.isl l.isl).ttlb .read va 8 with
      | .error x => .error x
      | .ok p =>
        let e := leNat (s.homeRead l.isl p.la 8)
        if 3 ≤ e then .error (mkCause 7 3 (BitVec.ofNat 64 va)) else .ok e

/-! ### Elements by bit address -/

/-- First byte and count of the bytes that bits cover. -/
def bitBytes (ba w : Nat) : Nat × Nat := (ba / 8, (ba % 8 + w + 7) / 8)

/-- The bits of an element in its bytes. -/
def bitsOf (ba w : Nat) (bs : List Byte) : Nat := leNat bs / 2 ^ (ba % 8) % 2 ^ w

/-- Its bytes with the element's bits replaced. -/
def bitsPut (ba w v : Nat) (bs : List Byte) : List Byte :=
  let x := leNat bs
  leBytes bs.length (x - bitsOf ba w bs * 2 ^ (ba % 8) + v % 2 ^ w * 2 ^ (ba % 8))

/-- The island's tile translator takes the translations of the pages that some addresses lie in (R304). -/
def State.fillPages (s : State) (i asid : Nat) : List Nat → State
  | [] => s
  | va :: r =>
    (if (tlbFind (s.isl i).ttlb asid va).isSome then s
    else
      match s.walkVa i asid va with
      | none => s
      | some t => (s.fillUpper i asid va).modIsl i (fun x =>
          { x with ttlb := pfill 4096 x.ttlb (tlbKey asid t.bits va) t })).fillPages i asid r

/-- A tile or a job touches a page (R304): the translator takes it and walks ahead to the next four in the direction of the
access. -/
def State.fillTtlbBy (s : State) (i asid : Nat) (back : Bool) (va : Nat) : State :=
  match s.leaf i (s.isl i).ttlb asid va with
  | none => s
  | some t =>
    let p := va / 2 ^ t.bits
    let ahead := (List.range 4).filterMap (fun k =>
      if back then (if k + 1 ≤ p then some ((p - (k + 1)) * 2 ^ t.bits) else none) else some ((p + k + 1) * 2 ^ t.bits))
    s.fillPages i asid (va :: ahead)

/-- The same for an access of a launch. -/
def State.fillTtlb (s : State) (l : Launch) (back : Bool) (va : Nat) : State := s.fillTtlbBy l.isl l.asid back va

/-- The places of some single bytes, each checked by itself. -/
def State.placesOf (s : State) (l : Launch) (slot : Option Range) (k : Acc) : List Nat → Except Cause (List Loc)
  | [] => .ok []
  | a :: as =>
    match s.checkAccess l (s.isl l.isl).ttlb slot k a 1, s.placesOf l slot k as with
    | .error x, _ => .error x
    | .ok _, .error x => .error x
    | .ok p, .ok ps => .ok (p :: ps)

/-- Checks the bytes of an element for an access through the tile translator (R304, R305): `slot` is the trap slot that the
crew may use (R269). The place of the first one comes, and of the others, which an element of a 6-bit format may have on the
next page. -/
def State.elemAt (s : State) (l : Launch) (slot : Option Range) (k : Acc) (ba w : Nat) : Except Cause (Loc × List Loc) :=
  let (a, n) := bitBytes ba w
  match s.checkAccess l (s.isl l.isl).ttlb slot k a n with
  | .error x => .error x
  | .ok p =>
    if a % 2 ^ 16 + n ≤ 2 ^ 16 then .ok (p, (locRun p n).drop 1)
    else
      match s.placesOf l slot k ((List.range (n - 1)).map (fun j => a + j + 1)) with
      | .error x => .error x
      | .ok ps => .ok (p, ps)

/-- Lines that some bytes lie in; an atomic-home page has none in any L1. -/
def elemLines (ps : List Loc) : List Nat := ((ps.filter (fun p => !p.ah)).map (fun p => p.la / 64)).eraseDups

/-- The copy that a core keeps of a byte follows its home (R70, R252): no later load of the core reads an older one. -/
def State.copyFollows (s : State) (ck : Nat) (p : Loc) (b : Byte) : State :=
  if p.ah then s
  else s.modCore ck (fun c => { c with lines := pmod c.lines (p.la / 64) (fun ln =>
    { ln with bytes := putBytes ln.bytes (p.la % 64) [b] }) })

/-- The copies of some bytes follow them. -/
def State.copiesFollow (s : State) (ck : Nat) (pbs : List (Loc × Byte)) : State :=
  pbs.foldl (fun s e => s.copyFollows ck e.1 e.2) s

/-- A core's own dirty bytes of some lines are written back (R298). -/
def State.ownBack (s : State) (ck : Nat) (lis : List Nat) : State := lis.foldl (fun s li => s.writeBack ck li) s

/-- Reads an element's bytes for a core: in its L1, or at the home after its own dirty bytes of the line have been written
back (R70, R298); a copy that the core keeps follows. -/
def State.elemRead (s : State) (ck : Nat) (home : Bool) (ps : List Loc) : State × List Byte :=
  if home then
    let s1 := s.ownBack ck (elemLines ps)
    let bs := (ps.map (fun p => s1.homeRead (coreIsl ck) p.la 1)).flatten
    (s1.copiesFollow ck (ps.zip bs), bs)
  else s.l1LoadRun ck ps

/-- Stores bytes one by one in the L1. -/
def State.l1StoreRun (s : State) (ck : Nat) : List (Loc × Byte) → State
  | [] => s
  | (p, b) :: r => (s.l1Store ck p [b]).l1StoreRun ck r

/-- Writes an element's bytes for a core at their home (R298): an owner's dirty bytes reach it before, so that no later write-back
lays an older byte over them unread (R262), and a copy that the core keeps follows (R70). -/
def State.elemHome (s : State) (ck : Nat) (pbs : List (Loc × Byte)) : State :=
  let lis := elemLines (pbs.map (·.1))
  let s1 := (lis.foldl (fun s li => s.recall (coreIsl ck) li) s).ownBack ck lis
  (pbs.foldl (fun s e => s.homeWrite (coreIsl ck) e.1.la [e.2]) s1).copiesFollow ck pbs

/-- Writes an element's bytes for a core: in its L1, or at the home (R298). -/
def State.elemWrite (s : State) (ck : Nat) (home : Bool) (pbs : List (Loc × Byte)) : State :=
  if home then s.elemHome ck pbs else s.l1StoreRun ck pbs

/-- Adds a held write to a conversion (R299). -/
def State.holdWrite (s : State) (i asid map : Nat) (h : HeldWrite) : State :=
  s.modIsl i (fun x => { x with convs := x.convs.map (fun v =>
    if v.asid = asid && hMap v.handle = map && !v.complete then { v with hw := v.hw + 1, held := v.held ++ [h] } else v) })

/-- A value that held writes give the element at a bit address of the new layout: the latest one (R284). -/
def heldValue (hs : List HeldWrite) (ba : Nat) : Option Nat :=
  (hs.map (fun h => (h.elems.filter (fun e => e.1 = ba)).map (fun e => e.2.2))).flatten.getLast?

end Sys2Proof.Machine
end

