-- ==== Sys2Proof/Machine/Tensor.lean ====
section
/-! DEFINITION. Tensor-handle instructions (19 R280-R288), opcodes 0x0E0 to 0x0E8. -/

namespace Sys2Proof.Machine

def causeHandle (sub n : Nat) : Cause := mkCause 0x15 sub (BitVec.ofNat 64 n)

/-- A team register (R106, R280). -/
def State.tnGet (s : State) (t n : Nat) : BitVec 512 := pget 0 (s.team t).tn n
def State.tnSet (s : State) (t n : Nat) (r : BitVec 512) : State := s.modTeam t (fun x => { x with tn := pset 0 x.tn n r })

/-- `thd` (R283): the record is the eight uniform registers from A on. -/
def execThd (f : Form) (s : State) : Host.Outcome State Fault Refusal :=
  runCrew (.thd f) f s (fun s _ c =>
    let n := f.ty
    let a := f.a.src.bits.toNat % 64
    let r : BitVec 512 := BitVec.ofNat 512 ((List.range 8).map (fun i => (c.kget (a + i)).toNat * 2 ^ (64 * i))).sum
    if (List.range 8).any (fun i => c.kAwaits (a + i)) then .trap causePending
    else if hPd (s.tnGet c.team n) then .trap (causeHandle 3 n)
    else if !hValid r then .trap (causeHandle 5 n)
    else .ok (s.tnSet c.team n r))

/-- `thl` (R281, R283): the record is written at its completion, as zero where it fails the check. -/
def execThl (f : Form) (s : State) : Host.Outcome State Fault Refusal :=
  runCrew (.thl f) f s (fun s id c =>
    let n := f.ty
    if hPd (s.tnGet c.team n) then .trap (causeHandle 3 n)
    else
      match s.accessAt c .read (c.eaUniform f) 64 with
      | .error x => .trap x
      | .ok p =>
        if s.issueWaits c .tn true then .stall
        else
          let (s1, bs) := (s.fillTlbs c [c.eaUniform f]).l1Load c.core p 64
          let r : BitVec 512 := BitVec.ofNat 512 (leNat bs)
          .ok (s1.lateHandle id c f false (some (if hValid r then r else 0))))

/-- `ths` (R283): the record as it stands. -/
def execThs (f : Form) (s : State) : Host.Outcome State Fault Refusal :=
  runCrew (.ths f) f s (fun s id c =>
    match s.accessAt c .write (c.eaUniform f) 64 with
    | .error x => .trap x
    | .ok p =>
      if s.issueWaits c .tn true then .stall
      else
        let s1 := (s.fillTlbs c [c.eaUniform f]).l1Store c.core p (leBytes 64 (s.tnGet c.team f.ty).toNat)
        .ok (s1.lateNone id c f .tn true false))

/-! ### Element accesses (R284, R285) -/

/-- Coordinates of a lane (R284). -/
def Crew.coords (c : Crew) (f : Form) (l : Nat) : List Nat :=
  let p := (c.src64 f 12 f.a l).toNat
  let u := if f.b = .zero then 0 else (c.uni f 2 f.b).toNat
  [p % 2 ^ 32, p / 2 ^ 32, u % 2 ^ 21, u / 2 ^ 21 % 2 ^ 21, u / 2 ^ 42 % 2 ^ 21]

/-- Coordinates within the extents (R282). -/
def coordsOk (r : BitVec 512) (c : List Nat) : Bool := (List.range 5).all (fun i => decide (c.getD i 0 < hDim r i))

/-- The handle traps of `tld` and `tst` (R282). -/
def Crew.handleFault (c : Crew) (f : Form) (r : BitVec 512) : Option Cause :=
  if !hValid r then some (causeHandle 0 f.ty)
  else if elemWidth (hFmt r) < 8 || hTag r == 5 then some (causeHandle 2 f.ty)
  else if c.lanes.any (fun l => !coordsOk r (c.coords f l)) then some (causeHandle 1 f.ty)
  else none

/-- A lane's element: tile, its state, bit address in the layout used, place of its first byte and of the others (R285). -/
structure ElemRef where
  tile : Nat
  st : Nat
  ba : Nat
  loc : Loc
  more : List Loc
  deriving DecidableEq, Repr

/-- Resolves a lane's access (R285, R298): reads take the new layout of NEW tiles alone, writes of MOVING tiles too. -/
def State.elemRef (s : State) (l : Launch) (slot : Option Range) (r : BitVec 512) (k : Acc) (cs : List Nat) : Except Cause ElemRef :=
  let tile := hTile r cs
  match s.tileState l r tile with
  | .error x => .error x
  | .ok st =>
    let new := st == 2 || (st == 1 && k == .write)
    let ba := hBitAddr r new cs
    match s.elemAt l slot k ba (elemWidth (hFmt r)) with
    | .error x => .error x
    | .ok p => .ok ⟨tile, st, ba, p.1, p.2⟩

/-- The places of an element's bytes. -/
def ElemRef.locs (e : ElemRef) : List Loc := e.loc :: e.more

/-- Translations of the elements' bytes (R304). -/
def State.fillTtlbs (s : State) (l : Launch) : List Nat → State
  | [] => s
  | ba :: r => (s.fillTtlb l false (ba / 8)).fillTtlbs l r

/-- Held writes of one crew on a conversion (R284). -/
def State.ownHeld (s : State) (l : Launch) (r : BitVec 512) (crew : Nat) : List HeldWrite :=
  match s.convOf l.isl l.asid (hMap r) with
  | some v => v.held.filter (fun h => !h.job && h.owner == crew)
  | none => []

/-- Reads the lanes' elements, lowest lane first; an element of a MOVING tile that the crew has written is its own value
(R284), and `see` lays the crew's held writes over other bytes (R70). -/
def State.tldLanes (s : State) (ck crew : Nat) (l : Launch) (r : BitVec 512) (cs : Nat → List Nat)
    (see : List Loc → List Byte → List Byte) : List (Nat × ElemRef) → State × List (Nat × Nat)
  | [] => (s, [])
  | (ln, e) :: rest =>
    let w := elemWidth (hFmt r)
    let own := if e.st = 1 then heldValue (s.ownHeld l r crew) (hBitAddr r true (cs ln)) else none
    let ps := locRun e.loc (w / 8)
    let (s1, bs) := s.elemRead ck (hPd r) ps
    let (s2, vs) := s1.tldLanes ck crew l r cs see rest
    (s2, (ln, own.getD (leNat (see ps bs))) :: vs)

/-- A `tld` value in a register (R284). -/
def tldExt (w : Nat) (signed : Bool) (x : Nat) : BitVec 128 :=
  if signed then (((BitVec.ofNat w x).signExtend 32 : Word)).setWidth 128 else BitVec.ofNat 128 x

/-- The late values of a `tld` (R280, R284). -/
def State.lateElems (s : State) (id : Nat) (c : Crew) (f : Form) (val : Nat → BitVec 128) : State :=
  (s.lateLanes id c f .tn true 1 false [] val).modCrew id (fun x => { x with ops := x.ops.map (fun o =>
    if o.id = s.nextId then { o with hn := some f.ty } else o) })

/-- `tld` (R284). -/
def execTld (f : Form) (s : State) : Host.Outcome State Fault Refusal :=
  runCrew (.tld f) f s (fun s id c =>
    let r := s.tnGet c.team f.ty
    let l := s.launchOf c
    match c.handleFault f r with
    | some x => .trap x
    | none =>
      match laneLocs (fun ln => s.elemRef l c.slotRange r .read (c.coords f ln)) c.lanes with
      | .error x => .trap x
      | .ok es =>
        if s.issueWaits c .tn true then .stall
        else
          let s0 := s.fillTtlbs l (es.map (fun e => e.2.ba))
          let (s1, vs) := s0.tldLanes c.core id l r (c.coords f) (s.ownRun c.isl id) es
          .ok (s1.lateElems id c f (fun ln => tldExt (elemWidth (hFmt r)) f.m4 (laneVal vs ln))))

/-- Performs the lanes whose tile is not MOVING (R285). -/
def State.tstLanes (s : State) (ck : Nat) (r : BitVec 512) (val : Nat → Nat) : List (Nat × ElemRef) → State
  | [] => s
  | (ln, e) :: rest =>
    let w := elemWidth (hFmt r)
    let s1 := if e.st = 1 then s else s.elemWrite ck (hPd r) ((locRun e.loc (w / 8)).zip (leBytes (w / 8) (val ln)))
    s1.tstLanes ck r val rest

/-- The held pairs of one instruction, one for each MOVING tile (R299). -/
def heldPairs (es : List (Nat × ElemRef)) (w crew op : Nat) (val : Nat → Nat) : List HeldWrite :=
  let moving := es.filter (fun e => e.2.st = 1)
  let tiles := (moving.map (fun e => e.2.tile)).eraseDups
  tiles.map (fun t =>
    ⟨t, false, crew, op, (moving.filter (fun e => e.2.tile = t)).map (fun e => (e.2.ba, w, val e.1 % 2 ^ w)), []⟩)

def State.holdWrites (s : State) (i asid map : Nat) : List HeldWrite → State
  | [] => s
  | h :: hs => (s.holdWrite i asid map h).holdWrites i asid map hs

/-- `tst` (R284, R285): an operation with a held write stays outstanding until that write is performed; of a conversion that
has stopped, the write is discarded (R301, assumption 73). -/
def execTst (f : Form) (s : State) : Host.Outcome State Fault Refusal :=
  runCrew (.tst f) f s (fun s id c =>
    let r := s.tnGet c.team f.ty
    let l := s.launchOf c
    match c.handleFault f r with
    | some x => .trap x
    | none =>
      match laneLocs (fun ln => s.elemRef l c.slotRange r .write (c.coords f ln)) c.lanes with
      | .error x => .trap x
      | .ok es =>
        if s.issueWaits c .tn true then .stall
        else
          let val (ln : Nat) : Nat := (c.src32 f 11 f.c ln).toNat
          let pairs := heldPairs es (elemWidth (hFmt r)) id s.nextId val
          let mine := lanesBytes (elemWidth (hFmt r) / 8) ((es.filter (fun e => e.2.st ≠ 1)).map (fun e => (e.1, e.2.loc)))
          let s1 := ((s.takeOver l.isl id mine).fillTtlbs l (es.map (fun e => e.2.ba))).tstLanes c.core r val es
          let held := !pairs.isEmpty && (s.convOf l.isl l.asid (hMap r)).isSome
          .ok ((s1.holdWrites l.isl l.asid (hMap r) pairs).lateHandle id c f held none))

/-! ### Prefetch (R284) -/

/-- Coordinates of the elements of the tile that holds some coordinates. -/
def tileCoords (r : BitVec 512) (c : List Nat) : List (List Nat) :=
  let x0 := c.getD 0 0 / 64 * 64
  let y0 := c.getD 1 0 / 64 * 64
  (((List.range 64).map (fun y => (List.range 64).map (fun x => (x0 + x) :: (y0 + y) :: c.drop 2))).flatten).filter (coordsOk r)

/-- The bytes of the tile that holds some coordinates, as runs (R295, R298): a tile of a tiled or packed layout is one run, of
the others its rows, or its columns where those are the dense ones. -/
def tileRuns (r : BitVec 512) (new : Bool) (c : List Nat) : List (Nat × Nat) :=
  let tag := if new then hNtag r else hTag r
  let w := elemWidth (hFmt r)
  let x0 := c.getD 0 0 / 64 * 64
  let y0 := c.getD 1 0 / 64 * 64
  let bit (x y : Nat) : Nat := hBitAddr r new (x :: y :: c.drop 2)
  if tag = 5 then [(packedAddr r (hTile r c), packedTile r)]
  else if tagTiled tag then [(bit x0 y0 / 8, 4096 * w / 8)]
  else
    let nx := min 64 (hDim r 0 - x0)
    let ny := min 64 (hDim r 1 - y0)
    let run (a b : Nat) : Nat × Nat := (a / 8, (b + w + 7) / 8 - a / 8)
    if (if new then denseStride r tag 1 else hStride r 1) = 1 then
      (List.range nx).map (fun x => run (bit (x0 + x) y0) (bit (x0 + x) (y0 + ny - 1)))
    else (List.range ny).map (fun y => run (bit x0 (y0 + y)) (bit (x0 + nx - 1) (y0 + y)))

/-- Units of 2^k bytes that some runs touch. -/
def runUnits (k : Nat) (rs : List (Nat × Nat)) : List Nat :=
  ((rs.map (fun (a, n) => (List.range ((a + n - 1) / 2 ^ k + 1 - a / 2 ^ k)).map (fun j => a / 2 ^ k + j))).flatten).eraseDups

/-- The L1 takes lines that may be read. -/
def State.prefLines (s : State) (c : Crew) (l : Launch) : List Nat → State
  | [] => s
  | li :: r =>
    let s1 := match s.checkAccess l (s.isl l.isl).ttlb c.slotRange .read (64 * li) 64 with
      | .ok p => if p.ah then s else (s.l1Load c.core p 64).1
      | .error _ => s
    s1.prefLines c l r

/-- A lane of `thpf` (R284, R298): the translator walks its tile in the layout that the tile's state selects, and with `.l2` the
L1 takes the tile's lines. -/
def State.thpfLane (s : State) (c : Crew) (f : Form) (r : BitVec 512) (cs : List Nat) : State :=
  let l := s.launchOf c
  match s.tileState l r (hTile r cs) with
  | .error _ => s
  | .ok st =>
    let runs := tileRuns r (st == 2) cs
    let there (a : Nat) : Bool := (rangeFault (c.slotRange.toList ++ l.ranges) .read a 1).isNone
    if coordsOk r cs && runs.all (fun x => there x.1) then
      let s0 := (runUnits 16 runs).foldl (fun s u => s.fillTtlb l false (u * 2 ^ 16)) s
      if f.m4 then s0.prefLines c l (runUnits 6 runs) else s0
    else s

def State.thpfLanes (s : State) (c : Crew) (f : Form) (r : BitVec 512) : List Nat → State
  | [] => s
  | ln :: rest => (s.thpfLane c f r (c.coords f ln)).thpfLanes c f r rest

/-- `thpf` (R284). -/
def execThpf (f : Form) (s : State) : Host.Outcome State Fault Refusal :=
  runCrew (.thpf f) f s (fun s _ c =>
    let r := s.tnGet c.team f.ty
    .ok (if hValid r then s.thpfLanes c f r c.lanes else s))

/-! ### Relayout (R286-R288, R301) -/

def overlaps (a n b m : Nat) : Bool := decide (a < b + m) && decide (b < a + n)

/-- Whether a region lies in a declared range with w set. -/
def Launch.writable (l : Launch) (a n : Nat) : Bool := l.ranges.any (fun r => r.has a n && r.w)

/-- What `relay` refuses (R286). -/
def relayBad (l : Launch) (r : BitVec 512) (tag dest map : Nat) : Bool :=
  let n := hRelay r tag dest map
  !tagAllows tag (hFmt r) || tag == hTag r || dest % 64 != 0 || map % 4096 != 0 || decide (2 ^ 57 ≤ dest)
    || decide (2 ^ 57 ≤ map) || decide (2 ^ 24 ≤ hTiles r)
    || overlaps dest (newBytes n) (hBase r) (oldBytes r) || overlaps map (8 * hTiles r) (hBase r) (oldBytes r)
    || !l.writable dest (newBytes n) || !l.writable map (8 * hTiles r)

/-- `tld` and `tst` on a team register that a team's crews have outstanding. -/
def State.tnOps (s : State) (t n : Nat) : List (Nat × Nat) :=
  ((s.crewsOf t).map (fun e =>
    (e.2.ops.filter (fun o => o.hn == some n && o.hrec.isNone && !o.done)).map (fun o => (e.1, o.id)))).flatten

/-- Jobs of a team whose card names a team register (R179, R286). -/
def State.tnJobs (s : State) (t ck n : Nat) : List (Nat × Nat) :=
  let word (j : Job) : Nat := (j.card.getD 0 0).toNat
  ((s.core ck).jobs.filter (fun j => j.team == t
    && ((word j % 4 == 2 && word j / 2 ^ 4 % 16 == n) || (word j / 2 ^ 2 % 4 == 2 && word j / 2 ^ 8 % 16 == n)))).map (fun j => (ck, j.id))

/-- `relay` (R286): the record takes the tag, the destination and the map, and a conversion with its own lease (R301)
begins. -/
def execRelay (f : Form) (s : State) : Host.Outcome State Fault Refusal :=
  runCrew (.relay f) f s (fun s _ c =>
    let n := f.ty
    let r := s.tnGet c.team n
    let l := s.launchOf c
    let tag := (c.uni f 2 f.a).toNat
    let dest := (c.uni f 2 f.b).toNat
    let map := (c.uni f 2 f.c).toNat
    if !hValid r then .trap (causeHandle 0 n)
    else if hPd r then .trap (causeHandle 3 n)
    else if relayBad l r tag dest map then .trap (causeHandle 4 n)
    else
      let r' := hRelay r tag dest map
      let id := s.nextId
      let units := [(hBase r, oldBytes r), (dest, newBytes r'), (map, 8 * hTiles r)]
      let lease : Lease :=
        { isl := l.isl, asid := l.asid, fn := l.fn, window := false, launch := none, units := units
          expiry := s.time.toNat + 2000000, void := false }
      let v : Conv :=
        { id := id, launch := (s.team c.team).launch, asid := l.asid, handle := r', tiles := hTiles r, next := 0
          moving := false, waitOps := s.tnOps c.team n, waitJobs := s.tnJobs c.team c.core n, hw := 0, held := []
          stopped := false, complete := false, elig := none, lease := id }
      let s1 := { s with nextId := id + 1, leases := pput s.leases id lease }
      .ok ((s1.tnSet c.team n r').modIsl l.isl (fun x => { x with
        convs := x.convs.filter (fun u => !(u.complete && u.asid == l.asid && hMap u.handle == map)) ++ [v] })))

/-- Whether the map in memory shows every tile NEW, for a map the translator holds no state of (R287, R297). -/
def State.mapNew (s : State) (l : Launch) (r : BitVec 512) : Bool :=
  (List.range (hTiles r)).all (fun t => match s.tileState l r t with
    | .ok st => st == 2
    | .error _ => false)

/-- Whether the conversion of a handle with a relay pending is complete (R287). -/
def State.relayDone (s : State) (l : Launch) (r : BitVec 512) : Bool :=
  match s.convAt l.isl l.asid (hMap r) with
  | some v => v.complete
  | none => s.mapNew l r

/-- `thw` (R287). -/
def execThw (f : Form) (s : State) : Host.Outcome State Fault Refusal :=
  runCrew (.thw f) f s (fun s _ c =>
    let r := s.tnGet c.team f.ty
    let l := s.launchOf c
    if !hPd r then .ok s
    else if s.relayDone l r then
      .ok ((s.tnSet c.team f.ty (hSettle r)).raiseGen c.core 0)
    else .stall)

/-- `thq` (R288). -/
def State.thqVal (s : State) (l : Launch) (r : BitVec 512) : Nat :=
  if !hValid r || !hPd r then 0
  else
    let (hw, nw) := match s.convAt l.isl l.asid (hMap r) with
      | some v => (v.hw, v.next)
      | none => (0, ((List.range (hTiles r)).filter (fun t => match s.tileState l r t with
          | .ok st => st == 2
          | .error _ => false)).length)
    2 ^ 63 + 2 ^ 48 * min hw 0x7FFF + 2 ^ 24 * nw + hTiles r

def execThq (f : Form) (s : State) : Host.Outcome State Fault Refusal :=
  runCrew (.thq f) f s (fun s id c =>
    if s.issueWaits c .tn true then .stall
    else
      let v := s.thqVal (s.launchOf c) (s.tnGet c.team f.ty)
      .ok (s.lateUniform id c f .tn true false (BitVec.ofNat 64 v)))

/-! ### The end of a conversion (R301) -/

/-- A held write whose maker has no other one left is done (R285, R299). -/
def State.unhold (s : State) (i : Nat) (h : HeldWrite) : State :=
  if h.job || (s.isl i).convs.any (fun v => v.held.any (fun g => !g.job && g.owner == h.owner && g.id == h.id)) then s
  else s.modCrew h.owner (fun c => { c with ops := c.ops.map (fun o => if o.id = h.id then { o with held := false } else o) })

/-- A conversion leaves the engine (R301): map entries stay, its held writes are discarded, its lease is released. -/
def State.endConv (s : State) (i : Nat) (v : Conv) : State :=
  let s1 := s.modIsl i (fun x => { x with convs := x.convs.filter (fun u => u.id != v.id) })
  let s2 := { s1 with leases := pdel s1.leases v.lease }
  v.held.foldl (fun s h => s.unhold i h) s2

/-- The conversions of a launch that is stopped end at their next tile boundary (R301): now, or behind the tile that is
MOVING. -/
def State.stopConvs (s : State) (i n : Nat) : State :=
  ((s.isl i).convs.filter (fun v => v.launch == n && !v.complete)).foldl (fun s v =>
    if v.moving then s.modIsl i (fun x => { x with convs := x.convs.map (fun u => if u.id = v.id then { u with stopped := true } else u) })
    else s.endConv i v) s

end Sys2Proof.Machine
end

