-- ==== Sys2Proof/Machine/CopyJobs.lean ====
section
/-! DEFINITION. Engine jobs and the footprint checker (14 R213, R217, R218), copy cards and copy jobs (11 R179-R181, R413,
14 R212), opcodes 0x0AB to 0x0AD. A job has its effect at its start; its arrivals come with its completion. -/

namespace Sys2Proof.Machine

/-! ### The checker -/

def blankJob : Job :=
  { id := 0, kind := .cpy, team := 0, crew := none, addr := 0, word := 0, mod := 0, seed := false, a := 0, b := 0, c := 0, card := []
    reads := [], writes := [], started := false, gate := none, fault := none, srcTn := 0, dstTn := 0, windows := []
    spoiled := [], retaken := [], beats := [] }

def Job.isCopy (j : Job) : Bool :=
  match j.kind with
  | .cpy | .cpyx | .cpym => true
  | _ => false

/-- Source of a job: a crew, or one of the two sequencers (R217). -/
def Job.source (j : Job) : Option Nat × Bool := (j.crew, j.isCopy)

/-- The core of a team. -/
def State.teamCore (s : State) (t : Nat) : Nat := (s.team t).core

/-- The jobs that have arrived at the checker (R217): the sixteen first. Those behind are withdrawn jobs of a resumed gang, which
are issued again, in their saved order, as places get free (R278). -/
def Core.held (c : Core) : List Job := c.jobs.take 16

/-- A full copy engine (R213): what waits to be issued again is none of its jobs. -/
def Core.copyFull (c : Core) : Bool := decide (32 ≤ (c.held.filter (·.isCopy)).length)

/-- What holds a source's next job (R213, R216, R217): a full checker, or for a copy job a full copy engine. -/
def Core.jobsFull (c : Core) (copy : Bool) : Bool := decide (16 ≤ c.jobs.length) || (copy && c.copyFull)

def Region.meets (x y : Region) : Bool := x.space == y.space && x.owner == y.owner && decide (x.lo < y.hi) && decide (y.lo < x.hi)

def meetAny (xs ys : List Region) : Bool := xs.any (fun x => ys.any (fun y => x.meets y))

/-- Whether an earlier job holds a later one back (R218, R181). -/
def Job.blocks (e j : Job) : Bool :=
  (e.crew.isNone && j.crew.isNone && e.isCopy == j.isCopy && !e.started)
    || meetAny j.reads e.writes || meetAny j.writes e.reads || meetAny j.writes e.writes

/-- The jobs that stand before one in the checker. -/
def jobsBefore : List Job → Nat → List Job
  | [], _ => []
  | j :: js, id => if j.id = id then [] else j :: jobsBefore js id

/-- The gate of a job's card is open (R169, R179). -/
def State.gateOpen (s : State) (j : Job) : Bool :=
  match j.gate with
  | some (b, ph) => (s.bar j.team b).ph.toNat != ph
  | none => true

/-- Whether a job has arrived at the checker (R217). -/
def Core.arrived (c : Core) (id : Nat) : Bool := c.held.any (fun j => j.id == id)

/-- A crew's job has an entry of the table, or finds one (R220, assumption 106). -/
def State.jobEntry (s : State) (j : Job) : Bool :=
  match j.crew.bind (pfind s.crews) with
  | none => true
  | some c => c.ops.all (fun o => o.id != j.id || o.ott != 0) || (s.ottPick c).isSome

/-- A crew's job that has no entry takes one (R220). -/
def State.enterTable (s : State) (j : Job) : State :=
  match j.crew with
  | some id => s.giveEntry id j.id
  | none => s

/-- Whether a job can start (R218). -/
def State.jobReady (s : State) (ck : Nat) (j : Job) : Bool :=
  !j.started && s.jobEntry j && (s.core ck).arrived j.id && s.gateOpen j && !(jobsBefore (s.core ck).jobs j.id).any (fun e => e.blocks j)

/-- Granules of 64 bytes (R218). -/
def granules (space owner lo n : Nat) : Region := ⟨space, owner, lo / 64, (lo + n + 63) / 64⟩

/-- A block of rows as one region: from its lowest byte to its highest. -/
def blockRegion (space owner : Nat) (base : Nat) (stride : Int) (rows n : Nat) : Region :=
  let last : Int := base + stride * ((rows : Int) - 1)
  let lo := (min (base : Int) last).toNat
  let hi := (max (base : Int) last).toNat + n
  granules space owner lo (hi - lo)

/-! ### Copy cards (R179) -/

/-- Fields of a card. -/
def cardWord (card : List DWord) (i : Nat) : Nat := (card.getD i 0).toNat
def cardField (card : List DWord) (lo w : Nat) : Nat := cardWord card 0 / 2 ^ lo % 2 ^ w
def cardSk (card : List DWord) : Nat := cardField card 0 2
def cardDk (card : List DWord) : Nat := cardField card 2 2
def cardRows (card : List DWord) : Nat := cardWord card 3 % 2 ^ 32
/-- Row bytes, or elements per row of `cpyx`. -/
def cardRow (card : List DWord) : Nat := cardWord card 3 / 2 ^ 32
def cardEsize (card : List DWord) : Nat := 2 ^ cardField card 22 2
def cardStride (card : List DWord) (i : Nat) : Int := (card.getD i 0).toInt

/-- The limits of a card (R179). -/
def cardBad (kind : JobKind) (card : List DWord) : Bool :=
  let w6 := cardWord card 6
  let es := cardField card 22 2
  let sk := cardSk card
  let dk := cardDk card
  let rows := cardRows card
  let n := cardRow card
  decide (2 ^ 40 ≤ cardWord card 0) || sk == 3 || dk == 3 || decide (cardWord card 7 ≠ 0)
  || !(decide (1 ≤ rows) && decide (rows ≤ 65536))
  || (sk == 2 && cardWord card 4 != 0) || (dk == 2 && cardWord card 5 != 0)
  || (match kind with
    | .cpyx => es == 3 || cardWord card 4 != 0 || n % 64 != 0 || decide (4096 < n)
    | .cpym => es != 0 || !(decide (1 ≤ n) && decide (n ≤ 2 ^ 20)) || decide (2 ^ 9 ≤ w6) || w6 % 16 == 0 || decide (1 < sk)
        || dk != 1 || decide (2 ^ 19 ≤ cardWord card 2)
    | _ => es != 0 || !(decide (1 ≤ n) && decide (n ≤ 2 ^ 20)) || w6 != 0)

/-- Coordinates of an address word of handle kind, k elements along dimension 0 and i rows along dimension 1 on. -/
def cardCoords (word k i : Nat) : List Nat := [word % 2 ^ 32 + k, word / 2 ^ 32 + i, 0, 0, 0]

/-- Bytes of a row in its source and in its destination. -/
def cardSrcRow (kind : JobKind) (card : List DWord) : Nat := if kind = .cpyx then cardRow card / 8 else cardRow card
def cardDstRow (kind : JobKind) (card : List DWord) : Nat :=
  if kind = .cpyx then cardRow card * cardEsize card else cardRow card

/-- Logical coordinates along one dimension that a run of a block touches, as tile indexes within the extent. -/
def tileSpan (from_ cnt ext : Nat) : List Nat :=
  (List.range ((ext + 63) / 64)).filter (fun t => decide (t * 64 < from_ + cnt) && decide (from_ < t * 64 + 64))

/-- The bytes of a tile in one layout of a record (R295). -/
def tileRegion (asid : Nat) (r : BitVec 512) (new : Bool) (tx ty : Nat) : List Region :=
  (tileRuns r new [tx * 64, ty * 64, 0, 0, 0]).map (fun x => granules 0 asid x.1 x.2)

/-- Elements of width w that n bytes of a row touch: the last one may be cut. -/
def rowElements (w n : Nat) : Nat := (n * 8 + w - 1) / w

/-- The regions of every tile that a block of rows touches through a handle: with a relay pending the old and the new one
(R299). -/
def handleTiles (asid : Nat) (r : BitVec 512) (word rows n : Nat) : List Region :=
  let w := elemWidth (hFmt r)
  let xs := tileSpan (word % 2 ^ 32) (rowElements w n) (hDim r 0)
  let ys := tileSpan (word / 2 ^ 32) rows (hDim r 1)
  ((ys.map (fun y => (xs.map (fun x => tileRegion asid r false x y ++ (if hPd r then tileRegion asid r true x y else []))).flatten))).flatten

/-- The rows of a block through a handle of another layout (R181), one element after another where those do not lie together. -/
def handleRows (asid : Nat) (r : BitVec 512) (word rows n : Nat) : List Region :=
  let w := elemWidth (hFmt r)
  let cnt := rowElements w n
  let bit (k i : Nat) : Nat := hBitAddr r false (cardCoords word k i)
  let run (a b : Nat) : Region := granules 0 asid (a / 8) ((b + w + 7) / 8 - a / 8)
  if hStride r 0 = 1 then (List.range rows).map (fun i => run (bit 0 i) (bit (cnt - 1) i))
  else if hStride r 1 = 1 then (List.range cnt).map (fun k => run (bit k 0) (bit k (rows - 1)))
  else ((List.range rows).map (fun i => (List.range cnt).map (fun k => run (bit k i) (bit k i)))).flatten

/-- The regions of an access kind of a card (R181, R299): those of the rows, one by one where a slab block leaves its
window; through a handle the rows, or the tiles touched where the layout is tiled or a relay is pending. -/
def State.kindRegions (s : State) (t kind : Nat) (r : BitVec 512) (base : Nat) (stride : Int) (rows n : Nat) : List Region :=
  let asid := (s.launch (s.team t).launch).asid
  match kind with
  | 0 => [blockRegion 0 asid base stride rows n]
  | 1 =>
    let owner (a : Nat) : Nat := if a.testBit 22 then (s.mate t (a / 2 ^ 20 % 4)).getD t else t
    let first : Nat := base % 2 ^ 32
    let off : Nat := first % 2 ^ 19
    let last : Int := (off : Int) + stride * ((rows : Int) - 1)
    if decide (0 ≤ last) && decide (max (off : Int) last + (n : Int) ≤ (2 ^ 19 : Int)) then
      [blockRegion 1 (owner first) off stride rows n]
    else
      (List.range rows).map (fun (i : Nat) =>
        let x := (((first : Int) + stride * (i : Int)) % (2 ^ 32 : Int)).toNat
        granules 1 (owner x) (x % 2 ^ 19) n)
  | _ => if hPd r || tagTiled (hTag r) then handleTiles asid r base rows n else handleRows asid r base rows n

/-- Windows that a `cpym` names, with their cores and tags (R180, R211). DESIGN CHOICE (assumption 102): a mask bit whose window
no team of the gang has, since the gang has fewer teams or that team has ended, is passed over. -/
def State.maskedWindows (s : State) (t mask : Nat) : List (Nat × Nat × Nat × BitVec 8) :=
  (s.gangTeams (s.team t).launch (s.team t).gang).filterMap (fun e =>
    if mask.testBit e.2.tw then some (e.2.tw, e.1, e.2.core, e.2.tag) else none)

/-- The job of a card (R179-R181). -/
def State.cardJob (s : State) (kind : JobKind) (t : Nat) (crew : Option Nat) (at_ : DWord) (card : List DWord) : Job :=
  let srcTn := if cardSk card = 2 then s.tnGet t (cardField card 4 4) else 0
  let dstTn := if cardDk card = 2 then s.tnGet t (cardField card 8 4) else 0
  let rows := cardRows card
  let vals := rows * cardRow card * cardEsize card
  let win := s.maskedWindows t (cardWord card 6 % 16)
  let src := s.kindRegions t (cardSk card) srcTn (cardWord card 1) (if kind = .cpyx then cardSrcRow kind card else
    cardStride card 4) rows (cardSrcRow kind card)
  let reads := if kind = .cpyx then src ++ s.kindRegions t (cardSk card) srcTn (cardWord card 6) 0 1 vals else src
  let writes :=
    if kind = .cpym then
      win.map (fun e => blockRegion 1 e.2.1 (cardWord card 2) (cardStride card 5) rows (cardRow card))
    else s.kindRegions t (cardDk card) dstTn (cardWord card 2) (cardStride card 5) rows (cardDstRow kind card)
  { blankJob with
    id := s.nextId, kind := kind, team := t, crew := crew, addr := at_, card := card, reads := reads, writes := writes
    srcTn := srcTn, dstTn := dstTn
    gate := if cardField card 17 1 = 1 then some (cardField card 18 4, cardField card 24 16) else none
    windows := if kind = .cpym then win else [] }

/-- A check of a slab operand address (R413): its form and alignment, and the region below the window's size. DESIGN CHOICE
(assumption 98): of an address that breaks both, the form or the alignment is reported. -/
inductive SlabCheck
  | ok
  | form
  | bounds (first : Nat)
  deriving DecidableEq, Repr

def State.slabCheck (s : State) (t : Nat) (a : DWord) (align n : Nat) : SlabCheck :=
  let x := a.toNat % 2 ^ 32
  let size := (s.team t).slab * 4096
  if x / 2 ^ 19 ≠ 0 || x % align ≠ 0 then .form
  else if size < x + n then .bounds (max x size)
  else .ok

def listDWords (n : Nat) (bs : List Byte) : List DWord := (listWords 8 n bs).map (BitVec.ofNat 64)

/-- Puts a job into the checker (R217). -/
def State.addJob (s : State) (ck : Nat) (j : Job) : State :=
  let s1 := { s with nextId := s.nextId + 1 }
  s1.modCore ck (fun c => { c with jobs := c.jobs ++ [j] })

/-- A crew's copy instruction (R164, R180, R213, R217, R220, R413). -/
def crewCopy (kind : JobKind) (f : Form) (s : State) (id : Nat) (c : Crew) : Eff :=
  let a := c.uni f 2 f.a
  if c.num ≠ (s.team c.team).prod then .trap (mkCause 0x0A 0 0)
  else
    match s.slabCheck c.team a 64 64 with
    | .form => .trap (mkCause 0x0C 0 0)
    | .bounds _ => .trap (mkCause 5 0 (BitVec.ofNat 64 (a.toNat % 2 ^ 32)))
    | .ok =>
      let card := listDWords 8 (s.winRead c.team (a.toNat % 2 ^ 32) 64)
      let j := s.cardJob kind c.team (some id) a card
      if cardBad kind card then .trap (mkCause 0x0C 0 0)
      else if (s.core c.core).jobsFull true || (s.ottPick c).isNone then .stall
      else
        let op : Op := { blankOp with id := j.id, ott := s.ottFor c true, held := true }
        let s1 := (s.addJob c.core j).modCrew id (fun x =>
          let y := x.addOp op
          if f.xBit 5 then y.kset (f.a.src.bits.toNat % 64) (a + 64) else y)
        .ok s1

/-- A sequencer's copy instruction (R180, R216, R413). -/
def seqCopy (kind : JobKind) (f : Form) (s : State) (ck : Nat) (cp : Bool) (q : Sequencer) : SeqEff :=
  let t := s.seqTeam ck
  let a := q.uni f f.a
  let org := seqOrg cp
  if (s.core ck).jobsFull true then .wait .held
  else
    match s.slabCheck t a 64 64 with
    | .form => .fault { mkCause 0x0C 0 q.pc with org := org }
    | .bounds x => .fault { mkCause 0x13 5 (BitVec.ofNat 64 x) with org := org }
    | .ok =>
      let card := listDWords 8 (s.winRead t (a.toNat % 2 ^ 32) 64)
      let j := s.cardJob kind t none a card
      if cardBad kind card then .fault { mkCause 0x0C 0 a with org := org }
      else if !s.gateOpen j then .wait .gated
      else
        let s0 := match j.gate with
          | some (b, _) => s.acquireBar t b
          | none => s
        .pass ((s0.addJob ck { j with gate := none }).modSeq ck cp (fun q => if f.xBit 5 then q.inc f.a 64 else q))

def execCpy (f : Form) (s : State) : Host.Outcome State Fault Refusal :=
  runEither (.cpy f) f s (crewCopy .cpy f) (seqCopy .cpy f)
def execCpyx (f : Form) (s : State) : Host.Outcome State Fault Refusal :=
  runEither (.cpyx f) f s (crewCopy .cpyx f) (seqCopy .cpyx f)
def execCpym (f : Form) (s : State) : Host.Outcome State Fault Refusal :=
  runEither (.cpym f) f s (crewCopy .cpym f) (seqCopy .cpym f)

/-! ### Running a copy job (R180) -/

/-- Cuts n bytes from an address on at the lines' ends. -/
def lineRuns : Nat → Nat → Nat → List (Nat × Nat)
  | 0, _, _ => []
  | fuel + 1, a, n =>
    if n = 0 then []
    else
      let k := min n (64 - a % 64)
      (a, k) :: lineRuns fuel (a + k) (n - k)

/-- The cause of the first byte of a run that cannot be accessed. -/
def State.runFault (s : State) (l : Launch) (k : Acc) (a n : Nat) : Option Cause :=
  (List.range n).findSome? (fun j => match s.checkPlain l (s.isl l.isl).ttlb k (a + j) 1 with
    | .error x => some x
    | .ok _ => none)

/-- Result of a part of a job: the state, the bytes, and the fault that stopped it. -/
structure JobRes where
  s : State
  bs : List Byte
  bad : Option Cause

/-- Reads memory for a core's job, run by run (R264). -/
def State.jobLoad (s : State) (ck : Nat) (l : Launch) (back : Bool) : List (Nat × Nat) → JobRes
  | [] => ⟨s, [], none⟩
  | (a, n) :: r =>
    match s.runFault l .read a n, s.checkPlain l (s.isl l.isl).ttlb .read a 1 with
    | some x, _ => ⟨s, [], some x⟩
    | none, .error x => ⟨s, [], some x⟩
    | none, .ok p =>
      let (s1, bs) := (s.fillTtlb l back a).l1Load ck p n
      let rest := s1.jobLoad ck l back r
      { rest with bs := bs ++ rest.bs }

/-- Writes memory for a core's job, run by run (R264). -/
def State.jobStore (s : State) (ck : Nat) (l : Launch) (back : Bool) (bs : List Byte) : List (Nat × Nat) → JobRes
  | [] => ⟨s, [], none⟩
  | (a, n) :: r =>
    match s.runFault l .write a n, s.checkPlain l (s.isl l.isl).ttlb .write a 1 with
    | some x, _ => ⟨s, [], some x⟩
    | none, .error x => ⟨s, [], some x⟩
    | none, .ok p => ((s.fillTtlb l back a).l1Store ck p (bs.take n)).jobStore ck l back (bs.drop n) r

/-- The slab bounds of a row (R72, R180): the address at fault. -/
def State.slabRowFault (s : State) (t a n : Nat) : Cause :=
  let size := (s.team t).slab * 4096
  let off := a % 2 ^ 19
  mkCause 5 0 (BitVec.ofNat 64 (if a / 2 ^ 19 = 0 && off < size && size < off + n then size else a))

/-- An element of a card's block through a handle, judged as the job runs (R180, R413). DESIGN CHOICE (assumption 23): where no
rule of R75 covers what is wrong with the handle or its coordinates, the card breaches a limit, which is the engine-operand trap
of R186. -/
def State.jobElem (s : State) (l : Launch) (r : BitVec 512) (k : Acc) (cs : List Nat) : Except Cause ElemRef :=
  if !hValid r || hTag r == 5 || !coordsOk r cs then .error (mkCause 0x0C 0 0)
  else s.elemRef l none r k cs

/-- Translations of an element's first and last byte (R304). -/
def State.fillElem (s : State) (l : Launch) (e : ElemRef) (w : Nat) : State :=
  (s.fillTtlb l false (e.ba / 8)).fillTtlb l false ((e.ba + w - 1) / 8)

/-- Reads the elements of a row through a handle (R285, R298). -/
def State.rowLoad (s : State) (ck : Nat) (l : Launch) (r : BitVec 512) : List (List Nat) → State × List Nat × Option Cause
  | [] => (s, [], none)
  | c :: cs =>
    match s.jobElem l r .read c with
    | .error x => (s, [], some x)
    | .ok e =>
      let w := elemWidth (hFmt r)
      let (s1, bs) := (s.fillElem l e w).elemRead ck (hPd r) e.locs
      let (s2, vs, x) := s1.rowLoad ck l r cs
      (s2, bitsOf e.ba w bs :: vs, x)

/-- Writes the elements of a row through a handle, the low bits of a last one that the row cuts; those of a MOVING tile come
back as held writes (R299). -/
def State.rowStore (s : State) (ck : Nat) (l : Launch) (r : BitVec 512) :
    List (List Nat × Nat × Nat) → State × List (Nat × Nat × Nat × Nat) × Option Cause
  | [] => (s, [], none)
  | (c, w, v) :: cs =>
    match s.jobElem l r .write c with
    | .error x => (s, [], some x)
    | .ok e =>
      if e.st = 1 then
        let (s1, hs, x) := s.rowStore ck l r cs
        (s1, (e.tile, e.ba, w, v) :: hs, x)
      else
        let ps := e.locs.take (bitBytes e.ba w).2
        let (s1, bs) := (s.fillElem l e w).elemRead ck (hPd r) ps
        (s1.elemWrite ck (hPd r) (ps.zip (bitsPut e.ba w v bs))).rowStore ck l r cs

/-- The elements of a row as its n bytes, and back: each with the bits of it that the row holds. -/
def elemsToBytes (w n : Nat) (vs : List Nat) : List Byte := leBytes n (packCodes w vs)
def bytesToElems (w : Nat) (bs : List Byte) : List (Nat × Nat) :=
  (List.range (rowElements w bs.length)).map (fun i =>
    let u := min w (bs.length * 8 - w * i)
    (u, leNat bs / 2 ^ (w * i) % 2 ^ u))

/-- Reads one row of n bytes from a place of a card's kind. -/
def State.readRow (s : State) (ck t kind : Nat) (r : BitVec 512) (word : Nat) (stride : Int) (i n : Nat) : JobRes :=
  let l := s.launch (s.team t).launch
  let a := ((word : Int) + stride * i) % (2 ^ 64 : Int)
  match kind with
  | 0 => s.jobLoad ck l (decide (stride < 0)) (lineRuns (n / 64 + 2) a.toNat n)
  | 1 =>
    let x := a.toNat % 2 ^ 32
    match s.slabPlace t x n with
    | some (u, off) => ⟨s, s.winRead u off n, none⟩
    | none => ⟨s, [], some (s.slabRowFault t x n)⟩
  | _ =>
    let w := elemWidth (hFmt r)
    let (s1, vs, bad) := s.rowLoad ck l r ((List.range (rowElements w n)).map (fun k => cardCoords word k i))
    ⟨s1, elemsToBytes w n vs, bad⟩

/-- Groups a job's held elements by tile and holds them (R299): one pair for each tile. -/
def State.holdJob (s : State) (ck id : Nat) (l : Launch) (map : Nat) (hs : List (Nat × Nat × Nat × Nat)) : State :=
  let tiles := (hs.map (·.1)).eraseDups
  s.holdWrites l.isl l.asid map (tiles.map (fun t =>
    ⟨t, true, ck, id, (hs.filter (fun h => h.1 = t)).map (fun h => h.2), []⟩))

/-- Writes one row to a place of a card's kind; the held elements come back. -/
def State.writeRow (s : State) (ck t kind : Nat) (r : BitVec 512) (word : Nat) (stride : Int) (i : Nat) (bs : List Byte) :
    State × List (Nat × Nat × Nat × Nat) × Option Cause :=
  let l := s.launch (s.team t).launch
  let a := ((word : Int) + stride * i) % (2 ^ 64 : Int)
  let n := bs.length
  match kind with
  | 0 =>
    let res := s.jobStore ck l (decide (stride < 0)) bs (lineRuns (n / 64 + 2) a.toNat n)
    (res.s, [], res.bad)
  | 1 =>
    let x := a.toNat % 2 ^ 32
    match s.slabPlace t x n with
    | some (u, off) => (s.winWrite u off bs, [], none)
    | none => (s, [], some (s.slabRowFault t x n))
  | _ =>
    let es := bytesToElems (elemWidth (hFmt r)) bs
    s.rowStore ck l r ((es.zip (List.range es.length)).map (fun (e, k) => (cardCoords word k i, e)))

/-- The rows of `cpy` from row i on, n of them (R180). -/
def State.cpyRows (s : State) (ck : Nat) (j : Job) : Nat → Nat → State × List (Nat × Nat × Nat × Nat) × Option Cause
  | 0, _ => (s, [], none)
  | n + 1, i =>
    let src := s.readRow ck j.team (cardSk j.card) j.srcTn (cardWord j.card 1) (cardStride j.card 4) i (cardRow j.card)
    match src.bad with
    | some x => (src.s, [], some x)
    | none =>
      let (s1, hs, bad) := src.s.writeRow ck j.team (cardDk j.card) j.dstTn (cardWord j.card 2) (cardStride j.card 5) i src.bs
      match bad with
      | some x => (s1, hs, some x)
      | none =>
        let (s2, hs', x) := s1.cpyRows ck j n (i + 1)
        (s2, hs ++ hs', x)

/-- Lays the present elements of a row out densely (R180): bits of the bitmap row, and the values in order. -/
def expandRow (es : Nat) : List Bool → List Byte → List Byte
  | [], _ => []
  | true :: r, vs => vs.take es ++ expandRow es r (vs.drop es)
  | false :: r, vs => List.replicate es 0 ++ expandRow es r vs

def bitList (bs : List Byte) : List Bool := (bs.map (fun b => (List.range 8).map (fun i => b.getLsbD i))).flatten

/-- n bytes of packed values through a handle, from byte `used` of them on: they may begin inside an element (R180). -/
def State.readPacked (s : State) (ck t : Nat) (r : BitVec 512) (word used n : Nat) : JobRes :=
  let l := s.launch (s.team t).launch
  let w := elemWidth (hFmt r)
  let k := used * 8 / w
  let cut := used * 8 - k * w
  let (s1, vs, bad) := s.rowLoad ck l r ((List.range (rowElements w n + 1)).filterMap (fun j =>
    if j * w < cut + n * 8 then some (cardCoords word (k + j) 0) else none))
  ⟨s1, leBytes n (packCodes w vs / 2 ^ cut), bad⟩

/-- The rows of `cpyx` from row i on, n of them; `used` values have been read (R180). -/
def State.cpyxRows (s : State) (ck : Nat) (j : Job) : Nat → Nat → Nat → State × List (Nat × Nat × Nat × Nat) × Option Cause
  | 0, _, _ => (s, [], none)
  | n + 1, i, used =>
    let sk := cardSk j.card
    let es := cardEsize j.card
    let nb := cardRow j.card / 8
    let bm := s.readRow ck j.team sk j.srcTn (cardWord j.card 1) (if sk = 2 then 0 else nb) i nb
    match bm.bad with
    | some x => (bm.s, [], some x)
    | none =>
      let bits := bitList bm.bs
      let cnt := (bits.filter (fun b => b)).length
      let vals :=
        if cnt = 0 then ⟨bm.s, [], none⟩
        else if sk = 2 then bm.s.readPacked ck j.team j.srcTn (cardWord j.card 6) (used * es) (cnt * es)
        else bm.s.readRow ck j.team sk j.srcTn (cardWord j.card 6) (used * es) 1 (cnt * es)
      match vals.bad with
      | some x => (vals.s, [], some x)
      | none =>
        let (s1, hs, bad) := vals.s.writeRow ck j.team (cardDk j.card) j.dstTn (cardWord j.card 2) (cardStride j.card 5) i
          (expandRow es bits vals.bs)
        match bad with
        | some x => (s1, hs, some x)
        | none =>
          let (s2, hs', x) := s1.cpyxRows ck j n (i + 1) (used + cnt)
          (s2, hs ++ hs', x)

/-- Cuts bytes for a window offset into beats of 64-byte lines. -/
def beatsOf (tw off : Nat) (bs : List Byte) : List (Nat × Nat × List Byte) :=
  (lineRuns (bs.length / 64 + 2) off bs.length).map (fun (a, n) => (tw, a, (bs.drop (a - off)).take n))

/-- The rows of `cpym` from row i on, n of them: its beats (R180, R212). -/
def State.cpymRows (s : State) (ck : Nat) (j : Job) : Nat → Nat → State × List (Nat × Nat × List Byte) × Option Cause
  | 0, _ => (s, [], none)
  | n + 1, i =>
    let src := s.readRow ck j.team (cardSk j.card) j.srcTn (cardWord j.card 1) (cardStride j.card 4) i (cardRow j.card)
    match src.bad with
    | some x => (src.s, [], some x)
    | none =>
      let off : Int := cardWord j.card 2 + cardStride j.card 5 * i
      let size := (s.team j.team).slab * 4096
      if off < 0 || (size : Int) < off + cardRow j.card then
        (src.s, [], some (mkCause 5 0 (BitVec.ofNat 64 (if 0 ≤ off && off < size then size else (off % 2 ^ 32).toNat))))
      else
        let bts := (j.windows.map (fun w => beatsOf w.1 off.toNat src.bs)).flatten
        let (s1, more, x) := src.s.cpymRows ck j n (i + 1)
        (s1, bts ++ more, x)

def State.modJob (s : State) (ck id : Nat) (g : Job → Job) : State :=
  s.modCore ck (fun c => { c with jobs := c.jobs.map (fun j => if j.id = id then g j else j) })

/-- The imprecise cause of a copy job's fault (R186, R267), origin 3: an engine operand with the card's address, else a job
fault with the code of the cause. DEDUCED (assumption 95): also for the rows of a card that leave the window, where R188 speaks
of an engine operand. -/
def jobCause (j : Job) (x : Cause) : Cause :=
  if x.code = 0x0C then ⟨0x0C, 0, j.addr, none, 0, 3⟩ else ⟨0x13, x.code, x.info, none, 0, 3⟩

/-- The bytes of slab windows that a job has changed since `s0`, as they were, for the reads of R181. -/
def State.keepPrior (s0 s : State) (id : Nat) : List Region → State
  | [] => s
  | r :: rs =>
    if r.space ≠ 1 then s0.keepPrior s id rs
    else
      let at_ := (List.range (64 * (r.hi - r.lo))).map (fun j => 64 * r.lo + j)
      let old := (s0.team r.owner).win
      let new := (s.team r.owner).win
      let diff := (at_.filter (fun a => old.read a != new.read a)).map (fun a => (a, id, old.read a))
      s0.keepPrior (s.modTeam r.owner (fun x => { x with prior := x.prior ++ diff })) id rs

/-- A completed job's earlier bytes are forgotten. -/
def State.dropPrior (s : State) (id : Nat) : State :=
  { s with teams := peach s.teams (fun _ x => { x with prior := x.prior.filter (fun e => e.2.1 != id) }) }

/-- A copy job starts (R180, R218): its bytes are performed, its beats made; a fault stops it part-way. -/
def State.startCopy (s : State) (ck : Nat) (j : Job) : State :=
  let l := s.launch (s.team j.team).launch
  let rows := cardRows j.card
  match j.kind with
  | .cpym =>
    let (s1, bts, bad) := s.cpymRows ck j rows 0
    s1.modJob ck j.id (fun j => { j with started := true, beats := bts, fault := bad.map (jobCause j) })
  | .cpyx =>
    let (s1, hs, bad) := s.cpyxRows ck j rows 0 0
    (s1.holdJob ck j.id l (hMap j.dstTn) hs).modJob ck j.id (fun j => { j with started := true, fault := bad.map (jobCause j) })
  | _ =>
    let (s1, hs, bad) := s.cpyRows ck j rows 0
    (s1.holdJob ck j.id l (hMap j.dstTn) hs).modJob ck j.id (fun j => { j with started := true, fault := bad.map (jobCause j) })

/-- One beat of a `cpym` (R212): written where the window's tag is the recorded one, else discarded and counted once for
the job and the window; so too while the window's gang is being pre-empted (R279), and where a later window has the units. Units
of an ended team that nobody has taken keep their tag and take the beat unseen (assumption 71). DESIGN CHOICE (assumption 105): the
spoil counter that rises is that of the core recorded for the window. -/
def State.beat (s : State) (ck : Nat) (j : Job) (k : Nat) : State :=
  match j.beats[k]? with
  | none => s
  | some (tw, off, bs) =>
    let rest := j.beats.take k ++ j.beats.drop (k + 1)
    match j.windows.find? (fun w => w.1 = tw) with
    | none => s.modJob ck j.id (fun j => { j with beats := rest })
    | some (_, t, wc, tag) =>
      let x := s.team t
      let there := (pfind s.teams t).isSome
      if !there && !j.retaken.contains tw then s.modJob ck j.id (fun j => { j with beats := rest })
      else if there && x.tag = tag && (pget Gang.waiting (s.launch x.launch).gangs x.gang).want ≠ 2 then (s.winWrite t off bs).modJob ck j.id (fun j => { j with beats := rest })
      else
        let s1 := if j.spoiled.contains tw then s else s.modCore wc (fun c => { c with spoil := c.spoil + 1 })
        s1.modJob ck j.id (fun j => { j with beats := rest, spoiled := if j.spoiled.contains tw then j.spoiled else tw :: j.spoiled })

/-- Held writes of a job that are not yet performed (R299). -/
def State.jobHeld (s : State) (ck id : Nat) : Bool :=
  (s.isl (coreIsl ck)).convs.any (fun v => v.held.any (fun h => h.job && h.owner == ck && h.id == id))

/-- Adds arrivals of a transfer unit (R184). -/
def State.addArrivals (s : State) : List (Nat × Nat × Nat × Nat) → State
  | [] => s
  | a :: r => ({ s with arrivals := pput s.arrivals s.nextId a, nextId := s.nextId + 1 }).addArrivals r

/-- Arrivals of sequencers that waited for a job (R184), in order. -/
def State.payOwed (s : State) (ck t : Nat) (cp : Bool) : List (Nat × Nat) → State
  | [] => s
  | (b, n) :: r =>
    if (s.bar t b).exp = 0 then
      let s1 := s.stopSeq ck cp
      s1.imprecise t (causeBarrier 2 b (seqOrg cp))
    else (s.arrive ck t b n).payOwed ck t cp r

/-- The arrivals of one sequencer that wait for no job any more. -/
def State.settleOwed (s : State) (ck : Nat) (cp : Bool) : State :=
  let c := s.core ck
  let live := c.jobs.map (·.id)
  let free (e : Bool × List Nat × Nat × Nat) : Bool := e.1 == cp && !e.2.1.any (fun i => live.contains i)
  let pay := (c.owed.filter free).map (fun e => e.2.2)
  (s.modCore ck (fun c => { c with owed := c.owed.filter (fun e => !free e) })).payOwed ck (s.seqTeam ck) cp pay

/-- The receiver arrivals of a `cpym` (R180): none for a window that lost a beat, and none of the other kinds. -/
def Job.receivers (j : Job) (ck b : Nat) : List (Nat × Nat × Nat × Nat) :=
  (j.windows.filter (fun w => !j.spoiled.contains w.1)).map (fun w => (w.2.1, b, j.team, ck))

/-- A job completes (R180, R184, R215): it leaves the checker, a copy job owes its arrivals, a fault goes to the producer, and
arrivals that its sequencer owed behind it are never made (assumption 69). -/
def State.finishJob (s : State) (ck : Nat) (j : Job) : State :=
  let s1 := (s.dropPrior j.id).modCore ck (fun c =>
    { c with jobs := c.jobs.filter (fun x => x.id != j.id)
             owed := if j.fault.isSome then c.owed.filter (fun e => !e.2.1.contains j.id) else c.owed })
  let s2 := match j.crew with
    | some id => s1.completeHeld id j.id
    | none => s1
  let s3 := match j.fault with
    | some x =>
      let s' := if j.crew.isNone then s2.stopSeq ck j.isCopy else s2
      s'.imprecise j.team x
    | none =>
      if j.isCopy then
        let own := if cardField j.card 16 1 = 1 then [(j.team, cardField j.card 12 4, j.team, ck)] else []
        let w6 := cardWord j.card 6
        s2.addArrivals (own ++ if w6.testBit 8 then j.receivers ck (w6 / 16 % 16) else [])
      else s2
  (s3.settleOwed ck true).settleOwed ck false

/-- A transfer unit's arrival is applied (R183): on a barrier that was never initialised it is the barrier trap of the team
that issued the job. DESIGN CHOICE (assumption 101): for a team that has ended by then it is dropped. -/
def State.applyArrival (s : State) (k : Nat) : State :=
  match pfind s.arrivals k with
  | none => s
  | some (t, b, src, ck) =>
    let s1 := { s with arrivals := pdel s.arrivals k }
    if (pfind s.teams t).isNone then s1
    else if (s.bar t b).exp = 0 then s1.imprecise src (causeBarrier 2 b 3)
    else s1.arrive ck t b 1

end Sys2Proof.Machine
end

