-- ==== Sys2Proof/Machine/Engine.lean ====
section
/-! DEFINITION. Engine rights, fork and rendezvous, the sequencers' control, weights, streams, the accumulator (11 R163-R178,
13 R192-R206, 14 R216), opcodes 0x0A0 to 0x0AA. -/

namespace Sys2Proof.Machine

def causeRights (sub : Nat) : Cause := mkCause 0x0A sub 0
def causeOperand : Cause := mkCause 0x0C 0 0

/-- A team takes the engines of its core (R164): all of them zero, the planes unloaded. -/
def Core.takeEngines (c : Core) (t : Nat) : Core :=
  if c.owner = some t then c
  else { c with owner := some t, acc := [], active := .zero, shadow := .zero, gen := 0, ms := .idle, cs := .idle, owed := [] }

/-- A sequencer that has completed `seq.end` since its last start (R166). -/
def Sequencer.ended (q : Sequencer) : Bool := q.st == .idle

/-- A sequencer started at an entry with the crew's uniform registers (R166). -/
def Sequencer.start (entry : DWord) (k : PMap DWord) : Sequencer :=
  { st := .running, pc := entry, hdr := entry, idx := 0, left := 0, k := k }

/-- `fork` (R164, R166): the decode traps first, a target that is no clause header among them (R29, assumption 67). -/
def execFork (f : Form) (s : State) : Host.Outcome State Fault Refusal :=
  runCrew (.fork f) f s (fun s _ c =>
    let core := s.core c.core
    let a := c.uni f 2 f.a
    let b := c.uni f 2 f.b
    let bad (e : DWord) : Bool := e != 0 && e.toNat % 32 != 0
    let entryFault (e : DWord) : Option Cause :=
      if e = 0 || bad e then none else s.targetFault c.core (s.launchOf c) e
    if (List.range 64).any c.kAwaits then .trap causePending
    else if (entryFault a).isSome || (entryFault b).isSome then
      .trap ((entryFault a).getD ((entryFault b).getD causePending))
    else if c.num ≠ (s.team c.team).prod then .trap (causeRights 0)
    else if core.owner.isSome && core.owner != some c.team then .trap (causeRights 1)
    else if bad a || bad b then .trap causeOperand
    else if core.owner == some c.team && ((a != 0 && !core.ms.ended) || (b != 0 && !core.cs.ended)) then .trap (causeRights 2)
    else
      let s1 := s.modCore c.core (fun x =>
        let y := x.takeEngines c.team
        { y with ms := if a = 0 then y.ms else .start a c.k, cs := if b = 0 then y.cs else .start b c.k })
      .ok (s1.modTeam c.team (fun t => { t with forkM := a != 0, forkC := b != 0 })))

/-- `rdv` (R167). -/
def execRdv (f : Form) (s : State) : Host.Outcome State Fault Refusal :=
  runCrew (.rdv f) f s (fun s _ c =>
    let t := s.team c.team
    let core := s.core c.core
    if (t.forkM && !core.ms.ended) || (t.forkC && !core.cs.ended) then .stall else .ok s)

/-- Jobs of one sequencer that have not completed. -/
def Core.seqJobs (c : Core) (cp : Bool) : List Job := c.jobs.filter (fun j => j.crew.isNone && j.isCopy == cp)

/-- `seq.end` (R168): the sequencer stops; it is idle once every earlier job and arrival is done. -/
def execSeqEnd (f : Form) (s : State) : Host.Outcome State Fault Refusal :=
  runSeq f s (fun s ck cp _ => .moved (s.modSeq ck cp (fun q => { q.pass f.len.bytes with st := .ending })))

/-- An ending sequencer whose work is done (R216). -/
def State.endDone (s : State) (ck : Nat) (cp : Bool) : Bool :=
  let c := s.core ck
  (if cp then c.cs else c.ms).st == .ending && (c.seqJobs cp).isEmpty && !c.owed.any (fun e => e.1 == cp)

/-- `seq.loop` (R168). -/
def execSeqLoop (f : Form) (s : State) : Host.Outcome State Fault Refusal :=
  runSeq f s (fun s ck cp q =>
    let r := f.dst.toNat
    let n := pget 0 q.k r - 1
    let put (q : Sequencer) : Sequencer := { q with k := pset 0 q.k r n }
    if n = 0 then .pass (s.modSeq ck cp put)
    else
      let target := directTarget q.pc f
      match s.targetFault ck (s.launch (s.team (s.seqTeam ck)).launch) target with
      | some _ => .fault { mkCause 0x12 7 q.pc with org := seqOrg cp }
      | none => .moved (s.modSeq ck cp (fun q => { put q with pc := target, hdr := target, idx := 0, left := 0 })))

/-! ### The control word (R169) -/

structure Ctl where
  w : Nat

def Ctl.arow (c : Ctl) : Nat := c.w % 2 ^ 8
def Ctl.rows (c : Ctl) : Nat := c.w / 2 ^ 8 % 2 ^ 9
def Ctl.zc (c : Ctl) : Bool := c.w.testBit 17
def Ctl.kl (c : Ctl) : Nat := c.w / 2 ^ 8 % 2 ^ 11
def Ctl.gate (c : Ctl) : Option (Nat × Nat) := if c.w.testBit 24 then some (c.w / 2 ^ 20 % 16, c.w / 2 ^ 32 % 2 ^ 16) else none

/-- Reserved bits common to all. -/
def Ctl.reserved (c : Ctl) : Bool := decide (c.w / 2 ^ 48 ≠ 0) || decide (c.w / 2 ^ 25 % 2 ^ 7 ≠ 0) || c.w.testBit 19

/-- Limits of a control word over rows: `zcOk` where bit 17 has a meaning, `per` accumulator rows a row (R169, R202). -/
def Ctl.bad (c : Ctl) (zcOk : Bool) (per : Nat) : Bool :=
  c.reserved || c.w.testBit 18 || (!zcOk && c.w.testBit 17) || c.rows == 0 || decide (256 < c.rows)
    || decide (256 < c.arow + per * c.rows)

/-- `aclr` (R164, R169, R176). DESIGN CHOICE (assumption 99): a bad control word is reported before a running matrix sequencer, in
the order that R166 gives `fork`. -/
def execAclr (f : Form) (s : State) : Host.Outcome State Fault Refusal :=
  runCrew (.aclr f) f s (fun s _ c =>
    let core := s.core c.core
    let ctl : Ctl := ⟨(c.uni f 2 f.a).toNat⟩
    if core.owner.isSome && core.owner != some c.team then .trap (causeRights 1)
    else if ctl.bad false 1 || ctl.gate.isSome then .trap causeOperand
    else if core.owner == some c.team && !core.ms.ended then .trap (causeRights 2)
    else .ok (s.modCore c.core (fun x =>
      let y := x.takeEngines c.team
      { y with acc := y.acc.filter (fun e => decide (e.1 / 64 < ctl.arow) || decide (ctl.arow + ctl.rows ≤ e.1 / 64)) })))

/-! ### Weights (R170, R171) -/

/-- Present K elements of 64 for a sparsity. -/
def sparsN : Nat → Nat
  | 1 => 32
  | 2 => 16
  | _ => 64

def align64 (n : Nat) : Nat := (n + 63) / 64 * 64

/-- Offsets of the parts of a weight image, and its size (R171). -/
structure ImageParts where
  kp : Nat
  bands : Nat
  scales : Nat
  elems : Nat
  size : Nat

def imageParts (fmt spars kl : Nat) : ImageParts :=
  let kp := kl * sparsN spars / 64
  let masks := if spars = 0 then 0 else 64 * 8 * (kl / 64)
  let bands := align64 masks
  let nb := if fmt = 7 then 4 * ((kl + 63) / 64) else 0
  let scales := align64 (bands + nb)
  let ns := if blockSize fmt = 0 then 0 else 64 * (kp / blockSize fmt)
  let elems := align64 (scales + ns)
  ⟨kp, bands, scales, elems, elems + 64 * (kp * elemWidth fmt / 8)⟩

/-- Limits of `ldw` that its words alone decide (R169, R171). -/
def ldwBad (ctl : Ctl) (fmt spars : Nat) : Bool :=
  let kl := ctl.kl
  let kp := kl * sparsN spars / 64
  ctl.reserved || decide (ctl.w % 2 ^ 8 ≠ 0) || !([32, 64, 128, 256, 512, 1024].contains kl)
    || (spars != 0 && kl % 64 != 0) || decide (planeCap fmt < kp) || (blockSize fmt != 0 && kp % blockSize fmt != 0)

/-- The mask of a column's K-group (R171). -/
def imageMask (image : List Byte) (kl n g : Nat) : Nat := leNat ((image.drop (8 * (n * (kl / 64) + g))).take 8)

/-- Limits that the image decides (R171): masks with another count, bands with a reserved bit. -/
def imageBad (image : List Byte) (fmt spars kl : Nat) : Bool :=
  let p := imageParts fmt spars kl
  (spars != 0 && (List.range 64).any (fun n => (List.range (kl / 64)).any (fun g =>
    popBits 64 (imageMask image kl n g) != sparsN spars)))
  || (fmt == 7 && (List.range ((kl + 63) / 64)).any (fun b =>
    decide (2 ^ 20 ≤ leNat ((image.drop (p.bands + 4 * b)).take 4))))

/-- Logical K of a column's present elements, in order. -/
def presentK (image : List Byte) (spars kl n : Nat) : List Nat :=
  if spars = 0 then List.range kl
  else (List.range kl).filter (fun k => (imageMask image kl n (k / 64)).testBit (k % 64))

/-- A plane's column as (logical K, element code, scale × band) (R171, R196). -/
def columnOf (p : Plane) (n : Nat) : List (Nat × Nat × FVal) :=
  let parts := imageParts p.fmt p.spars p.kl
  let w := elemWidth p.fmt
  let bytes := parts.kp * w / 8
  let code := leNat ((p.image.drop (parts.elems + n * bytes)).take bytes)
  let bs := blockSize p.fmt
  let scales := if bs = 0 then [] else (p.image.drop (parts.scales + n * (parts.kp / bs))).take (parts.kp / bs)
  let ks := presentK p.image p.spars p.kl n
  (ks.zip (List.range parts.kp)).map (fun (k, e) =>
    let scale := if bs = 0 then FVal.fin false 1 0 else scaleVal p.fmt (scales.getD (e / bs) 0).toNat
    let band := if p.fmt = 7 then bandVal (leNat ((p.image.drop (parts.bands + 4 * (k / 64))).take 4)) else FVal.fin false 1 0
    (k, code / 2 ^ (w * e) % 2 ^ w, prodVal scale band))

/-- Pairings of weights and activations (R174), complex ones by their own code. -/
def pairOk (wf af : Nat) : Bool :=
  if wf ≤ 2 then wf == af
  else if wf ≤ 9 then decide (3 ≤ af) && decide (af ≤ 9)
  else if wf ≤ 12 then decide (10 ≤ af) && decide (af ≤ 12)
  else wf == af

/-! ### Activations (R173) -/

/-- Logical K of a stream's group. -/
def groupK (af spars : Nat) : Nat := rowElems af * 64 / sparsN spars
def rowBytes (af spars : Nat) : Nat := groupK af spars * elemWidth af / 8
def scaleBytes (af spars : Nat) : Nat :=
  let kg := groupK af spars
  let n := match af with
    | 7 => 4 * (kg / 64) + kg / 8
    | 8 => kg / 32
    | 9 => kg / 16
    | _ => 0
  (n + 15) / 16 * 16

/-- The scale of a logical K of an activation row (R173, R195, R196). -/
def actScale (af kg : Nat) (srow : List Byte) (k : Nat) : FVal :=
  match af with
  | 7 => prodVal (e3m5 (srow.getD (4 * (kg / 64) + k / 8) 0).toNat) (bandVal (leNat ((srow.drop (4 * (k / 64))).take 4)))
  | 8 => e8m0 (srow.getD (k / 32) 0).toNat
  | 9 => e3m5 (srow.getD (k / 16) 0).toNat
  | _ => .fin false 1 0

/-- The codes of an activation row by logical K. -/
def actCodes (af kg : Nat) (row : List Byte) : List Nat :=
  let w := elemWidth af
  let x := leNat row
  (List.range kg).map (fun k => x / 2 ^ (w * k) % 2 ^ w)

/-- Exact products of a real column and a row (R196, R197). -/
def realProds (p : Plane) (col : List (Nat × Nat × FVal)) (af : Nat) (codes : List Nat) (srow : List Byte) : List FVal :=
  let kg := groupK af p.spars
  col.map (fun (k, c, sc) =>
    prodVal (prodVal (elemVal p.fmt c) sc) (prodVal (elemVal af (codes.getD k 0)) (actScale af kg srow k)))

/-- Parts of a complex element (R194). -/
def complexParts (fmt c : Nat) : FVal × FVal :=
  let w := elemWidth fmt / 2
  (elemVal (partFmt fmt) (c % 2 ^ w), elemVal (partFmt fmt) (c / 2 ^ w))

/-- Products of the real and of the imaginary component (R202). -/
def complexProds (p : Plane) (col : List (Nat × Nat × FVal)) (codes : List Nat) : List FVal × List FVal :=
  let es := col.map (fun (k, c, _) => (complexParts p.fmt c, complexParts p.fmt (codes.getD k 0)))
  ((es.map (fun (a, b) => [prodVal a.1 b.1, negVal (prodVal a.2 b.2)])).flatten,
    (es.map (fun (a, b) => [prodVal a.1 b.2, prodVal a.2 b.1])).flatten)

def accGet (acc : PMap Word) (row n : Nat) : Nat := (pget 0 acc (64 * row + n)).toNat

/-- Writes one accumulator row. -/
def accPut (acc : PMap Word) (row : Nat) (f : Nat → Nat) : PMap Word :=
  (List.range 64).foldl (fun a n => pset 0 a (64 * row + n) (BitVec.ofNat 32 (f n))) acc

/-- One activation row of a stream (R175, R202). -/
def streamRow (p : Plane) (cols : List (List (Nat × Nat × FVal))) (af : Nat) (complex zc : Bool) (row m : Nat)
    (codes : List Nat) (srow : List Byte) (acc : PMap Word) : PMap Word :=
  if complex then
    let r := row + 2 * m
    let c (q n : Nat) : Nat := if zc then 0 else accGet acc q n
    let res := (cols.zip (List.range 64)).map (fun (col, n) =>
      let (re, im) := complexProds p col codes
      (groupSum (c r n) re, groupSum (c (r + 1) n) im))
    accPut (accPut acc r (fun n => (res.getD n (0, 0)).1)) (r + 1) (fun n => (res.getD n (0, 0)).2)
  else
    let r := row + m
    let res := (cols.zip (List.range 64)).map (fun (col, n) =>
      groupSum (if zc then 0 else accGet acc r n) (realProds p col af codes srow))
    accPut acc r (fun n => res.getD n 0)

/-- A scale row of a `.bfp4` stream with a reserved band bit (R175). -/
def bandRowBad (af kg : Nat) (srow : List Byte) : Bool :=
  af == 7 && (List.range (kg / 64)).any (fun b => decide (2 ^ 20 ≤ leNat ((srow.drop (4 * b)).take 4)))

/-- The rows of a stream from row m on, n of them: the accumulator, and whether a scale row stopped it. -/
def streamRows (p : Plane) (cols : List (List (Nat × Nat × FVal))) (af : Nat) (complex zc : Bool) (row : Nat)
    (rowAt srowAt : Nat → List Byte) : Nat → Nat → PMap Word → PMap Word × Bool
  | 0, _, acc => (acc, false)
  | n + 1, m, acc =>
    let kg := groupK af p.spars
    if bandRowBad af kg (srowAt m) then (acc, true)
    else
      streamRows p cols af complex zc row rowAt srowAt n (m + 1)
        (streamRow p cols af complex zc row m (actCodes af kg (rowAt m)) (srowAt m) acc)

/-! ### Meanings of the matrix sequencer's instructions -/

/-- Slab operands of a sequencer's instruction (R413): address, alignment and bytes of each. -/
def State.seqSlab (s : State) (t : Nat) (pc : DWord) : List (DWord × Nat × Nat) → Option Cause
  | [] => none
  | (a, al, n) :: r =>
    match s.slabCheck t a al n with
    | .ok => s.seqSlab t pc r
    | .form => some { mkCause 0x0C 0 pc with org := 1 }
    | .bounds x => some { mkCause 0x13 5 (BitVec.ofNat 64 x) with org := 1 }

def slabRegion (t : Nat) (a : DWord) (n : Nat) : Region := granules 1 t (a.toNat % 2 ^ 19) n
def accRegion (lo n : Nat) : Region := ⟨2, 0, lo, lo + n⟩
/-- A weight plane by its identity. -/
def planeRegion (c : Core) (active : Bool) : Region :=
  let id := if c.flipped == active then 1 else 0
  ⟨3, 0, id, id + 1⟩

def seqOperand (pc : DWord) : Cause := { mkCause 0x0C 0 pc with org := 1 }
def seqMismatch (sub : Nat) (pc : DWord) : Cause := { mkCause 0x0B sub pc with org := 1 }

/-- Issues a job of the matrix sequencer: its gate (R169), its slab operands (R413), a place in the checker (R217). DESIGN CHOICE
(assumption 97): a job that fails a slab check has no effect, so an `ldw` leaves a shadow plane loaded before as it was, where
R171 has a trapped `ldw` leave it unloaded. -/
def issueJob (s : State) (ck : Nat) (q : Sequencer) (gate : Option (Nat × Nat)) (slabs : List (DWord × Nat × Nat)) (j : Job)
    (g : Sequencer → Sequencer) : SeqEff :=
  let t := s.seqTeam ck
  if !s.gateOpen { j with team := t, gate := gate } then .wait .gated
  else
    match s.seqSlab t q.pc slabs with
    | some x => .fault x
    | none =>
      if (s.core ck).jobsFull false then .wait .held
      else
        let s0 := match gate with
          | some (b, _) => s.acquireBar t b
          | none => s
        .pass ((s0.addJob ck { j with id := s.nextId, team := t, addr := q.pc }).modSeq ck false g)

/-- The word that an instruction was decoded from. -/
def encodedWord (i : Instr) : Nat := ((encode i).getD 0).toNat

/-- `ldw` (R171, R172): behind an earlier `ldw` it is held, before its own limits are judged. -/
def execLdw (f : Form) (s : State) : Host.Outcome State Fault Refusal :=
  runSeq f s (fun s ck _ q =>
    let ctl : Ctl := ⟨(q.uni f f.c).toNat⟩
    let a := q.uni f f.a
    if (s.core ck).jobs.any (fun j => j.crew.isNone && j.kind == .ldw) then .wait .held
    else if ldwBad ctl f.ty f.hi then
      let s1 := s.modCore ck (fun c => { c with shadow := { c.shadow with loaded := false } })
      .moved ((SeqEff.fault (seqOperand q.pc)).finish s1 ck false f.len.bytes)
    else
      let n := (imageParts f.ty f.hi ctl.kl).size
      issueJob s ck q ctl.gate [(a, 64, n)]
        { blankJob with
          kind := .ldw, word := encodedWord (.ldw f), mod := f.modN, a := a, c := BitVec.ofNat 64 ctl.w, reads := [slabRegion (s.seqTeam ck) a n]
          writes := [planeRegion (s.core ck) false] }
        (fun q => if f.xBit 5 then q.inc f.a n else q))

/-- `flip` (R172): it waits for the last `ldw` to complete and for the streams to have entered. -/
def execFlip (f : Form) (s : State) : Host.Outcome State Fault Refusal :=
  runSeq f s (fun s ck _ _ =>
    let busy := ((s.core ck).seqJobs false).any (fun j => match j.kind with
      | .ldw => true
      | .mma | .mmaC => !j.started
      | _ => false)
    if busy then .wait .held
    else .pass (s.modCore ck (fun c => { c with active := c.shadow, shadow := c.active, flipped := !c.flipped })))

/-- The checks of a stream at its start (R175). DESIGN CHOICE (assumption 91): where several fail, an unloaded plane comes first,
then the kind of the weights, the pairing and Kg. -/
def streamMismatch (p : Plane) (af : Nat) (complex : Bool) : Option Nat :=
  if !p.loaded then some 0
  else if complex != decide (13 ≤ p.fmt) then some 3
  else if !pairOk p.fmt af then some 1
  else if groupK af p.spars ≠ p.kl then some 2
  else none

/-- `mma` and `mma.c` (R175, R202): `af` is the activation format. Its slab operands are judged before it starts (R413); that its
plane fits it is judged as it starts (assumption 60). -/
def streamEff (f : Form) (complex : Bool) (s : State) (ck : Nat) (q : Sequencer) : SeqEff :=
  let af := f.ty
  let ctl : Ctl := ⟨(q.uni f f.c).toNat⟩
  let per := if complex then 2 else 1
  let c := s.core ck
  let t := s.seqTeam ck
  let sp := c.active.spars
  let a := q.uni f f.a
  let b := q.uni f f.b
  let n := ctl.rows * rowBytes af sp
  let m := ctl.rows * scaleBytes af sp
  if ctl.bad true per then .fault (seqOperand q.pc)
  else
    issueJob s ck q ctl.gate ((a, 1, n) :: (if m = 0 then [] else [(b, 1, m)]))
      { blankJob with
        kind := if complex then .mmaC else .mma, word := encodedWord (if complex then .mmaC f else .mma f), mod := f.modN, a := a, b := b, c := BitVec.ofNat 64 ctl.w
        reads := planeRegion c true :: slabRegion t a n :: (if m = 0 then [] else [slabRegion t b m])
        writes := [accRegion ctl.arow (per * ctl.rows)] }
      (fun q => if f.xBit 5 then (let q1 := q.inc f.a n; if f.b = .zero then q1 else q1.inc f.b m) else q)

def execMma (f : Form) (s : State) : Host.Outcome State Fault Refusal :=
  runSeq f s (fun s ck _ q => streamEff f false s ck q)
def execMmaC (f : Form) (s : State) : Host.Outcome State Fault Refusal :=
  runSeq f s (fun s ck _ q => streamEff f true s ck q)

/-- Bytes of an element that `amov` writes (R177). -/
def amovSize (fmt : Nat) : Nat := if fmt = 0 then 4 else 2

/-- `amov` (R177). -/
def execAmov (f : Form) (s : State) : Host.Outcome State Fault Refusal :=
  runSeq f s (fun s ck _ q =>
    let ctl : Ctl := ⟨(q.uni f f.c).toNat⟩
    let a := q.uni f f.a
    let n := ctl.rows * 64 * amovSize f.ty
    if ctl.bad false 1 then .fault (seqOperand q.pc)
    else
      issueJob s ck q ctl.gate [(a, amovSize f.ty, n)]
        { blankJob with
          kind := .amov, word := encodedWord (.amov f), mod := f.modN, a := a, c := BitVec.ofNat 64 ctl.w, reads := [accRegion ctl.arow ctl.rows]
          writes := slabRegion (s.seqTeam ck) a n :: (if f.m4 then [accRegion ctl.arow ctl.rows] else []) }
        (fun q => if f.xBit 5 then q.inc f.a n else q))

/-- Limits of the band operand of `qnt` (R178). -/
def qntBad (fmt : Nat) (seed : Bool) (b : Nat) : Bool :=
  decide (b / 2 ^ 20 % 2 ^ 12 ≠ 0) || (!seed && decide (2 ^ 32 ≤ b))
    || (if fmt = 7 then b / 2 ^ 11 % 256 == 0 else decide (b % 2 ^ 20 ≠ 0))

/-- `qnt` (R178). -/
def execQnt (f : Form) (s : State) : Host.Outcome State Fault Refusal :=
  runSeq f s (fun s ck _ q =>
    let ctl : Ctl := ⟨(q.uni f f.c).toNat⟩
    let a := q.uni f f.a
    let b := q.uni f f.b
    let n := ctl.rows * packedRow f.ty
    if ctl.bad false 1 || qntBad f.ty (f.xBit 4) b.toNat then .fault (seqOperand q.pc)
    else
      issueJob s ck q ctl.gate [(a, 8, n)]
        { blankJob with
          kind := .qnt, word := encodedWord (.qnt f), mod := f.modN, seed := f.xBit 4, a := a, b := b, c := BitVec.ofNat 64 ctl.w
          reads := [accRegion ctl.arow ctl.rows]
          writes := slabRegion (s.seqTeam ck) a n :: (if f.m5 then [accRegion ctl.arow ctl.rows] else []) }
        (fun q => if f.xBit 5 then q.inc f.a n else q))

/-! ### Starting a job of the matrix sequencer -/

def Job.started! (j : Job) (x : Option Cause) : Job := { j with started := true, fault := x }

/-- `ldw` reads its image into the shadow plane (R171). -/
def State.startLdw (s : State) (ck : Nat) (j : Job) : State :=
  let fmt := j.mod % 16
  let sp := j.mod / 16
  let kl := (Ctl.mk j.c.toNat).kl
  let image := s.winRead j.team (j.a.toNat % 2 ^ 19) (imageParts fmt sp kl).size
  let bad := imageBad image fmt sp kl
  let s1 := s.modCore ck (fun c =>
    { c with shadow := if bad then { c.shadow with loaded := false } else ⟨true, fmt, sp, kl, image⟩ })
  s1.modJob ck j.id (·.started! (if bad then some (seqOperand j.addr) else none))

/-- A stream runs over the active plane (R175): one that the plane does not fit writes no row. -/
def State.startMma (s : State) (ck : Nat) (j : Job) : State :=
  let af := j.mod % 16
  let ctl : Ctl := ⟨j.c.toNat⟩
  let p := (s.core ck).active
  match streamMismatch p af (decide (j.kind = .mmaC)) with
  | some sub => s.modJob ck j.id (·.started! (some (seqMismatch sub j.addr)))
  | none =>
  let cols := (List.range 64).map (columnOf p)
  let rb := rowBytes af p.spars
  let sb := scaleBytes af p.spars
  let rowAt (m : Nat) : List Byte := s.winRead j.team (j.a.toNat % 2 ^ 19 + m * rb) rb
  let srowAt (m : Nat) : List Byte := if sb = 0 then [] else s.winRead j.team (j.b.toNat % 2 ^ 19 + m * sb) sb
  let (acc, bad) := streamRows p cols af (decide (j.kind = .mmaC)) ctl.zc ctl.arow rowAt srowAt ctl.rows 0 (s.core ck).acc
  (s.modCore ck (fun c => { c with acc := acc })).modJob ck j.id (·.started! (if bad then some (seqOperand j.addr) else none))

/-- Clears accumulator rows (R177, R178). -/
def clearRows (acc : PMap Word) (lo n : Nat) : PMap Word :=
  acc.filter (fun e => decide (e.1 / 64 < lo) || decide (lo + n ≤ e.1 / 64))

/-- `amov` writes its rows (R177). -/
def State.startAmov (s : State) (ck : Nat) (j : Job) : State :=
  let fmt := j.mod % 16
  let ctl : Ctl := ⟨j.c.toNat⟩
  let acc := (s.core ck).acc
  let one (x : Nat) : List Byte :=
    if fmt = 0 then leBytes 4 x else leBytes 2 (fpConvert f32 (if fmt = 1 then bf16 else f16) .rne x).1
  let bs := ((List.range (64 * ctl.rows)).map (fun i => one (accGet acc ctl.arow i))).flatten
  let s1 := s.winWrite j.team (j.a.toNat % 2 ^ 19) bs
  (s1.modCore ck (fun c => if j.mod.testBit 4 then { c with acc := clearRows c.acc ctl.arow ctl.rows } else c)).modJob ck j.id
    (·.started! none)

/-- The records of `qnt`, row by row, and the generator after them (R178, R205). -/
def qntRows (fmt band : Nat) (sr : Bool) (acc : PMap Word) : Nat → Nat → Word → List Byte × Word
  | 0, _, g => ([], g)
  | n + 1, row, g =>
    let g1 := genStep g
    let rec_ := qRecord fmt band sr g1 ((List.range 64).map (accGet acc row))
    let (rest, g2) := qntRows fmt band sr acc n (row + 1) g1
    (rec_ ++ rest, g2)

/-- `qnt` writes its records (R178). -/
def State.startQnt (s : State) (ck : Nat) (j : Job) : State :=
  let ctl : Ctl := ⟨j.c.toNat⟩
  let c := s.core ck
  let g0 : Word := if j.seed then highWord j.b else c.gen
  let (bs, g) := qntRows (j.mod % 16) (j.b.toNat % 2 ^ 20) (j.mod.testBit 4) c.acc ctl.rows ctl.arow g0
  let s1 := s.winWrite j.team (j.a.toNat % 2 ^ 19) bs
  (s1.modCore ck (fun c =>
    { c with gen := g, acc := if j.mod.testBit 5 then clearRows c.acc ctl.arow ctl.rows else c.acc })).modJob ck j.id
    (·.started! none)

/-- The acquire of a crew's job whose gate has opened (R185); a sequencer's gate was passed at its issue. -/
def State.passGate (s : State) (j : Job) : State :=
  match j.gate with
  | some (b, _) => s.acquireBar j.team b
  | none => s

/-- What a job does at its start (R218). -/
def State.runJob (s : State) (ck : Nat) (j : Job) : State :=
  match j.kind with
  | .ldw => s.startLdw ck j
  | .mma | .mmaC => s.startMma ck j
  | .amov => s.startAmov ck j
  | .qnt => s.startQnt ck j
  | _ => s.startCopy ck j

/-- Starts a job of the checker (R218); what it changes in slab windows is both old and new until it completes (R181). -/
def State.startJob (s : State) (ck : Nat) (j : Job) : State :=
  let s1 := (s.enterTable j).passGate j
  let s2 := s1.runJob ck j
  if (s2.core ck).jobs.any (fun x => x.id == j.id) then s1.keepPrior s2 j.id j.writes else s2

end Sys2Proof.Machine
end

