-- ==== Sys2Proof/Machine/Place.lean ====
section
/-! DEFINITION. What a core holds and what a crew starts with (07 R110-R115, R122): units in use, dealing to quarters, the
start state, the seat in a quarter (10 R154, R161). -/

namespace Sys2Proof.Machine

/-! ### Units of a core (R112) -/

/-- Register-file units of one crew: R / 32 (R112). -/
def regUnits (nreg : Nat) : Nat := nreg / 32

def State.crewsOn (s : State) (ck : Nat) : PMap Crew := s.crews.filter (fun e => e.2.core == ck)
def State.teamsOn (s : State) (ck : Nat) : PMap Team := s.teams.filter (fun e => e.2.core == ck)

/-- Units a core has (R17, R112). -/
def State.regLimit (s : State) (ck : Nat) : Nat := 32 * pget 16 s.fuses.rfBanks ck
def State.slabLimit (s : State) (ck : Nat) : Nat := 16 * pget 8 s.fuses.slabBanks ck

def State.regUsed (s : State) (ck : Nat) : Nat := ((s.crewsOn ck).map (fun e => regUnits e.2.nreg)).sum
def State.slabUsed (s : State) (ck : Nat) : Nat := ((s.teamsOn ck).map (fun e => e.2.slab)).sum

/-- Crews of a quarter. -/
def State.quarterLoad (s : State) (ck q : Nat) : Nat := ((s.crewsOn ck).filter (fun e => e.2.quarter == q)).length

/-- The quarter that holds the fewest crews, the lowest of several (R112). -/
def fewest (load : Nat → Nat) : Nat :=
  [1, 2, 3].foldl (fun best q => if load q < load best then q else best) 0

/-! ### Start state (R113, R114) -/

/-- A crew's trap slot (R269): above every launch's own ranges but for programs that declare them so (assumption 15). -/
def ctxSlot (launch team num : Nat) : Nat := 2 ^ 56 + launch % 2 ^ 16 * 2 ^ 40 + team % 2 ^ 16 * 2 ^ 20 + num % 16 * 2 ^ 16

/-- The preloads of R113. -/
def Crew.preload (c : Crew) (l : Launch) (ln : Nat) (t : Team) : Crew :=
  let on (i : Nat) : Bool := l.pre.getLsbD i
  let put (b : Bool) (c : Crew) (n : Nat) (v : DWord) : Crew := if b then c.kset n v else c
  let c0 := if on 0 then c.vset 0 (lanesBy (fun i => BitVec.ofNat 32 i)) else c
  let c1 := put (on 1) c0 1 (BitVec.ofNat 64 c.num)
  let c2 := put (on 2) c1 2 (BitVec.ofNat 64 t.num)
  let c3 := put (on 3) c2 3 (BitVec.ofNat 64 (t.gang + t.tw * 2 ^ 32))
  let c4 := put (on 4) c3 62 (BitVec.ofNat 64 ln)
  let c5 := put (on 5) c4 0 l.param
  put (on 6) c5 63 (BitVec.ofNat 64 l.lcores)

/-- A crew's start state (R113, R114) at a clause header. -/
def State.startCrew (s : State) (t num : Nat) (entry : DWord) : Crew :=
  let team := s.team t
  let l := s.launch team.launch
  let c : Crew := { Crew.fresh with
    isl := team.isl, core := team.core, team := t, num := num, nreg := l.nreg, pc := entry, hdr := entry
    slot := ctxSlot team.launch team.num num }
  c.preload l team.launch team

/-! ### Seats (R154, R161) -/

/-- Active places of a quarter in use: a crew moving in has the place of the one that moves out. -/
def State.activeCount (s : State) (ck q : Nat) : Nat :=
  ((s.crewsOn ck).filter (fun e => e.2.quarter == q && (e.2.place = .active || e.2.place = .movingIn))).length

/-- Takes a seat in a quarter: active as the youngest where a place is free, else pending (R154, R161). -/
def State.seat (s : State) (id q : Nat) (c : Crew) : State :=
  let free := decide (s.activeCount c.core q < 8)
  let (s1, n) := s.nextStamp c.core q
  let c1 := { c with quarter := q, stall := .none, run := 0, yielded := false, waited := 0 }
  s1.setCrew id (if free then { c1 with place := .active, stamp := n, entered := n } else { c1 with place := .pending, wstamp := n })

/-- Deals a crew to the quarter with the fewest crews and seats it (R112). -/
def State.dealCrew (s : State) (id : Nat) (c : Crew) : State := s.seat id (fewest (s.quarterLoad c.core)) c

end Sys2Proof.Machine
end

