-- ==== Sys2Proof/Machine/Context.lean ====
section
/-! DEFINITION. Context memory as pre-emption fills it (18 R269, R270, R276): the crews' pre-emption slots and the team areas,
byte for byte. Resumption takes the state from the gang's own record, which says the same: no program, job or agent can
reach these bytes (R269, assumption 15). -/

namespace Sys2Proof.Machine

/-- A crew's pre-emption slot (assumption 15). -/
def preSlot (launch team num : Nat) : Nat := ctxSlot launch team num + 2 ^ 36

/-- A team's area (assumption 15). -/
def teamArea (launch team : Nat) : Nat := ctxSlot launch team 0 + 2 ^ 37

/-- Number of a sequencer's state (R276). -/
def SeqState.num : SeqState → Nat
  | .idle => 0 | .running => 1 | .gated => 2 | .held => 3 | .ending => 4 | .faulted => 5

/-- The 768 bytes of a sequencer (R276). -/
def Sequencer.bytes (q : Sequencer) : List Byte :=
  leBytes 8 q.st.num ++ leBytes 8 q.hdr.toNat ++ leBytes 8 q.idx ++ List.replicate 232 0
    ++ ((List.range 64).map (fun n => leBytes 8 (pget 0 q.k n).toNat)).flatten

/-- A barrier record (R182). -/
def Bar.record (x : Bar) : Nat := x.ph.toNat * 2 ^ 48 + x.arr % 2 ^ 10 * 2 ^ 32 + x.exp % 2 ^ 10

/-- The 64 bytes of a withdrawn job (R276): a copy job's card with its kind and source, or a matrix job's word and operands. -/
def Job.bytes (j : Job) : List Byte :=
  if j.isCopy then
    let kind := match j.kind with
      | .cpy => 1
      | .cpyx => 2
      | _ => 3
    let source := if j.crew.isSome then 0 else 2
    leBytes 8 (cardWord j.card 0 % 2 ^ 40 + kind * 2 ^ 56 + source * 2 ^ 60)
      ++ ((List.range 7).map (fun i => leBytes 8 (cardWord j.card (i + 1)))).flatten
  else leBytes 16 j.word ++ leBytes 8 j.a.toNat ++ leBytes 8 j.b.toNat ++ leBytes 8 j.c.toNat ++ List.replicate 24 0

/-- The latch word of a plane (R276): its four latches, four bytes each in the order named (assumption 15). -/
def Plane.latch (p : Plane) : List Byte :=
  leBytes 4 p.fmt ++ leBytes 4 p.spars ++ leBytes 4 p.kl ++ leBytes 4 (if p.loaded then 1 else 0)

/-- What a team area holds (R276), by offset. -/
def SavedTeam.area (t : SavedTeam) : Memory :=
  byteCells 0 ((List.range 16).map (fun n => leBytes 8 (pget Bar.zero t.team.bars n).record)).flatten
    ++ byteCells 0x80 ((List.range 16).map (fun n => leBytes 64 (pget 0 t.team.tn n).toNat)).flatten
    ++ byteCells 0x480 (leBytes 8 (t.team.roundNo % 2 ^ 32 + (if t.owner then 2 ^ 32 else 0) + t.jobs.length % 64 * 2 ^ 33)
      ++ leBytes 8 t.gen.toNat)
    ++ byteCells 0x500 (t.ms.bytes ++ t.cs.bytes)
    ++ byteCells 0xB00 ((t.jobs.take 32).map Job.bytes).flatten
    ++ (t.acc.map (fun e => byteCells (0x1300 + 4 * e.1) (leBytes 4 e.2.toNat))).flatten
    ++ byteCells 0x11300 (t.active.latch ++ t.active.image.take 24560)
    ++ byteCells 0x17300 (t.shadow.latch ++ t.shadow.image.take 24560)
    ++ t.team.win.map (fun e => (0x1D300 + e.1, e.2))

/-- Writes a team's area (R277 step 5). -/
def State.writeArea (s : State) (n : Nat) (t : SavedTeam) : State :=
  { s with mem := s.mem.place (s.homeKey t.team.isl (ctxBase + teamArea n t.team.num)) (0x1D300 + 4096 * t.team.slab) t.area }

/-- Writes a crew's pre-emption slot (R270, R277 step 5): its next unissued instruction, and no cause. -/
def State.writePreSlot (s : State) (n : Nat) (num : Nat) (c : Crew) : State :=
  let bytes := byteCells 0 (c.slotBytes c.hdr c.idx c.handler (mkCause 0 0 0) 0)
  { s with mem := s.mem.place (s.homeKey c.isl (ctxBase + preSlot n num c.num)) (slotSize c.nreg) bytes }

end Sys2Proof.Machine
end

