-- ==== Sys2Proof/Machine/Float.lean ====
section
/-! DEFINITION. Scalar floating-point and conversion instructions (04 R76-R90), opcodes 0x040 to 0x053. -/

namespace Sys2Proof.Machine

/-- The format of a float type code. -/
def fmtOf (ty : Nat) : Fmt := if ty = 9 then f16 else if ty = 10 then bf16 else f32

/-- The bits of a float operand: 32, or the low 16 of a half type (R76). -/
def fbits (ty : Nat) (x : Word) : Nat := if isHalfTy ty then x.toNat % 65536 else x.toNat

/-- A per-lane float operation (R81): result and flags of each active lane. -/
def Crew.fltLanes (c : Crew) (f : Form) (regs : Nat) (op : Nat → DWord × FFlags) : Crew :=
  (c.resultLanes f regs (fun l => (op l).1)).raiseFlags (c.laneFlags (fun l => (op l).2))

def natPair (x : Nat × FFlags) : DWord × FFlags := (BitVec.ofNat 64 x.1, x.2)

/-- The shared description of R81: `op` on the operands' bits in the type's format; a uniform form counts once. -/
def fltEff (f : Form) (op : Fmt → Nat → Nat → Nat → Nat × FFlags) (c : Crew) : Crew :=
  let ty := f.ty
  if f.m5 then
    let g (o : Operand) : Nat := fbits ty (lowWord (c.uni f ty o))
    let r := op (fmtOf ty) (g f.a) (g f.b) (g f.c)
    (c.resultUniform f (BitVec.ofNat 64 r.1)).raiseFlags r.2
  else
    let g (o : Operand) (l : Nat) : Nat := fbits ty (c.src32 f ty o l)
    c.fltLanes f 1 (fun l => natPair (op (fmtOf ty) (g f.a l) (g f.b l) (g f.c l)))

def execFadd (f : Form) (s : State) : Host.Outcome State Fault Refusal :=
  runLocal (.fadd f) f s (fltEff f (fun F a b _ => fpAdd F a b))
def execFsub (f : Form) (s : State) : Host.Outcome State Fault Refusal :=
  runLocal (.fsub f) f s (fltEff f (fun F a b _ => fpSub F a b))
def execFmul (f : Form) (s : State) : Host.Outcome State Fault Refusal :=
  runLocal (.fmul f) f s (fltEff f (fun F a b _ => fpMul F a b))
def execFfma (f : Form) (s : State) : Host.Outcome State Fault Refusal :=
  runLocal (.ffma f) f s (fltEff f (fun F a b x => fpFma F a b x))
def execFmin (f : Form) (s : State) : Host.Outcome State Fault Refusal :=
  runLocal (.fmin f) f s (fltEff f (fun F a b _ => fpMinMax F false a b))
def execFmax (f : Form) (s : State) : Host.Outcome State Fault Refusal :=
  runLocal (.fmax f) f s (fltEff f (fun F a b _ => fpMinMax F true a b))
def execFneg (f : Form) (s : State) : Host.Outcome State Fault Refusal :=
  runLocal (.fneg f) f s (fltEff f (fun F a _ _ => (fpNeg F a, 0)))
def execFabs (f : Form) (s : State) : Host.Outcome State Fault Refusal :=
  runLocal (.fabs f) f s (fltEff f (fun F a _ _ => (fpAbs F a, 0)))
def execFclamp (f : Form) (s : State) : Host.Outcome State Fault Refusal :=
  runLocal (.fclamp f) f s (fltEff f (fun F a lo hi => fpClamp F a lo hi))

/-- The rounding mode in x[2:0] (R78). -/
def modeOf (f : Form) : Rm := (Rm.ofCode (f.x.toNat % 8)).getD .rne

def execFrnd (f : Form) (s : State) : Host.Outcome State Fault Refusal :=
  runLocal (.frnd f) f s (fltEff f (fun F a _ _ => fpRound F (modeOf f) a))

/-- The approximate units (R86): each active lane takes a free value within the bound, at a draw of its own. -/
def runUnit (i : Instr) (f : Form) (s : State) (op : Nat → Nat → Nat × FFlags) : Host.Outcome State Fault Refusal :=
  runCrew i f s (fun s id c =>
    let g (l : Nat) : Nat := (c.src32 f 8 f.a l).toNat
    let c1 := c.fltLanes f 1 (fun l => natPair (op (g l) (s.free + l)))
    .ok { s.setCrew id c1 with free := s.free + 32 })

def execFexpf (f : Form) (s : State) : Host.Outcome State Fault Refusal := runUnit (.fexpf f) f s fpExp2
def execFlog2 (f : Form) (s : State) : Host.Outcome State Fault Refusal := runUnit (.flog2 f) f s fpLog2
def execFrcp (f : Form) (s : State) : Host.Outcome State Fault Refusal := runUnit (.frcp f) f s fpRcp
def execFrsq (f : Form) (s : State) : Host.Outcome State Fault Refusal := runUnit (.frsq f) f s fpRsq
/-- Correctly rounded (R86). -/
def execFsqrt (f : Form) (s : State) : Host.Outcome State Fault Refusal :=
  runLocal (.fsqrt f) f s (fun c => c.fltLanes f 1 (fun l => natPair (fpSqrt (c.src32 f 8 f.a l).toNat)))

/-- `fscl` (R87): n is read as s32. -/
def execFscl (f : Form) (s : State) : Host.Outcome State Fault Refusal :=
  runLocal (.fscl f) f s (fun c =>
    c.fltLanes f 1 (fun l => natPair (fpScale (c.src32 f 8 f.a l).toNat (c.src32 f 1 f.b l).toInt)))

/-- `fxtr` (R88). -/
def execFxtr (f : Form) (s : State) : Host.Outcome State Fault Refusal :=
  runLocal (.fxtr f) f s (fun c => c.fltLanes f 1 (fun l => natPair (fpExtract f.m4 (c.src32 f 8 f.a l).toNat)))

/-- `fcls` (R84). -/
def execFcls (f : Form) (s : State) : Host.Outcome State Fault Refusal :=
  runLocal (.fcls f) f s (fun c =>
    c.resultLanes f 1 (fun l => BitVec.ofNat 64 (fpClass (fmtOf f.ty) (fbits f.ty (c.src32 f f.ty f.a l)))))

/-! ### Conversions (R89, R90) -/

/-- One side of a pairing: a float format, or an integer of a width that is signed or not. -/
inductive CvtTy
  | flt (F : Fmt)
  | int (w : Nat) (signed : Bool)
  deriving DecidableEq, Repr

/-- The pairings of R89, result first. -/
def cvtPair (m : Nat) : CvtTy × CvtTy :=
  match m with
  | 0x00 => (.flt f32, .flt f16)
  | 0x01 => (.flt f32, .flt bf16)
  | 0x02 => (.flt f16, .flt f32)
  | 0x03 => (.flt bf16, .flt f32)
  | 0x04 => (.flt f16, .flt bf16)
  | 0x05 => (.flt bf16, .flt f16)
  | 0x08 => (.flt f32, .int 32 true)
  | 0x09 => (.flt f32, .int 32 false)
  | 0x0A => (.flt f32, .int 64 true)
  | 0x0B => (.flt f32, .int 64 false)
  | 0x0C => (.flt f16, .int 32 true)
  | 0x0D => (.flt f16, .int 32 false)
  | 0x0E => (.flt bf16, .int 32 true)
  | 0x0F => (.flt bf16, .int 32 false)
  | 0x10 => (.int 32 true, .flt f32)
  | 0x11 => (.int 32 false, .flt f32)
  | 0x12 => (.int 64 true, .flt f32)
  | 0x13 => (.int 64 false, .flt f32)
  | 0x14 => (.int 16 true, .flt f32)
  | 0x15 => (.int 16 false, .flt f32)
  | 0x16 => (.int 8 true, .flt f32)
  | 0x17 => (.int 8 false, .flt f32)
  | 0x18 => (.int 32 true, .flt f16)
  | 0x19 => (.int 32 false, .flt f16)
  | 0x1A => (.int 32 true, .flt bf16)
  | _ => (.int 32 false, .flt bf16)

/-- The type code that widens an immediate source of a pairing (R36). -/
def cvtImmTy (t : CvtTy) : Nat :=
  match t with
  | .flt F => if F = f16 then 9 else if F = bf16 then 10 else 8
  | .int 64 true => 3
  | .int 64 false => 2
  | .int _ true => 1
  | .int _ false => 0

def intRange (w : Nat) (signed : Bool) : Int × Int :=
  if signed then (-(2 ^ (w - 1)), 2 ^ (w - 1) - 1) else (0, 2 ^ w - 1)

/-- One conversion (R90): integer results below 64 bits are extended to 32. -/
def cvtOne (m : Nat) (mode : Rm) (x : DWord) : DWord × FFlags :=
  match cvtPair m with
  | (.flt D, .flt S) => natPair (fpConvert S D mode (x.toNat % 2 ^ (1 + S.wE + S.wF)))
  | (.flt D, .int w sg) =>
    natPair (fpOfInt D mode (if sg then (BitVec.ofNat w x.toNat).toInt else (x.toNat % 2 ^ w : Nat)))
  | (.int w sg, .flt S) =>
    let r := fpToInt S mode (intRange w sg).1 (intRange w sg).2 (x.toNat % 2 ^ (1 + S.wE + S.wF))
    (BitVec.ofNat 64 (r.1 % 2 ^ max w 32).toNat, r.2)
  | (.int _ _, .int _ _) => (0, 0)

/-- `cvt` (R89, R90). -/
def execCvt (f : Form) (s : State) : Host.Outcome State Fault Refusal :=
  runLocal (.cvt f) f s (fun c =>
    let n := (cvtRegs f.modN).getD (1, 1)
    let ity := cvtImmTy (cvtPair f.modN).2
    c.fltLanes f n.2 (fun l =>
      cvtOne f.modN (modeOf f) (if n.1 = 2 then c.src64 f ity f.a l else (c.src32 f ity f.a l).setWidth 64)))

/-- `fcmp` (R83): x[0] inverts the result in the active lanes. -/
def execFcmp (f : Form) (s : State) : Host.Outcome State Fault Refusal :=
  runLocal (.fcmp f) f s (fun c =>
    let r (l : Nat) : Bool × FFlags :=
      fpCmp (fmtOf f.ty) f.hi (fbits f.ty (c.src32 f f.ty f.a l)) (fbits f.ty (c.src32 f f.ty f.b l))
    (c.resultMask f (fun l => (r l).1 != f.xBit 0)).raiseFlags (c.laneFlags (fun l => (r l).2)))

end Sys2Proof.Machine
end

