-- ==== Sys2Proof/Machine/Lane.lean ====
section
/-! DEFINITION. Packed, cross-lane, mask, string and hash instructions (08 R125-R144), opcodes 0x060 to 0x095 but for
`sseg`, which is a memory access. -/

namespace Sys2Proof.Machine

/-! ### Packed pairs (R127-R129) -/

/-- A packed source: an immediate stands in both halves (R36, R127). DESIGN CHOICE (assumption 84): bits [31:16] of an imm32 of
type u16 or s16 are dropped. -/
def Crew.packSrc (c : Crew) (f : Form) (o : Operand) (l : Nat) : Word :=
  match o.src with
  | .imm i =>
    let h : Half := (f.imm f.ty i).setWidth 16
    h ++ h
  | _ => c.src32 f f.ty o l

def half (x : Word) (h : Nat) : Half := x.extractLsb' (16 * h) 16
def halves (lo hi : Half) : Word := hi ++ lo

/-- A half as a number of u16 or s16. -/
def halfInt (ty : Nat) (x : Half) : Int := if ty = 5 then x.toInt else (x.toNat : Int)

def halfSat (ty : Nat) (r : Int) : Int := if ty = 5 then max (-32768) (min 32767 r) else max 0 (min 65535 r)

def halfStore (ty : Nat) (sat : Bool) (r : Int) : Half := BitVec.ofInt 16 (if sat then halfSat ty r else r)

/-- Applies an operation to both halves of up to three packed sources (R127). -/
def packEff (f : Form) (iop : Int → Int → Int → Int) (fop : Fmt → Nat → Nat → Nat → Nat × FFlags) (c : Crew) : Crew :=
  let one (l h : Nat) : Half × FFlags :=
    let a := half (c.packSrc f f.a l) h
    let b := half (c.packSrc f f.b l) h
    let x := half (c.packSrc f f.c l) h
    if f.ty < 8 then (halfStore f.ty f.m4 (iop (halfInt f.ty a) (halfInt f.ty b) (halfInt f.ty x)), 0)
    else
      let r := fop (fmtOf f.ty) a.toNat b.toNat x.toNat
      (BitVec.ofNat 16 r.1, r.2)
  c.fltLanes f 1 (fun l =>
    let p := one l 0
    let q := one l 1
    ((halves p.1 q.1).setWidth 64, p.2 ||| q.2))

def execHadd2 (f : Form) (s : State) : Host.Outcome State Fault Refusal :=
  runLocal (.hadd2 f) f s (packEff f (fun a b _ => a + b) (fun F a b _ => fpAdd F a b))
def execHsub2 (f : Form) (s : State) : Host.Outcome State Fault Refusal :=
  runLocal (.hsub2 f) f s (packEff f (fun a b _ => a - b) (fun F a b _ => fpSub F a b))
def execHmul2 (f : Form) (s : State) : Host.Outcome State Fault Refusal :=
  runLocal (.hmul2 f) f s (packEff f (fun a b _ => a * b) (fun F a b _ => fpMul F a b))
def execHmin2 (f : Form) (s : State) : Host.Outcome State Fault Refusal :=
  runLocal (.hmin2 f) f s (packEff f (fun a b _ => min a b) (fun F a b _ => fpMinMax F false a b))
def execHmax2 (f : Form) (s : State) : Host.Outcome State Fault Refusal :=
  runLocal (.hmax2 f) f s (packEff f (fun a b _ => max a b) (fun F a b _ => fpMinMax F true a b))
def execHfma2 (f : Form) (s : State) : Host.Outcome State Fault Refusal :=
  runLocal (.hfma2 f) f s (packEff f (fun a _ _ => a) (fun F a b x => fpFma F a b x))
def execBfma2 (f : Form) (s : State) : Host.Outcome State Fault Refusal :=
  runLocal (.bfma2 f) f s (packEff f (fun a _ _ => a) (fun F a b x => fpFma F a b x))

/-- One half of `acs2` (R128): the chosen candidate and the decision. -/
def acsHalf (ty : Nat) (isMax : Bool) (a b ca cb : Half) : Half × Bool :=
  let x := halfSat ty (halfInt ty a + halfInt ty ca)
  let y := halfSat ty (halfInt ty b + halfInt ty cb)
  let dec := if isMax then decide (x < y) else decide (y < x)
  (BitVec.ofInt 16 (if dec then y else x), dec)

/-- `acs2` (R128): the result is 32 bits, the entry carries the decisions in bits 32 and 33. -/
def execAcs2 (f : Form) (s : State) : Host.Outcome State Fault Refusal :=
  runLocal (.acs2 f) f s (fun c =>
    c.resultLanes f 1 (fun l =>
      let a := c.packSrc f f.a l
      let b := c.packSrc f f.b l
      let x := c.packSrc f f.c l
      let r0 := acsHalf f.ty f.m5 (half a 0) (half b 0) (half x 0) (half x 1)
      let r1 := acsHalf f.ty f.m5 (half a 1) (half b 1) (half x 1) (half x 0)
      let hi : Word := BitVec.ofNat 32 ((if r0.2 then 1 else 0) + (if r1.2 then 2 else 0))
      hi ++ halves r0.1 r1.1))

/-- `hcmp2` (R129). -/
def execHcmp2 (f : Form) (s : State) : Host.Outcome State Fault Refusal :=
  runLocal (.hcmp2 f) f s (fun c =>
    let one (l h : Nat) : Half × FFlags :=
      let a := half (c.packSrc f f.a l) h
      let b := half (c.packSrc f f.b l) h
      let r : Bool × FFlags :=
        if f.ty < 8 then
          let x := halfInt f.ty a
          let y := halfInt f.ty b
          ((match f.hi with
            | 0 => decide (x = y)
            | 1 => decide (x < y)
            | _ => decide (x ≤ y)), 0)
        else fpCmp (fmtOf f.ty) f.hi a.toNat b.toNat
      (if r.1 != f.xBit 0 then 0xFFFF else 0, r.2)
    c.fltLanes f 1 (fun l =>
      let p := one l 0
      let q := one l 1
      ((halves p.1 q.1).setWidth 64, p.2 ||| q.2)))

/-! ### Moving values between lanes (R130-R135) -/

/-- `perm` (R130): a is permuted by its own field first. -/
def execPerm (f : Form) (s : State) : Host.Outcome State Fault Refusal :=
  runLocal (.perm f) f s (fun c =>
    c.resultLanes f (regsOf f.ty) (fun l =>
      let i := (c.src32 f 0 f.b l).toNat
      if f.m4 && decide (32 ≤ i) then 0 else c.srcTy f f.ty f.a (i % 32)))

def execVoteAny (f : Form) (s : State) : Host.Outcome State Fault Refusal :=
  runLocal (.voteAny f) f s (fun c =>
    c.resultUniform f (if (List.range 32).any (fun l => c.isActive l && c.src32 f 0 f.a l != 0) then 1 else 0))

def execVoteAll (f : Form) (s : State) : Host.Outcome State Fault Refusal :=
  runLocal (.voteAll f) f s (fun c =>
    c.resultUniform f (if (List.range 32).all (fun l => !c.isActive l || c.src32 f 0 f.a l != 0) then 1 else 0))

/-- a of a ballot at 64 bits: a named register has zero above its 32 bits (R132). DESIGN CHOICE (assumption 84): an immediate
is zero-extended, as one of type u32 is, since the instruction has no type. -/
def Crew.ballotSrc (c : Crew) (f : Form) (l : Nat) : DWord :=
  match f.a.src with
  | .v _ => (c.src32 f 0 f.a l).setWidth 64
  | _ => c.src64 f 0 f.a l

/-- `vote.ballot` (R132): to a uniform register, or with mod[4] to a mask register. -/
def execVoteBallot (f : Form) (s : State) : Host.Outcome State Fault Refusal :=
  runLocal (.voteBallot f) f s (fun c =>
    let p (l : Nat) : Bool :=
      if f.b = .zero then c.src32 f 0 f.a l != 0
      else (c.ballotSrc f l).getLsbD ((c.uni f 0 f.b).toNat % 64)
    let w := maskBy (fun l => c.isActive l && p l)
    if f.m4 then (if f.nd then c.mset f.dst.toNat w else c).pushUniform (w.setWidth 64)
    else c.resultUniform f (w.setWidth 64))

/-- Combining of two values of a type by the operation in mod[5:4] (R133), on bits. -/
def combine (ty op : Nat) (a b : Nat) : Nat × FFlags :=
  let x := BitVec.ofNat 64 a
  let y := BitVec.ofNat 64 b
  if ty = 8 then
    match op with
    | 0 => fpAdd f32 a b
    | 1 => fpMinMax f32 false a b
    | _ => fpMinMax f32 true a b
  else if bitTys ty then
    match op with
    | 0 => (a &&& b, 0)
    | 1 => (a ||| b, 0)
    | _ => (a ^^^ b, 0)
  else
    match op with
    | 0 => ((tyStore ty false (tyVal ty x + tyVal ty y)).toNat, 0)
    | 1 => (if tyVal ty x ≤ tyVal ty y then a else b, 0)
    | _ => (if tyVal ty x ≤ tyVal ty y then b else a, 0)

/-- Identities of R133, as bits. -/
def identity (ty op : Nat) : Nat :=
  if ty = 8 then (match op with
    | 0 => 0x80000000
    | 1 => 0x7F800000
    | _ => 0xFF800000)
  else if bitTys ty then (if op = 0 then 2 ^ tyWidth ty - 1 else 0)
  else
    match op with
    | 0 => 0
    | 1 => (tyStore ty false (tyMax ty)).toNat
    | _ => (tyStore ty false (tyMin ty)).toNat

/-- One step of the tree of R133 at distance d. -/
def reduceStep (ty op d : Nat) (p : List Nat) : List Nat × FFlags :=
  let r := (List.range p.length).map (fun l =>
    if l % (2 * d) = 0 then combine ty op (p.getD l 0) (p.getD (l + d) 0) else (p.getD l 0, 0))
  (r.map (·.1), (r.map (·.2)).foldl (· ||| ·) 0)

/-- One step of the scan of R134 at distance d. -/
def scanStep (ty op d : Nat) (p : List Nat) : List Nat × FFlags :=
  let r := (List.range p.length).map (fun l =>
    if d ≤ l then combine ty op (p.getD (l - d) 0) (p.getD l 0) else (p.getD l 0, 0))
  (r.map (·.1), (r.map (·.2)).foldl (· ||| ·) 0)

def runSteps (step : Nat → List Nat → List Nat × FFlags) : List Nat → List Nat → FFlags → List Nat × FFlags
  | [], p, fl => (p, fl)
  | d :: ds, p, fl => runSteps step ds (step d p).1 (fl ||| (step d p).2)

/-- The values that enter a reduction: the identity in inactive lanes (R133). -/
def Crew.reduceIn (c : Crew) (f : Form) : List Nat :=
  (List.range 32).map (fun l => if c.isActive l then (c.srcTy f f.ty f.a l).toNat else identity f.ty f.hi)

/-- `lred` (R133). -/
def execLred (f : Form) (s : State) : Host.Outcome State Fault Refusal :=
  runLocal (.lred f) f s (fun c =>
    let r := runSteps (reduceStep f.ty f.hi) [1, 2, 4, 8, 16] (c.reduceIn f) 0
    (c.resultUniform f (BitVec.ofNat 64 (r.1.headD 0))).raiseFlags r.2)

/-- A scanned value as it comes out: never a signalling NaN (R97), which lane 0 would else pass on uncombined. -/
def scanOut (ty v : Nat) : Nat :=
  if ty = 8 then
    match unpack f32 v with
    | .nan _ => quiet f32 v
    | _ => v
  else v

/-- `lscan` (R134). -/
def execLscan (f : Form) (s : State) : Host.Outcome State Fault Refusal :=
  runLocal (.lscan f) f s (fun c =>
    let r := runSteps (scanStep f.ty f.hi) [1, 2, 4, 8, 16] (c.reduceIn f) 0
    (c.resultLanes f (regsOf f.ty) (fun l => BitVec.ofNat 64 (
      if f.xBit 0 then (if l = 0 then identity f.ty f.hi else scanOut f.ty (r.1.getD (l - 1) 0))
      else scanOut f.ty (r.1.getD l 0)))).raiseFlags r.2)

/-- `mspl` (R135). -/
def execMspl (f : Form) (s : State) : Host.Outcome State Fault Refusal :=
  runLocal (.mspl f) f s (fun c =>
    c.resultLanes f 1 (fun l =>
      let same := (List.range 32).filter (fun j => c.isActive j && c.src32 f 0 f.a j == c.src32 f 0 f.a l)
      BitVec.ofNat 64 (2 ^ 16 * same.headD 0 + 2 ^ 8 * same.length + (same.filter (· < l)).length)))

/-! ### Masks (R136, R137) -/

/-- `msk.if` (R136): the outer mask is saved, `em` narrows to the lanes whose condition is not zero. -/
def execMskIf (f : Form) (s : State) : Host.Outcome State Fault Refusal :=
  runLocal (.mskIf f) f s (fun c =>
    { c.mset f.dst.toNat c.em with em := maskBy (fun l => c.isActive l && c.src32 f 0 f.a l != 0) })

/-- `msk.if.m` (R136). -/
def execMskIfM (f : Form) (s : State) : Host.Outcome State Fault Refusal :=
  runLocal (.mskIfM f) f s (fun c => { c.mset f.dst.toNat c.em with em := c.em &&& c.maskSrc f.a })

def execMskElse (f : Form) (s : State) : Host.Outcome State Fault Refusal :=
  runLocal (.mskElse f) f s (fun c => { c with em := c.maskSrc f.a &&& ~~~c.em })

def execMskEnd (f : Form) (s : State) : Host.Outcome State Fault Refusal :=
  runLocal (.mskEnd f) f s (fun c => { c with em := c.maskSrc f.a })

def execMand (f : Form) (s : State) : Host.Outcome State Fault Refusal :=
  runLocal (.mand f) f s (fun c => c.mset f.dst.toNat (c.maskSrc f.a &&& c.maskSrc f.b))
def execMor (f : Form) (s : State) : Host.Outcome State Fault Refusal :=
  runLocal (.mor f) f s (fun c => c.mset f.dst.toNat (c.maskSrc f.a ||| c.maskSrc f.b))
def execMxor (f : Form) (s : State) : Host.Outcome State Fault Refusal :=
  runLocal (.mxor f) f s (fun c => c.mset f.dst.toNat (c.maskSrc f.a ^^^ c.maskSrc f.b))
def execMnot (f : Form) (s : State) : Host.Outcome State Fault Refusal :=
  runLocal (.mnot f) f s (fun c => c.mset f.dst.toNat (~~~c.maskSrc f.a))
def execMcnt (f : Form) (s : State) : Host.Outcome State Fault Refusal :=
  runLocal (.mcnt f) f s (fun c => c.resultUniform f (BitVec.ofNat 64 (popBits 32 (c.maskSrc f.a).toNat)))
def execMmovMask (f : Form) (s : State) : Host.Outcome State Fault Refusal :=
  runLocal (.mmovMask f) f s (fun c => c.mset f.dst.toNat (c.maskSrc f.a))
/-- `mmov` from a uniform register (R137). DESIGN CHOICE (assumption 84): the operand has no type, and an immediate is
zero-extended. -/
def execMmovFromUniform (f : Form) (s : State) : Host.Outcome State Fault Refusal :=
  runLocal (.mmovFromUniform f) f s (fun c => c.mset f.dst.toNat (lowWord (c.uni f 0 f.a)))
/-- To a uniform register, with no push (R117, R137). -/
def execMmovToUniform (f : Form) (s : State) : Host.Outcome State Fault Refusal :=
  runLocal (.mmovToUniform f) f s (fun c =>
    if f.nd then c.kset f.dst.toNat ((c.maskSrc f.a).setWidth 64) else c)

/-! ### Strings and hashing (R138-R144) -/

/-- The 16 bytes of a segment operand of a lane (R138). -/
def Crew.segBytes (c : Crew) (o : Operand) (l : Nat) : List Byte :=
  match o.src with
  | .v q => ((List.range 4).map (fun j => leBytes 4 (laneOf (c.vget (q.toNat + j)) l).toNat)).flatten
  | _ => []

/-- A length operand (R138). -/
def segLen (x : Nat) : Nat := min (x % 256) 16

/-- Folds upper-case letters (R140). -/
def foldCase (b : Byte) : Byte := if 0x41 ≤ b.toNat ∧ b.toNat ≤ 0x5A then b + 0x20 else b

/-- The lowest index below n where two runs differ. -/
def firstDiff (a b : List Byte) (n : Nat) : Option Nat := (List.range n).find? (fun k => a.getD k 0 != b.getD k 0)

/-- `scmp` of two segments with their lengths (R140). -/
def scmpVal (a b : List Byte) (la lb : Nat) : Nat :=
  match firstDiff a b (min la lb) with
  | some i => i + 2 ^ 8 * (if (a.getD i 0).toNat < (b.getD i 0).toNat then 1 else 2)
  | none =>
    min la lb + 2 ^ 8 * (if la = lb then 0 else if la < lb then 1 else 2)
      + (if la = 16 ∧ lb = 16 then 2 ^ 10 else 0)

/-- `scmp` (R140). DESIGN CHOICE (assumption 84): c has no type, and an immediate is zero-extended. -/
def execScmp (f : Form) (s : State) : Host.Outcome State Fault Refusal :=
  runLocal (.scmp f) f s (fun c =>
    c.resultLanes f 1 (fun l =>
      let fold (bs : List Byte) : List Byte := if f.m4 then bs.map foldCase else bs
      let n := (c.src32 f 0 f.c l).toNat
      BitVec.ofNat 64 (scmpVal (fold (c.segBytes f.a l)) (fold (c.segBytes f.b l)) (segLen n) (segLen (n / 256)))))

/-- `sfnd` (R141). -/
def sfndVal (a : List Byte) (la : Nat) (cands : List Byte) : Nat :=
  match (List.range la).find? (fun k => cands.contains (a.getD k 0)) with
  | some k => k + 2 ^ 8
  | none => la

/-- `sfnd` (R141). DESIGN CHOICE (assumption 84): b and c have no type, and an immediate is zero-extended. -/
def execSfnd (f : Form) (s : State) : Host.Outcome State Fault Refusal :=
  runLocal (.sfnd f) f s (fun c =>
    c.resultLanes f 1 (fun l =>
      BitVec.ofNat 64 (sfndVal (c.segBytes f.a l) (segLen (c.src32 f 0 f.c l).toNat)
        (leBytes (f.hi + 1) (c.src32 f 0 f.b l).toNat))))

/-- `shash` (R142): words of the segment with zeros from the length on. -/
def shashSteps : List Nat → Word → Word
  | [], h => h
  | w :: ws, h => shashSteps ws (((h ^^^ BitVec.ofNat 32 w).rotateLeft 13) * 0x8F1BBCDD)

def shashVal (a : List Byte) (len : Nat) (seed : Word) : Word :=
  let ws := (List.range ((len + 3) / 4)).map (fun i => leNat (((a.take len).drop (4 * i)).take 4))
  shashSteps ws seed ^^^ BitVec.ofNat 32 len

/-- `shash` (R142). DESIGN CHOICE (assumption 84): b and c have no type, and an immediate is zero-extended. -/
def execShash (f : Form) (s : State) : Host.Outcome State Fault Refusal :=
  runLocal (.shash f) f s (fun c =>
    c.resultLanes f 1 (fun l =>
      (shashVal (c.segBytes f.a l) (segLen (c.src32 f 0 f.c l).toNat) (c.src32 f 0 f.b l)).setWidth 64))

/-- `hmix` (R143). -/
def hmixVal (a : Word) : Word :=
  let h := a ^^^ (a >>> 16)
  let h := h * 0xD2B74407
  let h := h ^^^ (h >>> 15)
  let h := h * 0x5F356495
  h ^^^ (h >>> 16)

def execHmix (f : Form) (s : State) : Host.Outcome State Fault Refusal :=
  runLocal (.hmix f) f s (fun c => c.resultLanes f 1 (fun l => (hmixVal (c.src32 f 0 f.a l)).setWidth 64))

/-- `part` (R144). -/
def execPart (f : Form) (s : State) : Host.Outcome State Fault Refusal :=
  runLocal (.part f) f s (fun c =>
    c.resultLanes f 1 (fun l =>
      BitVec.ofNat 64 ((c.src32 f 0 f.a l).toNat * (c.src32 f 0 f.b l).toNat / 2 ^ 32)))

end Sys2Proof.Machine
end

