-- ==== Sys2Proof/Machine/Sync.lean ====
section
/-! DEFINITION. Load-acquire, store-release, atomics and fences (15 R222-R231, 17 R248-R263), opcodes 0x0C0 to 0x0C6. -/

namespace Sys2Proof

/-- Scope of a synchronisation access: x[2:0] (R222). -/
def Form.scope (f : Form) : Nat := f.x.toNat % 8

/-- Order flavours of an atomic: x[5:4] (R228). -/
def Form.acquires (f : Form) : Bool := f.xBit 4
def Form.releases (f : Form) : Bool := f.xBit 5

/-- The scope of a fence: mod[2:0]. -/
def Form.fenceScope (f : Form) : Nat := f.modN % 8

end Sys2Proof

namespace Sys2Proof.Machine

/-- Places of the lanes of one access, with the lines they lie in, each once (R226, R254). -/
def linesOf (ps : List (Nat × Loc)) : List Nat := (ps.map (fun e => e.2.la / 64)).eraseDups

/-- An access to a CXL window is at system scope whatever scope it names (R223). -/
def effScope (scope : Nat) (ps : List (Nat × Loc)) : Nat := if ps.any (fun e => isCxl e.2.la) then 3 else scope

/-- Operations that a release waits for (R226): those not yet performed. -/
def Crew.unperformed (c : Crew) : Bool := c.ops.any (fun o => o.held && !o.done && o.path ≠ .rm && o.path ≠ .none && !o.frozen)

/-- Operations of a crew that are not complete, `rm` aside (R226, R231). -/
def Crew.earlier (c : Crew) : List Nat :=
  (c.ops.filter (fun o => o.awaited && o.path ≠ .rm && o.path ≠ .none)).map (·.id)

/-- Makes a lane's line ready (R223, R224), and for an acquire looks at its record (R254): whether a surrender was needed
comes with the state. -/
def State.syncReady (s : State) (ck : Nat) (p : Loc) (scope : Nat) (rmw acq : Bool) : State × Bool :=
  let s1 := s.syncPrepare ck p scope rmw
  if acq then s1.acquireRecords ck scope [p.la / 64] else (s1, false)

/-- Acquires each lane's word at its place, lowest lane first (R227), as the crew reads it (R70). -/
def State.syncLoads (s : State) (id ck scope n : Nat) : List (Nat × Loc) → State × List (Nat × Nat) × Bool
  | [] => (s, [], false)
  | (l, p) :: r =>
    let (s0, b) := s.syncReady ck p scope false true
    let (s1, bs) := s0.syncLoad ck p scope n
    let (s2, vs, b') := s1.syncLoads id ck scope n r
    (s2, (l, leNat (s.ownRun (coreIsl ck) id (locRun p n) bs)) :: vs, b || b')

/-- Stores each lane's word at its place, lowest lane first (R226). -/
def State.syncStores (s : State) (ck scope n : Nat) (val : Nat → Nat) : List (Nat × Loc) → State
  | [] => s
  | (l, p) :: r => ((s.syncPrepare ck p scope false).syncStore ck p scope (leBytes n (val l))).syncStores ck scope n val r

/-- Read-modify-writes of the lanes, lowest first (R230), of words as the crew reads them (R70): the old values come back. -/
def State.updates (s : State) (id ck scope n : Nat) (acq : Bool) (op : Nat → Nat → Nat) :
    List (Nat × Loc) → State × List (Nat × Nat) × Bool
  | [] => (s, [], false)
  | (l, p) :: r =>
    let (s0, b) := (s.takeOver (coreIsl ck) id (lanesBytes n [(l, p)])).syncReady ck p scope true acq
    let (s1, bs) := s0.syncLoad ck p scope n
    let old := leNat (s.ownRun (coreIsl ck) id (locRun p n) bs)
    let (s2, vs, b') := (s1.syncStore ck p scope (leBytes n (op l old))).updates id ck scope n acq op r
    (s2, (l, old) :: vs, b || b')

/-- The crew's last synchronisation access or relaxed atomic, for `fence.acq` (R231). -/
def Crew.synced (c : Crew) (op : Nat) (lines : List Nat) : Crew := { c with syncOp := some op, syncLines := lines }

/-- `lda` (R225, R227): an acquire for the whole instruction. -/
def execLda (f : Form) (s : State) : Host.Outcome State Fault Refusal :=
  runCrew (.lda f) f s (fun s id c =>
    let n := memWidth f.ty false
    let ea := c.eaScaled f (2 ^ f.hi)
    match laneLocs (fun l => s.accessAt c .read (ea l) n) c.lanes with
    | .error x => .trap x
    | .ok ps =>
      if s.issueWaits c .ld true then .stall
      else
        let scope := effScope f.scope ps
        let (s2, vs, b) := (s.fillTlbs c (c.lanes.map ea)).syncLoads id c.core scope n ps
        let s3 := (s2.acquireEnd c.core scope b).modCrew id (fun x => x.synced s.nextId (linesOf ps))
        .ok (s3.lateLanes id c f .ld true (regsOf f.ty) false [] (fun l => loadExt f.ty (laneVal vs l))))

/-- The scope of a release: its own, or a pending `fence.rel`'s where that is wider (R231). -/
def Crew.relWith (c : Crew) (scope : Nat) : Nat :=
  match c.relScope with
  | some r => widerScope scope r
  | none => scope

/-- `stl` (R225, R226): a release for the whole instruction. -/
def execStl (f : Form) (s : State) : Host.Outcome State Fault Refusal :=
  runCrew (.stl f) f s (fun s id c =>
    let n := memWidth f.ty false
    let ea := c.eaScaled f (2 ^ f.hi)
    match laneLocs (fun l => s.accessAt c .write (ea l) n) c.lanes with
    | .error x => .trap x
    | .ok ps =>
      if s.issueWaits c .st true then .stall
      else if c.unperformed then .hold
      else
        let scope := effScope (c.relWith f.scope) ps
        let (s1, m) := (s.fillTlbs c (c.lanes.map ea)).releaseStart c.core scope (ps.any (fun e => isCxl e.2.la))
        let s3 := (s1.syncStores c.core scope n (fun l => (c.srcTy f f.ty f.c l).toNat) ps).releaseLines c.core scope m
          (linesOf ps)
        let s4 := s3.modCrew id (fun x => { x.synced s.nextId [] with relScope := none })
        .ok (s4.issueOp id
          { blankOp with path := .st, flag := c.flagOf f, ott := s.ottFor c true, after := c.earlier } none))

/-- Operations of an atomic (R228) on the bits of the old value and of c. -/
def atomOp (ty op old x : Nat) : Nat :=
  if ty = 8 then
    (match op with
      | 0 => fpAdd f32 old x
      | 1 => fpMinMax f32 false old x
      | _ => fpMinMax f32 true old x).1
  else if bitTys ty then
    match op with
    | 0 => old &&& x
    | 1 => old ||| x
    | 2 => old ^^^ x
    | _ => x
  else if op = 3 then (if x ≤ old then 0 else old + 1)
  else (combine ty op old x).1

/-- The shared effect of `atom` and `atom.cas` (R230): `op` gives each lane's new value from its old one. -/
def atomEff (f : Form) (result : Bool) (op : Nat → Nat → Nat) (s : State) (id : Nat) (c : Crew) : Eff :=
  let n := memWidth f.ty false
  let ea := c.eaScaled f n
  match laneLocs (fun l => s.accessAt c .both (ea l) n) c.lanes with
  | .error x => .trap x
  | .ok ps =>
    let rel := f.releases || c.relScope.isSome
    let path : Path := if result then .ld else .st
    if s.issueWaits c path true then .stall
    else if rel && c.unperformed then .hold
    else
      let scope := effScope (if rel then c.relWith f.scope else f.scope) ps
      let lines := linesOf ps
      let s0 := s.fillTlbs c (c.lanes.map ea)
      let (s1, m) := if rel then s0.releaseStart c.core scope (ps.any (fun e => isCxl e.2.la)) else (s0, 0)
      let (s4, vs, b) := s1.updates id c.core scope n f.acquires op ps
      let s5 := if rel then s4.releaseLines c.core scope m lines else s4
      let s6 := if f.acquires then s5.acquireEnd c.core scope b else s5
      let s7 := s6.modCrew id (fun x => { x.synced s.nextId lines with relScope := none })
      let after := if rel then c.earlier else []
      if result then
        .ok (s7.lateLanes id c f path true (regsOf f.ty) false after (fun l => BitVec.ofNat 128 (laneVal vs l)))
      else .ok (s7.issueOp id
        { blankOp with path := path, flag := c.flagOf f, ott := s.ottFor c true, after := after } none)

/-- `atom` (R228, R230). -/
def execAtom (f : Form) (s : State) : Host.Outcome State Fault Refusal :=
  runCrew (.atom f) f s (fun s id c =>
    atomEff f (f.xBit 3) (fun l old => atomOp f.ty f.hi old (c.srcTy f f.ty f.c l).toNat) s id c)

/-- Register j of the compare and new values of `atom.cas` in a lane (R229). -/
def Crew.casReg (c : Crew) (f : Form) (j l : Nat) : Nat :=
  match f.c.src with
  | .v q => (laneOf (c.vget (q.toNat + j)) (f.c.perm.lane l)).toNat
  | _ => 0

/-- `atom.cas` (R229, R230). -/
def execAtomCas (f : Form) (s : State) : Host.Outcome State Fault Refusal :=
  runCrew (.atomCas f) f s (fun s id c =>
    let r := regsOf f.ty
    let val (j l : Nat) : Nat := if r = 2 then c.casReg f j l + 2 ^ 32 * c.casReg f (j + 1) l else c.casReg f j l
    atomEff f true (fun l old => if old = val 0 l then val r l else old) s id c)

/-! ### Fences (R231) -/

/-- `fence.acq`: it waits for the last synchronisation access, then acquires what that access read. -/
def execFenceAcq (f : Form) (s : State) : Host.Outcome State Fault Refusal :=
  runCrew (.fenceAcq f) f s (fun s id c =>
    if c.ops.any (fun o => o.awaited && c.syncOp == some o.id) then .stall
    else
      let scope := f.fenceScope
      let s1 :=
        if c.syncLines.isEmpty then s.raiseGen c.core scope
        else
          let (s0, b) := s.acquireRecords c.core scope c.syncLines
          s0.acquireEnd c.core scope b
      .ok (s1.modCrew id (fun x => { x with syncOp := none, syncLines := [] })))

/-- `fence.rel`: the crew's next access of the group is a release at the wider scope. -/
def execFenceRel (f : Form) (s : State) : Host.Outcome State Fault Refusal :=
  runCrew (.fenceRel f) f s (fun s id c =>
    if !c.earlier.isEmpty then .stall
    else .ok (s.setCrew id { c with relScope := some (c.relWith f.fenceScope) }))

/-- `fence.sc`: at bench, island or system scope every dirty byte of the core is written back, and every clean line is
stale. -/
def execFenceSc (f : Form) (s : State) : Host.Outcome State Fault Refusal :=
  runCrew (.fenceSc f) f s (fun s _ c =>
    if !c.earlier.isEmpty then .stall
    else if f.fenceScope = 1 ∨ f.fenceScope = 4 then .ok s
    else .ok ((s.eagerRelease c.core true true).raiseGen c.core 3))

end Sys2Proof.Machine
end

