-- ==== Sys2Proof/Machine/Fabric.lean ====
section
/-! DEFINITION. The glass fabric (26 R360-R373): topology and routes, streams, packets, what a target performs, replies and
acknowledgements, remote errors, and what the declaration of a dead link, island or plane does (29 R395, R396). -/

namespace Sys2Proof.Machine

/-! ### Sites and routes (R11-R14, R360-R362) -/

def State.siteOf (s : State) (i : Nat) : Nat := s.fuses.sites.getD i 255

/-- The island at a site, by its place in the list of populated sites (R12). -/
def islandAt : List Nat → Nat → Nat → Option Nat
  | [], _, _ => none
  | x :: xs, site, i => if x = site then some i else islandAt xs site (i + 1)

/-- Column and row steps of a port (R13, R360). -/
def portStep (port : Nat) : Int × Int :=
  match port with
  | 0 => (1, 0) | 1 => (2, 0) | 2 => (-1, 0) | 3 => (-2, 0)
  | 4 => (0, 1) | 5 => (0, 2) | 6 => (0, -1) | _ => (0, -2)

/-- The port at the far end of a link (R372). -/
def facing (port : Nat) : Nat :=
  match port with
  | 0 => 2 | 1 => 3 | 2 => 0 | 3 => 1 | 4 => 6 | 5 => 7 | 6 => 4 | _ => 5

/-- The island that a port faces, whatever the state of the link (R13, R14). -/
def State.neighbour (s : State) (i port : Nat) : Option Nat :=
  let site := s.siteOf i
  let (dc, dr) := portStep port
  let c := (site % 6 : Nat) + dc
  let r := (site / 6 : Nat) + dr
  if 0 ≤ c && c < 6 && 0 ≤ r && r < 6 then islandAt s.fuses.sites (c + 6 * r).toNat 0 else none

/-- Whether a port carries traffic (R14, R372). -/
def State.portLive (s : State) (i port : Nat) : Bool :=
  !(pget 0 s.topo.deadPorts i).getLsbD port && !(s.isl i).dead && match s.neighbour i port with
    | some j => !(s.isl j).dead
    | none => false

/-- Least hops between two islands if nothing were dead. -/
def State.hopDist (s : State) (i j : Nat) : Nat :=
  let d (a b : Nat) : Nat := ((a - b) + (b - a) + 1) / 2
  d (s.siteOf i % 6) (s.siteOf j % 6) + d (s.siteOf i / 6) (s.siteOf j / 6)

/-- Paths of exactly n hops. -/
def State.paths (s : State) (target : Nat) : Nat → Nat → List (List Nat)
  | 0, i => if i = target then [[]] else []
  | n + 1, i =>
    if n + 1 < s.hopDist i target then []
    else
      ((List.range 8).map (fun port =>
        if s.portLive i port then
          match s.neighbour i port with
          | some j => (s.paths target n j).map (fun p => port :: p)
          | none => []
        else [])).flatten

/-- The hops of a route lead over live ports to an island (R362). -/
def State.leadsTo (s : State) (j : Nat) : Nat → List Nat → Bool
  | i, [] => i == j
  | i, p :: ps => s.portLive i p && match s.neighbour i p with
    | some k => s.leadsTo j k ps
    | none => false

/-- Routes of 1 to 6 hops, shortest first (R362). -/
def byLength (rs : List (List Nat)) : List (List Nat) := ([1, 2, 3, 4, 5, 6].map (fun n => rs.filter (fun r => r.length == n))).flatten

/-- The routes of a pair's entry (R362, R373): those that the panel firmware lists and that are live; where it lists none or none
is left, the first four of the least number of hops, at most 6 (assumption 8). -/
def State.routes (s : State) (i j : Nat) : List (List Nat) :=
  match (byLength ((pget [] s.boot.routes (36 * i + j)).filter (s.leadsTo j i)).eraseDups).take 4 with
  | [] => (([1, 2, 3, 4, 5, 6].map (fun n => s.paths j n i)).find? (fun ps => !ps.isEmpty)).getD [] |>.take 4
  | rs => rs

/-- A route word (R362). -/
def routeWord (hops : List Nat) : Nat := hops.length * 2 ^ 18 + (hops.zip (List.range 6)).foldl (fun acc (p, k) => acc + p * 8 ^ k) 0

/-- The hops of a route word. -/
def routeHops (w : Nat) : List Nat := (List.range (w / 2 ^ 18 % 8)).map (fun k => w / 8 ^ k % 8)

/-- Islands of other panels (R394): panel and island in one number. -/
def farIsland (panel isl : Nat) : Nat := 1024 + 64 * panel + isl
def isFar (i : Nat) : Bool := decide (1024 ≤ i)

/-- Planes that carry a pair's off-panel traffic (R395, R396). -/
def State.livePlanes (s : State) (i j : Nat) : List Nat :=
  let ends (g : Nat) : Nat × Nat := if isFar g then ((g - 1024) / 64, (g - 1024) % 64) else (s.panelNum, g)
  let (pa, a) := ends i
  let (pb, b) := ends j
  [0, 1, 2, 3].filter (fun p => !s.deadPlanes.any (fun (q, x, xi, y, yi) =>
    q == p && ((x == pa && xi == a && y == pb && yi == b) || (x == pb && xi == b && y == pa && yi == a))))

/-- The route words a pair may use. A pair of one island needs no hop (R361). -/
def State.routeWords (s : State) (i j : Nat) : List Nat :=
  if isFar i || isFar j then (s.livePlanes i j).map (fun p => 2 ^ 32 + p)
  else if i = j then [0]
  else (s.routes i j).map routeWord

/-- Whether a route from an island uses the link at a port of another, in either direction (R372). -/
def State.usesLink (s : State) (link : Nat × Nat) : Nat → List Nat → Bool
  | _, [] => false
  | i, p :: ps =>
    match s.neighbour i p with
    | none => false
    | some j => (i == link.1 && p == link.2) || (j == link.1 && facing p == link.2) || s.usesLink link j ps

/-! ### Streams and sending (R363-R365) -/

def pairKey (i j : Nat) : Nat := i * 2 ^ 20 + j
def State.stream (s : State) (i j : Nat) : Stream := pget Stream.zero s.streams (pairKey i j)
def State.setStream (s : State) (i j : Nat) (x : Stream) : State :=
  { s with streams := pset Stream.zero s.streams (pairKey i j) x }

/-- The pair that a packet's operation belongs to: a reply travels the other way. -/
def Packet.pair (p : Packet) : Nat × Nat :=
  match p.what with
  | .reply _ _ => (p.dst, p.src)
  | _ => (p.src, p.dst)

/-- Ordered packets of a pair that are on their way or unacknowledged (R365). -/
def State.unacked (s : State) (i j : Nat) : Nat :=
  (s.packets.filter (fun e => e.2.src == i && e.2.dst == j && e.2.ordered && e.2.st ≠ .queued)).length

/-- The route in turn of some (R364). -/
def wayAt (ways : List Nat) (turn : Nat) : Nat := ways.getD (turn % max 1 ways.length) 0

/-- The turn after n packets. -/
def turnAfter (ways : List Nat) (turn n : Nat) : Nat := if ways.isEmpty then 0 else (turn + n) % ways.length

/-- Packets of one operation for one pair, numbered from a fresh identifier on, `cnt` in all. `room` ordered packets leave at once
on the routes in turn; the others are held. -/
def makePackets (rop fn i j : Nat) (ordered : Bool) (x : Stream) (ways : List Nat) (room cnt : Nat) :
    Nat → Nat → List Payload → PMap Packet
  | _, _, [] => []
  | id, k, w :: ws =>
    let held := ordered && decide (room ≤ k)
    (id, ⟨rop, fn, i, j, ordered, x.next, k, cnt, x.epoch, if held then 0 else wayAt ways (x.turn + k), w,
      if held then .queued else .flying, 0, none, []⟩)
      :: makePackets rop fn i j ordered x ways room cnt (id + 1) (k + 1) ws

/-- Sends the packets of an operation to one target (R363-R365). -/
def State.send (s : State) (rop fn i j : Nat) (ordered : Bool) (ws : List Payload) : State :=
  let x := s.stream i j
  let ways := s.routeWords i j
  let room := 1024 - s.unacked i j
  let ps := makePackets rop fn i j ordered x ways room ws.length s.nextId 0 ws
  let s1 := { s with packets := s.packets ++ ps, nextId := s.nextId + ws.length }
  s1.setStream i j { x with
    next := if ordered then x.next + 1 else x.next
    turn := turnAfter ways x.turn (if ordered then min room ws.length else ws.length) }

/-- A held packet leaves on the route in turn of its pair's entry as it is now (R364). -/
def State.leave (s : State) (i j k : Nat) : State :=
  let x := s.stream i j
  let ways := s.routeWords i j
  ({ s with packets := pmod s.packets k (fun p => { p with st := .flying, route := wayAt ways x.turn }) }).setStream i j
    { x with turn := turnAfter ways x.turn 1 }

/-- Held packets of a pair that may leave now (R365). -/
def State.release (s : State) (i j : Nat) : State :=
  let room := 1024 - s.unacked i j
  let ids := ((s.packets.filter (fun e => e.2.src == i && e.2.dst == j && e.2.st = .queued)).map (·.1)).take room
  ids.foldl (fun s k => s.leave i j k) s

/-- Cuts n bytes from an address at 64-byte lines (R363). -/
def spans (a n : Nat) : List (Nat × Nat) := lineRuns (n / 64 + 2) a n

/-! ### What a target performs (R337, R340, R367-R370) -/

/-- The ASID of a function on an island (R306). -/
def State.asidOf (s : State) (i fn : Nat) : Option Nat := ((s.isl i).asids.find? (fun e => e.2.fn == fn)).map (·.1)

/-- A unit under a lease of a launch or of a remote window of the function on an island (R337). -/
def State.unitLeased (s : State) (i fn va : Nat) : Bool :=
  s.leases.any (fun e => e.2.isl == i && e.2.fn == fn && !e.2.void && (e.2.window || e.2.launch.isSome)
    && e.2.units.any (fun u => decide (u.1 / 2 ^ 16 ≤ va / 2 ^ 16) && decide (va / 2 ^ 16 ≤ (u.1 + u.2 - 1) / 2 ^ 16)))

/-- The place of a remote access, or the sub-cause of its refusal (R337, R371). -/
def State.remoteLoc (s : State) (i fn : Nat) (k : Acc) (va : Nat) : Except Nat Loc :=
  match s.asidOf i fn with
  | none => .error 3
  | some asid =>
    if !s.unitLeased i fn va then .error 3
    else
      match s.leaf i [] asid va with
      | none => .error 4
      | some t => if k.onPage t then .ok (t.loc va) else .error 4

/-- Writes bytes of one line at their home, an exclusive owner recalled first (R340). -/
def State.homePut (s : State) (i : Nat) (p : Loc) (bs : List Byte) : State :=
  ((if p.ah then s else s.recall i (p.la / 64))).homeWrite i p.la bs

/-- Reads bytes of one line at their home after the same recall (R341). -/
def State.homeGet (s : State) (i : Nat) (p : Loc) (n : Nat) : State × List Byte :=
  let s1 := if p.ah then s else s.recall i (p.la / 64)
  (s1, s1.homeRead i p.la n)

/-- A counter has reached a threshold (R343). -/
def reached (v t : Word) : Bool := decide ((v - t).toNat < 2 ^ 31)

/-- A step of a notify counter (R369, R382): stalled `cwait`s and held launches judge the value it takes. -/
def State.stepCounter (s : State) (i c : Nat) (v : Word) : State :=
  let s1 := s.modIsl i (fun x => { x with counters := pset 0 x.counters c v })
  { s1 with
    crews := peach s1.crews (fun _ x => match x.cw with
      | some (n, t, _) => if x.isl = i && n = c && reached v t then { x with cw := some (n, t, true) } else x
      | none => x)
    launches := peach s1.launches (fun _ l => match l.hold with
      | some (n, t) => if l.isl = i && n = c && reached v t then { l with held := false } else l
      | none => l) }

/-- Every L1 of the island gives up a line (R367). -/
def State.recallAll (s : State) (i li : Nat) : State :=
  let holders := (s.cores.filter (fun e => coreIsl e.1 == i && (pfind e.2.lines li).isSome)).map (·.1)
  holders.foldl (fun s ck => s.dropLine ck li) s

/-- Reads the lines of a get (R341). -/
def State.getLines (s : State) (i fn : Nat) : List (Nat × Nat) → State × Except Nat (List (Nat × List Byte))
  | [] => (s, .ok [])
  | (a, n) :: r =>
    match s.remoteLoc i fn .read a with
    | .error e => (s, .error e)
    | .ok p =>
      let (s1, bs) := s.homeGet i p n
      match s1.getLines i fn r with
      | (s2, .error e) => (s2, .error e)
      | (s2, .ok more) => (s2, .ok ((a, bs) :: more))

/-- The new value of a remote atomic (R228, R229, R344). -/
def ratmNew (ty op : Nat) (cas : Bool) (c d : DWord) (old : Nat) : Nat :=
  let w := 8 * memWidth ty false
  if cas then (if old = c.toNat % 2 ^ w then d.toNat % 2 ^ w else old) else atomOp ty op old (c.toNat % 2 ^ w)

/-- A packet that is done, with its acknowledgement on a route of the reverse pair (R364). -/
def State.markDone (s : State) (k : Nat) (p : Packet) (v : DWord) (err : Option Nat) : State :=
  let ways := s.routeWords p.dst p.src
  let x := s.stream p.dst p.src
  let s1 := s.setStream p.dst p.src { x with turn := turnAfter ways x.turn 1 }
  let q : Packet := { p with st := .performed, reply := v, err := err, route := wayAt ways x.turn }
  { s1 with packets := pput s1.packets k q }

/-- A get's reply packets go out (R363); it is unacknowledged until they have come. -/
def State.sendReplies (s : State) (k : Nat) (p : Packet) (ws : List Payload) : State :=
  ({ s with packets := pput s.packets k { p with st := .performed } }).send p.rop p.fn p.dst p.src false ws

/-- A get that its target has read, its replies on the way. -/
def Packet.answered (p : Packet) : Bool := match p.what with
  | .get _ _ => p.st == .performed && p.err.isNone
  | _ => false

/-- The bytes of an 8-byte atom that lie in n bytes from an address on. -/
def atomSpan (a n at8 : Nat) : Nat × Nat := (max a (8 * at8), min (a + n) (8 * at8 + 8) - max a (8 * at8))

/-- Writes the bytes of a put's beat but for the atoms that have been performed before (R340). -/
def State.putRest (s : State) (i : Nat) (p : Loc) (a : Nat) (bs : List Byte) (part : PMap (List Byte)) : State :=
  if part.isEmpty then s.homePut i p bs
  else
    ((List.range (bs.length / 8 + 2)).filter (fun j => (pfind part (a / 8 + j)).isNone)).foldl (fun s j =>
      let (x, m) := atomSpan a bs.length (a / 8 + j)
      if m = 0 then s else s.homePut i ⟨p.la + (x - a), p.ah⟩ ((bs.drop (x - a)).take m)) s

/-- The bytes that a get has read at an address of its range from `a` on, those of atoms read before as they were then. -/
def readBefore (a : Nat) (part : PMap (List Byte)) (x : Nat) (bs : List Byte) : List Byte :=
  (bs.zip (List.range bs.length)).map (fun (b, j) => match pfind part ((x + j) / 8) with
    | some l => l.getD (x + j - max a (8 * ((x + j) / 8))) b
    | none => b)

/-- A target performs a packet (R367). -/
def State.perform (s : State) (k : Nat) (p : Packet) : State :=
  let i := p.dst
  let fn := p.fn
  match p.what with
  | .put a bs =>
    match s.remoteLoc i fn .write a with
    | .error e => s.markDone k p 0 (some e)
    | .ok l => (s.putRest i l a bs p.part).markDone k p 0 none
  | .notify c n =>
    match s.asidOf i fn with
    | none => s.markDone k p 0 (some 3)
    | some asid =>
      if pfind (s.isl i).owners c = some asid then
        (s.stepCounter i c (pget 0 (s.isl i).counters c + n)).markDone k p 0 none
      else s.markDone k p 0 (some 3)
  | .atomic a ty op cas c d =>
    match s.remoteLoc i fn .both a with
    | .error e => s.markDone k p 0 (some e)
    | .ok l =>
      let n := memWidth ty false
      let s1 := s.recallAll i (l.la / 64)
      let old := leNat (s1.homeRead i l.la n)
      (s1.homeWrite i l.la (leBytes n (ratmNew ty op cas c d old))).markDone k p (BitVec.ofNat 64 old) none
  | .get a n =>
    match s.getLines i fn (spans a n) with
    | (s1, .error e) => s1.markDone k p 0 (some e)
    | (s1, .ok parts) => s1.sendReplies k p (parts.map (fun (x, bs) => .reply (x - a) (readBefore a p.part x bs)))
  | .reply _ _ => s

/-- Whether an ordered packet may be performed (R366): every ordered operation of lower number of its pair is. -/
def State.turnOf (s : State) (p : Packet) : Bool :=
  !p.ordered || !s.packets.any (fun e => e.2.src == p.src && e.2.dst == p.dst && e.2.ordered && decide (e.2.seq < p.seq)
    && e.2.st ≠ .performed)

/-! ### Results and remote errors (R341, R344, R353, R371) -/

/-- The result of a remote operation reaches its crew (R335), and the operation completes. -/
def State.ropDone (s : State) (id : Nat) (v : DWord) : State :=
  match pfind s.rops id with
  | none => s
  | some r =>
    let s1 := { s with rops := pdel s.rops id }
    (s1.modCrew r.crew (fun c => { c with ops := c.ops.map (fun o =>
      if o.id = id then { o with held := false, kval := v, hvals := o.hvals.map (fun _ => lanesAll v) } else o) })).completeOp r.crew id

/-- The remote error (R353, R371): fatal to the issuing team. -/
def causeRemote (sub : Nat) : Cause := mkCause 0x14 sub 0

/-- A remote operation ends in an error (R353, R371): it is done, and its team ends by a fatal cause. -/
def State.ropFail (s : State) (id sub : Nat) : State :=
  match pfind s.rops id with
  | none => s
  | some r =>
    ((({ s with rops := pdel s.rops id }).modCrew r.crew (fun c => { c with ops := c.ops.filter (fun o => o.id != id) })).teamFatal r.team
      (lowWord (causeRemote sub).word))

/-- A place of the local side in memory: translated when it is used. -/
def State.localLoc (s : State) (r : ROp) (va : Nat) : Option Loc :=
  if r.inSlot then some ⟨ctxBase + va, false⟩ else (s.leaf r.isl [] r.asid va).map (fun t => t.loc va)

/-- The issuing core gives up the lines of the local side (R341). -/
def State.dropLocal (s : State) (r : ROp) : List (Nat × Nat) → State
  | [] => s
  | (a, _) :: rest =>
    (match s.localLoc r a with
      | some p => if p.ah then s else s.dropLine r.core (p.la / 64)
      | none => s).dropLocal r rest

/-- Writes bytes of the local side, run by run. -/
def State.putLocal (s : State) (r : ROp) (bs : List Byte) : List (Nat × Nat) → State
  | [] => s
  | (a, n) :: rest =>
    (match s.localLoc r a with
      | some p => s.homePut r.isl p (bs.take n)
      | none => s).putLocal r (bs.drop n) rest

/-- Bytes of a result at an offset of the local side (R341). -/
def State.writeLocal (s : State) (id off : Nat) (bs : List Byte) : State :=
  match pfind s.rops id with
  | none => s
  | some r =>
    match r.slab with
    | some t => s.winWrite t (r.loc + off) bs
    | none =>
      let s1 := if r.begun then s else s.dropLocal r (spans r.loc r.len)
      ({ s1 with rops := pmod s1.rops id (fun r => { r with begun := true }) }).putLocal r bs (spans (r.loc + off) bs.length)

/-- A get's last reply has come to its issuer: its packet is acknowledged, and one that was held in its pair leaves (R365). -/
def State.answerOver (s : State) (rop i j : Nat) : State :=
  let reply (e : Nat × Packet) : Bool := match e.2.what with
    | .reply _ _ => e.2.rop == rop
    | _ => false
  if s.packets.any reply then s
  else ({ s with packets := s.packets.filter (fun e => !(e.2.rop == rop && e.2.answered)) }).release i j

/-- A packet arrives (R366): an old epoch is discarded, an ordered packet may be held, a reply is written. What an island of
another panel makes of a packet is for that panel to say (assumption 10). -/
def State.packetArrives (s : State) (k : Nat) : State :=
  match pfind s.packets k with
  | none => s
  | some p =>
    if p.st = .queued || p.st = .performed then s
    else
      match p.what with
      | .reply off bs =>
        let s1 := ({ s with packets := pdel s.packets k }).writeLocal p.rop off bs
        let s2 := { s1 with rops := pmod s1.rops p.rop (fun r => { r with left := r.left - bs.length }) }
        match pfind s2.rops p.rop with
        | some r =>
          if r.left = 0 then (s2.answerOver p.rop p.dst p.src).ropDone p.rop (BitVec.ofNat 64 r.len)
          else s2
        | none => s2.answerOver p.rop p.dst p.src
      | _ =>
        if p.ordered && decide (p.epoch < (s.stream p.src p.dst).epoch) then { s with packets := pdel s.packets k }
        else if !s.turnOf p then { s with packets := pput s.packets k { p with st := .heldAt } }
        else if isFar p.dst then s
        else s.perform k p

/-- One atom of a put or a get is performed ahead of its packet's others (R340, R366): of a packet that is delivered, on this
panel, and whose access no rule refuses. -/
def State.atomArrives (s : State) (k at8 : Nat) : State :=
  match pfind s.packets k with
  | none => s
  | some p =>
    let done (s1 : State) (bs : List Byte) : State :=
      { s1 with packets := pput s1.packets k { p with st := .heldAt, part := pput p.part at8 bs } }
    if p.st = .queued || p.st = .performed || isFar p.dst || (pfind p.part at8).isSome || !s.turnOf p
      || (p.ordered && decide (p.epoch < (s.stream p.src p.dst).epoch)) then s
    else
      match p.what with
      | .put a bs =>
        let (x, m) := atomSpan a bs.length at8
        match s.remoteLoc p.dst p.fn .write a with
        | .error _ => s
        | .ok l => if m = 0 then s else done (s.homePut p.dst ⟨l.la + (x - a), l.ah⟩ ((bs.drop (x - a)).take m)) []
      | .get a n =>
        let (x, m) := atomSpan a n at8
        match s.remoteLoc p.dst p.fn .read x with
        | .error _ => s
        | .ok l =>
          if m = 0 then s
          else
            let (s1, bs) := s.homeGet p.dst l m
            done s1 bs
      | _ => s

/-- An island of another panel has performed or refused a packet, in the order of R366 (R395, R371). -/
def State.farAnswers (s : State) (k : Nat) (v : DWord) (bs : List Byte) (refusal : Option Nat) : State :=
  match pfind s.packets k with
  | none => s
  | some p =>
    if !isFar p.dst || (p.st ≠ .flying && p.st ≠ .heldAt) || !s.turnOf p then s
    else
      match refusal, p.what with
      | some e, _ => if e = 0 ∨ e = 3 ∨ e = 4 then s.markDone k p 0 (some e) else s
      | none, .get a n => s.sendReplies k p ((spans a n).map (fun (x, m) =>
          .reply (x - a) ((List.range m).map (fun j => bs.getD (x - a + j) 0))))
      | none, .atomic _ ty _ _ _ _ => s.markDone k p (BitVec.ofNat 64 (v.toNat % 2 ^ (8 * memWidth ty false))) none
      | none, .reply _ _ => s
      | none, _ => s.markDone k p 0 none

/-- The packets of another panel's operation come onto the planes (R363, R395), numbered in their pair as R365 says. -/
def State.sendIn (s : State) (panel isl target fn : Nat) (ordered : Bool) (what : Payload) : State :=
  let i := farIsland panel isl
  let ws : List Payload := match what with
    | .put a bs => (spans a bs.length).map (fun (x, n) => .put x ((bs.drop (x - a)).take n))
    | .get a n => if n = 0 then [] else [.get a n]
    | .atomic a ty op cas c d => if a % memWidth ty false = 0 then [.atomic a ty op cas c d] else []
    | .notify c n => [.notify c n]
    | .reply _ _ => []
  if panel = s.panelNum || !s.panels.getLsbD panel || decide (36 ≤ isl) || decide (s.islands ≤ target) || (s.isl target).dead
    || (s.livePlanes i target).isEmpty || ws.isEmpty then s
  else ({ s with nextId := s.nextId + 1 }).send s.nextId fn i target ordered ws

/-- An acknowledgement or an atomic's result reaches the sender (R339, R342, R344): it stands for every packet of the
operation at that target, once all are done; while some of them are held at the sender, for its own packet alone, whose place
it frees (R365, assumption 76). -/
def State.ackArrives (s : State) (k : Nat) : State :=
  match pfind s.packets k with
  | none => s
  | some p =>
    let mine (e : Nat × Packet) : Bool := e.2.rop == p.rop && e.2.dst == p.dst && e.2.src == p.src
    let ps := s.packets.filter mine
    if p.answered || p.st ≠ .performed then s
    else if ps.any (fun e => e.2.st = .queued) then
      let s1 := ({ s with packets := pdel s.packets k }).release p.src p.dst
      match p.err with
      | some e => s1.ropFail p.rop e
      | none => s1
    else if ps.any (fun e => e.2.st ≠ .performed) then s
    else
      let s1 := ({ s with packets := s.packets.filter (fun e => !mine e) }).release p.src p.dst
      match ps.findSome? (fun e => e.2.err) with
      | some e => s1.ropFail p.rop e
      | none =>
        match pfind s1.rops p.rop with
        | none => s1
        | some r =>
          if r.left ≤ 1 then s1.ropDone p.rop p.reply
          else { s1 with rops := pput s1.rops p.rop { r with left := r.left - 1 } }

/-! ### Declarations (R372, R373, R396) -/

/-- The acknowledgement of a performed packet is on its way: it is sent once every beat of its operation at that target has been
performed (R366), or by itself while some are held at the sender (assumption 76). -/
def State.acking (s : State) (p : Packet) : Bool :=
  let ps := s.packets.filter (fun e => e.2.rop == p.rop && e.2.dst == p.dst && e.2.src == p.src)
  p.st = .performed && !p.answered && (ps.any (fun e => e.2.st = .queued) || ps.all (fun e => e.2.st = .performed))

/-- A packet, or its acknowledgement, is under way on its route. -/
def State.underWay (s : State) (p : Packet) : Bool := p.st = .flying || s.acking p

/-- A packet was on, or queued for, a failed part. -/
def State.onLink (s : State) (link : Nat × Nat) (p : Packet) : Bool :=
  let from_ := if p.st = .performed then p.dst else p.src
  s.underWay p && decide (p.route < 2 ^ 32) && s.usesLink link from_ (routeHops p.route)

/-- The sub-cause of an operation over several pairs: that of a dead island before a lost packet or a pair left with no route, and
those before a mere reset (R373). -/
def leastSub : List Nat → Nat
  | [] => 0
  | [x] => x
  | x :: xs => min x (leastSub xs)

/-- Resets the streams of the pairs that fail (R373 steps 2 and 3): their ordered packets and the lost ones go, their epochs
rise, and their operations end in the remote error that `sub` gives for their pairs. -/
def State.resetPairs (s : State) (pairs : List (Nat × Nat)) (lost : Packet → Bool) (sub : Nat → Bool → Nat × Nat → Nat) : State :=
  let hit (p : Packet) : Bool := pairs.contains p.pair
  let dead := s.packets.filter (fun e => hit e.2)
  let errs := ((dead.map (fun e => e.2.rop)).eraseDups).map (fun r =>
    let mine := dead.filter (fun e => e.2.rop == r)
    let own (x : Nat × Nat) : List Packet := (mine.filter (fun e => e.2.pair == x)).map (·.2)
    (r, leastSub (((mine.map (fun e => e.2.pair)).eraseDups).map (fun x => sub r ((own x).any lost) x))))
  let s1 := { s with packets := s.packets.filter (fun e => !(hit e.2 && (e.2.ordered || lost e.2 || e.2.st = .performed))) }
  let s2 := pairs.foldl (fun s (i, j) =>
    let x := s.stream i j
    s.setStream i j { x with epoch := x.epoch + 1, next := 0 }) s1
  errs.foldl (fun s (r, e) => s.ropFail r e) s2

/-- Every pair of the panel's islands, and every other one that a packet or a stream belongs to. -/
def State.allPairs (s : State) : List (Nat × Nat) :=
  ((List.range s.islands).map (fun i => (List.range s.islands).map (fun j => (i, j)))).flatten
    ++ (((s.packets.map (fun (e : Nat × Packet) => e.2.pair)) ++
      (s.streams.map (fun (e : Nat × _) => (e.1 / 2 ^ 20, e.1 % 2 ^ 20)))).eraseDups).filter (fun x =>
      decide (s.islands ≤ x.1) || decide (s.islands ≤ x.2))

/-- A pair with a direction left without routes. -/
def State.cutOff (s : State) (x : Nat × Nat) : Bool :=
  (s.routeWords x.1 x.2).isEmpty || (s.routeWords x.2 x.1).isEmpty

/-- Marks one port dead. -/
def Topo.kill (t : Topo) (i port : Nat) : Topo :=
  { t with deadPorts := pset 0 t.deadPorts i (pget 0 t.deadPorts i ||| BitVec.ofNat 8 (2 ^ port)) }

/-- A link is declared dead (R372, R373). -/
def State.linkDead (s : State) (i port : Nat) : State :=
  match s.neighbour i port with
  | none => s
  | some j =>
    let lost (p : Packet) : Bool := s.onLink (i, port) p
    let t := (s.topo.kill i port).kill j (facing port)
    let s1 := { s with topo := { t with gen := t.gen + 1 } }
    let pairs := s1.allPairs.filter (fun x =>
      s1.packets.any (fun e => e.2.pair == x && lost e.2) || (!isFar x.1 && !isFar x.2 && s1.cutOff x))
    s1.resetPairs pairs lost (fun _ l x => if l || s1.cutOff x then 1 else 2)

/-- Ends collectives (R371): a sub-cause for every member that has not completed. -/
def State.collsFail (s : State) (sub : Nat) (hit : Coll → Bool) : State :=
  let bad := (s.colls.filter (fun e => hit e.2)).map (fun e => e.2)
  let rops := (bad.map (fun c => (c.members.filter (fun m => !m.final)).map (fun m => m.rop))).flatten
  rops.foldl (fun s r => s.ropFail r sub) { s with colls := s.colls.filter (fun e => !hit e.2) }

/-- The streams of a dead island (R372, R373). -/
def State.islandCut (s : State) (i : Nat) : State :=
  let links := (List.range 8).map (fun p => (i, p))
  let lost (p : Packet) : Bool := links.any (fun l => s.onLink l p)
  let t := links.foldl (fun t l => match s.neighbour i l.2 with
    | some j => t.kill j (facing l.2)
    | none => t) s.topo
  let s1 := ({ s with topo := { t with gen := t.gen + 1 } }).modIsl i (fun x => { x with dead := true })
  let pairs := s1.allPairs.filter (fun x => x.1 == i || x.2 == i
    || s1.packets.any (fun e => e.2.pair == x && lost e.2) || (!isFar x.1 && !isFar x.2 && s1.cutOff x))
  let s2 := s1.resetPairs pairs (fun p => lost p || p.src == i || p.dst == i)
    (fun _ l x => if x.1 = i ∨ x.2 = i then 0 else if l || s1.cutOff x then 1 else 2)
  s2.collsFail 6 (fun c => (c.card.getD 3 0).getLsbD i)

/-- A plane is dead for a pair of islands (R396), and for the collectives that its switches combine for both (R397). -/
def State.planeCut (s : State) (plane pa a pb b : Nat) : State :=
  let s1 := { s with deadPlanes := s.deadPlanes ++ [(plane, pa, a, pb, b)] }
  let num (p i : Nat) : Nat := if p = s.panelNum then i else farIsland p i
  let x := num pa a
  let y := num pb b
  let lost (p : Packet) : Bool := p.route == 2 ^ 32 + plane && s.underWay p
  let pairs := [(x, y), (y, x)].filter (fun z => (s1.packets.any (fun e => e.2.pair == z && lost e.2) || s1.cutOff z))
  let member (c : Coll) (p i : Nat) : Bool := (c.card.getD 4 0).getLsbD p && (c.card.getD 3 0).getLsbD i
  (s1.resetPairs pairs lost (fun _ _ _ => 7)).collsFail 7 (fun c =>
    !(c.card.getD 0 0).getLsbD 10 && (c.card.getD 0 0).toNat / 2 ^ 48 % 4 == plane && member c pa a && member c pb b)

end Sys2Proof.Machine
end

