-- ==== Sys2Proof/Machine/Remote.lean ====
section
/-! DEFINITION. Put, get, notify, remote atomics, their fences and counter waits (24 R335-R347), opcodes 0x0F0 to 0x0F6 and
0x0F8. -/

namespace Sys2Proof

/-- `.rlx` and `.sl` of a put or get: mod[0] and mod[4] (R339). -/
def Form.relaxed (f : Form) : Bool := f.mod.getLsbD 0
def Form.localSlab (f : Form) : Bool := f.mod.getLsbD 4

end Sys2Proof

namespace Sys2Proof.Machine

/-- The remote-operand trap (R352). -/
def causeRemoteOperand (sub : Nat) : Cause := mkCause 0x16 sub 0

/-! ### Route words (R336, R352) -/

def rwIsl (w : DWord) : Nat := w.toNat / 2 ^ 32 % 64
def rwOp (w : DWord) : Bool := w.getLsbD 47
def rwPanel (w : DWord) : Nat := w.toNat / 2 ^ 40 % 64
def rwLen (w : DWord) : Nat := w.toNat % 2 ^ 21

/-- Reserved bits of a route word, a panel number without op among them (R336). -/
def rwReserved (w : DWord) : Bool :=
  decide (2 ^ 48 ≤ w.toNat) || w.getLsbD 46 || decide (w.toNat / 2 ^ 38 % 4 ≠ 0) || decide (w.toNat / 2 ^ 21 % 2 ^ 11 ≠ 0)
    || (!rwOp w && decide (rwPanel w ≠ 0))

/-- Sub-cause 0 (R352): an island or a panel that is not there. Islands of other panels are taken to number at most 36. -/
def State.rwNowhere (s : State) (w : DWord) : Bool :=
  if rwOp w && decide (rwPanel w ≠ s.panelNum) then !s.panels.getLsbD (rwPanel w) || decide (36 ≤ rwIsl w)
  else decide (s.islands ≤ rwIsl w)

/-- The target of a route word: the own panel's number names the own panel. -/
def State.rwTarget (s : State) (w : DWord) : Nat :=
  if rwOp w && decide (rwPanel w ≠ s.panelNum) then farIsland (rwPanel w) (rwIsl w) else rwIsl w

/-- Length limits of put and get (R336). -/
def lenBad (w : DWord) : Bool := decide (rwLen w = 0) || decide (2 ^ 20 < rwLen w)

/-- Sub-causes 0 to 2 of one route word, the lowest first (R352): `len` says whether its low field is out of range. -/
def State.rwFault (s : State) (w : DWord) (len : Bool) (a : DWord) : Option Nat :=
  if s.rwNowhere w then some 0
  else if len || rwReserved w then some 1
  else if 2 ^ 57 ≤ a.toNat then some 2
  else none

/-- The remote error at once (R373, R396): a dead target, or a pair without a route. -/
def State.unreachable (s : State) (i j : Nat) : Option Nat :=
  if isFar j then (if (s.livePlanes i j).isEmpty then some 7 else none)
  else if (s.isl j).dead then some 0
  else if s.cutOff (i, j) then some 1
  else none

/-! ### The local side (R338) -/

/-- The declared range of a whole region, then the first cause of its lines' pages and lease in the order of R75 (R338). -/
def State.regionAt (s : State) (c : Crew) (k : Acc) (va n : Nat) : Except Cause (List (Loc × Nat)) :=
  let l := s.launchOf c
  let tlb := (s.core c.core).tlb
  let inSlot := match c.slotRange with
    | some r => r.has va n
    | none => false
  match if inSlot then none else rangeFault l.ranges k va n with
  | some x => .error x
  | none =>
    let rs := (spans va n).map (fun (a, m) => (s.checkAccess l tlb c.slotRange k a m, m))
    match firstCause (rs.filterMap (fun r => match r.1 with
      | .error x => some x
      | .ok _ => none)) with
    | some x => .error x
    | none => .ok (rs.filterMap (fun r => match r.1 with
      | .ok p => some (p, r.2)
      | .error _ => none))

/-- Reads lines through the L1 (R339). -/
def State.loadPieces (s : State) (ck : Nat) : List (Loc × Nat) → State × List Byte
  | [] => (s, [])
  | (p, n) :: r =>
    let (s1, bs) := s.l1Load ck p n
    let (s2, more) := s1.loadPieces ck r
    (s2, bs ++ more)

/-- The local side of a put: its bytes (R338, R339). -/
def State.localRead (s : State) (c : Crew) (slab : Bool) (a : DWord) (n : Nat) : Except Cause (State × List Byte) :=
  if slab then
    match s.slabPlace c.team (a.toNat % 2 ^ 32) n with
    | some (t, off) => .ok (s, s.winRead t off n)
    | none => .error (mkCause 5 0 (BitVec.ofNat 64 (a.toNat % 2 ^ 32)))
  else
    match s.regionAt c .read a.toNat n with
    | .error x => .error x
    | .ok ps => .ok (s.loadPieces c.core ps)

/-- The local side of a get: where its bytes will go. -/
def State.localDest (s : State) (c : Crew) (slab : Bool) (a : DWord) (n : Nat) : Except Cause (Option Nat × Bool × Nat) :=
  if slab then
    match s.slabPlace c.team (a.toNat % 2 ^ 32) n with
    | some (t, off) => .ok (some t, false, off)
    | none => .error (mkCause 5 0 (BitVec.ofNat 64 (a.toNat % 2 ^ 32)))
  else
    match s.regionAt c .write a.toNat n with
    | .error x => .error x
    | .ok _ => .ok (none, (match c.slotRange with
      | some r => r.has a.toNat n
      | none => false), a.toNat)

/-! ### Issuing (R335) -/

/-- A remote operation of a crew, its targets or bytes still to come. -/
def State.newRop (s : State) (id : Nat) (c : Crew) (kind : RKind) (left : Nat) : ROp :=
  { kind := kind, crew := id, core := c.core, team := c.team, isl := c.isl, asid := (s.launchOf c).asid
    fn := (s.launchOf c).fn, slab := none, inSlot := false, loc := 0, len := 0, begun := false, left := left }

/-- Records the operation under the number that the crew's operation takes, and returns that number. -/
def State.openRop (s : State) (r : ROp) : State × Nat := ({ s with rops := pput s.rops s.nextId r }, s.nextId)

/-- Sends the operation's packets to every target, and the remote error where one cannot be reached. -/
def State.sendAll (s : State) (rop fn i : Nat) (ordered : Bool) (ws : List Payload) : List Nat → State
  | [] => s
  | j :: js =>
    match s.unreachable i j with
    | none => (s.send rop fn i j ordered ws).sendAll rop fn i ordered ws js
    | some e => (s.sendAll rop fn i ordered ws js).ropFail rop e

/-- A posted operation (R335, R339, R342). -/
def State.post (s : State) (id : Nat) (c : Crew) (f : Form) (kind : RKind) (ordered : Bool) (ws : List Payload) (js : List Nat) :
    State :=
  let r := s.newRop id c kind js.length
  let (s1, n) := s.openRop r
  (s1.lateNone id c f .rm true true).sendAll n r.fn c.isl ordered ws js

/-- A remote operation with a result (R335, R341, R344). -/
def State.ask (s : State) (id : Nat) (c : Crew) (f : Form) (r : ROp) (ordered : Bool) (w : Payload) (j : Nat) : State :=
  let (s1, n) := s.openRop r
  (s1.lateUniform id c f .rm true true 0).sendAll n r.fn c.isl ordered [w] [j]

/-- The shared effect of `put` and `mput`. -/
def putEff (f : Form) (len : Nat) (js : List Nat) (s : State) (id : Nat) (c : Crew) : Eff :=
  let a := c.uni f 2 f.a
  match s.localRead c f.localSlab (c.uni f 2 f.b) len with
  | .error x => .trap x
  | .ok (s1, bs) =>
    if s.issueWaits c .rm true then .stall
    else .ok (s1.post id c f .put (!f.relaxed)
      ((spans a.toNat len).map (fun (x, n) => .put x ((bs.drop (x - a.toNat)).take n))) js)

/-- `put` (R339). -/
def execPut (f : Form) (s : State) : Host.Outcome State Fault Refusal :=
  runCrew (.put f) f s (fun s id c =>
    let w := c.uni f 2 f.c
    match s.rwFault w (lenBad w) (c.uni f 2 f.a) with
    | some e => .trap (causeRemoteOperand e)
    | none => putEff f (rwLen w) [s.rwTarget w] s id c)

/-- `mput` (R339): the route word in an even uniform register, the island mask in the next. -/
def execMput (f : Form) (s : State) : Host.Outcome State Fault Refusal :=
  runCrew (.mput f) f s (fun s id c =>
    let w := c.uni f 2 f.c
    let m := c.kget (f.c.src.bits.toNat % 64 + 1)
    if rwIsl w ≠ 0 || rwOp w then .trap (causeRemoteOperand 0)
    else
      match s.rwFault w (lenBad w) (c.uni f 2 f.a) with
      | some e => .trap (causeRemoteOperand e)
      | none =>
        if m = 0 || decide (2 ^ s.islands ≤ m.toNat) then .trap (causeRemoteOperand 4)
        else putEff f (rwLen w) ((List.range s.islands).filter m.getLsbD) s id c)

/-- `get` (R341). -/
def execGet (f : Form) (s : State) : Host.Outcome State Fault Refusal :=
  runCrew (.get f) f s (fun s id c =>
    let w := c.uni f 2 f.c
    let a := c.uni f 2 f.a
    let n := rwLen w
    match s.rwFault w (lenBad w) a with
    | some e => .trap (causeRemoteOperand e)
    | none =>
      match s.localDest c f.localSlab (c.uni f 2 f.b) n with
      | .error x => .trap x
      | .ok (slab, inSlot, loc) =>
        if s.issueWaits c .rm true then .stall
        else
          let r : ROp := { s.newRop id c .get n with slab := slab, inSlot := inSlot, loc := loc, len := n }
          .ok (s.ask id c f r (!f.relaxed) (.get a.toNat n) (s.rwTarget w)))

/-- Whether an atomic's remote address is out of range or misaligned (R352). -/
def ratmFault (s : State) (f : Form) (w a : DWord) : Option Nat :=
  match s.rwFault w (decide (rwLen w ≠ 0)) a with
  | some e => some e
  | none => if a.toNat % memWidth f.ty false ≠ 0 then some 2 else none

/-- The shared effect of `ratm` and `ratm.cas` (R344). -/
def ratmEff (f : Form) (cas : Bool) (c1 c2 : DWord) (s : State) (id : Nat) (c : Crew) : Eff :=
  let w := c.uni f 2 f.b
  let a := c.uni f 2 f.a
  match ratmFault s f w a with
  | some e => .trap (causeRemoteOperand e)
  | none =>
    if s.issueWaits c .rm true then .stall
    else .ok (s.ask id c f (s.newRop id c .atomic 1) (!f.xBit 4) (.atomic a.toNat f.ty f.hi cas c1 c2) (s.rwTarget w))

def execRatm (f : Form) (s : State) : Host.Outcome State Fault Refusal :=
  runCrew (.ratm f) f s (fun s id c => ratmEff f false (c.uni f f.ty f.c) 0 s id c)

def execRatmCas (f : Form) (s : State) : Host.Outcome State Fault Refusal :=
  runCrew (.ratmCas f) f s (fun s id c =>
    let r := f.c.src.bits.toNat % 64
    ratmEff f true (c.kget r) (c.kget (r + 1)) s id c)

/-- `ntf` (R342). -/
def execNtf (f : Form) (s : State) : Host.Outcome State Fault Refusal :=
  runCrew (.ntf f) f s (fun s id c =>
    let w := c.uni f 2 f.a
    match s.rwFault w (decide (4096 ≤ rwLen w)) 0 with
    | some e => .trap (causeRemoteOperand e)
    | none =>
      if s.issueWaits c .rm true then .stall
      else .ok (s.post id c f .notify (!f.relaxed) [.notify (rwLen w) (lowWord (c.uni f 2 f.b))] [s.rwTarget w]))

/-! ### Waits and fences (R343, R346, R347) -/

/-- Outstanding remote operations of a crew of some kinds. -/
def State.ropsOf (s : State) (id : Nat) (p : RKind → Bool) : Bool := s.rops.any (fun e => e.2.crew == id && p e.2.kind)

/-- `flushp` (R346). -/
def execFlushp (f : Form) (s : State) : Host.Outcome State Fault Refusal :=
  runCrew (.flushp f) f s (fun s id _ =>
    if s.ropsOf id (fun k => k == .put || k == .notify || k == .atomic) then .stall else .ok s)

/-- `cwait` (R343, R368, R369): an acquire at system scope once the counter has reached t. While it is stalled, every step of
the counter is judged. -/
def execCwait (f : Form) (s : State) : Host.Outcome State Fault Refusal :=
  runCrew (.cwait f) f s (fun s id c =>
    let n := (c.uni f 2 f.a).toNat
    let t := lowWord (c.uni f 2 f.b)
    if 4096 ≤ n then .trap (causeRemoteOperand 5)
    else if c.cw = some (n, t, true) then .ok (s.raiseGen c.core 3)
    else if pfind (s.isl c.isl).owners n ≠ some (s.launchOf c).asid then .trap (causeRemote 3)
    else if reached (pget 0 (s.isl c.isl).counters n) t then .ok (s.raiseGen c.core 3)
    else .moved ((s.modCrew id (fun c => { c with cw := some (n, t, false) })).stallCrew id))

/-- `rfence.rel` (R347). -/
def execRfenceRel (f : Form) (s : State) : Host.Outcome State Fault Refusal :=
  runCrew (.rfenceRel f) f s (fun s _ c => if !c.earlier.isEmpty then .stall else .ok (s.eagerRelease c.core true false))

/-- `rfence.acq` (R347). -/
def execRfenceAcq (f : Form) (s : State) : Host.Outcome State Fault Refusal :=
  runCrew (.rfenceAcq f) f s (fun s id c =>
    if s.ropsOf id (fun k => k == .get || k == .atomic || k == .coll) then .stall else .ok (s.raiseGen c.core 3))

end Sys2Proof.Machine
end

