-- ==== Sys2Proof/Machine/Collective.lean ====
section
/-! DEFINITION. Collectives (24 R348-R352): the card, contributions, combining, completion; opcode 0x0F7 and the step that
combines. -/

namespace Sys2Proof.Machine

/-! ### The card (R348) -/

def cOp (card : List DWord) : Nat := cardField card 0 4
def cTy (card : List DWord) : Nat := cardField card 4 4
/-- All-reduce. -/
def cAll (card : List DWord) : Bool := cardField card 8 2 == 1
def cTree (card : List DWord) : Bool := cardField card 10 1 == 1
def cEmpty (card : List DWord) : Bool := cardField card 11 1 == 1
def cRoot (card : List DWord) : Nat := cardField card 16 8
def cPanel (card : List DWord) : Nat := cardField card 24 8
def cCnt (card : List DWord) : Nat := cardField card 32 16
def cIm (card : List DWord) : DWord := card.getD 3 0
def cPm (card : List DWord) : DWord := card.getD 4 0

/-- Bytes of an element: bf16 has two. -/
def cSize (card : List DWord) : Nat := if cTy card = 1 then 2 else 4

/-- Elements and bytes of a contribution. -/
def cElems (card : List DWord) : Nat := if cOp card = 2 then cCnt card + 2 else cCnt card
def cBytes (card : List DWord) : Nat := cElems card * cSize card

/-- Panels of a member's card: the own one alone in either spelling (R348). -/
def State.ownPm (s : State) (card : List DWord) : Bool := cPm card == 0 || cPm card == BitVec.ofNat 64 (2 ^ s.panelNum)

/-- The fields that must agree, the two spellings of the own panel made one (R348). -/
def State.cAgreed (s : State) (card : List DWord) : List DWord :=
  let w := (card.getD 0 0).toNat
  let w1 := w - cardField card 11 1 * 2 ^ 11
  let w2 := if cPanel card = s.panelNum then w1 - cPanel card * 2 ^ 24 + 0xFF * 2 ^ 24 else w1
  [BitVec.ofNat 64 w2, 0, 0, cIm card, if s.ownPm card then 0 else cPm card]

/-- What a card must not hold (R352, sub-cause 3): the issuing island and the root of a reduce are members (assumption 26). -/
def State.cBad (s : State) (i : Nat) (card : List DWord) : Bool :=
  decide (2 < cOp card) || decide (3 < cTy card) || (cOp card == 2 && cTy card != 0) || decide (1 < cardField card 8 2)
    || cardField card 12 4 != 0 || cIm card == 0 || decide (2 ^ s.islands ≤ (cIm card).toNat) || !(cIm card).getLsbD i
    || (if cAll card then decide (s.islands ≤ cRoot card) else !(cIm card).getLsbD (cRoot card)) || (cPanel card != 0xFF && !s.panels.getLsbD (cPanel card))
    || (cPm card &&& ~~~s.panels) != 0 || (cPm card != 0 && !(cPm card).getLsbD s.panelNum)
    || decide (4096 < cBytes card) || (List.range 3).any (fun j => card.getD (5 + j) 0 != 0)

/-- Whether a member gets the combined result. -/
def State.cReceives (s : State) (i : Nat) (card : List DWord) : Bool :=
  cAll card || (cRoot card == i && (cPanel card == 0xFF || cPanel card == s.panelNum))

/-! ### Combining (R349) -/

/-- The identity of R349, element by element. -/
def cIdentity (card : List DWord) : List Nat :=
  match cOp card with
  | 2 => 0xFF800000 :: List.replicate (cCnt card + 1) 0
  | 1 => List.replicate (cCnt card) (match cTy card with
    | 0 => 0xFF800000
    | 1 => 0xFF80
    | 2 => 0x80000000
    | _ => 0)
  | _ => List.replicate (cCnt card) (match cTy card with
    | 0 => 0x80000000
    | 1 => 0x8000
    | _ => 0)

/-- One element of a sum or a maximum. -/
def cElem (op ty : Nat) (a b : Nat) : Nat :=
  match ty with
  | 0 => if op = 1 then (fpMinMax f32 true a b).1 else (fpAdd f32 a b).1
  | 1 => if op = 1 then (fpMinMax bf16 true a b).1 else (fpAdd bf16 a b).1
  | 2 => if op = 1 then (if (BitVec.ofNat 32 a).toInt < (BitVec.ofNat 32 b).toInt then b else a) else (a + b) % 2 ^ 32
  | _ => if op = 1 then max a b else (a + b) % 2 ^ 32

/-- round_to(f32, 2^d, rne) for a real d that is not positive (R349). -/
def expFactor (d : Dy) : Nat :=
  if d.m = 0 then 0x3F800000
  else if Dy.le d ⟨-150, 0⟩ then 0
  else
    let q := roundInt d .rup
    let r := d.add ⟨-q, 0⟩
    let x := exp2Dy true r.m.natAbs r.e
    (roundTo f32 ⟨x.m, x.e + q⟩ .rne false).1

/-- One field of a triple: x1·c1 + x2·c2 with one rounding; none where it is invalid (R349). -/
def tripleField (x1 c1 x2 c2 : Nat) : Option Nat :=
  let prod (x c : Nat) : Option (Sum Bool (Bool × Dy)) :=
    match unpack f32 x, unpack f32 c with
    | .nan _, _ => none
    | .inf n, .fin _ m _ => if m = 0 then none else some (.inl n)
    | .fin n m e, .fin _ k g => some (.inr (n, Dy.mul (FVal.dy (.fin n m e)) ⟨k, g⟩))
    | _, _ => none
  match prod x1 c1, prod x2 c2 with
  | some (.inl n), some (.inl m) => if n = m then some (signed f32 n f32.infBits) else none
  | some (.inl n), some (.inr _) => some (signed f32 n f32.infBits)
  | some (.inr _), some (.inl n) => some (signed f32 n f32.infBits)
  | some (.inr (n, x)), some (.inr (m, y)) => some (roundTo f32 (x.add y) .rne (n && m)).1
  | _, _ => none

/-- Combining two triples (R349). -/
def combineTriple (a b : List Nat) : List Nat :=
  let bad := List.replicate a.length f32.defaultNan
  let m1 := a.getD 0 0
  let m2 := b.getD 0 0
  let wrong (m : Nat) : Bool := isNan (unpack f32 m) || unpack f32 m == .inf false
  if wrong m1 || wrong m2 || (a.drop 1).any (fun x => isNan (unpack f32 x)) || (b.drop 1).any (fun x => isNan (unpack f32 x)) then bad
  else
    match unpack f32 m1, unpack f32 m2 with
    | .inf _, .inf _ => 0xFF800000 :: List.replicate (a.length - 1) 0
    | u, v =>
      let m := (fpMinMax f32 true m1 m2).1
      let top := (unpack f32 m).dy
      let factor (x : FVal) : Nat := match x with
        | .inf _ => 0
        | y => expFactor (y.dy.add top.neg)
      let c1 := factor u
      let c2 := factor v
      let fields := ((a.drop 1).zip (b.drop 1)).map (fun (x, y) => tripleField x c1 y c2)
      if fields.any Option.isNone then bad else m :: fields.map (fun x => x.getD 0)

/-- Combining two contributions (R349). -/
def combineVals (card : List DWord) (a b : List Nat) : List Nat :=
  if cOp card = 2 then combineTriple a b else (a.zip b).map (fun (x, y) => cElem (cOp card) (cTy card) x y)

/-- One step of the named tree at distance d (R133, R350). -/
def treeStep (card : List DWord) (d : Nat) (ps : List (List Nat)) : List (List Nat) :=
  (List.range ps.length).map (fun p =>
    if p % (2 * d) = 0 then combineVals card (ps.getD p []) (ps.getD (p + d) []) else ps.getD p [])

/-- The named tree over W positions, a power of two (R350). -/
def treeFold (card : List DWord) : Nat → Nat → List (List Nat) → List Nat
  | 0, _, ps => ps.headD []
  | fuel + 1, d, ps => if ps.length ≤ d then ps.headD [] else treeFold card fuel (2 * d) (treeStep card d ps)

def pow2Above : Nat → Nat → Nat → Nat
  | 0, w, _ => w
  | fuel + 1, w, n => if n ≤ w then w else pow2Above fuel (2 * w) n

/-- The result of the named tree (R350). -/
def treeResult (card : List DWord) (ps : List (List Nat)) : List Nat :=
  let w := pow2Above 13 1 ps.length
  treeFold card 13 1 (ps ++ List.replicate (w - ps.length) (cIdentity card))

/-! ### Members and completion (R351) -/

/-- The collective of a function and a tag. -/
def State.findColl (s : State) (fn tag : Nat) : Option (Nat × Coll) :=
  s.colls.find? (fun e => e.2.fn == fn && cardField e.2.card 48 16 == tag)

def collKey (fn tag : Nat) : Nat := fn * 2 ^ 16 + tag

/-- The panel of a member. -/
def State.panelOf (s : State) (i : Nat) : Nat := if isFar i then (i - 1024) / 64 else s.panelNum

/-- The members of a card, in the order of panels and of islands (R350). -/
def State.seats (s : State) (card : List DWord) : List Nat :=
  let isls := (List.range 64).filter (cIm card).getLsbD
  if s.ownPm card then isls
  else (((List.range 64).filter (cPm card).getLsbD).map (fun p =>
    isls.map (fun i => if p = s.panelNum then i else farIsland p i))).flatten

/-- Every member has issued. -/
def State.collComplete (s : State) (c : Coll) : Bool :=
  (s.seats c.card).all (fun i => c.members.any (fun m => m.isl == i))

/-- Values that may be combined (R350, R397): two of one panel, or the results of two panels. -/
def State.mayCombine (s : State) (c : Coll) (i j : Nat) : Bool :=
  let whole (g : Nat) : Bool := c.parts.all (fun e => e.1 == g || s.panelOf e.1 != s.panelOf g)
    && (s.seats c.card).all (fun x => s.panelOf x != s.panelOf g || c.members.any (fun m => m.isl == x))
  i != j && (s.panelOf i == s.panelOf j || (whole i && whole j))

/-- A member completes with its result (R351). -/
def State.memberDone (s : State) (k i : Nat) (v : DWord) : State :=
  match pfind s.colls k with
  | none => s
  | some c =>
    match c.members.find? (fun m => m.isl == i && !m.final) with
    | none => s
    | some m =>
      let c1 : Coll := { c with members := c.members.map (fun x => if x.isl = i then { x with final := true } else x) }
      ({ s with colls := pput s.colls k c1 }).ropDone m.rop v

/-- The bytes of a value list. -/
def valBytes (card : List DWord) (vs : List Nat) : List Byte := (vs.map (fun v => leBytes (cSize card) v)).flatten

/-- The combined result reaches every member that receives it, and all that are left complete (R351). -/
def State.collResult (s : State) (k : Nat) (c : Coll) (vs : List Nat) : State :=
  let bs := valBytes c.card vs
  let n := (c.members.filter (fun m => !m.empty)).length
  let s1 := c.members.foldl (fun s m =>
    if m.final then s
    else if s.cReceives m.isl c.card then (s.writeLocal m.rop 0 bs).memberDone k m.isl (BitVec.ofNat 64 n)
    else s.memberDone k m.isl 0) s
  { s1 with colls := pdel s1.colls k, collsMet := pput s1.collsMet (collKey c.fn (cardField c.card 48 16)) c.card }

/-- The first combining stage takes a member's contribution (R351): one that gets no result completes. -/
def State.collAccept (s : State) (k : Nat) (c : Coll) (i : Nat) : State :=
  let s1 := { s with colls := pmod s.colls k (fun c =>
    { c with members := c.members.map (fun m => if m.isl = i then { m with taken := true } else m) }) }
  if s.cReceives i c.card then s1 else s1.memberDone k i 0

/-- The step that combines (R349-R351). The named tree runs once every member has issued, and its first stages take what is there
before that; the fabric's own tree takes nothing until every member has issued (R391): then two values are combined, and the last
one left is the result (assumption 77). -/
def State.collCombine (s : State) (k first second : Nat) : State :=
  match pfind s.colls k with
  | none => s
  | some c =>
    if c.broken then s
    else if s.collComplete c && (cTree c.card || c.parts.length ≤ 1) then
      s.collResult k c (if cTree c.card then treeResult c.card ((s.seats c.card).map (fun i => pget [] c.parts i))
        else (c.parts.map (·.2)).headD [])
    else if cTree c.card then (s.collAccept k c first).collAccept k c second
    else if !s.collComplete c then s
    else
      match pfind c.parts first, pfind c.parts second with
      | some a, some b =>
        if !s.mayCombine c first second then s
        else
          let c1 : Coll := { c with parts := pput (pdel c.parts second) first (combineVals c.card a b) }
          let s1 : State := { s with colls := pput s.colls k c1 }
          let s2 := (s1.collAccept k c first).collAccept k c second
          match pfind s2.colls k with
          | some c2 => if s2.collComplete c2 && c2.parts.length ≤ 1 then s2.collResult k c2 (combineVals c.card a b) else s2
          | none => s2
      | _, _ => s

/-- A collective ends in a remote error (R351, R371): the members that have not completed end, and so will those to come. -/
def State.collBreak (s : State) (k : Nat) (c : Coll) (why : Nat) : State :=
  let rops := (c.members.filter (fun m => !m.final)).map (·.rop)
  rops.foldl (fun s r => s.ropFail r why) { s with colls := pput s.colls k { c with broken := true, why := why, parts := [] } }

/-- A card under which a broken collective waits for the members of both its own masks and another card's: where they disagree,
every member that either names ends in the error, those that come later too (R351, R391). -/
def joinMasks (a b : List DWord) : List DWord := [a.getD 0 0, a.getD 1 0, a.getD 2 0, cIm a ||| cIm b, cPm a ||| cPm b]

/-- A collective that every member has met is forgotten once it is broken. -/
def State.collForget (s : State) (k : Nat) : State :=
  match pfind s.colls k with
  | some c => if c.broken && s.collComplete c then { s with colls := pdel s.colls k } else s
  | none => s

/-- The card of a collective that completed under a member's function and tag and that the member's card contradicts: the member
is none of its members, and names one of them (R351, R391, assumption 107). -/
def State.collOdds (s : State) (fn : Nat) (m : Member) (card : List DWord) : Option (List DWord) :=
  match pfind s.collsMet (collKey fn (cardField card 48 16)) with
  | none => none
  | some old =>
    let seats := s.seats old
    if !seats.contains m.isl && (s.seats card).any seats.contains then some old else none

/-- A member joins (R348, R351). -/
def State.collJoin (s : State) (fn : Nat) (m : Member) (card : List DWord) (vals : List Nat) : State :=
  match s.findColl fn (cardField card 48 16) with
  | none =>
    let c : Coll := ⟨fn, s.cAgreed card, [m], [(m.isl, vals)], false, 0⟩
    let s1 : State := { s with
      collsMet := pdel s.collsMet (collKey fn (cardField card 48 16)), nextId := s.nextId + 1 }
    match s.collOdds fn m card with
    | none => { s1 with colls := pput s1.colls s.nextId c }
    | some old =>
      let met := (s.seats old).map (fun i => (⟨i, 0, false, true, true⟩ : Member))
      (s1.collBreak s.nextId { c with card := joinMasks c.card old, members := met ++ [m] } 5).collForget s.nextId
  | some (k, c) =>
    let again := c.members.any (fun x => x.isl == m.isl)
    let c1 : Coll := { c with members := c.members ++ [m] }
    let c2 : Coll := { c1 with card := joinMasks c.card (s.cAgreed card) }
    if c.broken || again || c.card ≠ s.cAgreed card then (s.collBreak k c2 (if c.broken then c.why else 5)).collForget k
    else { s with colls := pput s.colls k { c1 with parts := pput c1.parts m.isl vals } }

/-- The combining plane of a collective across panels is dead for a pair of its members, or, with the named tree, every plane is
(R396, R397). -/
def State.planeGone (s : State) (card : List DWord) : Bool :=
  (s.seats card).any (fun i => (s.seats card).any (fun j => s.panelOf i != s.panelOf j
    && (if cTree card then (s.livePlanes i j).isEmpty else !(s.livePlanes i j).contains (cardField card 48 16 % 4))))

/-- The collectives of the named tree with two members for whom a plane has just failed (R396): a contribution of theirs may have
been on it, which is open (assumption 78); with no plane left it was. -/
def State.collsPlane (s : State) (x y : Nat) : State :=
  (s.colls.filter (fun e => !e.2.broken && cTree e.2.card && (s.seats e.2.card).contains x && (s.seats e.2.card).contains y)).foldl
    (fun s e =>
      if s.planeGone e.2.card then (s.collBreak e.1 e.2 7).collForget e.1
      else
        let s1 := { s with free := s.free + 1 }
        if Config.freeBit s.free then (s1.collBreak e.1 e.2 7).collForget e.1 else s1) s

/-- The other members of the own panel, with a member. -/
def State.collPairs (s : State) (card : List DWord) (i : Nat) : List (Nat × Nat) :=
  ((s.seats card).filter (fun j => !isFar j && j != i)).map (fun j => (i, j))

/-- The collectives that failed links cut (R353, R371, R373, assumption 78): two members are left without a route, or a packet of
theirs was on one of the links, which is open where a route between them uses it. `was` is the state before. -/
def State.collsCut (s was : State) (links : List (Nat × Nat)) : State :=
  (s.colls.filter (fun e => !e.2.broken)).foldl (fun s e =>
    let ps := ((e.2.members.filter (fun m => !m.final && !isFar m.isl)).map (fun m => was.collPairs e.2.card m.isl)).flatten
    let on (i j : Nat) : Bool := (was.routes i j).any (fun r => links.any (fun l => was.usesLink l i r))
    if ps.any s.cutOff then (s.collBreak e.1 e.2 1).collForget e.1
    else if ps.any (fun (i, j) => on i j || on j i) then
      let s1 := { s with free := s.free + 1 }
      if Config.freeBit s.free then (s1.collBreak e.1 e.2 1).collForget e.1 else s1
    else s) s

/-- A collective that some member has not entered cannot go on: a stop does not wait for it (R380, R391, assumption 77). -/
def State.collStuck (s : State) (rop : Nat) : Bool :=
  s.colls.any (fun e => !e.2.broken && e.2.members.any (fun m => m.rop == rop) && !s.collComplete e.2)

/-- A contribution's values (R348): the identity of an empty one. -/
def contribution (card : List DWord) (bs : List Byte) : List Nat :=
  if cEmpty card then cIdentity card else listWords (cSize card) (cElems card) bs

/-- The contribution of a member on another panel joins (R397): its card names its own panel by 0xFF. Where the planes that it needs
are dead, its own panel has given it the error (R396). -/
def State.collFar (s : State) (panel isl fn : Nat) (card : List DWord) (bs : List Byte) : State :=
  let card1 : List DWord := if cPanel card = 0xFF then
      BitVec.ofNat 64 ((card.getD 0 0).toNat - 0xFF * 2 ^ 24 + panel * 2 ^ 24) :: card.drop 1
    else card
  if panel = s.panelNum || !s.panels.getLsbD panel || !(cPm card).getLsbD panel || s.ownPm card || s.cBad isl card1 || s.planeGone card1 then s
  else ({ s with nextId := s.nextId + 1 }).collJoin fn ⟨farIsland panel isl, s.nextId, cEmpty card, false, false⟩ card1
    (contribution card bs)

/-- The local regions of a card: its source, and its destination where it receives the result. -/
def State.cRegions (s : State) (c : Crew) (card : List DWord) : Except Cause (List (Loc × Nat)) :=
  let src := if cEmpty card || cBytes card = 0 then .ok [] else s.regionAt c .read (cardWord card 1) (cBytes card)
  let dst := if s.cReceives c.isl card && cBytes card ≠ 0 then s.regionAt c .write (cardWord card 2) (cBytes card) else .ok []
  match src, dst with
  | .error x, _ => .error x
  | _, .error x => .error x
  | .ok ps, .ok _ => .ok ps

/-- `coll` (R348). -/
def execColl (f : Form) (s : State) : Host.Outcome State Fault Refusal :=
  runCrew (.coll f) f s (fun s id c =>
    let a := c.uni f 2 f.a
    if a.toNat % 64 ≠ 0 then .trap (causeRemoteOperand 2)
    else
      match s.regionAt c .read a.toNat 64 with
      | .error x => .trap x
      | .ok ps =>
        let (s1, bs) := s.loadPieces c.core ps
        let card := listDWords 8 bs
        if s.cBad c.isl card then .trap (causeRemoteOperand 3)
        else
          match s1.cRegions c card with
          | .error x => .trap x
          | .ok src =>
            if s.issueWaits c .rm true then .stall
            else if (List.range 64).any (fun i => (cIm card).getLsbD i && (s.isl i).dead) then .trap (causeRemote 6)
            else if (s.collPairs card c.isl).any s.cutOff then .trap (causeRemote 1)
            else if s.planeGone card then .trap (causeRemote 7)
            else
              let (s2, data) := s1.loadPieces c.core src
              let r : ROp := { s.newRop id c .coll 1 with
                loc := cardWord card 2, len := cBytes card
                inSlot := match c.slotRange with
                  | some r => r.has (cardWord card 2) (cBytes card)
                  | none => false }
              let (s3, n) := s2.openRop r
              let s4 := s3.lateUniform id c f .rm true true 0
              .ok (s4.collJoin r.fn ⟨c.isl, n, cEmpty card, false, false⟩ card (contribution card data)))

end Sys2Proof.Machine
end

