-- ==== Sys2Proof/Machine/Journal.lean ====
section
/-! DEFINITION. Sequence numbers, the journal, completion counters, completion records and interrupts (27 R374-R378, R387,
R388, 29 R402). -/

namespace Sys2Proof

/-- Panel-wide number of a function (R398). -/
def Fn.num (f : Fn) : Nat := f.port * 64 + f.vf
def Fn.ok (f : Fn) : Bool := decide (f.port < 4) && decide (f.vf < 64)

end Sys2Proof

namespace Sys2Proof.Machine

/-! ### Queues and interrupts (R400-R402) -/

def qKey (fn q : Nat) : Nat := fn * 8 + q
def State.queue (s : State) (k : Nat) : Queue := pget Queue.reset s.queues k
def State.setQueue (s : State) (k : Nat) (q : Queue) : State := { s with queues := pset Queue.reset s.queues k q }
def State.vf (s : State) (fn : Nat) : Vf := pget Vf.reset s.vfs fn
def State.setVf (s : State) (fn : Nat) (v : Vf) : State := { s with vfs := pset Vf.reset s.vfs fn v }

def Queue.enabled (q : Queue) : Bool := q.ctl.getLsbD 0
/-- Entries of the two rings (R400). -/
def Queue.sqSize (q : Queue) : Nat := 16 * 2 ^ (q.ctl.toNat / 2 ^ 8 % 16)
def Queue.cqSize (q : Queue) : Nat := 16 * 2 ^ (q.ctl.toNat / 2 ^ 12 % 16)
def Queue.vec (q : Queue) : Nat := q.ctl.toNat / 2 ^ 20 % 16

/-- Fires a vector of a function; a masked one sets its pending bit (R402). -/
def State.fire (s : State) (fn vec : Nat) : State :=
  let v := s.vf fn
  if v.resetting then s
  else if v.masked.getLsbD vec then s.setVf fn { v with pending := v.pending ||| BitVec.ofNat 16 (2 ^ vec) }
  else s.setVf fn { v with fired := vec :: v.fired }

/-- Sets or clears the mask bit of a vector; a pending one is sent as it is unmasked (R402). -/
def State.maskVector (s : State) (fn vec : Nat) (on : Bool) : State :=
  let v := s.vf fn
  let bit := BitVec.ofNat 16 (2 ^ vec)
  if on then s.setVf fn { v with masked := v.masked ||| bit }
  else if v.pending.getLsbD vec then
    s.setVf fn { v with masked := v.masked &&& ~~~bit, pending := v.pending &&& ~~~bit, fired := vec :: v.fired }
  else s.setVf fn { v with masked := v.masked &&& ~~~bit }

/-- The same for the vector of a port's physical function (R398, R402). -/
def Pf.mask (p : Pf) (on : Bool) : Pf :=
  if on then { p with masked := true }
  else if p.pending then ⟨false, false, p.fired + 1⟩ else { p with masked := false }

/-- A completion queue is full when one more record would bring the tail to the head (assumption 25). -/
def Queue.full (q : Queue) : Bool := (q.cqTail + 1) % q.cqSize == q.cqHead

def hostWrite (m : Memory) (port a : Nat) (bs : List Byte) : Memory := m.writeBytes (hostKey port a) bs

/-- Writes a completion record in host memory (R402) and fires where asked. -/
def State.putRecord32 (s : State) (fn k : Nat) (rec : List DWord) (irq : Bool) : State :=
  let q := s.queue k
  let bs := (rec.map (fun w => leBytes 8 w.toNat)).flatten
  let s1 := { s with mem := hostWrite s.mem (fn / 64) (q.cqBase.toNat + 32 * q.cqTail) bs }
  let s2 := s1.setQueue k { q with cqTail := (q.cqTail + 1) % q.cqSize }
  if irq then s2.fire fn q.vec else s2

/-- A completion record falls due: written, held while the queue is full, discarded while the function is reset (R402,
R404). -/
def State.complete (s : State) (fn k : Nat) (rec : List DWord) (irq : Bool) : State :=
  let q := s.queue k
  if (s.vf fn).resetting then s
  else if q.full || !q.heldRecs.isEmpty then s.setQueue k { q with heldRecs := q.heldRecs ++ [(rec, irq)] }
  else s.putRecord32 fn k rec irq

/-! ### The journal (R387, R388) -/

/-- Word 0x08 of an entry. -/
def entryWord (aux : Word) (code st fn kind : Nat) : DWord :=
  aux ++ BitVec.ofNat 32 (code % 256 * 2 ^ 24 + st % 8 * 2 ^ 16 + fn / 64 % 4 * 2 ^ 14 + fn % 64 * 2 ^ 8 + kind % 256)

/-- Where the entry of a sequence number stands, in island 0. -/
def State.entryAt (s : State) (seq : Nat) : Nat := s.journalBase + 32 * (seq % 65536)

def State.entryRead (s : State) (seq i : Nat) : Nat := leNat (s.homeRead 0 (s.entryAt seq + 8 * i) 8)

/-- Whether the slot of a sequence number may be taken: never written, or its entry final (R387). -/
def State.slotFree (s : State) (seq : Nat) : Bool :=
  s.entryRead seq 0 == 0 || decide (2 ≤ s.entryRead seq 1 / 2 ^ 16 % 8)

/-- An entry's four words. -/
def State.entryWords (s : State) (seq : Nat) : List DWord := (List.range 4).map (fun i => BitVec.ofNat 64 (s.entryRead seq i))

/-- Enters a new command: seq last (R374, R388). -/
def State.journalNew (s : State) (seq fn kind : Nat) (obj : DWord) : State :=
  s.homeWrite 0 (s.entryAt seq)
    (leBytes 8 seq ++ leBytes 8 (entryWord 0 0 0 fn kind).toNat ++ leBytes 8 obj.toNat ++ leBytes 8 s.time.toNat)

/-- A state change at a time: word 0x08, then the time (R388). -/
def State.journalSetAt (s : State) (tm : DWord) (seq fn kind st code : Nat) (aux : Word) : State :=
  let s1 := s.homeWrite 0 (s.entryAt seq + 8) (leBytes 8 (entryWord aux code st fn kind).toNat)
  s1.homeWrite 0 (s.entryAt seq + 24) (leBytes 8 tm.toNat)

def State.journalSet (s : State) (seq fn kind st code : Nat) (aux : Word) : State := s.journalSetAt s.time seq fn kind st code aux

/-- A final state in the journal, then the completion record and its interrupt (R378 steps 3 to 5, R402). -/
def State.journalFinalAt (s : State) (tm : DWord) (seq fn kind st code : Nat) (aux : Word) (queue : Option Nat) (irq : Bool) :
    State :=
  let s1 := s.journalSetAt tm seq fn kind st code aux
  match queue with
  | some k => s1.complete fn k (s1.entryWords seq) irq
  | none => s1

def State.journalFinal (s : State) (seq fn kind st code : Nat) (aux : Word) (queue : Option Nat) (irq : Bool) : State :=
  s.journalFinalAt s.time seq fn kind st code aux queue irq

/-- The next sequence number goes to a command (R374); none while its slot is taken. -/
def State.takeSeq (s : State) (fn kind : Nat) (obj : DWord) : Option (State × Nat) :=
  if s.slotFree s.nextSeq then some (({ s with nextSeq := s.nextSeq + 1 }).journalNew s.nextSeq fn kind obj, s.nextSeq) else none

/-- A command that is no unit takes effect and is final at once (R402). -/
def State.oneShot (s : State) (fn : Nat) (k : Option Nat) (kind : Nat) (obj : DWord) (irq : Bool) (act : State → Nat → State × Nat × Word) : State :=
  match s.takeSeq fn kind obj with
  | none => s
  | some (s1, seq) =>
    let (s2, code, aux) := act s1 seq
    s2.journalFinal seq fn kind (if code = 0 then 2 else 4) code aux k irq

/-! ### Completion counters (R377) -/

/-- Writes a counter at its host address, where one is given. -/
def State.counterWrite (s : State) (port a : Nat) (v : Word) : State :=
  if a = 0 then s else { s with mem := hostWrite s.mem port a (leBytes 4 v.toNat) }

/-- A gang of a launch has retired: its own counter rises. -/
def State.launchCount (s : State) (n : Nat) : State :=
  let l := s.launch n
  (s.modLaunch n (fun l => { l with counter := l.counter + 1 })).counterWrite l.port l.counterAt (l.counter + 1)

def State.unit (s : State) (seq : Nat) : Option GroupUnit := s.units.find? (fun u => u.seq == seq)

def State.modUnit (s : State) (seq : Nat) (g : GroupUnit → GroupUnit) : State :=
  { s with units := s.units.map (fun u => if u.seq = seq then g u else u) }

/-- The counter of a phase or job rises. -/
def State.unitCount (s : State) (seq : Nat) : State :=
  match s.unit seq with
  | none => s
  | some u => (s.modUnit seq (fun u => { u with counter := u.counter + 1 })).counterWrite u.port u.counterAt (u.counter + 1)

/-- The graph of a function and a number (R384). -/
def State.graph (s : State) (fn num : Nat) : Option Graph := s.graphs.find? (fun g => g.key == fn && g.num == num)

/-- The counter of a graph rises. -/
def State.graphCount (s : State) (fn num : Nat) : State :=
  match s.graph fn num with
  | none => s
  | some g =>
    let gs := s.graphs.map (fun (x : Graph) => if x.key = fn ∧ x.num = num then { x with counter := x.counter + 1 } else x)
    ({ s with graphs := gs }).counterWrite g.port g.counterAt (g.counter + 1)

/-- The counters above a launch that completed. -/
def State.countAbove (s : State) (l : Launch) : State :=
  let s1 := match l.replay with
    | some (r, _) =>
      match pfind s.replays r with
      | some x => s.graphCount (x.port * 64 + x.vf) x.graph
      | none => s
    | none => s
  (s1.unitCount l.phase).unitCount l.job

/-! ### States of the units above (R376) -/

/-- The final state of a unit from its members' states: cancelled, failed or completed. -/
def finalOf (sts : List Nat) : Nat := if sts.contains 3 then 3 else if sts.contains 4 then 4 else 2

/-- A replay whose launches are all final is final. -/
def State.settleReplay (s : State) (k : Nat) : State :=
  match pfind s.replays k with
  | none => s
  | some r =>
    let ls := s.launches.filter (fun e => e.2.replay.any (fun x => x.1 = k))
    if r.st = 1 && ls.all (fun e => decide (2 ≤ e.2.st)) then
      let st := finalOf (ls.map (fun e => e.2.st))
      ({ s with replays := pput s.replays k { r with st := st } }).journalFinal k (r.port * 64 + r.vf) 3 st 0 0 r.queue r.irq
    else s

/-- States of the members of a phase or a job, a replay standing for its launches (R376). -/
def State.memberStates (s : State) (u : GroupUnit) : List Nat :=
  let mine (job phase : Nat) : Bool := if u.isPhase then phase == u.seq else job == u.seq
  (s.launches.filter (fun e => e.2.replay.isNone && mine e.2.job e.2.phase)).map (fun e => e.2.st)
    ++ (s.replays.filter (fun e => mine e.2.job e.2.phase)).map (fun e => e.2.st)
    ++ (if u.isPhase then [] else (s.units.filter (fun v => v.isPhase && v.jobSeq == u.seq)).map (fun v => v.st))

/-- A closed phase or job whose members are all final is final. -/
def State.settleUnit (s : State) (seq : Nat) : State :=
  match s.unit seq with
  | none => s
  | some u =>
    let sts := s.memberStates u
    if u.st = 1 && u.closed && sts.all (fun x => decide (2 ≤ x)) then
      let st := finalOf sts
      (s.modUnit seq (fun u => { u with st := st })).journalFinal seq (u.port * 64 + u.vf) (if u.isPhase then 4 else 6) st 0 0
        u.queue u.irq
    else s

/-- Settles replays, then phases, then jobs (R376). -/
def State.settleUnits (s : State) : State :=
  let s1 := (s.replays.map (·.1)).foldl (fun s k => s.settleReplay k) s
  let s2 := ((s1.units.filter (·.isPhase)).map (·.seq)).foldl (fun s k => s.settleUnit k) s1
  (((s2.units.filter (fun u => !u.isPhase)).map (·.seq)).foldl (fun s k => s.settleUnit k) s2).latchDeps

/-- A launch reaches a final state (R378 steps 2 to 5): counters, journal, record, interrupt, and the units above. -/
def State.launchFinal (s : State) (n st code : Nat) (aux : Word) : State :=
  let l := s.launch n
  let s1 := s.modLaunch n (fun l => { l with st := st, code := code, aux := aux, finalDue := false })
  let s2 := if st = 2 then s1.countAbove l else s1
  (s2.journalFinalAt (l.endAt.getD s.time) n l.fn 1 st code aux l.queue l.irq).settleUnits

end Sys2Proof.Machine
end

