-- ==== Sys2Proof/Machine/Accept.lean ====
section
/-! DEFINITION. Accepting a launch (07 R105-R109, 27 R375, R382, R383, R386, 21 R306, 23 R324): the record, the checks in
their order, the address-space identifier. -/

namespace Sys2Proof.Machine

/-! ### Addresses that commands name (assumption 24) -/

/-- The island of the remote-window lease of a function that holds an address. -/
def State.windowIsl (s : State) (fn a : Nat) : Option Nat :=
  (s.leases.find? (fun e => e.2.window && e.2.fn == fn && !e.2.void
    && e.2.units.any (fun u => decide (u.1 / 2 ^ 16 ≤ a / 2 ^ 16) && decide (a / 2 ^ 16 ≤ (u.1 + u.2 - 1) / 2 ^ 16)))).map (fun e => e.2.isl)

/-- Reads bytes at homes through an island's tables; a byte that no leaf maps reads as zero. -/
def State.readVa (s : State) (i asid a n : Nat) : List Byte :=
  ((spans a n).map (fun (x, m) => match s.leaf i [] asid x with
    | some t => s.homeRead i (t.loc x).la m
    | none => List.replicate m 0)).flatten

/-- Writes bytes at homes through an island's tables. -/
def State.writeVa (s : State) (i asid : Nat) (bs : List Byte) : List (Nat × Nat) → State
  | [] => s
  | (a, n) :: r =>
    (match s.leaf i [] asid a with
      | some t => s.homePut i (t.loc a) (bs.take n)
      | none => s).writeVa i asid (bs.drop n) r

/-- Reads at an address of a command: device memory where a remote window of the function holds it, else host memory. A window
on an island where the function has no ASID leads nowhere (R306). -/
def State.readCmd (s : State) (fn a n : Nat) : List Byte :=
  match s.windowIsl fn a with
  | some i => match s.asidOf i fn with
    | some asid => s.readVa i asid a n
    | none => List.replicate n 0
  | none => s.mem.readBytes (hostKey (fn / 64) a) n

def State.writeCmd (s : State) (fn a : Nat) (bs : List Byte) : State :=
  match s.windowIsl fn a with
  | some i => match s.asidOf i fn with
    | some asid => s.writeVa i asid bs (spans a bs.length)
    | none => s
  | none => { s with mem := hostWrite s.mem (fn / 64) a bs }

/-! ### The record (R105-R108) -/

/-- Word i of a record's bytes. -/
def recWord (bs : List Byte) (i : Nat) : Nat := leNat ((bs.drop (8 * i)).take 8)
def bitsAt (x lo w : Nat) : Nat := x / 2 ^ lo % 2 ^ w

/-- The declared ranges in use (R108). -/
def recRanges (bs : List Byte) (n : Nat) : List Range :=
  (List.range (min n 16)).map (fun i =>
    let w := recWord bs (11 + 2 * i)
    ⟨recWord bs (10 + 2 * i), bitsAt w 0 56, w.testBit 62, w.testBit 63⟩)

/-- Index of a handle in the table (R106): 6 bits of the 96 that words 1 and 2 form. -/
def recHidx (bs : List Byte) : List Nat :=
  (List.range 16).map (fun n => (recWord bs 1 + recWord bs 2 % 2 ^ 32 * 2 ^ 64) / 2 ^ (6 * n) % 64)

/-- The launch that a record describes, for a command. -/
def recLaunch (bs : List Byte) (c : LaunchCmd) : Launch :=
  let w0 := recWord bs 0
  let ctl := recWord bs 6
  let hold := recWord bs 8
  { blankLaunch with
    port := c.fn.port, vf := c.fn.vf, irq := c.irq, tis := c.tis, object := c.record, isl := bitsAt ctl 0 6
    entry := BitVec.ofNat 64 (recWord bs 4), param := BitVec.ofNat 64 (recWord bs 5), hen := BitVec.ofNat 16 (bitsAt w0 44 16)
    hidx := recHidx bs, htab := recWord bs 7, pre := BitVec.ofNat 7 (bitsAt w0 29 7), slab := bitsAt w0 21 8
    nreg := 32 * (bitsAt w0 18 3 + 1), prod := bitsAt w0 14 4, ncrew := bitsAt w0 10 4 + 1
    ranges := recRanges bs (bitsAt w0 36 5), nteam := bitsAt ctl 32 16, gsz := bitsAt ctl 30 2, grd := ctl.testBit 29
    hold := if ctl.testBit 28 then some (bitsAt hold 32 12, BitVec.ofNat 32 hold) else none, held := ctl.testBit 28
    counterAt := c.counter.toNat
    deps := ((c.deps.take 4).filter (fun d => d.seq ≠ 0)).map (fun d => (d.seq, d.ear)) }

/-! ### The checks (R109) -/

/-- Reserved bits, alignments and the hold word: code 0x02. The index of a handle that is not loaded is zero (R106, assumption
32). DESIGN CHOICE (assumption 83): an entry of the range table at or above nrng that is not zero (R108) is code 0x02 as well. -/
def recReserved (bs : List Byte) : Bool :=
  let w0 := recWord bs 0
  let ctl := recWord bs 6
  bitsAt w0 41 3 != 0 || bitsAt w0 0 10 != 0 || recWord bs 2 / 2 ^ 32 != 0 || recWord bs 3 != 0 || bitsAt ctl 48 16 != 0
    || bitsAt ctl 6 22 != 0 || bitsAt (recWord bs 8) 44 20 != 0 || recWord bs 9 != 0
    || (List.range 16).any (fun i =>
      bitsAt (recWord bs (11 + 2 * i)) 56 6 != 0
        || (decide (bitsAt w0 36 5 ≤ i) && (recWord bs (10 + 2 * i) != 0 || recWord bs (11 + 2 * i) != 0)))
    || (List.range 16).any (fun n => !(recWord bs 0).testBit (44 + n) && (recHidx bs).getD n 0 != 0)
    || recWord bs 4 % 32 != 0 || recWord bs 5 % 8 != 0 || recWord bs 7 % 64 != 0 || (!ctl.testBit 28 && recWord bs 8 != 0)

/-- The ranges, the entry and the parameter block: code 0x04. DESIGN CHOICE (assumption 83): the entry and the parameter block
lie in a range when their first byte does, since the spec gives the block no size. -/
def recBadRanges (bs : List Byte) (l : Launch) : Bool :=
  let inR (a : Nat) : Bool := l.ranges.any (fun r => r.r && r.has a 1)
  decide (16 < bitsAt (recWord bs 0) 36 5) || l.ranges.any (fun r => r.len == 0 || decide (2 ^ 57 < r.base + r.len))
    || !inR l.entry.toNat || !inR l.param.toNat

/-- A core takes placements at all: live, not about to be tested, its zone and island powered (R111, R112, R332). -/
def State.takes (s : State) (ck : Nat) : Bool :=
  let c := s.core ck
  c.service = .live && c.due.isNone && !(s.isl (coreIsl ck)).dead && !zoneLost (s.isl (coreIsl ck)).zone (coreZone ck)
    && !(s.isl (coreIsl ck)).isolated.getLsbD (coreZone ck)

/-- The cores of an island. -/
def islCores (i : Nat) : List Nat := (List.range 168).map (fun p => i * 256 + p)

/-- A core of the live core count at its full repaired capacity takes one team (R18, code 0x08): one under a roving test and
one that is power-gated stay in the count (assumption 75). -/
def State.couldTake (s : State) (ck n nreg slab : Nat) : Bool :=
  (s.core ck).counted && decide (n * regUnits nreg ≤ s.regLimit ck)
    && decide (slab ≤ s.slabLimit ck) && !zoneLost (s.isl (coreIsl ck)).zone (coreZone ck)

/-- Some bench holds enough cores that could take a team: code 0x08. -/
def State.someBench (s : State) (l : Launch) : Bool :=
  let ok := (islCores l.isl).filter (fun ck => s.couldTake ck l.ncrew l.nreg l.slab)
  ok.any (fun ck => decide (l.gsz + 1 ≤ (ok.filter (fun x => coreBench x == coreBench ck)).length))

/-- The guarded-launch check of R324: code 0x09. -/
def guardBad (l : Launch) : Bool :=
  l.grd && l.ranges.any (fun r => (r.r && r.w)
    || (r.w && l.ranges.any (fun q => q.r && overlaps r.base r.len q.base q.len)))

/-- Handle records to be loaded: code 0x0A. -/
def Launch.handleAt (l : Launch) (n : Nat) : Nat := l.htab + 64 * l.hidx.getD n 0
def handlesBad (l : Launch) : Bool :=
  (List.range 16).any (fun n => l.hen.getLsbD n && !l.ranges.any (fun r => r.r && r.has (l.handleAt n) 64))

/-- Dependences: code 0x0E (R383); one below the journal's reach is met. -/
def State.depsBad (s : State) (seq : Nat) (l : Launch) (inGraph : Bool) : Bool :=
  l.deps.any (fun d => !decide (d.1 + 65536 < s.nextSeq) && (
    decide (seq ≤ d.1) || (match pfind s.launches d.1 with
      | some p => !inGraph && d.2 && p.tis && p.isl != l.isl
      | none =>
        match pfind s.replays d.1 with
        | some _ => d.2
        | none => true)))

/-- The open unit of a job number, or of a phase of it (R386). -/
def State.openJob (s : State) (fn job : Nat) : Option GroupUnit :=
  s.units.find? (fun u => !u.isPhase && u.port * 64 + u.vf == fn && u.job == job && decide (u.st < 2) && !u.closed)
def State.openPhase (s : State) (fn job phase : Nat) : Option GroupUnit :=
  s.units.find? (fun u => u.isPhase && u.port * 64 + u.vf == fn && u.job == job && u.phase == phase && decide (u.st < 2) && !u.closed)

/-- The units that a job and a phase number name: job 0, phase 0 is the function's default unit (R379). None: code 0x0F. -/
def State.findUnits (s : State) (fn job phase : Nat) : Option (Nat × Nat) :=
  if job = 0 ∧ phase = 0 then some (0, 0)
  else
    match s.openPhase fn job phase with
    | none => none
    | some p => if job = 0 then some (0, p.seq) else (s.openJob fn job).map (fun j => (j.seq, p.seq))

/-- The lowest code of a failing check (R109), 0 where all hold. -/
def State.launchCode (s : State) (seq : Nat) (bs : List Byte) (l : Launch) (units : Option (Nat × Nat)) (inGraph : Bool) : Nat :=
  if bitsAt (recWord bs 0) 60 4 ≠ 1 then 1
  else if recReserved bs then 2
  else if l.ncrew ≤ l.prod then 3
  else if recBadRanges bs l then 4
  else if 128 < l.slab then 5
  else if l.nteam = 0 || l.nteam % (l.gsz + 1) ≠ 0 then 6
  else if s.islands ≤ l.isl || (s.isl l.isl).dead then 7
  else if !s.someBench l then 8
  else if guardBad l then 9
  else if handlesBad l then 0x0A
  else if (match l.hold with
    | some (c, _) => match pfind (s.isl l.isl).owners c, s.asidOf l.isl l.fn with
      | some o, some a => o != a
      | _, _ => true
    | none => false) then 0x0D
  else if s.depsBad seq l inGraph then 0x0E
  else if units.isNone then 0x0F
  else 0

/-! ### Address-space identifiers (R306) -/

/-- An ASID may be taken back: no launch of it resident and no lease held. -/
def State.asidFree (s : State) (i asid : Nat) : Bool :=
  !s.launches.any (fun e => e.2.isl == i && e.2.asid == asid && decide (e.2.st < 2))
    && !s.leases.any (fun e => e.2.isl == i && e.2.asid == asid && !e.2.void)

/-- Drops an ASID's translations everywhere on the island. -/
def State.dropAsid (s : State) (i asid : Nat) : State :=
  let keep (m : PMap Tlb) : PMap Tlb := m.filter (fun e => e.1 / 2 ^ 47 != asid)
  { (s.modIsl i (fun x => { x with
      ttlb := keep x.ttlb, upper := x.upper.filter (fun e => e.1 / 2 ^ 44 != asid)
      convs := x.convs.filter (fun v => v.asid != asid || !v.complete) })) with
    cores := s.cores.map (fun e => if coreIsl e.1 = i then (e.1, { e.2 with tlb := keep e.2.tlb }) else e) }

/-- Gives a function an ASID on an island: its own, a free one, or the least recently used that can be taken back. A window that
was leased before the function had one comes under it. -/
def State.giveAsid (s : State) (i fn : Nat) : State × Nat :=
  let use (s : State) (a : Nat) : State :=
    ({ s with leases := peach s.leases (fun _ l => if l.isl = i ∧ l.fn = fn ∧ l.asid = 0 then { l with asid := a } else l) }).modIsl i
      (fun x => { x with asids := pput x.asids a ⟨fn, s.nextSeq⟩ })
  match s.asidOf i fn with
  | some a => (use s a, a)
  | none =>
    match (List.range 1023).find? (fun a => (pfind (s.isl i).asids (a + 1)).isNone) with
    | some a => (use s (a + 1), a + 1)
    | none =>
      let old := ((s.isl i).asids.filter (fun e => s.asidFree i e.1)).foldl (fun best e => match best with
        | none => some e
        | some b => if e.2.used < b.2.used then some e else some b) (none : Option (Nat × Asid))
      match old with
      | some e => (use (s.dropAsid i e.1) e.1, e.1)
      | none => (s, 0)

/-! ### Accepting -/

/-- The hold rule (R343, R382). -/
def State.holdMet (s : State) (l : Launch) : Bool :=
  match l.hold with
  | some (c, t) => reached (pget 0 (s.isl l.isl).counters c) t
  | none => true

/-- Enters an accepted launch, or one that failed a check (R109, R402); the units above are settled by the caller. -/
def State.enterLaunch (s : State) (seq : Nat) (l : Launch) (code : Nat) : State :=
  if code ≠ 0 then
    let s1 := { s with launches := pput s.launches seq { l with st := 4, code := code } }
    s1.journalFinal seq l.fn 1 4 code 0 l.queue l.irq
  else
    let (s1, asid) := s.giveAsid l.isl l.fn
    let l1 := { l with
      asid := asid, lcores := (s.isl l.isl).live, handler := pget 0 s.handlers (l.fn * 64 + l.isl)
      held := l.held && !s.holdMet l }
    { s1 with launches := pput s1.launches seq l1 }

/-- A launch command (R375). -/
def State.cmdLaunch (s : State) (k : Option Nat) (c : LaunchCmd) : State :=
  let fn := c.fn.num
  match s.takeSeq fn 1 c.record with
  | none => s
  | some (s1, seq) =>
    let bs := s1.readCmd fn c.record.toNat 336
    let units := s1.findUnits fn c.job c.phase
    let l := { recLaunch bs c with
      job := (units.map (·.1)).getD 0, phase := (units.map (·.2)).getD 0, queue := k }
    (s1.enterLaunch seq l (s1.launchCode seq bs l units false)).settleUnits

end Sys2Proof.Machine
end

