-- ==== Sys2Proof/Machine/Placement.lean ====
section
/-! DEFINITION. Dependences and holds, staging and leases (21 R307-R309, 27 R382, R383), the launch check and placement of
gangs (07 R111-R115, 14 R211, 23 R326), the end of teams and launches (14 R215, 27 R376-R378). -/

namespace Sys2Proof.Machine

/-! ### Dependences (R383) -/

/-- A launch leaves its dependences as they are met; one whose predecessor failed is cancelled, code 0x10 (R383). -/
def State.meetDeps (s : State) (n : Nat) : State :=
  match pfind s.launches n with
  | none => s
  | some l =>
    if l.st ≠ 0 then s
    else if l.deps.any (fun d => s.depState d = 2) then s.launchFinal n 3 0x10 0
    else s.modLaunch n (fun l => { l with deps := l.deps.filter (fun d => s.depState d ≠ 1) })

/-- The hold of a launch passes (R382): it stays passed. -/
def State.passHold (s : State) (n : Nat) : State :=
  match pfind s.launches n with
  | none => s
  | some l => if l.held && s.holdMet l then s.modLaunch n (fun l => { l with held := false }) else s

/-! ### Staging (R307) -/

/-- The leaf entry's place: walks as R302 does and gives the address of the leaf. -/
def State.leafAt (s : State) (i : Nat) : Nat → Nat → Nat → Option (Nat × Nat × Nat)
  | level, table, va =>
    let (lo, w) := levelBits level
    let at_ := table + 8 * (va / 2 ^ lo % 2 ^ w)
    let e := leNat (s.mem.readBytes (s.homeKey i at_) 8)
    if !e.testBit 0 || malformed e then none
    else if e.testBit 1 then (if level = 4 then none else some (at_, lo, e))
    else
      match level with
      | 0 => none
      | n + 1 => s.leafAt i n (e % 2 ^ 52 / 256 * 256) va

/-- Removes the translations of one page of an ASID on an island (R304). -/
def State.dropPage (s : State) (i asid va bits : Nat) : State :=
  let meets (b k : Nat) : Bool := overlaps (k % 2 ^ 41 * 2 ^ b) (2 ^ b) (va / 2 ^ bits * 2 ^ bits) (2 ^ bits)
  let gone (k : Nat) : Bool := k / 2 ^ 47 == asid && meets (k / 2 ^ 41 % 64) k
  let goneUp (k : Nat) : Bool := k / 2 ^ 44 == asid && meets (levelBits (k / 2 ^ 41 % 8)).1 k
  let keep (m : PMap Tlb) : PMap Tlb := m.filter (fun e => !gone e.1)
  { (s.modIsl i (fun x => { x with ttlb := keep x.ttlb, upper := x.upper.filter (fun e => !goneUp e.1) })) with
    cores := s.cores.map (fun e => if coreIsl e.1 = i then (e.1, { e.2 with tlb := keep e.2.tlb }) else e) }

/-! ### Frames (R307) -/

/-- Takes n free frames, aligned to n: the first, and what is left. -/
def takeFrames (n : Nat) : List (Nat × Nat) → Option (Nat × List (Nat × Nat))
  | [] => none
  | (f, m) :: r =>
    let g := (f + n - 1) / n * n
    if g + n ≤ f + m then
      some (g, (if f < g then [(f, g - f)] else []) ++ (if g + n < f + m then [(g + n, f + m - (g + n))] else []) ++ r)
    else (takeFrames n r).map (fun x => (x.1, (f, m) :: x.2))

/-- Gives n frames from f on back: runs that touch become one. -/
def giveFrames : List (Nat × Nat) → Nat → Nat → List (Nat × Nat)
  | [], f, n => [(f, n)]
  | (g, m) :: r, f, n =>
    if f + n < g then (f, n) :: (g, m) :: r
    else if g + m < f then (g, m) :: giveFrames r f n
    else giveFrames r (min f g) (max (f + n) (g + m) - min f g)

/-- A page: its address, its size in bits, the place of its entry and the entry. -/
structure Page where
  va : Nat
  bits : Nat
  place : Nat
  entry : Nat

def Page.mt (p : Page) : Nat := p.entry / 64 % 4
def Page.count (p : Page) : Nat := 2 ^ (p.bits - 16)
/-- The first frame of a page. -/
def Page.frame (p : Page) : Nat := p.entry % 2 ^ 52 / 2 ^ p.bits * 2 ^ (p.bits - 16)
/-- A page that staging moves into HBM4E (R307). -/
def Page.moves (p : Page) : Bool := p.mt == 1 || (p.mt == 2 && p.entry.testBit 4)

/-- The entry with other memory and other frames: v, lf, x, w and ah stay, mg goes. -/
def Page.moved (p : Page) (mt f : Nat) : Nat :=
  p.entry % 2 ^ 4 + 64 * mt + (if p.entry.testBit 5 then 2 ^ 5 else 0) + f * 2 ^ 16

/-- The pages that a table leads to, in order of address (R302). -/
def State.pagesAt (s : State) (i : Nat) : Nat → Nat → Nat → List Page
  | 0, table, va =>
    (List.range 32).filterMap (fun k =>
      let e := leNat (s.mem.readBytes (s.homeKey i (table + 8 * k)) 8)
      if e.testBit 0 && e.testBit 1 && !malformed e then some ⟨va + k * 2 ^ 16, 16, table + 8 * k, e⟩ else none)
  | n + 1, table, va =>
    let (lo, w) := levelBits (n + 1)
    ((List.range (2 ^ w)).map (fun k =>
      let e := leNat (s.mem.readBytes (s.homeKey i (table + 8 * k)) 8)
      if !e.testBit 0 || malformed e then []
      else if e.testBit 1 then (if n = 3 then [] else [⟨va + k * 2 ^ lo, lo, table + 8 * k, e⟩])
      else s.pagesAt i n (e % 2 ^ 52 / 256 * 256) (va + k * 2 ^ lo))).flatten

/-- Every page of an island with its ASID. -/
def State.allPages (s : State) (i : Nat) : List (Nat × Page) :=
  ((s.isl i).roots.map (fun e => (s.pagesAt i 4 e.2 0).map (fun p => (e.1, p)))).flatten

/-- Some range touches a page. -/
def Page.touched (p : Page) (rs : List (Nat × Nat)) : Bool := rs.any (fun r => overlaps p.va (2 ^ p.bits) (r.1 / 2 ^ 16 * 2 ^ 16) (r.2 + r.1 % 2 ^ 16))

/-- Moves a page (R307): its bytes, its entry, its translations, the frames of both memories. None without free frames. -/
def State.movePage (s : State) (i asid mt : Nat) (p : Page) : Option State :=
  let x := s.isl i
  match takeFrames p.count (if mt = 0 then x.frames else x.tier) with
  | none => none
  | some (f, rest) =>
    let at_ (e : Nat) : Nat := ((Tlb.mk p.bits (BitVec.ofNat 64 e)).loc p.va).la
    let bs := s.homeRead i (at_ p.entry) (2 ^ p.bits)
    let e := p.moved mt f
    let s1 := { s with mem := s.mem.splice (s.homeKey i (at_ e)) bs }
    let s2 := (s1.homeWrite i p.place (leBytes 8 e)).dropPage i asid p.va p.bits
    some (s2.modIsl i (fun y =>
      let z : Island := if mt = 0 then { y with frames := rest } else { y with tier := rest }
      if p.mt = 0 then { z with frames := giveFrames z.frames p.frame p.count }
      else if p.mt = 1 then { z with tier := giveFrames z.tier p.frame p.count } else z))

/-- A page that may be evicted for a launch (R307): in HBM4E alone, under no valid lease, outside the launch's own ranges, and
no atomic-home page, which only HBM4E can hold (R303). -/
def State.evictable (s : State) (i asid : Nat) (rs : List Range) (all : List (Nat × Page)) (x : Nat × Page) : Bool :=
  let p := x.2
  let shared := all.filter (fun y => y.2.mt == 0 && overlaps p.frame p.count y.2.frame y.2.count)
  p.mt == 0 && !p.entry.testBit 5 && shared.length == 1 && !(x.1 == asid && p.touched (rs.map (fun r => (r.base, r.len))))
    && !s.leases.any (fun e => e.2.isl == i && e.2.asid == x.1 && !e.2.void && p.touched e.2.units)

/-- Moves a page into HBM4E, evicting pages to the LPDDR6 tier, the first of the tables first, while there is no room
(R307, assumption 14). -/
def State.bringPage (s : State) (i asid : Nat) (rs : List Range) (p : Page) : Nat → Option State
  | 0 => s.movePage i asid 0 p
  | n + 1 =>
    match s.movePage i asid 0 p with
    | some t => some t
    | none =>
      let all := s.allPages i
      match all.find? (s.evictable i asid rs all) with
      | none => none
      | some (a, q) => match s.movePage i a 1 q with
        | none => none
        | some t => t.bringPage i asid rs p n

/-! ### The units of a launch (R307, R308) -/

/-- The page of a 64 KiB unit. -/
def State.pageOf (s : State) (i asid u : Nat) : Option Page :=
  (s.leafAt i 4 (pget 0 (s.isl i).roots asid) (u * 2 ^ 16)).map (fun (a, bits, e) => ⟨u * 2 ^ 16 / 2 ^ bits * 2 ^ bits, bits, a, e⟩)

/-- Stages one unit: the failing code, if any. -/
def State.stageUnit (s : State) (i asid : Nat) (rs : List Range) (u : Nat) : State × Nat :=
  match s.pageOf i asid u with
  | none => (s, 0x0B)
  | some p =>
    if !p.moves then (s, 0)
    else
      match s.bringPage i asid rs p (2 ^ 23) with
      | none => (s, 0x0C)
      | some t => (t, 0)

/-- Stages n units from u on, up to the first that fails. -/
def State.stageRun (s : State) (i asid : Nat) (rs : List Range) : Nat → Nat → State × Nat
  | 0, _ => (s, 0)
  | n + 1, u =>
    match s.stageUnit i asid rs u with
    | (s1, 0) => s1.stageRun i asid rs n (u + 1)
    | x => x

/-- Ranges cover the bytes from a to b. -/
def covers (rs : List Range) : Nat → Nat → Nat → Bool
  | 0, a, b => decide (b ≤ a)
  | n + 1, a, b =>
    decide (b ≤ a) || (match rs.find? (fun r => decide (r.base ≤ a) && decide (a < r.base + r.len)) with
      | some r => covers rs n (r.base + r.len) b
      | none => false)

/-- The neighbourhood prefetcher (R308): around the span of n units at u it fetches the next wider one while that is at most
`block` units, lies in the ranges, and `theta` sixteenths of it are resident. -/
def State.widen (s : State) (i asid : Nat) (rs : List Range) (block theta : Nat) : Nat → Nat → Nat → State × Nat
  | 0, _, _ => (s, 0)
  | k + 1, u, n =>
    let m := 2 * n
    let w := u / m * m
    let there := ((List.range m).filter (fun j => match s.pageOf i asid (w + j) with
      | some p => p.mt == 0
      | none => false)).length
    if block < m || !covers rs 17 (w * 2 ^ 16) ((w + m) * 2 ^ 16) || decide (16 * there < theta * m) then (s, 0)
    else
      match s.stageRun i asid rs m w with
      | (s1, 0) => s1.widen i asid rs block theta k w m
      | x => x

/-- Block size in units and threshold of the function that has an ASID (R308). -/
def State.settings (s : State) (i asid : Nat) : Nat × Nat :=
  match pfind (s.isl i).asids asid with
  | some a => pget (1, 16) s.staging a.fn
  | none => (1, 16)

/-- Stages n units of a launch's ranges from u on (R307, R308): the failing code, if any. -/
def State.stageUnits (s : State) (i asid : Nat) (rs : List Range) : Nat → Nat → State × Nat
  | 0, _ => (s, 0)
  | n + 1, u =>
    let missing := (s.pageOf i asid u).any (·.moves)
    match s.stageUnit i asid rs u with
    | (s1, 0) =>
      let (block, theta) := s1.settings i asid
      match if missing then s1.widen i asid rs block theta 14 u 1 else (s1, 0) with
      | (s2, 0) => s2.stageUnits i asid rs n (u + 1)
      | x => x
    | x => x

def State.stageList (s : State) (i asid : Nat) (all : List Range) : List Range → State × Nat
  | [] => (s, 0)
  | r :: rs =>
    match s.stageUnits i asid all ((r.base + r.len - 1) / 2 ^ 16 - r.base / 2 ^ 16 + 1) (r.base / 2 ^ 16) with
    | (s1, 0) => s1.stageList i asid all rs
    | x => x

/-- Stages a launch's ranges. -/
def State.stageRanges (s : State) (i asid : Nat) (rs : List Range) : State × Nat := s.stageList i asid rs rs

/-- A launch may be staged (R306, R382, R383). -/
def Launch.stageable (l : Launch) : Bool := l.st = 0 && !l.staged && !l.held && l.deps.isEmpty

/-- A unit of some ranges that staging would move lies under a valid lease: its translations may not go before that lease ends
(R304). -/
def State.unitHeld (s : State) (i asid : Nat) (rs : List Range) : Bool :=
  let ls := s.leases.filter (fun e => e.2.isl == i && e.2.asid == asid && !e.2.void)
  !ls.isEmpty && rs.any (fun r => (List.range ((r.base + r.len - 1) / 2 ^ 16 - r.base / 2 ^ 16 + 1)).any (fun j =>
    match s.pageOf i asid (r.base / 2 ^ 16 + j) with
    | some p => p.moves && ls.any (fun e => p.touched e.2.units)
    | none => false))

/-- Stages a launch and grants its lease (R307, R309); a launch without an ASID waits for one (R306), and one with a unit to be
moved that another lease covers for the end of that lease (R304). -/
def State.stage (s : State) (n : Nat) : State :=
  match pfind s.launches n with
  | none => s
  | some l0 =>
    if !l0.stageable then s
    else
      let (s0, asid) := if l0.asid = 0 then s.giveAsid l0.isl l0.fn else (s, l0.asid)
      if asid = 0 || s0.unitHeld l0.isl asid l0.ranges then s
      else
        match s0.stageRanges l0.isl asid l0.ranges with
        | (s1, 0) =>
          let lease : Lease :=
            { isl := l0.isl, asid := asid, fn := l0.fn, window := false, launch := some n
              units := l0.ranges.map (fun r => (r.base, r.len)), expiry := s1.time.toNat + 2000000, void := false }
          let k := s1.nextId
          ({ s1 with leases := pput s1.leases k lease, nextId := k + 1 }).modLaunch n (fun l =>
            { l with asid := asid, staged := true, lease := some k })
        | (_, code) => s0.launchFinal n 4 code 0

/-! ### The launch check (R112) -/

/-- A core passes the check for one team with n crews. -/
def State.passes (s : State) (ck n nreg slab : Nat) (owner : Bool) : Bool :=
  s.takes ck && decide ((s.crewsOn ck).length + n ≤ 64) && decide (s.regUsed ck + n * regUnits nreg ≤ s.regLimit ck)
    && decide (s.slabUsed ck + slab ≤ s.slabLimit ck) && (!owner || (s.core ck).owner.isNone)

/-- Distinct cores of one bench of an island. -/
def oneBench (i : Nat) (cores : List Nat) : Bool :=
  cores.eraseDups.length == cores.length
    && cores.all (fun ck => coreIsl ck == i && decide (ck % 256 < 168) && coreBench ck == coreBench (cores.headD 0))

/-- Bytes of a round record's slot (R237, R326): a guarded team of n crews takes the largest its crews could write. -/
def recordSlot (n : Nat) : Nat := (n * (8 * 128 + 16 * 8 + 8) + 16 * 8 + 8 + 63) / 64 * 64

/-- Crews that a record restarts (R237): those in it, or of the start state the launch's own. -/
def Launch.partsOf (l : Launch) (r : Record) : Nat := if r.parts.isEmpty then l.ncrew else r.parts.length

/-- The slot of a launch's team that has some number of crews now (R326): never less than the crews it starts with need. -/
def Launch.teamSlot (l : Launch) (crews : Nat) : Nat := recordSlot (max l.ncrew crews)

/-- Bytes that a zone's store has in use but for some teams of launch n (R326): two primary slots for each guarded team in the
zone, two copy slots for each team that the zone is buddy of, and the records that it holds of teams which are not placed. A
team's slots grow with the crews that it has spawned (R122). -/
def State.storeUsed (s : State) (i z n : Nat) (nums : List Nat) : Nat :=
  let mine (k num : Nat) : Bool := k == n && nums.contains num
  let size (e : Nat × Team) : Nat :=
    (s.launch e.2.launch).teamSlot ((s.crewsOf e.1).filter (fun c => !c.2.exiting)).length
  let placed := s.teams.filter (fun e => e.2.isl == i && (s.launch e.2.launch).grd && !mine e.2.launch e.2.num)
  let idle := (s.isl i).stores.filter (fun r => r.zone == z && !mine r.launch r.team
    && !placed.any (fun e => e.2.launch == r.launch && e.2.num == r.team))
  (placed.map (fun e =>
    let own := coreZone e.2.core
    (if own = z then 2 * size e else 0) + (if buddyOf (s.isl i).zone own = z then 2 * size e else 0))).sum
  + (idle.map (fun r => (s.launch r.launch).teamSlot r.data.parts.length)).sum

/-- Room for all four slots of each team of a guarded gang (R326), given as team numbers with their crews: two in its zone's
store, two in the buddy's. -/
def State.storeRoom (s : State) (i z n : Nat) (teams : List (Nat × Nat)) : Bool :=
  let nums := teams.map (·.1)
  let need := 2 * (teams.map (fun e => (s.launch n).teamSlot e.2)).sum
  let b := buddyOf (s.isl i).zone z
  if b = z then decide (s.storeUsed i z n nums + 2 * need ≤ 2 ^ 22)
  else decide (s.storeUsed i z n nums + need ≤ 2 ^ 22) && decide (s.storeUsed i b n nums + need ≤ 2 ^ 22)

/-- No gang before one waits to be placed, resumed or restarted (R111, R278, R328). -/
def Launch.gangTurn (l : Launch) (g : Nat) : Bool :=
  (List.range g).all (fun h =>
    let x := pget Gang.waiting l.gangs h
    x.st ≠ .waiting && x.st ≠ .saved && x.restart.isEmpty)

/-- Every earlier-opened phase of the job is final, where the phase is ordered (R386). -/
def State.phaseTurn (s : State) (l : Launch) : Bool :=
  match s.unit l.phase with
  | none => true
  | some u => !u.ord || !s.units.any (fun v => v.isPhase && v.jobSeq == u.jobSeq && v.port == u.port && v.vf == u.vf
      && decide (v.seq < u.seq) && decide (v.st < 2))

def State.weight (s : State) (fn : Nat) : Nat := (pget 16 s.weights fn).toNat

/-- A launch has a gang whose turn to be placed has come (R111, R386). -/
def State.placeReady (s : State) (l : Launch) : Bool :=
  l.staged && decide (l.st < 2) && s.phaseTurn l && (List.range (l.nteam / (l.gsz + 1))).any (fun g =>
    (pget Gang.waiting l.gangs g).st = .waiting && (pget Gang.waiting l.gangs g).restart.isEmpty && l.gangTurn g)

/-- A function with weight 0 waits while one with a weight has a launch ready for the same island (R403). -/
def State.weightTurn (s : State) (l : Launch) : Bool :=
  decide (1 ≤ s.weight l.fn) || !s.launches.any (fun e => e.2.isl == l.isl && decide (1 ≤ s.weight e.2.fn) && s.placeReady e.2)

/-- A gang may be placed on some cores (R111, R324, R326, R386). -/
def State.gangFits (s : State) (n g : Nat) (cores : List Nat) : Bool :=
  let l := s.launch n
  let z := coreZone (cores.headD 0)
  l.staged && decide (l.st < 2) && decide ((g + 1) * (l.gsz + 1) ≤ l.nteam) && (pget Gang.waiting l.gangs g).st = .waiting
    && (pget Gang.waiting l.gangs g).restart.isEmpty && l.gangTurn g && s.phaseTurn l && s.weightTurn l && cores.length == l.gsz + 1 && oneBench l.isl cores
    && cores.all (fun ck => s.passes ck l.ncrew l.nreg l.slab false)
    && (!l.grd || s.storeRoom l.isl z n ((List.range (l.gsz + 1)).map (fun k => (g * (l.gsz + 1) + k, l.ncrew))))

/-! ### Placing (R111, R114, R115, R211, R259) -/

/-- Tags that outstanding `cpym` jobs of the bench have recorded for windows of a core (R211). -/
def State.tagsHeld (s : State) (ck : Nat) : List (BitVec 8) :=
  (((s.cores.filter (fun e => coreIsl e.1 == coreIsl ck && coreBench e.1 == coreBench ck)).map (fun e =>
    (e.2.jobs.map (fun j => (j.windows.filter (fun w => w.2.2.1 == ck)).map (fun w => w.2.2.2))).flatten))).flatten

/-- The first value from t on that no outstanding job has recorded. -/
def nextTag (held : List (BitVec 8)) : Nat → BitVec 8 → BitVec 8
  | 0, t => t
  | n + 1, t => if held.contains t then nextTag held n (t + 1) else t

/-- A window with units that is placed takes the slab units of ended teams: what the `cpym` jobs recorded of their windows on that
core is over (R212). DESIGN CHOICE (assumption 71): it takes the units of all of them, since the spec does not say which units it
gets. -/
def State.retake (s : State) (ck : Nat) : State :=
  let gone (w : Nat × Nat × Nat × BitVec 8) : Bool := w.2.2.1 == ck && (pfind s.teams w.2.1).isNone
  { s with cores := peach s.cores (fun _ c => { c with jobs := c.jobs.map (fun j =>
      { j with retaken := j.retaken ++ (j.windows.filter gone).map (·.1) }) }) }

/-- The tag of a window of some units at placement: the core's counter passes it (R211). -/
def State.takeTag (s : State) (ck units : Nat) : State × BitVec 8 :=
  let t := nextTag (s.tagsHeld ck) 256 (s.core ck).tagc
  ((if units = 0 then s else s.retake ck).modCore ck (fun c => { c with tagc := t + 1 }), t)

/-- The handles that a team loads (R106, R115). -/
def State.loadHandles (s : State) (l : Launch) : PMap (BitVec 512) :=
  (List.range 16).foldl (fun m n =>
    if l.hen.getLsbD n then pset 0 m n (BitVec.ofNat 512 (leNat (s.readVa l.isl l.asid (l.handleAt n) 64))) else m) []

/-- The crews of a team from number k on, n of them. -/
def State.addCrews (s : State) (t : Nat) (entry : DWord) : Nat → Nat → State
  | 0, _ => s
  | n + 1, k => (({ s with nextId := s.nextId + 1 }).dealCrew s.nextId (s.startCrew t k entry)).addCrews t entry n (k + 1)

/-- The teams of a gang on their cores: windows, registers, generation numbers. -/
def State.addTeams (s : State) (n g : Nat) : List (Nat × Nat) → State
  | [] => s
  | (tw, ck) :: r =>
    let l := s.launch n
    let (s1, tag) := s.takeTag ck l.slab
    let t : Team := { blankTeam with
      isl := l.isl, core := ck, launch := n, num := g * (l.gsz + 1) + tw, gang := g, tw := tw, slab := l.slab, tag := tag
      tn := s1.loadHandles l, prod := l.prod }
    let s2 := ({ s1 with nextId := s1.nextId + 1 }).setTeam s1.nextId t
    let s3 := (s2.raiseGen ck 3).modLaunch n (fun l => { l with cores := if l.cores.contains ck then l.cores else l.cores ++ [ck] })
    s3.addTeams n g r

def State.setGang (s : State) (n g : Nat) (x : Gang) : State :=
  s.modLaunch n (fun l => { l with gangs := pset Gang.waiting l.gangs g x })

def State.gang (s : State) (n g : Nat) : Gang := pget Gang.waiting (s.launch n).gangs g

/-- The first gang starts its launch (R376). -/
def State.startLaunch (s : State) (n : Nat) : State :=
  let l := s.launch n
  if l.st = 0 then (s.modLaunch n (fun l => { l with st := 1 })).journalSet n l.fn 1 1 0 0 else s

/-- Places a gang (R111): windows and team registers, then the crews' start states, then all are eligible at once. -/
def State.placeGang (s : State) (n g : Nat) (cores : List Nat) : State :=
  if !s.gangFits n g cores then s
  else
    let l := s.launch n
    let s1 := s.addTeams n g ((List.range cores.length).zip cores)
    let ids := (s1.gangTeams n g).map (·.1)
    let s2 := ids.foldl (fun s t => s.addCrews t l.entry l.ncrew 0) s1
    (s2.setGang n g { Gang.waiting with st := .placed }).startLaunch n

/-! ### The end of a team (R124, R215) -/

/-- A core without power (R321, R372). -/
def State.dark (s : State) (ck : Nat) : Bool :=
  (s.core ck).service = .lost || (s.isl (coreIsl ck)).dead || (s.isl (coreIsl ck)).isolated.getLsbD (coreZone ck)

/-- A team may end: its crews are gone, or ended by a fatal cause with every operation done, its engines have stopped, its
jobs, arrivals and remote operations are done. -/
def State.teamOver (s : State) (t : Nat) : Bool :=
  match pfind s.teams t with
  | none => false
  | some team =>
    let c := s.core team.core
    let stopped (q : Sequencer) : Bool := q.st = .idle || q.st = .faulted
    !s.dark team.core && (s.crewsOf t).all (fun e => team.fatal.isSome && e.2.ops.isEmpty) && !c.jobs.any (fun j => j.team == t) && !s.arrivals.any (fun e => e.2.2.2.1 == t)
      && !s.rops.any (fun e => e.2.team == t) && (c.owner != some t || (stopped c.ms && stopped c.cs))

/-- The engines of a core are free again (R215). -/
def Core.dropOwner (c : Core) (t : Nat) : Core :=
  if c.owner = some t then { c with owner := none, ms := .idle, cs := .idle, owed := [] } else c

/-- Every gang of a launch has retired. -/
def Launch.allRetired (l : Launch) : Bool := (List.range (l.nteam / (l.gsz + 1))).all (fun h => (pget Gang.waiting l.gangs h).st = .retired)

/-- A gang retires with its last team (R124): the launch's counter rises, and with the last gang the launch ends; then the
counter rises after the launch's release (R378). -/
def State.retireGang (s : State) (n g : Nat) : State :=
  if (s.gangTeams n g).isEmpty && (s.gang n g).restart.isEmpty then
    let s1 := s.setGang n g { Gang.waiting with st := .retired }
    if (s1.launch n).allRetired then
      s1.modLaunch n (fun l => { l with finalDue := true })
    else s1.launchCount n
  else s

/-- A team ends (R215): the eager release at the scope of the launch's dependences, then its resources are free. One that a fatal
cause has ended has not exited (R383). -/
def State.endTeam (s : State) (t : Nat) : State :=
  if !s.teamOver t then s
  else
    let team := s.team t
    let l := s.launch team.launch
    let s1 := (s.eagerRelease team.core (!l.tis) false).modCore team.core (·.dropOwner t)
    let s2 := ({ s1 with teams := pdel s1.teams t, crews := s1.crews.filter (fun e => e.2.team != t) }).modIsl team.isl (·.dropStored team.launch team.num)
    let s3 := s2.modLaunch team.launch (fun l => { l with ended := if team.fatal.isSome then l.ended else team.num :: l.ended })
    (if l.st = 1 || l.finalDue then s3.retireGang team.launch team.gang else s3).latchDeps

/-! ### The end of a launch (R257, R376, R378) -/

/-- Writes back the cores that a launch used (R257), lost and dead ones aside. -/
def State.releaseCores (s : State) : List Nat → State
  | [] => s
  | ck :: r =>
    (if s.dark ck then s else s.eagerRelease ck true false).releaseCores r

/-- Ends a launch's lease (R309). -/
def State.dropLease (s : State) (n : Nat) : State := { s with leases := s.leases.filter (fun e => e.2.launch != some n) }

/-- Every gang of the launch has retired: it is completed, or failed where a team ended by a fatal cause (R376). -/
def State.completeLaunch (s : State) (n : Nat) : State :=
  match pfind s.launches n with
  | none => s
  | some l =>
    if !(l.finalDue && l.st = 1) then s
    else
      let s1 := ((s.releaseCores l.cores).dropLease n).launchCount n
      match l.fatal with
      | some w => s1.launchFinal n 4 0x20 w
      | none => s1.launchFinal n 2 0 0

end Sys2Proof.Machine
end

