-- ==== Sys2Proof/Machine/Preempt.lean ====
section
/-! DEFINITION. Pre-emption and resumption of a gang (18 R276-R279), the stop of a launch and cancel (27 R379-R381). -/

namespace Sys2Proof.Machine

/-! ### Stopping -/

/-- A launch's crews have stopped issuing: it was cancelled or stopped, or the gang is being pre-empted. -/
def State.stopping (s : State) (t : Nat) : Bool :=
  let team := s.team t
  let l := s.launch team.launch
  decide (2 ≤ l.st) || decide ((pget Gang.waiting l.gangs team.gang).want = 2)

/-- Crews of a gang. -/
def State.gangCrews (s : State) (n g : Nat) : PMap Crew :=
  s.crews.filter (fun e => (s.team e.2.team).launch == n && (s.team e.2.team).gang == g && (pfind s.teams e.2.team).isSome)

/-- What has been issued is done but for jobs that have not started (R277 steps 2 and 3): a crew's operation that stands for
such a job stays. -/
def State.crewDrained (s : State) (c : Crew) : Bool :=
  let waiting := ((s.core c.core).jobs.filter (fun j => !j.started)).map (·.id)
  c.ops.all (fun o => o.done || waiting.contains o.id) && c.trigWait.isNone && c.trap.isNone

/-- The jobs of a team that have started are done, and so are the arrivals of its jobs. -/
def State.teamDrained (s : State) (t : Nat) : Bool :=
  !(s.core (s.team t).core).jobs.any (fun j => j.team == t && j.started)
    && !s.arrivals.any (fun e => e.2.1 == t || e.2.2.2.1 == t)

/-- A gang has drained (R277 steps 2 and 3): a team that a fatal cause has ended is over. -/
def State.gangDrained (s : State) (n g : Nat) : Bool :=
  (s.gangCrews n g).all (fun e => s.crewDrained e.2)
    && (s.gangTeams n g).all (fun e => if e.2.fatal.isSome then s.teamOver e.1 else s.teamDrained e.1)

/-- A gang whose cores have lost their power is not saved: it is lost with its zone or island (R321, R323). -/
def State.gangDark (s : State) (n g : Nat) : Bool := (s.gangTeams n g).any (fun e => s.dark e.2.core)

/-- A pre-emption waits for open sections and for rounds whose last crew has issued `round` (R277). -/
def State.gangHolds (s : State) (n g : Nat) : Bool :=
  (s.gangCrews n g).any (fun e => e.2.sect.isSome) || (s.gangTeams n g).any (fun e => decide (2 ≤ e.2.phase))

/-! ### Pre-emption (R277) -/

/-- A sequencer as it is saved: one that is ending with all its jobs done completes its `seq.end` (R277 step 3). -/
def savedSeq (q : Sequencer) (jobs : List Job) (copy : Bool) : Sequencer :=
  if q.st = .ending && !jobs.any (fun j => j.crew.isNone && j.isCopy == copy) then { q with st := .idle } else q

/-- A team's area (R276), its withdrawn jobs in order. -/
def State.saveTeam (s : State) (t : Nat) : SavedTeam :=
  let team := s.team t
  let c := s.core team.core
  let own := c.owner == some t
  let jobs := c.jobs.filter (fun j => j.team == t)
  let seqJobs := if own then jobs else []
  { id := t, team := team, owner := own, acc := if own then c.acc else [], active := if own then c.active else .zero
    shadow := if own then c.shadow else .zero, flipped := c.flipped, gen := if own then c.gen else 0
    ms := if own then savedSeq c.ms seqJobs false else .idle, cs := if own then savedSeq c.cs seqJobs true else .idle
    jobs := jobs, owed := if own then c.owed else [] }

/-- The bench-scope releases of a core that no home has recorded yet are recorded (R257): their lines are given back. -/
def State.recordBench (s : State) (ck : Nat) : State :=
  (((s.core ck).lines.filter (fun e => e.2.bench.isSome)).map (·.1)).foldl (fun s li => s.recall (coreIsl ck) li) s

/-- A team leaves its core (R277 steps 4 and 5): releases are recorded, the dirty set is written back, its jobs and engines
are free, and its crews leave their quarters (R157). DESIGN CHOICE (assumption 96): a swap that moves one of them goes on without
it, and the port stays taken until it ends. -/
def State.leaveCore (s : State) (t : Nat) : State :=
  let ck := (s.team t).core
  let s1 := (s.recordBench ck).eagerRelease ck true false
  let stays (x : Option Nat) : Option Nat := x.filter (fun id => (s.crewsOf t).all (fun e => e.1 != id))
  let s2 := s1.modCore ck (fun c => { c.dropOwner t with
    jobs := c.jobs.filter (fun j => j.team != t), swaps := c.swaps.map (fun e => (e.1, (stays e.2.1, stays e.2.2))) })
  { s2 with teams := pdel s2.teams t, crews := s2.crews.filter (fun e => e.2.team != t) }

/-- A crew that is saved at its `round` gives up its contribution (R277 step 1). -/
def State.quitRounds (s : State) (n g : Nat) : State :=
  (s.gangCrews n g).foldl (fun s e => s.quitRound e.1 e.2) s

/-- Saves a gang (R277): its teams that a fatal cause has ended go, and with no other left it has retired. The slot of a number that
an exited crew still holds beside a live one shows the live one. -/
def State.saveGang (s0 : State) (n g : Nat) : State :=
  let s := ((s0.gangTeams n g).filter (fun e => e.2.fatal.isSome)).foldl (fun s e => s.endTeam e.1) s0
  if (s.gang n g).st ≠ .placed then s
  else
    let ts := (s.gangTeams n g).map (·.1)
    let x : Gang := { s.gang n g with st := .saved, want := 0, teams := ts.map s.saveTeam, crews := s.gangCrews n g }
    let s1 := ts.foldl (fun s t => s.leaveCore t) s
    let s2 := (x.crews.filter (·.2.exiting) ++ x.crews.filter (!·.2.exiting)).foldl (fun s' e =>
      s'.writePreSlot n (s.team e.2.team).num e.2) s1
    (x.teams.foldl (fun s t => s.writeArea n t) s2).setGang n g x

/-- One step of a pre-emption (R277): it is asked for; its crews stop once nothing holds it back; the gang is saved once
everything issued is done. -/
def State.preempt (s : State) (n g : Nat) : State :=
  let x := s.gang n g
  if (s.launch n).st ≠ 1 || x.st ≠ .placed || s.gangDark n g then s
  else if x.want = 0 then s.setGang n g { x with want := 1 }
  else if x.want = 1 then (if s.gangHolds n g then s else (s.quitRounds n g).setGang n g { x with want := 2 })
  else if s.gangDrained n g then s.saveGang n g
  else s

/-! ### Resumption (R278) -/

/-- The saved crews of a team. -/
def Gang.crewsOf (x : Gang) (t : Nat) : PMap Crew := x.crews.filter (fun e => e.2.team == t)

/-- The cores of a saved gang's teams may take them (R278): the team areas in order of team index. -/
def State.resumeFits (s : State) (n g : Nat) (cores : List Nat) : Bool :=
  let x := s.gang n g
  let l := s.launch n
  x.st = .saved && l.st = 1 && l.gangTurn g && cores.length == x.teams.length && oneBench l.isl cores
    && (x.teams.zip cores).all (fun (t, ck) =>
      s.passes ck (x.crewsOf t.id).length l.nreg l.slab t.owner)
    && (!l.grd || (s.storeRoom l.isl (coreZone (cores.headD 0)) n
        (x.teams.map (fun t => (t.team.num, ((x.crewsOf t.id).filter (fun e => !e.2.exiting)).length)))
      && !(s.isl l.isl).isolatedZone (coreZone (cores.headD 0))
      && !(s.isl l.isl).isolatedZone (buddyOf (s.isl l.isl).zone (coreZone (cores.headD 0)))))

/-- A withdrawn job goes back to the checker, or behind a full one (R278 step 3, R217). -/
def State.reissue (s : State) (ck : Nat) (j : Job) : State := s.modCore ck (fun c => { c with jobs := c.jobs ++ [j] })

/-- A team on its new core: a new tag, its engines, its withdrawn jobs (R278 steps 1 to 3, 5). -/
def State.resumeTeam (s : State) (n : Nat) (t : SavedTeam) (ck : Nat) : State :=
  let (s1, tag) := s.takeTag ck t.team.slab
  let s2 := s1.setTeam t.id { t.team with core := ck, tag := tag }
  let s3 := if t.owner then s2.modCore ck (fun c =>
      { c with owner := some t.id, acc := t.acc, active := t.active, shadow := t.shadow, flipped := t.flipped, gen := t.gen
               ms := t.ms, cs := t.cs, owed := t.owed }) else s2
  let s4 := (t.jobs.foldl (fun s j => s.reissue ck j) s3).modIsl t.team.isl (fun x =>
    match x.survivor n t.team.num with
    | some r => x.moveStored n t.team.num (coreZone ck) r
    | none => x)
  (s4.raiseGen ck 3).modLaunch n (fun l => { l with cores := if l.cores.contains ck then l.cores else l.cores ++ [ck] })

/-- Withdrawn `cpym` jobs record the windows' new cores and tags (R180, R278). -/
def State.retag (s : State) (t : Nat) : State :=
  let ck := (s.team t).core
  s.modCore ck (fun c => { c with jobs := c.jobs.map (fun j =>
    if j.team = t && j.kind = .cpym && !j.started then { j with windows := s.maskedWindows t (cardWord j.card 6 % 16), retaken := [] } else j) })

/-- Crews in order of team number, then crew number (R154): a spawned crew may have the number of an exited one that still
holds its context (R122, R214). -/
def seatOrder (cs : List (Nat × Crew)) (teams : List SavedTeam) : List (Nat × Crew) :=
  (teams.map (fun t => ((List.range 16).map (fun k => cs.filter (fun e => e.2.team == t.id && e.2.num == k))).flatten)).flatten

/-- A crew's operations take entries of the new core's table in their order (R220). DESIGN CHOICE (assumption 106): one that finds
none starts its job only when it gets one. -/
def State.takeEntries (s : State) (id : Nat) (os : List Op) : State :=
  (os.filter (fun o => o.ott ≠ 0 && !o.done)).foldl (fun s o => s.giveEntry id o.id)
    (s.modCrew id (fun c => { c with ops := c.ops.map (fun o => if o.done then o else { o with ott := 0 }) }))

/-- A saved crew is dealt to a quarter afresh (R278): one in the exiting state takes no place there (R157). -/
def State.reseat (s : State) (id : Nat) (c : Crew) : State :=
  let q := fewest (s.quarterLoad c.core)
  let d : Crew := { c with inRound := none, stall := .none }
  let s1 := if c.exiting then s.setCrew id { d with quarter := q, place := .left } else s.seat id q { d with place := .active }
  s1.takeEntries id c.ops

/-- Resumes a gang (R278). -/
def State.resumeGang (s : State) (n g : Nat) (cores : List Nat) : State :=
  if !s.resumeFits n g cores then s
  else
    let x := s.gang n g
    let s1 := (x.teams.zip cores).foldl (fun s (t, ck) => s.resumeTeam n t ck) s
    let s2 := (x.teams.map (·.id)).foldl (fun s t => s.retag t) s1
    let s3 := (seatOrder x.crews x.teams).foldl (fun s e => s.reseat e.1 { e.2 with core := (s.team e.2.team).core }) s2
    s3.setGang n g { x with st := .placed, want := 0, teams := [], crews := [] }

/-! ### Stopping a launch (R379-R381) -/

/-- A launch that is not final is cancelled, or stopped as failed: dropped where it was never placed, else it stops (R380)
and its final steps follow once it has drained. -/
def State.stopLaunch (s : State) (n st code : Nat) : State :=
  match pfind s.launches n with
  | none => s
  | some l =>
    if 2 ≤ l.st || l.finalDue then s
    else if l.st = 0 then (s.dropLease n).launchFinal n st code 0
    else (s.modLaunch n (fun l => { l with st := st, code := code, finalDue := true })).stopConvs l.isl n

/-- Everything of a stopped launch that was placed has drained (R380), but for collectives that can never complete. -/
def State.launchDrained (s : State) (n : Nat) : Bool :=
  (s.teams.filter (fun e => e.2.launch == n)).all (fun e =>
    (s.dark e.2.core || (s.crewsOf e.1).all (fun c => s.crewDrained { c.2 with ops := c.2.ops.filter (fun o => !s.collStuck o.id) }))
      && !(s.core e.2.core).jobs.any (fun j => j.team == e.1 && j.started)
      && !s.rops.any (fun r => r.2.team == e.1 && !s.collStuck r.1))

/-- The stop of a launch is over (R380): dirty sets are written back, withdrawn cards and saved gangs are dropped, and the
launch takes its final state (R378). -/
def State.finishStop (s : State) (n : Nat) : State :=
  match pfind s.launches n with
  | none => s
  | some l =>
    if !(l.finalDue && decide (2 ≤ l.st)) || !s.launchDrained n then s
    else
      let ts := (s.teams.filter (fun e => e.2.launch == n)).map (·.1)
      let s0 := ts.foldl (fun s t => s.leaveCore t) (s.releaseCores l.cores)
      let s1 := { s0 with rops := s0.rops.filter (fun r => !ts.contains r.2.team) }
      let s2 := (s1.dropLease n).modLaunch n (fun l => { l with gangs := l.gangs.map (fun e => (e.1, { e.2 with st := .dropped, teams := [], crews := [] })) })
      let s3 := s2.modIsl l.isl (fun x =>
        { x with stores := x.stores.filter (fun e => e.launch != n) })
      (if l.allRetired then s3.launchCount n else s3).launchFinal n l.st l.code l.aux

/-- Launches beneath a unit that are not final (R379): the launch itself, a replay's, a phase's or a job's. -/
def State.beneath (s : State) (target : Nat) : List Nat :=
  (s.launches.filter (fun e => decide (e.2.st < 2) && !e.2.finalDue && (e.1 == target || e.2.replay.any (fun x => x.1 == target)
    || (target != 0 && (e.2.phase == target || e.2.job == target))))).map (·.1)

/-- The order of R381 has decided a launch: it is final, or its last gang has retired, or it is stopped. -/
def Launch.decided (l : Launch) : Bool := decide (2 ≤ l.st) || l.finalDue

/-- Every launch of a replay is decided, and so is the replay (R376, R381). -/
def State.replayDecided (s : State) (k : Nat) (r : Replay) : Bool :=
  decide (2 ≤ r.st) || (r.st == 1 && (s.launches.filter (fun e => e.2.replay.any (fun x => x.1 == k))).all (·.2.decided))

/-- Every member of a closed phase or job is decided, where `phases` says it of a job's phases. -/
def State.membersDecided (s : State) (phases : GroupUnit → Bool) (u : GroupUnit) : Bool :=
  let mine (job phase : Nat) : Bool := if u.isPhase then phase == u.seq else job == u.seq
  decide (2 ≤ u.st) || (u.closed && (s.launches.filter (fun e => mine e.2.job e.2.phase)).all (·.2.decided)
    && (s.replays.filter (fun e => mine e.2.job e.2.phase)).all (fun e => s.replayDecided e.1 e.2)
    && (u.isPhase || (s.units.filter (fun v => v.isPhase && v.jobSeq == u.seq)).all phases))

/-- A phase or a job is decided (R376, R381). -/
def State.unitDecided (s : State) (u : GroupUnit) : Bool := s.membersDecided (s.membersDecided (fun _ => true)) u

/-- Cancels replays beneath a unit (R379) that were not decided in the state before: one that waits for a slot is dropped. -/
def State.cancelReplays (s was : State) (target code : Nat) : State :=
  let ks := (s.replays.filter (fun e => decide (e.2.st < 2) && !was.replayDecided e.1 e.2 && (e.1 == target
    || (target != 0 && (e.2.phase == target || e.2.job == target))))).map (·.1)
  ks.foldl (fun s k =>
    match pfind s.replays k with
    | none => s
    | some r => ({ s with replays := pput s.replays k { r with st := 3, code := code } }).journalFinal k (r.port * 64 + r.vf) 3 3 code 0
        r.queue r.irq) s

/-- Cancels the units beneath a job, and the unit itself (R379), where they were not decided in the state before: they accept no
further members. -/
def State.cancelUnits (s was : State) (target code : Nat) : State :=
  let us := s.units.filter (fun u => decide (u.st < 2) && !was.unitDecided u && (u.seq == target || (u.isPhase && u.jobSeq == target && target != 0)))
  us.foldl (fun s u => (s.modUnit u.seq (fun u => { u with st := 3 })).journalFinal u.seq (u.port * 64 + u.vf)
    (if u.isPhase then 4 else 6) 3 code 0 u.queue u.irq) s

/-- Cancels a target and everything beneath it (R379): the number of launches cancelled comes with the state. -/
def State.cancel (s : State) (target code : Nat) : State × Nat :=
  let ls := s.beneath target
  let s1 := ls.foldl (fun s n => s.stopLaunch n 3 code) s
  (((s1.cancelReplays s target code).cancelUnits s target code).settleUnits, ls.length)

/-- A cancel command (R379). -/
def State.cmdCancel (s : State) (fn : Nat) (k : Option Nat) (target : Nat) (irq : Bool) : State :=
  s.oneShot fn k 8 (BitVec.ofNat 64 target) irq (fun s _ =>
    let (s1, k) := s.cancel target 0
    (s1, 0, BitVec.ofNat 32 k))

end Sys2Proof.Machine
end

