-- ==== Sys2Proof/Machine/Commands.lean ====
section
/-! DEFINITION. The command processor's commands (27 R374, R375, R379, R384-R386): the steps LAUNCH to HANDLER_SET. -/

namespace Sys2Proof

/-- Object of a phase or job command. -/
def UnitCmd.obj (c : UnitCmd) (isPhase : Bool) : DWord :=
  BitVec.ofNat 64 (c.job % 2 ^ 32 + (if isPhase then c.phase % 2 ^ 32 * 2 ^ 32 else 0))

/-- Object of a counter command. -/
def CounterCmd.obj (c : CounterCmd) : DWord := BitVec.ofNat 64 (c.counter % 4096 + c.isl % 64 * 2 ^ 32)

end Sys2Proof

namespace Sys2Proof.Machine

/-! ### Taking a command -/

/-- The queue pair that a command given by itself counts as taken from (assumption 1): pair 0, where it is enabled. -/
def State.ownQueue (s : State) (fn : Nat) : Option Nat := if (s.queue (qKey fn 0)).enabled then some (qKey fn 0) else none

/-- The panel takes commands of a function (R404, R405). -/
def State.accepts (s : State) (f : Fn) : Bool := s.boot.step == 6 && f.ok && !(s.vf f.num).resetting

/-- Runs a command given by itself. -/
def runCommand (f : Fn) (s : State) (act : State → Option Nat → State) : Host.Outcome State Fault Refusal :=
  .next (if s.accepts f then act s (s.ownQueue f.num) else s)

/-- LAUNCH (R375). -/
def execLaunch (c : LaunchCmd) (s : State) : Host.Outcome State Fault Refusal :=
  runCommand c.fn s (fun s k => s.cmdLaunch k c)

/-- CANCEL (R379). -/
def execCancel (fn : Fn) (irq : Bool) (target : Nat) (s : State) : Host.Outcome State Fault Refusal :=
  runCommand fn s (fun s k => s.cmdCancel fn.num k target irq)

/-! ### Graphs (R384, R385) -/

/-- A node's predecessors (R384): the index and the early flag of each valid one. -/
def nodePreds (w : Nat) : List (Nat × Bool) :=
  ((List.range 4).filter (fun j => w.testBit (16 * j + 15))).map (fun j => (bitsAt w (16 * j) 8, w.testBit (16 * j + 14)))

/-- A node of a graph as the table and its launch record hold it. -/
def State.readNode (s : State) (fn table i : Nat) : Nat × Option Nat × List (Nat × Bool) × List Byte :=
  let bs := s.readCmd fn (table + 32 * i) 32
  let w := recWord bs 1
  (recWord bs 0, if w.testBit 16 then some (bitsAt w 0 16) else none, nodePreds (recWord bs 2), s.readCmd fn (recWord bs 0) 336)

/-- Fields of a graph record that lie out of range, or a number already recorded: code 0x11. -/
def State.graphBad (s : State) (c : GraphCmd) : Bool :=
  c.nodes == 0 || decide (256 < c.nodes) || decide (4096 < c.patch) || c.table.toNat % 32 != 0 || c.slot0.toNat % 64 != 0
    || c.slot1.toNat % 64 != 0 || (s.graph c.fn.num c.graph).isSome

/-- Records a graph: its code. -/
def State.recordGraph (s : State) (c : GraphCmd) : State × Nat × Word :=
  if s.graphBad c then (s, 0x11, 0)
  else
    let nodes := (List.range c.nodes).map (s.readNode c.fn.num c.table.toNat)
    if (nodes.zip (List.range c.nodes)).any (fun (n, i) => n.2.2.1.any (fun p => decide (i ≤ p.1))) then (s, 0x11, 0)
    else
      let g : Graph :=
        { key := c.fn.num, num := c.graph, ovl := c.ovl, patch := c.patch, slot0 := c.slot0.toNat, slot1 := c.slot1.toNat
          nodes := nodes, counterAt := c.counter.toNat, counter := 0, port := c.fn.port }
      ({ s with graphs := s.graphs ++ [g] }, 0, 0)

/-- A graph record command (R384). -/
def State.cmdRecord (s : State) (k : Option Nat) (c : GraphCmd) : State :=
  s.oneShot c.fn.num k 2 (BitVec.ofNat 64 c.graph) c.irq (fun s _ => s.recordGraph c)

/-- GRAPH_RECORD (R384). -/
def execGraphRecord (c : GraphCmd) (s : State) : Host.Outcome State Fault Refusal :=
  runCommand c.fn s (fun s k => s.cmdRecord k c)

/-- Replays of one graph. -/
def State.replaysOf (s : State) (fn graph : Nat) : PMap Replay :=
  s.replays.filter (fun e => e.2.port * 64 + e.2.vf == fn && e.2.graph == graph)

/-- The slot a replay may take (R385): in the order of acceptance, the lower free one, and without overlap only behind
the replay before it. -/
def State.slotFor (s : State) (k : Nat) (r : Replay) (g : Graph) : Option Nat :=
  let mine := s.replaysOf g.key g.num
  let live (e : Nat × Replay) : Bool := decide (e.2.st < 2)
  if r.st ≠ 0 || mine.any (fun e => decide (e.1 < k) && live e && (e.2.st == 0 || !g.ovl)) then none
  else [0, 1].find? (fun i => !mine.any (fun e => live e && e.2.slot == some i))

/-- The launch record of a node whose parameter block is moved (R384, R105). -/
def patchParam (bs : List Byte) (a : Nat) : List Byte := bs.take 40 ++ leBytes 8 a ++ bs.drop 48

/-- A node becomes a launch with the next sequence number (R385). -/
def State.launchNode (s : State) (k : Nat) (r : Replay) (slot first : Nat) (i : Nat)
    (n : Nat × Option Nat × List (Nat × Bool) × List Byte) : State :=
  let fn := r.port * 64 + r.vf
  let seq := s.nextSeq
  let s1 := ({ s with nextSeq := seq + 1 }).journalNew seq fn 1 (BitVec.ofNat 64 n.1)
  let bs := match n.2.1 with
    | some off => patchParam n.2.2.2 (slot + off)
    | none => n.2.2.2
  let c : LaunchCmd :=
    { fn := ⟨r.port, r.vf⟩, irq := false, tis := false, record := BitVec.ofNat 64 n.1, job := 0, phase := 0, counter := 0
      deps := n.2.2.1.map (fun p => ⟨first + p.1, p.2⟩) }
  let l := { recLaunch bs c with job := r.job, phase := r.phase, replay := some (k, i) }
  s1.enterLaunch seq l (s1.launchCode seq bs l (some (r.job, r.phase)) true)

def State.launchNodes (s : State) (k : Nat) (r : Replay) (slot first i : Nat) :
    List (Nat × Option Nat × List (Nat × Bool) × List Byte) → State
  | [] => s
  | n :: ns => (s.launchNode k r slot first i n).launchNodes k r slot first (i + 1) ns

/-- A replay takes its slot (R385): the patch is read into it, the replay is started, its nodes become launches. It waits
while one of their journal slots is taken (R387). -/
def State.takeSlot (s : State) (k : Nat) : State :=
  match pfind s.replays k with
  | none => s
  | some r =>
    let fn := r.port * 64 + r.vf
    match s.graph fn r.graph with
    | none => s
    | some g =>
      match s.slotFor k r g with
      | none => s
      | some i =>
        if !(List.range g.nodes.length).all (fun j => s.slotFree (s.nextSeq + j)) then s
        else
          let slot := if i = 0 then g.slot0 else g.slot1
          let s1 := s.writeCmd fn slot (s.readCmd fn r.source g.patch)
          let r1 := { r with slot := some i, st := 1 }
          let s2 := ({ s1 with replays := pput s1.replays k r1 }).journalSet k fn 3 1 0 0
          (s2.launchNodes k r1 slot s2.nextSeq 0 g.nodes).settleUnits

/-- A graph replay command (R385, R386). DESIGN CHOICE (assumption 93): 0x0F comes before 0x12. -/
def State.cmdReplay (s : State) (k : Option Nat) (c : ReplayCmd) : State :=
  let fn := c.fn.num
  match s.takeSeq fn 3 (BitVec.ofNat 64 c.graph) with
  | none => s
  | some (s1, seq) =>
    let units := s1.findUnits fn c.job c.phase
    let code := if units.isNone then 0x0F else if (s1.graph fn c.graph).isNone then 0x12 else 0
    let r : Replay :=
      { port := c.fn.port, vf := c.fn.vf, irq := c.irq, graph := c.graph, job := (units.map (·.1)).getD 0
        phase := (units.map (·.2)).getD 0, source := c.source.toNat, slot := none, st := if code = 0 then 0 else 4
        code := code, queue := k }
    let s2 : State := { s1 with replays := pput s1.replays seq r }
    if code = 0 then s2 else (s2.journalFinal seq fn 3 4 code 0 k c.irq).settleUnits

/-- GRAPH_REPLAY (R385). -/
def execGraphReplay (c : ReplayCmd) (s : State) : Host.Outcome State Fault Refusal :=
  runCommand c.fn s (fun s k => s.cmdReplay k c)

/-- REPLAY_SLOT_TAKEN (R385). -/
def execReplaySlotTaken (replay : Nat) (s : State) : Host.Outcome State Fault Refusal := .next (s.takeSlot replay)

/-! ### Phases and jobs (R386) -/

/-- Why a phase or job cannot be opened: it is open already, or its job is not open. -/
def State.openBad (s : State) (c : UnitCmd) (isPhase : Bool) : Bool :=
  let fn := c.fn.num
  if isPhase then
    (c.job == 0 && c.phase == 0) || (s.openPhase fn c.job c.phase).isSome || (c.job != 0 && (s.openJob fn c.job).isNone)
  else c.job == 0 || (s.openJob fn c.job).isSome

/-- A phase or job open command (R386): the unit starts when it is opened (R376). -/
def State.cmdOpen (s : State) (k : Option Nat) (c : UnitCmd) (isPhase : Bool) : State :=
  let fn := c.fn.num
  let kind := if isPhase then 4 else 6
  match s.takeSeq fn kind (c.obj isPhase) with
  | none => s
  | some (s1, seq) =>
    if s1.openBad c isPhase then s1.journalFinal seq fn kind 4 0x0F 0 k c.irq
    else
      let u : GroupUnit :=
        { seq := seq, jobSeq := if isPhase then ((s1.openJob fn c.job).map (·.seq)).getD 0 else 0, port := c.fn.port
          vf := c.fn.vf, irq := c.irq, isPhase := isPhase, job := c.job, phase := if isPhase then c.phase else 0
          ord := isPhase && c.ord, closed := false, counterAt := c.counter.toNat, counter := 0, st := 1, queue := k }
      ({ s1 with units := s1.units ++ [u] }).journalSet seq fn kind 1 0 0

/-- The unit that a close names, where it may close: a job only when each of its phases is closed. -/
def State.closable (s : State) (c : UnitCmd) (isPhase : Bool) : Option Nat :=
  let fn := c.fn.num
  if isPhase then (s.openPhase fn c.job c.phase).map (·.seq)
  else
    match s.openJob fn c.job with
    | none => none
    | some u => if s.units.any (fun v => v.isPhase && v.jobSeq == u.seq && decide (v.st < 2) && !v.closed) then none else some u.seq

/-- A phase or job close command (R386). -/
def State.cmdClose (s : State) (k : Option Nat) (c : UnitCmd) (isPhase : Bool) : State :=
  (s.oneShot c.fn.num k (if isPhase then 5 else 7) (c.obj isPhase) c.irq (fun s _ =>
    match s.closable c isPhase with
    | none => (s, 0x0F, 0)
    | some seq => (s.modUnit seq (fun u => { u with closed := true }), 0, 0))).settleUnits

/-- PHASE_OPEN (R386). -/
def execPhaseOpen (c : UnitCmd) (s : State) : Host.Outcome State Fault Refusal := runCommand c.fn s (fun s k => s.cmdOpen k c true)
/-- PHASE_CLOSE (R386). -/
def execPhaseClose (c : UnitCmd) (s : State) : Host.Outcome State Fault Refusal := runCommand c.fn s (fun s k => s.cmdClose k c true)
/-- JOB_OPEN (R386). -/
def execJobOpen (c : UnitCmd) (s : State) : Host.Outcome State Fault Refusal := runCommand c.fn s (fun s k => s.cmdOpen k c false)
/-- JOB_CLOSE (R386). -/
def execJobClose (c : UnitCmd) (s : State) : Host.Outcome State Fault Refusal := runCommand c.fn s (fun s k => s.cmdClose k c false)

/-! ### Counters, windows, handlers (R374) -/

/-- An island number that names no live island: code 0x07. -/
def State.islBad (s : State) (i : Nat) : Bool := decide (s.islands ≤ i) || (s.isl i).dead

/-- Gives a counter to a function (R374, R368): the value is written first and judged as a step. -/
def State.assignCounter (s : State) (fn : Nat) (c : CounterCmd) : State × Nat × Word :=
  if s.islBad c.isl then (s, 7, 0)
  else
    let n := c.counter % 4096
    match pfind (s.isl c.isl).owners n, s.asidOf c.isl fn with
    | some o, some a =>
      if o = a then (s.stepCounter c.isl n c.value, 0, 0) else (s, 0x0F, 0)
    | some _, none => (s, 0x0F, 0)
    | none, _ =>
      let (s1, a) := s.giveAsid c.isl fn
      if a = 0 then (s, 0x0F, 0)
      else ((s1.stepCounter c.isl n c.value).modIsl c.isl (fun x => { x with owners := pput x.owners n a }), 0, 0)

/-- Takes a counter back from its function (R374): it keeps its value (R368). -/
def State.releaseCounter (s : State) (fn : Nat) (c : CounterCmd) : State × Nat × Word :=
  if s.islBad c.isl then (s, 7, 0)
  else
    let n := c.counter % 4096
    match pfind (s.isl c.isl).owners n, s.asidOf c.isl fn with
    | some o, some a => if o = a then (s.modIsl c.isl (fun x => { x with owners := pdel x.owners n }), 0, 0) else (s, 0x0F, 0)
    | _, _ => (s, 0x0F, 0)

def State.cmdAssign (s : State) (k : Option Nat) (c : CounterCmd) : State :=
  s.oneShot c.fn.num k 9 c.obj c.irq (fun s _ => s.assignCounter c.fn.num c)
def State.cmdRelease (s : State) (k : Option Nat) (c : CounterCmd) : State :=
  s.oneShot c.fn.num k 0x0A c.obj c.irq (fun s _ => s.releaseCounter c.fn.num c)

/-- COUNTER_ASSIGN (R374). -/
def execCounterAssign (c : CounterCmd) (s : State) : Host.Outcome State Fault Refusal := runCommand c.fn s (fun s k => s.cmdAssign k c)
/-- COUNTER_RELEASE (R374). -/
def execCounterRelease (c : CounterCmd) (s : State) : Host.Outcome State Fault Refusal := runCommand c.fn s (fun s k => s.cmdRelease k c)

/-- A remote-window lease (R374, R309). -/
def State.leaseWindow (s : State) (fn : Nat) (c : WindowCmd) : State × Nat × Word :=
  if s.islBad c.isl then (s, 7, 0)
  else
    let (s1, a) := s.giveAsid c.isl fn
    let l : Lease :=
      { isl := c.isl, asid := a, fn := fn, window := true, launch := none, units := [(c.base.toNat, c.len)]
        expiry := s1.time.toNat + 2000000, void := false }
    ({ s1 with leases := pput s1.leases s1.nextId l, nextId := s1.nextId + 1 }, 0, 0)

/-- The release of a window by its base address (R374): no code is given for an island that is not there. -/
def State.releaseWindow (s : State) (fn : Nat) (c : WindowCmd) : State × Nat × Word :=
    let mine (l : Lease) : Bool := l.window && l.fn == fn && l.isl == c.isl && l.units.any (fun u => u.1 == c.base.toNat)
    ({ s with leases := s.leases.filter (fun e => !mine e.2) }, 0, 0)

def State.cmdLease (s : State) (k : Option Nat) (c : WindowCmd) : State :=
  s.oneShot c.fn.num k 0x0B c.base c.irq (fun s _ => s.leaseWindow c.fn.num c)
def State.cmdUnlease (s : State) (k : Option Nat) (c : WindowCmd) : State :=
  s.oneShot c.fn.num k 0x0C c.base c.irq (fun s _ => s.releaseWindow c.fn.num c)

/-- REMOTE_WINDOW_LEASE (R374). -/
def execRemoteWindowLease (c : WindowCmd) (s : State) : Host.Outcome State Fault Refusal := runCommand c.fn s (fun s k => s.cmdLease k c)
/-- LEASE_RELEASE (R374). -/
def execLeaseRelease (c : WindowCmd) (s : State) : Host.Outcome State Fault Refusal := runCommand c.fn s (fun s k => s.cmdUnlease k c)

/-- A handler set command (R272, R374). -/
def State.cmdHandler (s : State) (fn : Nat) (k : Option Nat) (irq : Bool) (i : Nat) (addr : DWord) : State :=
  s.oneShot fn k 0x0D (BitVec.ofNat 64 (i % 64)) irq (fun s _ =>
    if s.islBad i then (s, 7, 0) else ({ s with handlers := pset 0 s.handlers (fn * 64 + i) addr }, 0, 0))

/-- HANDLER_SET (R374). -/
def execHandlerSet (fn : Fn) (irq : Bool) (isl : Nat) (addr : DWord) (s : State) : Host.Outcome State Fault Refusal :=
  runCommand fn s (fun s k => s.cmdHandler fn.num k irq isl addr)

/-! ### Commands of a queue (R374) -/

/-- A command of 64 bytes, taken from a queue pair of a function; where the spec gives a field no place, assumption 29 does. -/
def State.runEntry (s : State) (f : Fn) (q : Nat) (bs : List Byte) : State :=
  let k := some (qKey f.num q)
  let w (i : Nat) : Nat := recWord bs i
  let irq := (w 0).testBit 8
  let dep (i : Nat) : Dep := ⟨bitsAt (w (4 + i)) 0 60, (w (4 + i)).testBit 63⟩
  let unit (irq : Bool) : UnitCmd :=
    ⟨f, irq, bitsAt (w 2) 0 32, bitsAt (w 2) 32 32, BitVec.ofNat 64 (w 3), (w 0).testBit 8⟩
  let counter : CounterCmd := ⟨f, irq, bitsAt (w 1) 32 6, bitsAt (w 1) 0 12, BitVec.ofNat 32 (w 2)⟩
  let window : WindowCmd := ⟨f, irq, bitsAt (w 3) 0 6, BitVec.ofNat 64 (w 1), w 2⟩
  match bitsAt (w 0) 0 8 with
  | 1 => s.cmdLaunch k ⟨f, irq, (w 0).testBit 9, BitVec.ofNat 64 (w 1), bitsAt (w 2) 0 32, bitsAt (w 2) 32 32, BitVec.ofNat 64 (w 3),
      [dep 0, dep 1, dep 2, dep 3]⟩
  | 2 => s.cmdRecord k ⟨f, false, irq, bitsAt (w 1) 0 32, bitsAt (w 1) 32 16, bitsAt (w 1) 48 16, BitVec.ofNat 64 (w 2),
      BitVec.ofNat 64 (w 3), BitVec.ofNat 64 (w 4), BitVec.ofNat 64 (w 5)⟩
  | 3 => s.cmdReplay k ⟨f, irq, bitsAt (w 1) 0 32, bitsAt (w 2) 0 32, bitsAt (w 2) 32 32, BitVec.ofNat 64 (w 3)⟩
  | 4 => s.cmdOpen k (unit false) true
  | 5 => s.cmdClose k (unit irq) true
  | 6 => s.cmdOpen k (unit irq) false
  | 7 => s.cmdClose k (unit irq) false
  | 8 => s.cmdCancel f.num k (w 1) irq
  | 9 => s.cmdAssign k counter
  | 10 => s.cmdRelease k counter
  | 11 => s.cmdLease k window
  | 12 => s.cmdUnlease k window
  | 13 => s.cmdHandler f.num k irq (bitsAt (w 1) 0 6) (BitVec.ofNat 64 (w 2))
  | n => s.oneShot f.num k n 0 irq (fun s _ => (s, 2, 0))

/-- How many commands of a queue stand before a tail (R401). -/
def Queue.before (x : Queue) (tail : Nat) : Nat := (tail + x.sqSize - x.sqHead) % x.sqSize

/-- The command processor takes the next command behind the tail-pointer write that came first (R374, R401), unless a later write
has drawn that queue's tail back; it waits while the journal slot is taken (R387), and until the boot has ended (R405). -/
def State.takeCommand (s : State) : State :=
  if s.boot.step ≠ 6 then s
  else
  match s.waiting with
  | [] => s
  | (fn, q, tail) :: rest =>
    let k := qKey fn q
    let x := s.queue k
    let drawn := rest.any (fun e => e.1 == fn && e.2.1 == q && x.before e.2.2 == 0)
    if !x.enabled || x.before tail = 0 || drawn || (s.vf fn).resetting then { s with waiting := rest }
    else if !s.slotFree s.nextSeq then s
    else
      let bs := s.mem.readBytes (hostKey (fn / 64) (x.sqBase.toNat + 64 * x.sqHead)) 64
      (s.setQueue k { x with sqHead := (x.sqHead + 1) % x.sqSize }).runEntry ⟨fn / 64, fn % 64⟩ q bs

end Sys2Proof.Machine
end

