-- ==== Sys2Proof/Machine/HostPort.lean ====
section
/-! DEFINITION. Host ports (29 R398-R404, 30 R411): doorbells, queue registers and what reads give, BAR 2, the cap and the weights, function-level
reset; the steps SUBMISSION_TAIL_DOORBELL to FUNCTION_LEVEL_RESET. -/

namespace Sys2Proof.Machine

/-- Host ports answer from step 2 of the boot on (R405), and a function being reset does not (R404). -/
def State.portUp (s : State) (f : Fn) : Bool := decide (2 ≤ s.boot.step) && f.ok && !(s.vf f.num).resetting

/-- Runs a register access of a queue pair. -/
def runQueue (f : Fn) (q : Nat) (s : State) (act : State → State) : Host.Outcome State Fault Refusal :=
  .next (if s.portUp f && decide (q < 8) then act s else s)

/-! ### Queue registers (R400-R402) -/

/-- The submission tail doorbell (R401): a tail at or above the size is a queue error. -/
def State.tailDoorbell (s : State) (fn q tail : Nat) : State :=
  let x := s.queue (qKey fn q)
  if !x.enabled then s
  else if x.sqSize ≤ tail then
    let y : Queue := { x with ctl := (x.ctl ||| 2) &&& ~~~1 }
    (({ s with waiting := s.waiting.filter (fun e => (e.1, e.2.1) ≠ (fn, q)) }).setQueue (qKey fn q) y).fire fn x.vec
  else
    let s1 := s.setQueue (qKey fn q) { x with sqTail := tail }
    { s1 with waiting := s1.waiting ++ [(fn, q, tail)] }

/-- SUBMISSION_TAIL_DOORBELL (R401). -/
def execSubmissionTailDoorbell (fn : Fn) (q tail : Nat) (s : State) : Host.Outcome State Fault Refusal :=
  runQueue fn q s (fun s => s.tailDoorbell fn.num q tail)

/-- The completion head doorbell (R402); a head at or above the size is ignored (assumption 25). -/
def State.headDoorbell (s : State) (fn q head : Nat) : State :=
  let x := s.queue (qKey fn q)
  if x.enabled && decide (head < x.cqSize) then s.setQueue (qKey fn q) { x with cqHead := head } else s

/-- COMPLETION_HEAD_DOORBELL (R402). -/
def execCompletionHeadDoorbell (fn : Fn) (q head : Nat) (s : State) : Host.Outcome State Fault Refusal :=
  runQueue fn q s (fun s => s.headDoorbell fn.num q head)

/-- The oldest held record of a queue is written once there is room (R402). -/
def State.writeHeld (s : State) (fn k : Nat) : State :=
  let x := s.queue k
  match x.heldRecs with
  | [] => s
  | (rec, irq) :: rest =>
    if x.full || (s.vf fn).resetting then s else (s.setQueue k { x with heldRecs := rest }).putRecord32 fn k rec irq

/-- HELD_COMPLETION_RECORD (R402). -/
def execHeldCompletionRecord (fn : Fn) (q : Nat) (s : State) : Host.Outcome State Fault Refusal :=
  runQueue fn q s (fun s => s.writeHeld fn.num (qKey fn.num q))

/-- Writable fields of queue control: en, slg, clg, vec. -/
def ctlMask : DWord := 0xF0FF01

/-- A write of queue control (R400, R4): err clears where a one is written, and enabling sets heads and tails to 0. -/
def State.writeCtl (s : State) (fn q : Nat) (v : DWord) : State :=
  let x := s.queue (qKey fn q)
  let err := x.ctl &&& 2 &&& ~~~v
  let y : Queue := { x with ctl := (v &&& ctlMask) ||| err }
  let s1 := if y.enabled && x.enabled then s else { s with waiting := s.waiting.filter (fun e => (e.1, e.2.1) ≠ (fn, q)) }
  s1.setQueue (qKey fn q) (if y.enabled && !x.enabled then { y with sqHead := 0, sqTail := 0, cqHead := 0, cqTail := 0 } else y)

/-- QUEUE_ENABLE (R400): a write of queue control with en set. -/
def execQueueEnable (fn : Fn) (q : Nat) (ctl : DWord) (s : State) : Host.Outcome State Fault Refusal :=
  runQueue fn q s (fun s => s.writeCtl fn.num q (ctl ||| 1))

/-- QUEUE_ERR_CLEAR (R400): a write of queue control with err set. -/
def execQueueErrClear (fn : Fn) (q : Nat) (ctl : DWord) (s : State) : Host.Outcome State Fault Refusal :=
  runQueue fn q s (fun s => s.writeCtl fn.num q (ctl ||| 2))

/-- A write of BAR 0 (R400): what is not writable ignores it. DESIGN CHOICE (assumption 94): a base drops the low bits that its
alignment has zero. -/
def State.writeBar0 (s : State) (fn offset : Nat) (v : DWord) : State :=
  let q := (offset - 0x1000) / 64
  let x := s.queue (qKey fn q)
  if offset < 0x1000 || 8 ≤ q then s
  else
    match offset % 64 with
    | 0x00 => if x.enabled then s else s.setQueue (qKey fn q) { x with sqBase := v &&& ~~~63 }
    | 0x08 => s.writeCtl fn q v
    | 0x10 => s.tailDoorbell fn q (v.toNat % 2 ^ 32)
    | 0x18 => if x.enabled then s else s.setQueue (qKey fn q) { x with cqBase := v &&& ~~~31 }
    | 0x20 => s.headDoorbell fn q (v.toNat % 2 ^ 32)
    | _ => s

/-! ### Cap, weights and BAR 4 (R403, R409, R411) -/

/-- The panel cap (R411): other values than 1,000 to 65,000 are ignored. -/
def State.writeCap (s : State) (watts : Nat) : State := if 1000 ≤ watts ∧ watts ≤ 65000 then { s with cap := watts } else s

/-- The weight of a function (R403, R411): the register has 8 bits. -/
def State.writeWeight (s : State) (fn weight : Nat) : State := { s with weights := pset 16 s.weights fn (BitVec.ofNat 8 weight) }

/-- The configuration of a port answers from step 2 of the boot on (R405). -/
def runPort (s : State) (act : State → State) : Host.Outcome State Fault Refusal := .next (if s.boot.step < 2 then s else act s)

/-- PANEL_CAP_WRITE (R411). -/
def execPanelCapWrite (watts : Nat) (s : State) : Host.Outcome State Fault Refusal := runPort s (·.writeCap watts)

/-- VF_WEIGHT_WRITE (R403, R411). -/
def execVfWeightWrite (fn : Fn) (weight : Nat) (s : State) : Host.Outcome State Fault Refusal :=
  runPort s (fun s => if fn.ok then s.writeWeight fn.num weight else s)

/-- A write of 8 bytes at an offset of BAR 4 (R411): only the physical function's, and only to the cap and the weights. -/
def State.writeBar4 (s : State) (pf : Bool) (offset : Nat) (v : DWord) : State :=
  if !pf then s
  else if offset = 0x28 then s.writeCap v.toNat
  else if 0x6200 ≤ offset ∧ offset < 0x6A00 ∧ offset % 8 = 0 then s.writeWeight ((offset - 0x6200) / 8) v.toNat
  else s

/-- REGISTER_WRITE (R398, R400, R402, R411): a function being reset does not answer. -/
def execRegisterWrite (file : RegFile) (offset : Nat) (value : DWord) (s : State) : Host.Outcome State Fault Refusal :=
  match file with
  | .bar0 fn => runQueue fn 0 s (fun s => s.writeBar0 fn.num offset value)
  | .bar4 port pf => runPort s (fun s => if port < 4 then s.writeBar4 pf offset value else s)
  | .masks fn => runQueue fn 0 s (fun s => if offset < 16 then s.maskVector fn.num offset (value.getLsbD 0) else s)
  | .masksPf port =>
    runPort s (fun s => if port < 4 ∧ offset = 0 then
      { s with pfs := pset Pf.reset s.pfs port ((pget Pf.reset s.pfs port).mask (value.getLsbD 0)) } else s)

/-! ### What reads give (R361, R400, R411, R412) -/

/-- Eight bytes as a word, the lowest first. -/
def bytesWord (g : Nat → Nat) : DWord := BitVec.ofNat 64 (((List.range 8).map (fun j => g j % 256 * 256 ^ j)).sum)

/-- A read of BAR 0 by the offset of a register (R400): none for a doorbell, which can only be written. -/
def State.bar0Read (s : State) (fn offset : Nat) : Option DWord :=
  let q := (offset - 0x1000) / 64
  let x := s.queue (qKey fn q)
  if offset = 0 then some (s.vf fn).status
  else if offset < 0x1000 || 8 ≤ q then some 0
  else
    match offset % 64 with
    | 0x00 => some x.sqBase
    | 0x08 => some x.ctl
    | 0x10 => none
    | 0x14 => some (BitVec.ofNat 64 x.sqHead)
    | 0x18 => some x.cqBase
    | 0x20 => none
    | 0x24 => some (BitVec.ofNat 64 x.cqTail)
    | _ => some 0

/-- Boot status (R412). -/
def State.bootStatus (s : State) : DWord := BitVec.ofNat 64 (s.boot.step % 16 + s.boot.fstep % 16 * 16 + s.boot.code % 256 * 256)

/-- A 64-bit word of the topology table (R361, R362): zero until it is written. -/
def State.topoWord (s : State) (off : Nat) : DWord :=
  let p := s.islands
  let k := (off - 0x100) / 16
  if !s.topo.written then 0
  else if off = 0 then BitVec.ofNat 64 (1 + p * 2 ^ 8 + (s.fuses.sites.map (fun x => 2 ^ x)).sum * 2 ^ 16)
  else if off = 0x08 then BitVec.ofNat 64 (((List.range p).filter (fun i => (s.isl i).dead)).map (fun i => 2 ^ i)).sum
  else if off = 0x10 then BitVec.ofNat 64 s.topo.gen
  else if 0x40 ≤ off && off < 0x68 then
    bytesWord (fun j => let i := off - 0x40 + j; if 36 ≤ i then 0 else if i < p then s.siteOf i else 0xFF)
  else if 0x80 ≤ off && off < 0xA8 then
    bytesWord (fun j => let i := off - 0x80 + j; if i < p then (pget 0 s.topo.deadPorts i).toNat else 0)
  else if 0x100 ≤ off && off < 0x5200 && k / 36 ≠ k % 36 && k / 36 < p && k % 36 < p then
    let ws := (s.routes (k / 36) (k % 36)).map routeWord
    let n := off % 16 / 8 * 2
    BitVec.ofNat 64 (ws.getD n 0 + ws.getD (n + 1) 0 * 2 ^ 32)
  else 0

/-- A read of 8 bytes of the management map (R411). -/
def State.mgmtRead (s : State) (off : Nat) : DWord :=
  if off = 0x00 then s.bootStatus
  else if off = 0x08 then s.fuses.serial
  else if off = 0x10 then BitVec.ofNat 64 (s.panelNum % 64)
  else if off = 0x18 then BitVec.ofNat 64 s.journalBase
  else if off = 0x20 then BitVec.ofNat 64 (s.nextSeq - 1)
  else if off = 0x28 then BitVec.ofNat 64 s.cap
  else if off = 0x30 then s.boot.spares.setWidth 64
  else if 0x100 ≤ off && off < 0x100 + 8 * s.islands then (s.isl ((off - 0x100) / 8)).zone
  else if 0x400 ≤ off && off < 0x400 + 8 * s.islands then
    BitVec.ofNat 64 (([0, 1, 2, 3].map (fun z => pget 0 (s.isl ((off - 0x400) / 8)).steps z % 8 * 8 ^ z)).sum)
  else if 0x1000 ≤ off && off < 0x6200 then s.topoWord (off - 0x1000)
  else if 0x6200 ≤ off && off < 0x6A00 then (pget 16 s.weights ((off - 0x6200) / 8)).setWidth 64
  else 0

/-! ### BAR 2 (R398) -/

/-- The place of an aperture offset: the windows of the function one after the other (assumption 19). -/
def windowAt : List (Nat × Nat × Nat) → Nat → Option (Nat × Nat)
  | [], _ => none
  | (i, base, len) :: r, off => if off < len then some (i, base + off) else windowAt r (off - len)

def State.windowsOf (s : State) (fn : Nat) : List (Nat × Nat × Nat) :=
  ((s.leases.filter (fun e => e.2.window && e.2.fn == fn && !e.2.void)).map (fun e => e.2.units.map (fun u => (e.2.isl, u.1, u.2)))).flatten

/-- An access of 8 bytes (R398): outside every leased unit a read is all ones, a write is dropped, and the status word
records it in a form of its own (assumption 19). -/
def State.bar2 (s : State) (fn offset : Nat) (store : Option DWord) : State :=
  let ws := s.windowsOf fn
  match windowAt ws offset, windowAt ws (offset + 7) with
  | some (i, va), some (j, vb) =>
    if i = j ∧ vb = va + 7 ∧ offset + 8 ≤ 2 ^ 30 then
      match s.asidOf i fn, store with
      | none, _ => outside s
      | some asid, some v => s.writeVa i asid (leBytes 8 v.toNat) (spans va 8)
      | some asid, none => { s with hostRead := BitVec.ofNat 64 (leNat (s.readVa i asid va 8)) }
    else outside s
  | _, _ => outside s
where
  /-- An access outside. -/
  outside (s : State) : State :=
    let s1 := s.setVf fn { s.vf fn with status := Config.freeDWord s.free }
    { s1 with free := s1.free + 1, hostRead := if store.isNone then BitVec.allOnes 64 else s1.hostRead }

/-- BAR2_ACCESS (R398). -/
def execBar2Access (fn : Fn) (offset : Nat) (store : Option DWord) (s : State) : Host.Outcome State Fault Refusal :=
  runQueue fn 0 s (fun s => s.bar2 fn.num offset store)

/-! ### Function-level reset (R404) -/

/-- Sequence numbers of a function's launches, replays and units. -/
def State.unitsOf (s : State) (fn : Nat) : List Nat :=
  (s.launches.filter (fun e => e.2.fn == fn)).map (·.1) ++ (s.replays.filter (fun e => e.2.port * 64 + e.2.vf == fn)).map (·.1)
    ++ (s.units.filter (fun u => u.port * 64 + u.vf == fn)).map (·.seq)

/-- Steps 1 to 3: queues stop, every unit that is not final is cancelled, interrupts are masked. -/
def State.resetBegin (s : State) (fn : Nat) : State :=
  let s1 := s.setVf fn { s.vf fn with resetting := true, masked := BitVec.allOnes 16 }
  let s2 : State := { s1 with
    queues := peach s1.queues (fun k x => if k / 8 = fn then { x with ctl := x.ctl &&& ~~~1, heldRecs := [] } else x)
    waiting := s1.waiting.filter (fun e => e.1 != fn) }
  let us := s2.unitsOf fn
  let s3 := us.foldl (fun s n => (s.cancelReplays s2 n 0x22).cancelUnits s2 n 0x22) s2
  (us.foldl (fun s n => s.stopLaunch n 3 0x22) s3).settleUnits

/-- Every unit of the function is final. -/
def State.allFinal (s : State) (fn : Nat) : Bool :=
  !s.launches.any (fun e => e.2.fn == fn && (decide (e.2.st < 2) || e.2.finalDue))
    && !s.replays.any (fun e => e.2.port * 64 + e.2.vf == fn && decide (e.2.st < 2))
    && !s.units.any (fun u => u.port * 64 + u.vf == fn && decide (u.st < 2))

/-- Context memory of a launch (assumption 15). -/
def ctxOf (n la : Nat) : Bool := (la - ctxBase) / 2 ^ 40 == 2 ^ 16 + n % 2 ^ 16 && decide (ctxBase ≤ la)

/-- Scrubs the context memory of a launch; registers and windows are zeroed where they are placed again (R114, R208). -/
def State.scrub (s : State) (i n : Nat) : State :=
  { s with
    mem := s.mem.filter (fun e => !(e.1 / 2 ^ 64 == i && ctxOf n (e.1 % 2 ^ 64)))
    cores := peach s.cores (fun ck c =>
      if coreIsl ck = i then { c with lines := c.lines.filter (fun e => !ctxOf n (64 * e.1)) } else c) }

/-- Gives up an island's ASIDs of a function, with the counters they own. -/
def State.dropFn (s : State) (i fn : Nat) : State :=
  match s.asidOf i fn with
  | none => s
  | some a =>
    (s.dropAsid i a).modIsl i (fun x => { x with asids := pdel x.asids a, owners := x.owners.filter (fun e => e.2 != a) })

/-- Steps 4 and 5: scrubbing, the release of what the function held, its registers at their reset values. -/
def State.resetEnd (s : State) (fn : Nat) : State :=
  let ls := (s.launches.filter (fun e => e.2.fn == fn)).map (fun e => (e.2.isl, e.1))
  let s1 := ls.foldl (fun s (i, n) => s.scrub i n) s
  let s2 := (List.range s1.islands).foldl (fun s i => s.dropFn i fn) s1
  { s2 with
    leases := s2.leases.filter (fun e => e.2.fn != fn)
    handlers := s2.handlers.filter (fun e => e.1 / 64 != fn)
    queues := s2.queues.filter (fun e => e.1 / 8 != fn)
    collsMet := s2.collsMet.filter (fun e => e.1 / 2 ^ 16 != fn)
    vfs := pdel s2.vfs fn }

/-- FUNCTION_LEVEL_RESET (R404): begun, and ended once every unit of the function is final. -/
def State.functionReset (s : State) (fn : Nat) : State :=
  let s1 := if (s.vf fn).resetting then s else s.resetBegin fn
  if s1.allFinal fn then s1.resetEnd fn else s1

def execFunctionLevelReset (fn : Fn) (s : State) : Host.Outcome State Fault Refusal :=
  .next (if fn.ok then s.functionReset fn.num else s)

end Sys2Proof.Machine
end

