-- ==== Sys2Proof/Machine/Boot.lean ====
section
/-! DEFINITION. Start-up (30 R405, R406, R408, R412) and the SPDM responder (R407): the steps PANEL_RESET and GET_VERSION to
GET_MEASUREMENTS. -/

namespace Sys2Proof.Machine

/-! ### Verification (R406, R412) -/

/-- Reason code of a rejected image, 0 for an accepted one: ECDSA, LMS, a missing signature, the key index. -/
def Image.reason (i : Image) : Nat :=
  if !i.signed then 3
  else if !i.ecdsa then 1
  else if !i.lms then 2
  else if i.index ≤ i.lastIndex then 4
  else 0

/-- An accepted image is the one last accepted from then on. -/
def Image.accept (i : Image) : Image := { i with lastIndex := i.index, lastDigest := i.digest }

/-! ### Boot steps (R405) -/

/-- Step 4 (R408): the token enables spare benches, or its rejection is reported; an absent one does neither. -/
def Boot.checkToken (b : Boot) (serial : DWord) : Boot :=
  match b.token with
  | none => b
  | some t =>
    let code := if t.image.reason ≠ 0 then t.image.reason else if t.serial ≠ serial then 5 else 0
    if code = 0 then { b with token := some { t with image := t.image.accept }, spares := t.mask } else { b with fstep := 4, code := code }

/-- Enabled cores of an island: 160, and the spare benches that the token enables (R15). -/
def enabledCores (spares : BitVec 4) (i : Nat) : List Nat :=
  (islCores i).filter (fun ck => !coreSpare ck || spares.getLsbD (coreZone ck))

/-- An island after step 5: its live core count; without a live core it is dead (R405). -/
def State.startIsland (s : State) (i : Nat) : State :=
  let on := enabledCores s.boot.spares i
  let bad := on.filter (fun ck => s.boot.failing.contains ck)
  let s1 := bad.foldl (fun s ck => s.modCore ck (fun c => { c with service := .retired, retired := true, counted := false })) s
  s1.modIsl i (fun x => { x with live := on.length - bad.length, dead := on.length ≤ bad.length })

/-- Ports that are dead from the start: off the grid or facing an empty site (R14), or facing a dead island (R372). -/
def State.deadPortsOf (s : State) : PMap (BitVec 8) :=
  (List.range s.islands).foldl (fun m i =>
    (List.range 8).foldl (fun m p =>
      if s.portLive i p then m else pset 0 m i (pget 0 m i ||| BitVec.ofNat 8 (2 ^ p))) m) []

/-- Steps 1 to 6 of the boot (R405): a failure at steps 1 to 3 stops it there, at step 2 without a reason code (R412 has none for
it); a token that is rejected does not. -/
def State.runBoot (s : State) : State :=
  let b := s.boot
  let stop (step fstep code : Nat) (b : Boot) : State := { s with boot := { b with step := step, fstep := fstep, code := code } }
  if b.cp.reason ≠ 0 then stop 0 1 b.cp.reason b
  else
    let b1 := { b with cp := b.cp.accept }
    if !b.ports then stop 1 2 0 b1
    else if b.island.reason ≠ 0 then stop 2 3 b.island.reason b1
    else
      let b2 := { b1 with island := b.island.accept }.checkToken s.fuses.serial
      let s1 := (List.range s.islands).foldl (fun s i => s.startIsland i) { s with boot := b2 }
      { s1 with boot := { b2 with step := 6 }, topo := { s1.topo with deadPorts := s1.deadPortsOf, written := true } }

/-- A byte that panel reset leaves as it is (R3). DESIGN CHOICE (assumption 88): the spec gives the memories no value after it,
so HBM4E, the LPDDR6 tier and host memory stay, but for the journal's entries and the table at 0, which every root names after
reset: both have the reset value 0 (R303, R387). Context memory is zero. -/
def State.outlivesReset (s : State) (a : Nat) : Bool :=
  let i := a / 2 ^ 64
  let la := a % 2 ^ 64
  decide (64 ≤ i) ||
    (decide (2 ^ 15 ≤ la) && decide (la < cxlBase)
      && !(i == 0 && decide (s.journalBase ≤ la) && decide (la < s.journalBase + 2 ^ 21)))

/-- The panel at reset: what is kept outside its registers stays: memory (`State.outlivesReset`), fuses, images and token, the
panel's number and its domain, the declared windows and the journal's place (assumption 88). -/
def State.atReset (s : State) : State :=
  { State.reset with
    script := s.script, free := s.free, fuses := s.fuses
    boot := { s.boot with step := 0, fstep := 0, code := 0, spares := 0 }
    mem := s.mem.filter (fun e => s.outlivesReset e.1), panelNum := s.panelNum, panels := s.panels
    journalBase := s.journalBase, cxl := s.cxl }

/-- PANEL_RESET (R405). -/
def execPanelReset (s : State) : Host.Outcome State Fault Refusal := .next s.atReset.runBoot

/-! ### SPDM (R407) -/

/-- Values of an answer that the spec names and does not give. -/
def draws (free : Nat) (n : Nat) : List DWord := (List.range n).map (fun i => Config.freeDWord (free + i))

/-- The responder answers on a port from step 2 on (R405). -/
def runSpdm (port : Nat) (s : State) (act : State → Spdm → Spdm × Nat) : Host.Outcome State Fault Refusal :=
  .next (
    if s.boot.step < 2 || 4 ≤ port then s
    else
      let (x, n) := act s (pget ⟨0, false, []⟩ s.spdm port)
      { s with spdm := pput s.spdm port x, free := s.free + n })

/-- GET_VERSION: SPDM 1.3; a connection starts afresh (assumption 7). -/
def execGetVersion (port : Nat) (s : State) : Host.Outcome State Fault Refusal :=
  runSpdm port s (fun _ _ => (⟨1, false, [0x13]⟩, 0))

/-- The capability flags of a responder with the requests of R407 alone: certificates, challenges, and measurements with a
signature; caching, fresh measurements and alias certificates are not stated (assumption 7). -/
def capabilityFlags (free : DWord) : DWord := 0x16 ||| (free &&& 0x40021)

/-- GET_CAPABILITIES, after the version. -/
def execGetCapabilities (port : Nat) (s : State) : Host.Outcome State Fault Refusal :=
  runSpdm port s (fun s x =>
    if x.stage = 0 then ({ x with answer := [] }, 0) else (⟨2, false, [capabilityFlags (Config.freeDWord s.free)]⟩, 1))

/-- Bits of SHA-384 and of ECDSA P-384 in a request (assumption 7). -/
def shaBit : Nat := 1
def ecdsaBit : Nat := 7

/-- NEGOTIATE_ALGORITHMS, after the capabilities: SHA-384 and ECDSA P-384 only. -/
def execNegotiateAlgorithms (port hash sign : Nat) (s : State) : Host.Outcome State Fault Refusal :=
  runSpdm port s (fun _ x =>
    let ok := hash.testBit shaBit && sign.testBit ecdsaBit
    if x.stage < 2 then ({ x with answer := [] }, 0)
    else (⟨3, ok, if ok then [BitVec.ofNat 64 (2 ^ shaBit), BitVec.ofNat 64 (2 ^ ecdsaBit)] else [0, 0]⟩, 0))

/-- An answer once algorithms are agreed. -/
def spdmAnswer (port : Nat) (s : State) (answer : List DWord) : Host.Outcome State Fault Refusal :=
  runSpdm port s (fun _ x => ({ x with answer := if x.negotiated then answer else [] }, 0))

/-- The digest of the certificate chain in six words (R407). -/
def State.chainDigest (s : State) : List DWord := (List.range 6).map (Config.sha384 s.fuses.cert)

/-- GET_DIGESTS: the SHA-384 digest of the identity certificate, 48 bytes. -/
def execGetDigests (port : Nat) (s : State) : Host.Outcome State Fault Refusal :=
  spdmAnswer port s s.chainDigest

/-- GET_CERTIFICATE: the identity certificate with its signatures (R406). -/
def execGetCertificate (port : Nat) (s : State) : Host.Outcome State Fault Refusal := spdmAnswer port s s.fuses.cert

/-- The words with which a signed report ends (R407, assumption 7): the responder's nonce in four, one that stands for the LMS
signature as the opaque element, the ECDSA P-384 signature in twelve. None is given. -/
def reportEnd (free : Nat) : List DWord := draws free 17

/-- CHALLENGE: the digest of the certificate chain, the responder's nonce and the signatures (R407). The requester's nonce is part
of what is signed. -/
def execChallenge (port : Nat) (_nonce : DWord) (s : State) : Host.Outcome State Fault Refusal :=
  runSpdm port s (fun s x =>
    if x.negotiated then ({ x with answer := s.chainDigest ++ reportEnd s.free }, 17) else ({ x with answer := [] }, 0))

/-- A measurement block (R407): the version of the boot ROM, or a digest in six words. -/
def State.measurement (s : State) (index : Nat) : Option (List DWord) :=
  let zero : List DWord := List.replicate 6 0
  match index with
  | 1 => some [s.fuses.rom]
  | 2 => some s.boot.cp.digest
  | 3 => some s.boot.island.digest
  | 4 => some ((s.boot.token.map (fun t => t.image.digest)).getD zero)
  | 5 => some (s.boot.policy.getD zero)
  | _ => none

/-- Measurement blocks in a report, each behind its index. -/
def State.blocks (s : State) (is : List Nat) : List DWord :=
  (is.map (fun (i : Nat) => BitVec.ofNat 64 i :: (s.measurement i).getD [])).flatten

/-- What a report holds before its end (R407, assumption 7): how many blocks there are where index 0 asks for that, how many
follow, and these: all for index 0xFF, else the one of the index. -/
def State.report (s : State) (index : Nat) : Option (List DWord) :=
  if index = 0 then some [5, 0]
  else if index = 0xFF then some ([0, 5] ++ s.blocks [1, 2, 3, 4, 5])
  else if index ≤ 5 then some ([0, 1] ++ s.blocks [index])
  else none

/-- GET_MEASUREMENTS: the report with its nonce and signatures; none of another index. -/
def execGetMeasurements (port index : Nat) (s : State) : Host.Outcome State Fault Refusal :=
  runSpdm port s (fun s x =>
    match x.negotiated, s.report index with
    | true, some m => ({ x with answer := m ++ reportEnd s.free }, 17)
    | _, _ => ({ x with answer := [] }, 0))

end Sys2Proof.Machine
end

