-- ==== Sys2Proof/Machine/Fetch.lean ====
section
/-! DEFINITION. Fetching a word (02 R24-R29, 21 R304) and the decode checks in their order (02 R39). -/

namespace Sys2Proof.Machine

/-- Bytes of the word whose first byte is given (R24). -/
def wordLen (b : Byte) : Nat :=
  match b.toNat % 4 with
  | 0 => 8
  | 1 => 12
  | 2 => 16
  | _ => 8

/-- Opcode of an instruction word, by its low bits (R32). -/
def opcOf (w : BitVec 128) : Nat := (w.extractLsb' 2 10).toNat

/-- The decode checks of a word that lies in its block (R39): sub-causes 1 to 6, then the reserved fields. `left` counts
the instructions that the clause still has. -/
def checkedDecode (k : ExecKind) (left : Nat) (w : BitVec 128) : Except Cause Instr :=
  let header := (w.extractLsb' 0 2).toNat == 3
  if left = 0 && !header then .error (mkCause 1 1 0)
  else if left ≠ 0 && header then .error (mkCause 1 2 0)
  else
    match decodeWord k w with
    | .error (.illegal n) => .error (mkCause 1 n 0)
    | .error (.reserved n) =>
      if !header && isControl (opcOf w) && left ≠ 1 then .error (mkCause 1 6 0) else .error (mkCause 2 n 0)
    | .error .tooShort => .error (mkCause 1 0 0)
    | .ok i => if !header && isControl (opcOf w) && left ≠ 1 then .error (mkCause 1 6 0) else .ok i

/-- The word of some bytes, lowest address first (R24). -/
def wordOf (bs : List Byte) : BitVec 128 := BitVec.ofNat 128 (leNat bs)

/-- Fetches and decodes the word at an address for a launch on a core. -/
def State.fetchAt (s : State) (k : ExecKind) (ck : Nat) (l : Launch) (pc : DWord) (left : Nat) : Except Cause Instr :=
  match s.checkPlain l (s.core ck).tlb .fetch pc.toNat 4 with
  | .error x => .error x
  | .ok p =>
    let n := wordLen ((s.fetchBytes ck p 4).headD 0)
    if 32 < pc.toNat % 32 + n then .error (mkCause 1 0 0)
    else
      match s.checkPlain l (s.core ck).tlb .fetch pc.toNat n with
      | .error x => .error x
      | .ok q => checkedDecode k left (wordOf (s.fetchBytes ck q n))

/-- The sequencer of a core that a selection names. -/
def Core.seq (c : Core) (copy : Bool) : Sequencer := if copy then c.cs else c.ms

/-- Fetches the next word of an executor. -/
def State.fetch (s : State) (x : Exec) : Except Cause Instr :=
  match x with
  | .crew id =>
    match pfind s.crews id with
    | none => .error (mkCause 0 0 0)
    | some c => s.fetchAt .crew c.core (s.launchOf c) c.pc c.left
  | .seq ck cp =>
    let q := (s.core ck).seq cp
    let l := s.launch (s.team ((s.core ck).owner.getD 0)).launch
    s.fetchAt (if cp then .copy else .matrix) ck l q.pc q.left

/-- A sequencer that meets a decode trap stops and reports it to the producer (R40); one whose fetch faults likewise. DEDUCED
(assumption 69): its jobs not yet started and its owed arrivals go on, as R40 names three things that happen and no other. -/
def State.seqFault (s : State) (ck : Nat) (cp : Bool) (x : Cause) : State :=
  let q := (s.core ck).seq cp
  let s1 := s.modSeq ck cp (fun q => { q with st := .faulted })
  let sub := if x.code = 1 then x.sub else 0x80 + x.sub
  let y : Cause :=
    if x.code = 1 ∨ x.code = 2 then ⟨0x12, sub, q.pc, none, 0, if cp then 2 else 1⟩
    else ⟨0x13, x.code, x.info, none, 0, if cp then 2 else 1⟩
  match (s.core ck).owner with
  | some t => s1.imprecise t y
  | none => s1

/-- What an executor does whose fetch or decode raises a trap (R39, R40). -/
def State.fetchTrap (s : State) (x : Exec) (e : Cause) : State :=
  match x with
  | .crew id => (s.raiseTrap id e 0).issued
  | .seq ck cp => (s.seqFault ck cp e).issued

end Sys2Proof.Machine
end

