-- ==== Sys2Proof/Machine/System.lean ====
section
/-! DEFINITION. Traps, sections, rounds, triggers, spawn, special registers and panel time (15 R232-R242, 18 R271, R275),
opcodes 0x0C8 to 0x0D2. -/

namespace Sys2Proof.Machine

/-- `trap` (R232): the resume point is the instruction after. -/
def execTrap (f : Form) (s : State) : Host.Outcome State Fault Refusal :=
  runCrew (.trap f) f s (fun _ _ _ => .trapNext { mkCause 0x0E 0 0 with n := f.number })

/-- `sys` (R232): an absent argument is zero. -/
def execSys (f : Form) (s : State) : Host.Outcome State Fault Refusal :=
  runCrew (.sys f) f s (fun _ _ c =>
    .trapNext { mkCause 0x0F 0 (if f.a = .zero then 0 else c.uni f 2 f.a) with n := f.number })

/-- The system-state trap (R234). -/
def causeSystem (sub : Nat) : Cause := mkCause 0x10 sub 0

/-! ### Return from the handler (R275) -/

/-- Walks over n instruction words from an address: their length comes from their first byte (R24). A word on the way that
may not be fetched, crosses its block or is a header raises its trap there (R39). -/
def State.walkWords (s : State) (ck : Nat) (l : Launch) : Nat → DWord → Except (DWord × Cause) DWord
  | 0, a => .ok a
  | n + 1, a =>
    match s.checkPlain l (s.core ck).tlb .fetch a.toNat 4 with
    | .error x => .error (a, x)
    | .ok p =>
      let b := (s.fetchBytes ck p 4).headD 0
      let size := wordLen b
      if 32 < a.toNat % 32 + size then .error (a, mkCause 1 0 0)
      else if b.toNat % 4 = 3 then .error (a, mkCause 1 2 0)
      else s.walkWords ck l n (a + BitVec.ofNat 64 size)

/-- How the fetch of step 4 of R275 ends. -/
inductive Resume
  /-- the crew at its resume index -/
  | on (c : Crew)
  /-- no clause header, or an index above its count: a double fault -/
  | bad (x : Cause)
  /-- a word of the resumed crew raises its own trap, at the address given -/
  | trap (pc : DWord) (x : Cause)

/-- Steps 4 and 5 of R275 for a reloaded crew: the clause's header, decoded like any header, and the instruction at the
resume index. -/
def State.resumeAt (s : State) (c : Crew) : Resume :=
  let l := s.launchOf c
  match s.targetFault c.core l c.hdr with
  | some x => .bad x
  | none =>
    match s.fetchAt .crew c.core l c.hdr 0 with
    | .error x => .trap c.hdr x
    | .ok (.clauseHeader h) =>
      if h.cnt.toNat < c.idx then .bad (mkCause 1 7 c.hdr)
      else
        match s.walkWords c.core l c.idx (c.hdr + 8) with
        | .error (a, x) => .trap a x
        | .ok a => .on { c with
            pc := a, left := h.cnt.toNat - c.idx, fa := h.fa.toNat, fb := h.fb.toNat, wm := h.wm, stall := .none
            yielded := false }
    | .ok _ => .bad (mkCause 1 7 c.hdr)

/-- Takes the oldest queued cause of the slot in the handler (R275 step 2). -/
def State.nextQueued (s : State) (id : Nat) (c : Crew) (x : Cause) (rest : List Cause) : State :=
  (((s.slotPut c 0x10 (leBytes 8 x.word.toNat)).slotPut c 0x20 (leBytes 8 x.info.toNat)).slotPut c 0xA0 (queueBytes rest)).setCrew
    id ({ c with queued := rest }.enterLive (s.launchOf c).handler)

/-- `eret` (R233, R275). -/
def execEret (f : Form) (s : State) : Host.Outcome State Fault Refusal :=
  runCrew (.eret f) f s (fun s id c =>
    if !c.handler then .trap (causeSystem 0)
    else if c.ops.any (fun o => !o.frozen && !o.done) then .hold
    else
      match s.slotQueue c with
      | x :: rest => .moved (s.nextQueued id c x rest)
      | [] =>
        let s1 := s.flushRun c.core (ctxBase + c.slot) (slotSize c.nreg)
        let c1 := c.reload (s1.homeRead c.isl (ctxBase + c.slot) (slotSize c.nreg))
        match s1.resumeAt c1 with
        | .bad x => .trap x
        | .trap a x => .moved ((s1.setCrew id { c1 with pc := a }).raiseTrap id x 0)
        | .on c2 => .moved (s1.setCrew id c2))

/-! ### Non-preemptible sections (R235) -/

def execNpsBegin (f : Form) (s : State) : Host.Outcome State Fault Refusal :=
  runCrew (.npsBegin f) f s (fun s id c =>
    if c.sect.isSome then .trap (causeSystem 3) else .ok (s.setCrew id { c with sect := some (s.islTime c.isl) }))

def execNpsEnd (f : Form) (s : State) : Host.Outcome State Fault Refusal :=
  runCrew (.npsEnd f) f s (fun s id c =>
    if c.sect.isNone then .trap (causeSystem 4) else .ok (s.setCrew id { c with sect := none }))

/-! ### Rounds and triggers (R237, R238) -/

/-- Named registers that a `round` lists. -/
def roundRegs (n : Nat) (k : DWord) : List Nat := (List.range n).map (fun i => (k.extractLsb' (8 * i) 8).toNat)

/-- The lowest listed register at or above R. -/
def roundBounds (nreg : Nat) (regs : List Nat) : Option Nat :=
  (regs.filter (fun r => decide (nreg ≤ r))).foldl (fun acc r => match acc with
    | some m => some (min m r)
    | none => some r) none

/-- A sequencer of the team is running, or a job of it is outstanding (R234, sub-cause 6). -/
def State.engineBusy (s : State) (ck t : Nat) : Bool :=
  let c := s.core ck
  let runs (q : Sequencer) : Bool := q.st != .idle && q.st != .faulted
  (c.owner == some t && (runs c.ms || runs c.cs)) || c.jobs.any (fun j => j.team == t)

/-- A crew's contribution (R237). -/
def Crew.roundPart (c : Crew) (target : DWord) (regs : List Nat) : RoundPart :=
  ⟨c.num, target, regs.map (fun r => (r, c.vget r)), (List.range 16).map c.kget⟩

/-- `round` (R237): its checks in their order, the wait for earlier accesses, then the contribution. -/
def execRound (f : Form) (s : State) : Host.Outcome State Fault Refusal :=
  runCrew (.round f) f s (fun s id c =>
    let target := directTarget c.pc f
    let regs := roundRegs f.modN (c.uni f 2 f.a)
    if regs.any c.vAwaits || (List.range 16).any c.kAwaits then .trap causePending
    else match s.targetFault c.core (s.launchOf c) target, roundBounds c.nreg regs with
    | some x, _ => .trap x
    | none, some r => .trap (causeBounds r)
    | none, none =>
      if !(s.launchOf c).grd then .trap (causeSystem 5)
      else if s.engineBusy c.core c.team then .trap (causeSystem 6)
      else if c.ops.any (fun o => o.awaited && o.path ≠ .rm && o.path ≠ .none) then .stall
      else
        let s1 := (s.setCrew id { c with inRound := some f.len.bytes }).stallAs id .round
        let s2 := s1.modTeam c.team (fun t => { t with parts := t.parts ++ [c.roundPart target regs], phase := 1 })
        .moved (s2.closeRound c.team))

/-- `trig` (R238): at once where nothing earlier is left, else when it has completed. -/
def execTrig (f : Form) (s : State) : Host.Outcome State Fault Refusal :=
  runCrew (.trig f) f s (fun s id c =>
    if c.trigDone || c.trigWait.isSome then .ok s
    else
      let ids := (c.ops.filter (fun o => o.awaited && o.path ≠ .rm && o.path ≠ .none)).map (·.id)
      .ok ((s.setCrew id { c with trigWait := some ids }).settleTrig id))

/-! ### Spawn (R122, R123, R239) -/

/-- The failure code of a spawn, the lowest that applies (R122). -/
def State.spawnFails (s : State) (c : Crew) : Option DWord :=
  if [0, 1, 2, 3].all (fun q => decide (16 ≤ s.quarterLoad c.core q)) then some 0x8000000000000001
  else if 16 ≤ (s.crewsOf c.team).length then some 0x8000000000000002
  else if s.regLimit c.core < s.regUsed c.core + regUnits c.nreg then some 0x8000000000000003
  else none

/-- The lowest crew number that no live crew of the team holds (R122). -/
def State.freeNum (s : State) (t : Nat) : Nat :=
  ((List.range 16).find? (fun n => !(s.crewsOf t).any (fun e => e.2.num == n && !e.2.exiting))).getD 0

/-- The eight registers that a `spawn` hands on become `v1` to `v8` (R239), through the crossbar (R152). -/
def Crew.handed (c d : Crew) (a : Nat) (p : Perm) : Crew :=
  (List.range 8).foldl (fun d j => d.vset (1 + j) (lanesBy (fun l => laneOf (c.vget (a + j)) (p.lane l)))) d

def execSpawn (f : Form) (s : State) : Host.Outcome State Fault Refusal :=
  runCrew (.spawn f) f s (fun s id c =>
    let target := directTarget c.pc f
    match s.targetFault c.core (s.launchOf c) target with
    | some x => .trap x
    | none =>
      match s.spawnFails c with
      | some e => .ok (s.setCrew id (c.resultUniform f e))
      | none =>
        let n := s.freeNum c.team
        let a := match f.a.src with
          | .v r => r.toNat
          | _ => 0
        let d := c.handed (s.startCrew c.team n target) a f.a.perm
        let s1 := s.setCrew id (c.resultUniform f (BitVec.ofNat 64 n))
        .ok (({ s1 with nextId := s1.nextId + 1 }).dealCrew s1.nextId d))

/-! ### Special registers (R240, R241, R271) -/

/-- The value that `srd` reads of a register other than the trap-state ones; none for an unassigned number. -/
def State.sregVal (s : State) (c : Crew) (n : Nat) : Option DWord :=
  let k := s.core c.core
  match n with
  | 0x00 => some c.fxs
  | 0x01 => some (BitVec.ofNat 64 (s.team c.team).roundNo)
  | 0x02 => some (BitVec.ofNat 64 (s.launchOf c).lcores)
  | 0x03 => some (BitVec.ofNat 64 (pget 0 (s.isl c.isl).steps (coreZone c.core)))
  | 0x04 => some k.spoil
  | 0x10 => some k.acqf
  | 0x11 => some k.acqs
  | 0x12 => some k.surra
  | 0x13 => some k.wbln
  | _ => none

/-- Trap-state registers: views of the slot (R271). -/
def trapReg (n : Nat) : Bool := decide (0x40 ≤ n) && decide (n ≤ 0x46)

/-- Reads a slot word as the crew's own load does (R271). -/
def State.slotLoad (s : State) (c : Crew) (off : Nat) : State × DWord :=
  let (s1, bs) := s.l1Load c.core ⟨ctxBase + c.slot + off, false⟩ 8
  (s1, BitVec.ofNat 64 (leNat bs))

def State.slotStore (s : State) (c : Crew) (off : Nat) (v : DWord) : State :=
  s.l1Store c.core ⟨ctxBase + c.slot + off, false⟩ (leBytes 8 v.toNat)

/-- The value of a trap-state register (R271). -/
def State.trapVal (s : State) (c : Crew) (n : Nat) : State × DWord :=
  match n with
  | 0x40 => s.slotLoad c 0x10
  | 0x41 => s.slotLoad c 0x00
  | 0x42 => let (s1, v) := s.slotLoad c 0x08; (s1, v &&& 0x3F)
  | 0x43 => s.slotLoad c 0x18
  | 0x44 => s.slotLoad c 0x20
  | 0x45 => (s, BitVec.ofNat 64 c.slot)
  | _ => (s, BitVec.ofNat 64 (s.slotQueue c).length)

/-- `srd` (R103, R240). -/
def execSrd (f : Form) (s : State) : Host.Outcome State Fault Refusal :=
  runCrew (.srd f) f s (fun s id c =>
    let n := f.number.toNat
    if trapReg n then
      if !c.handler then .trap (causeSystem 2)
      else
        let (s1, v) := s.trapVal c n
        .ok (s1.modCrew id (fun c => c.resultUniform f v))
    else
      match s.sregVal c n with
      | some v => .ok (s.setCrew id (c.resultUniform f v))
      | none => .trap (causeSystem 1))

/-- `swr` (R103, R240, R271): `fxs`, and in the handler `tpc` and `tidx`. -/
def execSwr (f : Form) (s : State) : Host.Outcome State Fault Refusal :=
  runCrew (.swr f) f s (fun s id c =>
    let n := f.number.toNat
    let v := c.uni f 2 f.a
    if n = 0 then .ok (s.setCrew id { c with fxs := v &&& 0x1F })
    else if trapReg n then
      if !c.handler then .trap (causeSystem 2)
      else if n = 0x41 then .ok (s.slotStore c 0 v)
      else if n = 0x42 then
        let (s1, old) := s.slotLoad c 8
        .ok (s1.slotStore c 8 ((old &&& ~~~0x3F) ||| (v &&& 0x3F)))
      else .trap (causeSystem 2)
    else
      match s.sregVal c n with
      | some _ => .trap (causeSystem 2)
      | none => .trap (causeSystem 1))

/-- `gtime` (R242): the time is taken at the issue, and never below the crew's last one. -/
def execGtime (f : Form) (s : State) : Host.Outcome State Fault Refusal :=
  runCrew (.gtime f) f s (fun s id c =>
    if s.issueWaits c .ld false then .stall
    else
      let t := BitVec.ofNat 64 (max (s.islTime c.isl).toNat c.lastTime.toNat)
      .ok ((s.setCrew id { c with lastTime := t }).lateUniform id c f .ld false false t))

end Sys2Proof.Machine
end

