-- ==== Sys2Proof/Machine/Happenings.lean ====
section
/-! DEFINITION. What happens in a core, in the dispatcher and in the fabric between issues: completions, swaps, engine jobs,
trap entry and delivery, placement, pre-emption, packets (02 R30, 10 R157-R159, 11, 14, 15 R236, 18, 26). -/

namespace Sys2Proof.Machine

/-! ### Operations and contexts -/

/-- OPERATION_COMPLETES (R30, R65). -/
def execOperationCompletes (crew op : Nat) (s : State) : Host.Outcome State Fault Refusal :=
  .next ((s.completeOp crew op).tryFree crew)

/-- PRODUCER_CONTEXT_FREED (R214). -/
def execProducerContextFreed (crew : Nat) (s : State) : Host.Outcome State Fault Refusal := .next (s.tryFree crew)

/-! ### Swaps (R157-R159) -/

/-- Crews of a quarter. -/
def State.quarterCrews (s : State) (ck q : Nat) : PMap Crew := (s.crewsOn ck).filter (fun e => e.2.quarter == q)

/-- The crew with the lowest key, if any. -/
def lowestBy (key : Crew → Nat × Nat) : PMap Crew → Option (Nat × Crew)
  | [] => none
  | e :: r =>
    match lowestBy key r with
    | none => some e
    | some b =>
      let (x, y) := key e.2
      let (u, v) := key b.2
      if x < u ∨ (x = u ∧ y ≤ v) then some e else some b

/-- A pending crew that could issue once it is back (R155): only a long-latency stall blocks it. -/
def Crew.waits (c : Crew) : Bool := c.place = .pending && c.stall ≠ .long && c.stall ≠ .round

/-- The pending crew that has waited longest, of those that could issue (R158). -/
def State.waitingCrew (s : State) (ck q : Nat) : Option Nat :=
  (lowestBy (fun c => (c.wstamp, 0)) ((s.quarterCrews ck q).filter (fun e => e.2.waits))).map (·.1)

/-- The crew that a swap of R158 moves out: the one that yielded, else the one stalled longest. -/
def State.leavingCrew (s : State) (ck q : Nat) : Option Nat :=
  let act := (s.quarterCrews ck q).filter (fun e => e.2.place = .active)
  match act.find? (fun e => e.2.yielded) with
  | some e => some e.1
  | none => (lowestBy (fun c => (c.wstamp, c.stamp)) (act.filter (fun e => e.2.stalled))).map (·.1)

/-- A `yield` of the quarter has had its clock (R157, R162). -/
def State.yieldOver (s : State) (ck q : Nat) : State :=
  { s with crews := peach s.crews (fun _ c => if c.core = ck && c.quarter = q then { c with yielded := false } else c) }

/-- Starts a swap of a quarter. -/
def State.swap (s : State) (ck q : Nat) (out into : Option Nat) : State :=
  let move (s : State) (x : Option Nat) (p : Place) : State := match x with
    | some id => s.modCrew id (fun c => { c with place := p })
    | none => s
  ((move (move s out .movingOut) into .movingIn).yieldOver ck q).modCore ck (fun c =>
    { c with swaps := pput c.swaps q (out, into), swapAge := pset 0 c.swapAge q 0 })

def State.portFree (s : State) (ck q : Nat) : Bool := (pfind (s.core ck).swaps q).isNone

/-- The swap of R158, where one starts. -/
def State.startSwap (s : State) (ck q : Nat) : State :=
  if !s.portFree ck q then s
  else
    match s.waitingCrew ck q with
    | none => s
    | some id =>
      if s.activeCount ck q < 8 then s.swap ck q none (some id)
      else
        match s.leavingCrew ck q with
        | none => s
        | some out => s.swap ck q (some out) (some id)

/-- SWAP_START (R158). -/
def execSwapStart (core quarter : Nat) (s : State) : Host.Outcome State Fault Refusal := .next (s.startSwap core quarter)

/-- A crew enters the active set as the youngest (R157). -/
def State.enterActive (s : State) (id : Nat) : State :=
  match pfind s.crews id with
  | none => s
  | some c =>
    if c.place = .left then s
    else
      let (s1, n) := s.nextStamp c.core c.quarter
      s1.setCrew id { c with place := .active, stamp := n, entered := n, run := 0, stall := .none }

/-- A crew enters the pending set. -/
def State.enterPending (s : State) (id : Nat) : State :=
  match pfind s.crews id with
  | none => s
  | some c =>
    if c.place = .left then s
    else
      let (s1, n) := s.nextStamp c.core c.quarter
      s1.setCrew id { c with place := .pending, wstamp := n, run := 0, yielded := false, waited := 0
                             stall := if c.stall = .hold then .none else c.stall }

/-- The swap of a quarter ends (R157). -/
def State.endSwap (s : State) (ck q : Nat) : State :=
  match pfind (s.core ck).swaps q with
  | none => s
  | some (out, into) =>
    let s1 := s.modCore ck (fun c => { c with swaps := pdel c.swaps q })
    let s2 := match into with
      | some id => s1.enterActive id
      | none => s1
    match out with
    | some id => s2.enterPending id
    | none => s2

/-- SWAP_ENDS (R157). -/
def execSwapEnds (core quarter : Nat) (s : State) : Host.Outcome State Fault Refusal := .next (s.endSwap core quarter)

/-- The crew that became waiting first (R159): the one that its quarter has left waiting for most issues. -/
def State.latestCrew (s : State) (ck q : Nat) : Option (Nat × Crew) :=
  let ws := (s.quarterCrews ck q).filter (fun e => e.2.waits)
  let most := ws.foldl (fun n e => max n e.2.waited) 0
  lowestBy (fun c => (c.wstamp, 0)) (ws.filter (fun e => e.2.waited == most))

/-- The displacing swap of R159: the active crew that entered first goes out. -/
def State.displace (s : State) (ck q : Nat) : State :=
  if !s.portFree ck q || s.activeCount ck q < 8 then s
  else
    match s.latestCrew ck q, lowestBy (fun c => (c.entered, 0)) ((s.quarterCrews ck q).filter (fun e => e.2.place = .active)) with
    | some late, some out => s.swap ck q (some out.1) (some late.1)
    | _, _ => s

/-- DISPLACEMENT (R159): that the crew has waited 1024 clocks is the event's own condition. -/
def execDisplacement (core quarter : Nat) (s : State) : Host.Outcome State Fault Refusal := .next (s.displace core quarter)

/-! ### Sequencers and jobs (R166, R168, R180, R184, R212, R218) -/

/-- A sequencer that may fetch: it is fetching, gated or held, its team's withdrawn jobs have all been issued again (R278), and its
team has not been stopped. -/
def State.seqFetches (s : State) (ck : Nat) (cp : Bool) : Bool :=
  let q := (s.core ck).seq cp
  (s.core ck).owner.isSome && ((s.core ck).jobs.drop 16).all (fun j => j.team != s.seqTeam ck) && (q.st = .running || q.st = .gated || q.st = .held) && !s.stopping (s.seqTeam ck) && !s.dark ck

/-- SEQUENCER_FETCH (R166): the sequencer's next word is the next one executed. -/
def execSequencerFetch (core : Nat) (copy : Bool) (s : State) : Host.Outcome State Fault Refusal :=
  .next (if s.seqFetches core copy then { s with cur := some (.seq core copy) } else s)

/-- SEQ_END_COMPLETES (R168, R216). -/
def execSeqEndCompletes (core : Nat) (copy : Bool) (s : State) : Host.Outcome State Fault Refusal :=
  .next (if s.endDone core copy then s.modSeq core copy (fun q => { q with st := .idle }) else s)

def State.findJob (s : State) (ck id : Nat) : Option Job := (s.core ck).jobs.find? (fun j => j.id == id)

/-- JOB_START (R218): a job of a stopped team does not start (R277, R380). -/
def execJobStart (core job : Nat) (s : State) : Host.Outcome State Fault Refusal :=
  .next (match s.findJob core job with
    | some j => if !j.started && s.jobReady core j && !s.stopping j.team && !s.dark core then s.startJob core j else s
    | none => s)

/-- JOB_COMPLETION (R180): every byte is performed, every beat delivered. -/
def execJobCompletion (core job : Nat) (s : State) : Host.Outcome State Fault Refusal :=
  .next (match s.findJob core job with
    | some j => if j.started && j.beats.isEmpty && !s.jobHeld core job then s.finishJob core j else s
    | none => s)

/-- Place, among all the beats of a job, of the n-th for a window. -/
def beatIndex (w : Nat) : Nat → Nat → List (Nat × Nat × List Byte) → Option Nat
  | _, _, [] => none
  | n, k, b :: bs => if b.1 = w then (match n with
      | 0 => some k
      | m + 1 => beatIndex w m (k + 1) bs) else beatIndex w n (k + 1) bs

/-- CPYM_BEAT (R212): one of the beats that a window has still to get. -/
def execCpymBeat (core job window beat : Nat) (s : State) : Host.Outcome State Fault Refusal :=
  .next (match s.findJob core job with
    | some j =>
      match beatIndex window beat 0 j.beats with
      | some k => s.beat core j k
      | none => s
    | none => s)

/-- ARRIVAL_APPLIED (R183, R184). -/
def execArrivalApplied (arrival : Nat) (s : State) : Host.Outcome State Fault Refusal := .next (s.applyArrival arrival)

/-! ### Teams, gangs and launches -/

/-- TEAM_END (R215). -/
def execTeamEnd (team : Nat) (s : State) : Host.Outcome State Fault Refusal := .next (s.endTeam team)

/-- GANG_PLACEMENT (R111). -/
def execGangPlacement (launch gang : Nat) (cores : List Nat) (s : State) : Host.Outcome State Fault Refusal :=
  .next (s.placeGang launch gang cores)

/-- LAUNCH_COMPLETION (R378): also the end of a launch that was stopped (R380). -/
def execLaunchCompletion (launch : Nat) (s : State) : Host.Outcome State Fault Refusal :=
  .next ((s.completeLaunch launch).finishStop launch)

/-- PREEMPTION (R277). -/
def execPreemption (launch gang : Nat) (s : State) : Host.Outcome State Fault Refusal := .next (s.preempt launch gang)

/-- RESUMPTION (R278). -/
def execResumption (launch gang : Nat) (cores : List Nat) (s : State) : Host.Outcome State Fault Refusal :=
  .next (s.resumeGang launch gang cores)

/-! ### Traps between issues (R236, R272, R274) -/

/-- A crew in a `round` that its buddy has committed: it goes on behind it first (R327, assumption 68). -/
def State.roundHolds (s : State) (c : Crew) : Bool := c.inRound.isSome && (s.team c.team).phase == 3

/-- The section of a crew has been open for 100 µs (R236): at just 100 µs an `nps.end` that comes next goes first. -/
def State.overrun (s : State) (id : Nat) (c : Crew) : Bool :=
  match c.sect with
  | some t =>
    let now := (s.islTime c.isl).toNat
    decide (t.toNat + 100000 < now) || (now == t.toNat + 100000 && (match s.fetch (.crew id) with
      | .ok (.npsEnd _) => c.clauseWaits || c.place ≠ .active || c.trap.isSome
      | _ => true))
  | none => false

/-- The section that a trap slot shows open is closed (R236, R270). -/
def State.closeSlot (s : State) (c : Crew) : State :=
  s.slotClear c 8 9

/-- SECTION_OVERRUN (R236, R274): queued in the handler, else taken at the issue boundary; the section closes. -/
def State.takeOverrun (s : State) (id : Nat) : State :=
  match pfind s.crews id with
  | none => s
  | some c =>
    if !s.overrun id c || s.roundHolds c || s.stopping c.team then s
    else
      let x := mkCause 0x11 0 (s.islTime c.isl)
      let s1 := (s.quitRound id c).modCrew id (fun c => { c with sect := none })
      if c.handler then (s1.closeSlot c).deliver id x
      else if c.trap.isSome then s1.deliver id x
      else s1.raiseTrap id x 0

def execSectionOverrun (crew : Nat) (s : State) : Host.Outcome State Fault Refusal := .next (s.takeOverrun crew)

/-- TRAP_ENTRY (R272): the operations that the entry waits for have completed. -/
def State.trapEntry (s : State) (id : Nat) : State :=
  match pfind s.crews id with
  | none => s
  | some c =>
    match c.trap with
    | none => s
    | some x => if c.undrained then s else s.enterTrap id x 0

def execTrapEntry (crew : Nat) (s : State) : Host.Outcome State Fault Refusal := .next (s.trapEntry crew)

/-- IMPRECISE_DELIVERY (R274): the producer takes its oldest queued cause before its next issue. -/
def State.takeImprecise (s : State) (t : Nat) : State :=
  match s.producer t with
  | none => s
  | some id =>
    match pfind s.crews id with
    | none => s
    | some c =>
      match c.queued with
      | [] => s
      | x :: rest =>
        if c.handler || c.trap.isSome || s.roundHolds c || s.stopping t then s
        else ((s.quitRound id c).modCrew id (fun c => { c with queued := rest })).raiseTrap id x 0

def execImpreciseDelivery (team : Nat) (s : State) : Host.Outcome State Fault Refusal := .next (s.takeImprecise team)

/-! ### The fabric (R339, R349, R366) -/

/-- The port by which a packet leaves its island: a fibre port per plane, or an optical one; none within the island. -/
def Packet.port (p : Packet) : Option Nat := if 2 ^ 32 ≤ p.route then some (p.route - 2 ^ 32 + 8) else (routeHops p.route).head?

/-- A packet of a function with weight 0 gets no beat of its port while one of a function with a weight waits for it (R403;
the shares of the other weights are timing, assumption 79); one behind it in the order of their pair does not count, for weights
never reorder a pair's packets. -/
def State.portYields (s : State) (k : Nat) : Bool :=
  match pfind s.packets k with
  | none => false
  | some p => s.weight p.fn == 0 && p.port.isSome && s.packets.any (fun e =>
      e.2.st = .flying && e.2.src == p.src && e.2.port == p.port && decide (1 ≤ s.weight e.2.fn)
      && !(p.ordered && e.2.ordered && e.2.dst == p.dst && decide (p.seq < e.2.seq)))

/-- PACKET_ARRIVAL (R366, R367). -/
def execPacketArrival (a : Arrival) (s : State) : Host.Outcome State Fault Refusal :=
  .next (match a with
    | .here packet => if s.portYields packet then s else s.packetArrives packet
    | .atom packet at8 => if s.portYields packet then s else s.atomArrives packet at8
    | .far packet value bytes refusal => if s.portYields packet then s else s.farAnswers packet value bytes refusal
    | .sent panel isl target fn ordered what => s.sendIn panel isl target fn ordered what)

/-- ACKNOWLEDGEMENT (R339, R342, R344). -/
def execAcknowledgement (packet : Nat) (s : State) : Host.Outcome State Fault Refusal := .next (s.ackArrives packet)

/-- COLLECTIVE_COMBINE (R349-R351). -/
def execCollectiveCombine (x : Combining) (s : State) : Host.Outcome State Fault Refusal :=
  .next (match x with
    | .step coll first second => s.collCombine coll first second
    | .joins panel isl fn card bytes => s.collFar panel isl fn card bytes)

end Sys2Proof.Machine
end

