-- ==== Sys2Proof/Machine/Zones.lean ====
section
/-! DEFINITION. Loss of a supply zone, re-mirroring and guarded restarts (23 R321-R330, 22 R317), the death of an island
(26 R414), and the steps REGULATOR_FAILURE, ZONE_LOSS, ROUND_COMMIT, RE_MIRROR, GUARDED_RESTART, LINK_DECLARED_DEAD,
ISLAND_DECLARED_DEAD and PLANE_DEAD. -/

namespace Sys2Proof.Machine

/-! ### Isolation (R321) -/

/-- A core of a zone. -/
def inZone (i z ck : Nat) : Bool := coreIsl ck == i && coreZone ck == z

/-- A core loses its power: its lines and jobs are gone (R321). -/
def Core.darken (c : Core) : Core :=
  { c with lines := [], jobs := [], owed := [], ms := .idle, cs := .idle, acc := [], active := .zero, shadow := .zero, tlb := [] }

/-- A collective without the contributions of some operations that no combining stage had accepted (R321): their members have not
entered it. -/
def Coll.without (c : Coll) (rops : List Nat) : Coll :=
  let lost := c.members.filter (fun m => rops.contains m.rop && !m.taken && !m.final)
  { c with members := c.members.filter (fun m => !lost.contains m), parts := c.parts.filter (fun e => !lost.any (fun m => m.isl == e.1)) }

/-- Nothing of the zone's cores is performed any more (R321): crews, jobs, packets, contributions, arrivals and held writes go, and
the zone's record store with them. What their packets held back at the sender leaves (R365). -/
def State.isolate (s : State) (i z : Nat) : State :=
  let gone := (s.crews.filter (fun e => inZone i z e.2.core)).map (·.1)
  let rops := (s.rops.filter (fun e => gone.contains e.2.crew)).map (·.1)
  let pairs := ((s.packets.filter (fun e => rops.contains e.2.rop)).map (fun e => e.2.pair)).eraseDups
  let s0 := { s with
    crews := s.crews.filter (fun e => !inZone i z e.2.core)
    cores := peach s.cores (fun ck c => if inZone i z ck then c.darken else c)
    rops := s.rops.filter (fun e => !rops.contains e.1)
    packets := s.packets.filter (fun e => !rops.contains e.2.rop)
    colls := peach s.colls (fun _ c => if c.broken then c else c.without rops)
    arrivals := s.arrivals.filter (fun e => !inZone i z e.2.2.2.2) }
  let s1 := pairs.foldl (fun s x => s.release x.1 x.2) s0
  s1.modIsl i (fun x => { x with
    isolated := x.isolated ||| BitVec.ofNat 4 (2 ^ z)
    lostAt := pput x.lostAt z s.time
    stores := x.stores.filter (fun e => e.zone != z)
    convs := x.convs.map (fun v => { v with
      held := v.held.filter (fun h => if h.job then !inZone i z h.owner else !gone.contains h.owner) }) })

/-! ### The death of an island (R372, R414) -/

/-- Launches of a dead island end in one step (R414): placed or pre-empted ones with code 0x24, others with code 0x07; one whose
last gang has retired is completed (R376, R381). -/
def State.endIslandLaunches (s : State) (i : Nat) : State :=
  let ns := (s.launches.filter (fun e => e.2.isl == i && (decide (e.2.st < 2) || e.2.finalDue))).map (·.1)
  ns.foldl (fun s n =>
    let l := s.launch n
    if l.st = 1 && l.finalDue then s.completeLaunch n
    else
    let s1 := (s.dropLease n).modLaunch n (fun l =>
      { l with gangs := peach l.gangs (fun _ g => { g with st := .dropped, teams := [], crews := [], restart := [] }) })
    if 2 ≤ l.st then (if l.allRetired then s1.launchCount n else s1).launchFinal n l.st l.code l.aux
    else s1.launchFinal n 4 (if l.st = 1 then 0x24 else 7) 0) s

/-- An island is declared dead (R372, R373, R414): nothing of it is performed any more. -/
def State.islandDead (s : State) (i : Nat) : State :=
  if s.islands ≤ i || (s.isl i).dead then s
  else
    let s1 := s.islandCut i
    let gone := (s1.crews.filter (fun e => e.2.isl == i)).map (·.1)
    let rops := (s1.rops.filter (fun e => gone.contains e.2.crew)).map (·.1)
    let s2 := { s1 with
      crews := s1.crews.filter (fun e => e.2.isl != i), teams := s1.teams.filter (fun e => e.2.isl != i)
      rops := s1.rops.filter (fun e => !rops.contains e.1), packets := s1.packets.filter (fun e => !rops.contains e.2.rop)
      cores := peach s1.cores (fun ck c => if coreIsl ck = i then { c.darken with owner := none } else c)
      arrivals := s1.arrivals.filter (fun e => coreIsl e.2.2.2.2 != i) }
    (({ s2 with leases := s2.leases.filter (fun e => e.2.isl != i || e.2.launch.isSome || e.2.window) }).modIsl i (fun x =>
      { x with convs := [] })).endIslandLaunches i |>.collsCut s ((List.range 8).map (fun p => (i, p)))

/-- REGULATOR_FAILURE (R16, R321): groups 0 to 3 are the zones; 4 is a half of the common group, and both halves lost make
the island dead. -/
def execRegulatorFailure (isl group : Nat) (s : State) : Host.Outcome State Fault Refusal :=
  .next (
    if s.islands ≤ isl || (s.isl isl).dead then s
    else if group < 4 then (if (s.isl isl).isolated.getLsbD group then s else s.isolate isl group)
    else if group = 4 then
      let n := (s.isl isl).commonLost + 1
      let s1 := s.modIsl isl (fun x => { x with commonLost := n })
      if n = 2 then s1.islandDead isl else s1
    else s)

/-- ISLAND_DECLARED_DEAD (R414). -/
def execIslandDeclaredDead (isl : Nat) (s : State) : Host.Outcome State Fault Refusal := .next (s.islandDead isl)

/-- Islands whose on-panel links have all failed (R372): those that had links and have none left. -/
def State.cutIslands (s : State) (was : State) : List Nat :=
  (List.range s.islands).filter (fun i =>
    !(s.isl i).dead && (List.range 8).any (fun p => was.portLive i p) && !(List.range 8).any (fun p => s.portLive i p))

/-- LINK_DECLARED_DEAD (R372, R373). -/
def execLinkDeclaredDead (isl port : Nat) (s : State) : Host.Outcome State Fault Refusal :=
  .next (
    if s.portLive isl port && decide (port < 8) then
      let s1 := (s.linkDead isl port).collsCut s [(isl, port)]
      (s1.cutIslands s).foldl (fun s i => s.islandDead i) s1
    else s)

/-- PLANE_DEAD (R396): on a panel of a domain of one, the fibre ports are dark and no pair is hit (R394). -/
def execPlaneDead (plane panelA islA panelB islB : Nat) (s : State) : Host.Outcome State Fault Refusal :=
  .next (
    let num (p i : Nat) : Nat := if p = s.panelNum then i else farIsland p i
    if plane < 4 then (s.planeCut plane panelA islA panelB islB).collsPlane (num panelA islA) (num panelB islB) else s)

/-! ### The ring of buddies (R317, R329) -/

def zoneIs (w : DWord) (z : Nat) : Bool := !zoneLost w z

/-- The next live zone after one, in the order of the ring; the zone itself comes last. -/
def nextLive (w : DWord) (k : Nat) : Nat :=
  match [1, 2, 3, 4].find? (fun d => zoneIs w ((k + d) % 4)) with
  | some d => (k + d) % 4
  | none => k

/-- A buddy's field, rewritten. -/
def setBuddy (w : DWord) (z b : Nat) : DWord :=
  (w &&& ~~~(BitVec.ofNat 64 (3 * 2 ^ (8 + 2 * z)))) ||| BitVec.ofNat 64 (b * 2 ^ (8 + 2 * z))

/-- The zone status word after the loss of zone k (R321, R329). -/
def lossWord (w : DWord) (k : Nat) : DWord :=
  let w1 := (w ||| BitVec.ofNat 64 (2 ^ k)) + BitVec.ofNat 64 (2 ^ 32)
  [0, 1, 2, 3].foldl (fun x i =>
    if !zoneLost w1 i && buddyOf w i == k then setBuddy x i (nextLive w1 k) ||| BitVec.ofNat 64 (2 ^ (4 + i)) else x) w1

/-! ### What a loss does to work (R323, R328, R330) -/

/-- The record a lost team restarts from: none where it is unrecoverable (R328, R330). -/
def State.restartFrom (s : State) (t : Team) : Option Record :=
  match (s.isl t.isl).survivor t.launch t.num with
  | some r => some r
  | none => if t.roundNo = 0 && t.phase ≠ 3 then some .start else none

/-- A guarded gang of the lost zone waits for its restart, or its launch fails with code 0x23. -/
def State.loseTeam (s : State) (id : Nat) (t : Team) : State :=
  let s1 := { s with teams := pdel s.teams id }
  match s.restartFrom t with
  | none => s1.stopLaunch t.launch 4 0x23
  | some r =>
    let x := s1.gang t.launch t.gang
    s1.setGang t.launch t.gang { x with st := .waiting, want := 0, restart := x.restart ++ [(id, t.num, r)] }

/-- A team of the lost zone (R323): its launch is cancelled with code 0x21 and the time of the loss, or the team waits for its
restart. -/
def State.loseOne (s : State) (e : Nat × Team) : State :=
  let l := s.launch e.2.launch
  if l.grd && decide (l.st < 2) then s.loseTeam e.1 e.2
  else
    let s1 := ({ s with teams := pdel s.teams e.1 }).stopLaunch e.2.launch 3 0x21
    if l.st = 1 && !l.finalDue then
      s1.modLaunch e.2.launch (fun l => { l with endAt := pfind (s.isl e.2.isl).lostAt (coreZone e.2.core) })
    else s1

/-- A team that waits for its restart has lost its last record with the zone that held it (R330): its launch fails. -/
def State.failRestarts (s : State) (i : Nat) : State :=
  let bad (n : Nat) (l : Launch) : Bool := l.isl == i && l.gangs.any (fun g => g.2.restart.any (fun r =>
    r.2.2.no != 0 && ((s.isl i).survivor n r.2.1).isNone))
  ((s.launches.filter (fun e => bad e.1 e.2)).map (·.1)).foldl (fun s n => s.stopLaunch n 4 0x23) s

/-- ZONE_LOSS (R321, R323): status word, live count, work. -/
def State.loseZone (s : State) (i z : Nat) : State :=
  let x := s.isl i
  if !x.isolated.getLsbD z || zoneLost x.zone z || x.dead then s
  else
    let cks := (islCores i).filter (fun ck => inZone i z ck)
    let n := (cks.filter (fun ck => (s.core ck).counted)).length
    let s1 := cks.foldl (fun s ck => s.modCore ck (fun c => { c with service := .lost, owner := none, counted := false, due := none })) s
    let s2 := s1.modIsl i (fun y => { y with zone := lossWord y.zone z, live := y.live - n })
    let s3 := { s2 with teams := peach s2.teams (fun _ t =>
      if t.isl = i && t.phase = 3 && buddyOf x.zone (coreZone t.core) = z then { t with phase := 2 } else t) }
    ((s3.teams.filter (fun e => inZone i z e.2.core)).foldl (fun s e => s.loseOne e) s3).failRestarts i

def execZoneLoss (isl zone : Nat) (s : State) : Host.Outcome State Fault Refusal := .next (s.loseZone isl zone)

/-- ROUND_COMMIT (R327). -/
def execRoundCommit (team : Nat) (s : State) : Host.Outcome State Fault Refusal := .next (s.roundStep team)

/-- RE_MIRROR (R329): the committed primaries of a zone go to its new buddy, and rmir clears. -/
def State.reMirror (s : State) (i z : Nat) : State :=
  let x := s.isl i
  let b := buddyOf x.zone z
  if !zoneRmir x.zone z || zoneLost x.zone z || x.isolatedZone z || (b ≠ z && x.isolatedZone b) then s
  else
    let mine := x.stores.filter (fun e => e.zone == z && !e.copy && e.committed)
    s.modIsl i (fun y =>
      let y1 := if b = z then y else mine.foldl (fun y e => y.putStored { e with zone := b, copy := true }) y
      { y1 with zone := y1.zone &&& ~~~(BitVec.ofNat 64 (2 ^ (4 + z))) })

def execReMirror (isl zone : Nat) (s : State) : Host.Outcome State Fault Refusal := .next (s.reMirror isl zone)

/-! ### Guarded restarts (R328) -/

/-- The gang that waits for the restart of a former team. -/
def State.restartGang (s : State) (id : Nat) : Option (Nat × Nat) :=
  s.launches.findSome? (fun e => e.2.gangs.findSome? (fun g =>
    if g.2.restart.any (fun r => r.1 == id) then some (e.1, g.1) else none))

/-- A crew of a restarted team: the start state but for the restart target, the saved registers and `k0`-`k15` (R237). -/
def State.partCrew (s : State) (t : Nat) (p : RoundPart) : Crew :=
  let c := s.startCrew t p.num p.target
  let c1 := (p.ks.zip (List.range 16)).foldl (fun c (x, n) => c.kset n x) c
  p.regs.foldl (fun c (r, x) => c.vset r x) c1

def State.addParts (s : State) (t : Nat) : List RoundPart → State
  | [] => s
  | p :: ps => (({ s with nextId := s.nextId + 1 }).dealCrew s.nextId (s.partCrew t p)).addParts t ps

/-- A restarted team on a core (R328 steps 2 and 3). -/
def State.restartTeam (s : State) (n g : Nat) (num : Nat) (r : Record) (ck : Nat) : State :=
  let l := s.launch n
  let (s1, tag) := s.takeTag ck l.slab
  let id := s1.nextId
  let z := coreZone ck
  let t : Team := { blankTeam with
    isl := l.isl, core := ck, launch := n, num := num, gang := g, tw := num % (l.gsz + 1), slab := l.slab, tag := tag
    tn := s1.loadHandles l, prod := l.prod, roundNo := r.no, bars := r.bars }
  let s2 := (({ s1 with nextId := id + 1 }).setTeam id t).raiseGen ck 3
  let s3 := s2.modIsl l.isl (fun x => x.moveStored n num z r)
  let s4 := s3.modLaunch n (fun l => { l with cores := if l.cores.contains ck then l.cores else l.cores ++ [ck] })
  if r.parts.isEmpty then s4.addCrews id l.entry l.ncrew 0 else s4.addParts id r.parts

/-- GUARDED_RESTART (R328): the gang is placed whole on a bench of a live zone. -/
def State.restart (s : State) (id : Nat) (cores : List Nat) : State :=
  match s.restartGang id with
  | none => s
  | some (n, g) =>
    let l := s.launch n
    let rs := (s.gang n g).restart
    let z := coreZone (cores.headD 0)
    let x := s.isl l.isl
    let held (num : Nat) (r : Record) : Bool := r.no = 0 || (x.survivor n num).isSome
    if l.st = 1 && l.gangTurn g && !x.isolatedZone z && !x.isolatedZone (buddyOf x.zone z) && rs.all (fun r => held r.2.1 r.2.2)
        && cores.length = rs.length && oneBench l.isl cores
        && s.storeRoom l.isl z n (rs.map (fun r => (r.2.1, l.partsOf r.2.2)))
        && (rs.zip cores).all (fun (r, ck) => s.passes ck (l.partsOf r.2.2) l.nreg l.slab false) then
      let s1 := (rs.zip cores).foldl (fun s (r, ck) => s.restartTeam n g r.2.1 r.2.2 ck) s
      s1.setGang n g { s1.gang n g with st := .placed, restart := [] }
    else s

def execGuardedRestart (team : Nat) (cores : List Nat) (s : State) : Host.Outcome State Fault Refusal :=
  .next (s.restart team cores)

end Sys2Proof.Machine
end

