-- ==== Sys2Proof/Machine/Leases.lean ====
section
/-! DEFINITION. Staging, leases, panel time, migrations and tile conversions (21 R299-R301, R307-R313): the steps STAGING to
TILE_CONVERSION. -/

namespace Sys2Proof.Machine

/-- STAGING (R307). -/
def execStaging (launch : Nat) (s : State) : Host.Outcome State Fault Refusal := .next (s.stage launch)

/-- HOLD_MET (R382). -/
def execHoldMet (launch : Nat) (s : State) : Host.Outcome State Fault Refusal := .next (s.passHold launch)

/-- DEPENDENCE_MET (R383). -/
def execDependenceMet (launch : Nat) (s : State) : Host.Outcome State Fault Refusal := .next (s.meetDeps launch)

/-! ### Leases (R309-R311) -/

/-- Teams of a launch with a stalled crew receive the lease-lost trap at once (R311). -/
def State.loseStalled (s : State) (n : Nat) : State :=
  let ts := ((s.crews.filter (fun e => (s.team e.2.team).launch == n && e.2.stall ≠ .none)).map (fun e => e.2.team)).eraseDups
  ts.foldl (fun s t => s.teamFatal t (lowWord (Cause.word (mkCause 9 0 0)))) s

/-- A lease is voided (R309, R311, R301): stalled crews trap, a conversion under it stops at once, its tile in progress
MOVING in the map for good. -/
def State.voidLease (s : State) (k : Nat) : State :=
  match pfind s.leases k with
  | none => s
  | some l =>
    if l.void then s
    else
      let s1 := { s with leases := pput s.leases k { l with void := true } }
      let s2 := ((s1.isl l.isl).convs.filter (fun v => v.lease == k && !v.complete)).foldl (fun s v => s.endConv l.isl v) s1
      match l.launch with
      | some n => s2.loseStalled n
      | none => s2

/-- A holder whose own clock has passed the expiry has voided its lease (R309). -/
def State.lapsed (s : State) (l : Lease) : Bool := decide (l.expiry < (s.islTime l.isl).toNat)

/-- The holders void the leases that have lapsed (R309). -/
def State.voidLapsed (s : State) : State :=
  ((s.leases.filter (fun e => s.lapsed e.2)).map (·.1)).foldl (fun s k => s.voidLease k) s

/-- LEASE_RENEWAL (R309, R313): refused, and the lease void, once the table's clock has passed expiry + 2 µs; a holder whose own
clock has passed the expiry asks for none and has voided it. -/
def execLeaseRenewal (lease : Nat) (s : State) : Host.Outcome State Fault Refusal :=
  .next (match pfind s.leases lease with
    | none => s
    | some l =>
      if l.void then s
      else if s.lapsed l || decide (l.expiry + 2000 < s.time.toNat) then s.voidLease lease
      else { s with leases := pput s.leases lease { l with expiry := s.time.toNat + 2000000 } })

/-- LEASE_VOID (R309): the holder's own clock has passed the expiry. -/
def execLeaseVoid (lease : Nat) (s : State) : Host.Outcome State Fault Refusal :=
  .next (match pfind s.leases lease with
    | none => s
    | some l => if s.lapsed l then s.voidLease lease else s)

/-- An island's offset from the edge die (R310): beyond 1 µs its leases are voided and its clock is set. Its counter does not
run backwards: `least` is the offset at which it has not moved. -/
def State.setOffset (s : State) (i : Nat) (d least : Int) : State :=
  if d.natAbs ≤ 1000 then s.modIsl i (fun x => { x with offset := max d least })
  else
    let ks := (s.leases.filter (fun e => e.2.isl == i)).map (·.1)
    (ks.foldl (fun s k => s.voidLease k) s).modIsl i (fun x => { x with offset := 0 })

/-- TIME_BROADCAST (R310): time has passed on the edge die, islands measure their offsets, and the leases that lapse are void (R309). -/
def execTimeBroadcast (elapsed : Nat) (offsets : List (Nat × Int)) (s : State) : Host.Outcome State Fault Refusal :=
  .next (offsets.foldl (fun (t : State) (i, d) => t.setOffset i d (((s.islTime i).toNat : Int) - (t.time.toNat : Int)))
    { s with time := s.time + BitVec.ofNat 64 elapsed }).voidLapsed

/-! ### Migrations (R304, R312) -/

/-- The request that names a lease and a unit. -/
def State.findMigration (s : State) (lease unit : Nat) : Option Migration :=
  s.migrating.find? (fun m => m.lease == lease && m.unit == unit)

/-- MIGRATION_REQUEST (R312): it waits at the lease table. -/
def execMigrationRequest (lease unit : Nat) (s : State) : Host.Outcome State Fault Refusal :=
  .next (match pfind s.leases lease with
    | some l => if (s.findMigration lease unit).isSome then s else { s with migrating := s.migrating ++ [⟨lease, unit, l.isl, l.asid⟩] }
    | none => s)

/-- A valid lease covers a 64 KiB unit of what a migration takes with it: the whole page of its unit, which is moved or unmapped
as one (R304, R309, R312); without a page the unit alone. -/
def State.leaseHolds (s : State) (l : Lease) (m : Migration) : Bool :=
  l.isl == m.isl && l.asid == m.asid && !l.void
    && ((s.pageOf m.isl m.asid m.unit).getD ⟨m.unit * 2 ^ 16, 16, 0, 0⟩).touched l.units

/-- A waiting migration may proceed (R304, R312): every valid lease on a unit of its page has been expired for more than 2 µs on
the edge die's clock. -/
def State.mayMove (s : State) (m : Migration) : Bool :=
  s.leases.all (fun e => !s.leaseHolds e.2 m || decide (e.2.expiry + 2000 < s.time.toNat))

/-- A page that can be moved as a whole to the other memory: from HBM4E into the LPDDR6 tier, else into HBM4E (R303, R307). -/
def Page.movable (p : Page) : Bool := !p.entry.testBit 5 && (p.mt == 0 || p.moves)

/-- The unit's page is moved to the other memory, or unmapped where `go` is false or it cannot be moved (R312, assumption 27). -/
def State.migrate (s : State) (m : Migration) (go : Bool) : State :=
  match s.pageOf m.isl m.asid m.unit with
  | none => s
  | some p =>
    let un := (s.dropPage m.isl m.asid p.va p.bits).homeWrite m.isl p.place (leBytes 8 0)
    if go && p.movable then (s.movePage m.isl m.asid (if p.mt = 0 then 1 else 0) p).getD un else un

/-- MIGRATION_PROCEEDS (R312): the expired leases on its units are voided, the translations of its page go, and the page is
moved or unmapped, which of the two being the command processor's choice (assumption 27). -/
def execMigrationProceeds (lease unit : Nat) (s : State) : Host.Outcome State Fault Refusal :=
  .next (match s.findMigration lease unit with
    | none => s
    | some m =>
      if !s.mayMove m then s
      else
        let s1 := ((s.leases.filter (fun e => s.leaseHolds e.2 m)).map (·.1)).foldl (fun s k => s.voidLease k) s
        let s2 := s1.migrate m (Config.freeBit s.free)
        { s2 with migrating := s2.migrating.filter (fun x => x ≠ m), moved := s2.moved ++ [(lease, unit)], free := s2.free + 1 })

/-! ### The relayout engine (R300, R301) -/

/-- The logical elements of a tile, by coordinates (R296). -/
def tileElems (r : BitVec 512) (t : Nat) : List (List Nat) :=
  let t0 := hT0 r
  let t1 := hT1 r
  let h := t / (t0 * t1)
  let c2 := h % hDim r 2
  let c3 := h / hDim r 2 % hDim r 3
  let c4 := h / (hDim r 2 * hDim r 3)
  tileCoords r [t % t0 * 64, t / t0 % t1 * 64, c2, c3, c4]

/-- The places of an element's bytes, each through the translator (R304); none where no leaf maps one of them. -/
def State.convLocs (s : State) (i : Nat) (v : Conv) (ba w : Nat) : Option (List Loc) :=
  ((List.range (bitBytes ba w).2).map (fun j => s.convByte i v (ba / 8 + j))).foldr (fun p ps => match p, ps with
    | some p, some ps => some (p :: ps)
    | _, _ => none) (some [])

/-- Reads some bytes at their homes. -/
def State.homeGets (s : State) (i : Nat) : List Loc → State × List Byte
  | [] => (s, [])
  | p :: ps =>
    let (s1, b) := s.homeGet i p 1
    let (s2, bs) := s1.homeGets i ps
    (s2, b ++ bs)

/-- Writes one element at its home (R300). -/
def State.putElem (s : State) (i : Nat) (v : Conv) (ba w x : Nat) : State :=
  match s.convLocs i v ba w with
  | none => s
  | some ps =>
    let (s1, bs) := s.homeGets i ps
    (ps.zip (bitsPut ba w x bs)).foldl (fun s e => s.homePut i e.1 [e.2]) s1

/-- Moves the elements of a tile (R300 step 3). -/
def State.moveElems (s : State) (i : Nat) (v : Conv) : List (List Nat) → State
  | [] => s
  | c :: cs =>
    let w := elemWidth (hFmt v.handle)
    let ba := hBitAddr v.handle false c
    (match s.convLocs i v ba w with
      | none => s
      | some ps =>
        let (s1, bs) := s.homeGets i ps
        s1.putElem i v (hBitAddr v.handle true c) w (bitsOf ba w bs)).moveElems i v cs

/-- Writes a tile's entry of the map (R297). -/
def State.mapEntry (s : State) (i : Nat) (v : Conv) (t x : Nat) : State :=
  s.writeVa i v.asid (leBytes 8 x) (spans (hMap v.handle + 8 * t) 8)

/-- A release at island scope by the engine (R253, R300): what it wrote is at the homes already, and a release of a core that
the line records is surrendered first. -/
def State.engineRelease (s : State) (i : Nat) (v : Conv) (t : Nat) : State :=
  match s.convByte i v (hMap v.handle + 8 * t) with
  | none => s
  | some p =>
    match pfind (s.isl i).rel (p.la / 64) with
    | some (q, n) => (s.surrender q n).clearRecord i (p.la / 64)
    | none => s

/-- Every core's dirty bytes of a line of an island reach the home. -/
def State.cleanLine (s : State) (i li : Nat) : State :=
  ((s.cores.filter (fun e => coreIsl e.1 == i && (pfind e.2.lines li).isSome)).map (·.1)).foldl (fun s ck => s.writeBack ck li) s

/-- Every core's dirty bytes of some lines of virtual memory reach the homes (R300 step 2). -/
def State.cleanLines (s : State) (i : Nat) (v : Conv) : List Nat → State
  | [] => s
  | a :: r =>
    (match s.convByte i v (64 * a) with
      | none => s
      | some p => s.cleanLine i (p.la / 64)).cleanLines i v r

/-- The core that made a held write, where it is still there. -/
def State.heldCore (s : State) (h : HeldWrite) : Option Nat :=
  if h.job then some h.owner else (pfind s.crews h.owner).map (·.core)

/-- A held write's element reaches its home as its core's own write does (R70, R298), but for the bytes that a later write of
its crew has taken over (R284). -/
def State.putHeld (s : State) (i : Nat) (v : Conv) (h : HeldWrite) (e : Nat × Nat × Nat) : State :=
  match s.heldCore h, s.convLocs i v e.1 e.2.1 with
  | some ck, some ps =>
    let s1 := s.ownBack ck (elemLines ps)
    let (s2, bs) := s1.homeGets i ps
    s2.elemHome ck ((ps.zip (bitsPut e.1 e.2.1 e.2.2 bs)).filter (fun x => !h.lost.contains x.1.la))
  | _, _ => s.putElem i v e.1 e.2.1 e.2.2

/-- Performs held writes in order (R300 step 5). -/
def State.performHeld (s : State) (i : Nat) (v : Conv) : List HeldWrite → State
  | [] => s
  | h :: hs => (h.elems.foldl (fun s e => s.putHeld i v h e) s).performHeld i v hs

def State.setConv (s : State) (i : Nat) (v : Conv) : State :=
  s.modIsl i (fun x => { x with convs := x.convs.map (fun u => if u.id = v.id then v else u) })

/-- A job is left, on a core or withdrawn with its gang (R277). -/
def State.jobLeft (s : State) (id : Nat) : Bool :=
  let here (js : List Job) : Bool := js.any (fun j => j.id == id)
  s.cores.any (fun e => here e.2.jobs) || s.launches.any (fun e => e.2.gangs.any (fun g => g.2.teams.any (fun t => here t.jobs)))

/-- What was issued before a conversion's `relay` is done (R286). -/
def State.convFree (s : State) (v : Conv) : Bool :=
  !v.waitOps.any (fun (crew, op) => match pfind s.crews crew with
    | some c => c.ops.any (fun o => o.id == op && !o.done)
    | none => false)
  && !v.waitJobs.any (fun e => s.jobLeft e.2)

/-- Conversions of an island that become eligible take their places in the order (R286, R300). -/
def State.eligible (s : State) (i : Nat) : State :=
  ((s.isl i).convs.filter (fun v => v.elig.isNone && !v.complete && s.convFree v)).foldl (fun s v =>
    ({ s with nextId := s.nextId + 1 }).setConv i { v with elig := some s.nextId }) s

/-- A conversion that the engine runs: one of the first eight that became eligible (R300). -/
def Island.runs (x : Island) (v : Conv) : Bool :=
  v.elig.isSome && !v.complete
    && decide ((x.convs.filter (fun u => u.elig.isSome && !u.complete && decide (u.elig.getD 0 < v.elig.getD 0))).length < 8)

/-- The least of some numbers. -/
def leastOf : List Nat → Option Nat
  | [] => none
  | a :: r => match leastOf r with
    | none => some a
    | some b => some (min a b)

/-- The conversion whose tile the engine works on (R300): that with a tile MOVING, else the next one in turn. -/
def Island.convNow (x : Island) : Option Conv :=
  match x.convs.find? (fun v => v.moving && !v.complete) with
  | some v => some v
  | none =>
    let ks := (x.convs.filter x.runs).filterMap (·.elig)
    let k := match leastOf (ks.filter (fun k => decide (x.convTurn < k))) with
      | some k => some k
      | none => leastOf ks
    x.convs.find? (fun v => v.elig.isSome && v.elig == k)

/-- The engine takes the next tile, which becomes MOVING (R300 step 1). -/
def State.startTile (s0 : State) (i : Nat) : State :=
  let s := s0.eligible i
  match (s.isl i).convNow with
  | none => s
  | some v => if v.moving then s else (s.mapEntry i v v.next 1).setConv i { v with moving := true }

/-- The tile that is MOVING is moved and becomes NEW, and its held writes are performed (R300 steps 2 to 5); with the last
one the conversion is complete and its lease is released, and one that is to stop ends here (R301). -/
def State.finishTile (s : State) (i : Nat) (v : Conv) : State :=
  let cs := (tileElems v.handle v.next).headD []
  let old := tileRuns v.handle false cs
  let pages := runUnits 16 (old ++ tileRuns v.handle true cs)
  let s1 := pages.foldl (fun s u => s.fillTtlbBy i v.asid false (u * 2 ^ 16)) (s.cleanLines i v (runUnits 6 old))
  let s2 := ((s1.moveElems i v (tileElems v.handle v.next)).engineRelease i v v.next).mapEntry i v v.next 2
  let s3 := s2.modIsl i (fun x => { x with convTurn := v.elig.getD 0 })
  let u : Conv := { v with moving := false, next := v.next + 1, held := [] }
  if v.stopped then s3.endConv i v
  else
    let s4 := (s3.performHeld i v v.held).setConv i { u with complete := v.tiles ≤ v.next + 1 }
    let s5 := v.held.foldl (fun s h => s.unhold i h) s4
    if v.tiles ≤ v.next + 1 then { s5 with leases := pdel s5.leases v.lease } else s5

/-- One step of an island's engine (R300): the tile in progress is done, and the next one in turn becomes MOVING. -/
def State.convert (s : State) (i id : Nat) : State :=
  let t := s.eligible i
  match (t.isl i).convNow with
  | none => t
  | some v =>
    if v.id ≠ id then t
    else ((if v.moving then t.finishTile i v else t).startTile i).modIsl i (fun x => { x with convAge := 0 })

/-- TILE_CONVERSION (R300). -/
def execTileConversion (isl conversion : Nat) (s : State) : Host.Outcome State Fault Refusal := .next (s.convert isl conversion)

end Sys2Proof.Machine
end

