-- ==== Sys2Proof/Machine/Service.lean ====
section
/-! DEFINITION. Cores in and out of service (23 R332-R334), power gating (17 R258), caches acted on from outside (17 R248,
R254, 29 R399) and power measurements (30 R409, R410): the steps from SURRENDER to CORE_WAKE that concern cores. -/

namespace Sys2Proof.Machine

def msNs (n : Nat) : Nat := n * 1000000

/-- Nothing is placed on a core. -/
def State.coreEmpty (s : State) (ck : Nat) : Bool :=
  (s.crewsOn ck).isEmpty && (s.teamsOn ck).isEmpty && (s.core ck).jobs.isEmpty

/-! ### Roving self-test (R332-R334) -/

/-- Cores of an island under test (R332): of the bench, and of the zone. -/
def State.testing (s : State) (i : Nat) (p : Nat → Bool) : Nat :=
  (s.cores.filter (fun e => coreIsl e.1 == i && e.2.service = .testing && p e.1)).length

def State.testRoom (s : State) (ck : Nat) : Bool :=
  let i := coreIsl ck
  decide (s.testing i (fun x => coreBench x == coreBench ck) < 1) && decide (s.testing i (fun x => coreZone x == coreZone ck) < 4)

/-- Gangs with a team on a core. -/
def State.gangsOn (s : State) (ck : Nat) : List (Nat × Nat) :=
  ((s.teamsOn ck).map (fun e => (e.2.launch, e.2.gang))).eraseDups

/-- Asks for or withdraws the pre-emption of the gangs on a core. -/
def State.askGangs (s : State) (ck from_ want : Nat) : State :=
  (s.gangsOn ck).foldl (fun s (n, g) =>
    let x := s.gang n g
    if x.want = from_ then s.setGang n g { x with want := want } else s) s

/-- A core that can be tested: enabled and powered. -/
def Core.testable (c : Core) : Bool := c.service = .live || c.service = .retired || c.service = .draining

/-- A core whose test is due and that holds nothing goes under test (R332, R333). -/
def State.startTest (s : State) (ck : Nat) : State :=
  let c := s.core ck
  if c.due.isSome && s.coreEmpty ck && s.testRoom ck && c.testable && !s.dark ck then
    s.modCore ck (fun c => { c with service := .testing })
  else s

/-- ROVING_TEST_DUE (R332): the core takes no new placement, its gangs are to be pre-empted; an empty core goes under test, a
power-gated one once it has woken. -/
def execRovingTestDue (core : Nat) (s : State) : Host.Outcome State Fault Refusal :=
  .next (
    let c := s.core core
    if !(c.testable || c.service = .gated) || s.dark core || (s.isl (coreIsl core)).isolated.getLsbD (coreZone core) then s
    else
      let s1 := if c.due.isSome then s else (s.modCore core (fun c => { c with due := some s.time })).askGangs core 0 1
      s1.startTest core)

/-- TEST_OVERDUE (R333): 10 ms past its due time the core drains, and its gangs are left alone; a power-gated one leaves the count,
and drains from its wake on. -/
def execTestOverdue (core : Nat) (s : State) : Host.Outcome State Fault Refusal :=
  .next (
    let c := s.core core
    match c.due with
    | none => s
    | some t =>
      if (c.service = .live || c.service = .gated) && decide (t.toNat + msNs 10 ≤ s.time.toNat) then
        let s1 := (s.modCore core (fun c => { c with service := if c.service = .gated then .gated else .draining, counted := false })).modIsl (coreIsl core) (fun x =>
          { x with live := x.live - (if c.counted then 1 else 0) })
        s1.askGangs core 1 0
      else s)

/-- The outcome of a test (R334). -/
def Core.tested (c : Core) (pass full : Bool) : Core :=
  let d : Core := { c with due := none }
  if c.retired then
    { d with
      service := .retired, passes := if !pass then 0 else if full then c.passes else c.passes + 1
      fullPass := pass && ((full && decide (4 ≤ c.passes)) || (c.fullPass && !full)) }
  else if pass then { d with service := .live, counted := true }
  else { d with service := .retired, retired := true, counted := false, passes := 0, fullPass := false }

/-- TEST_COMPLETE (R332-R334): a core that fails is retired; one that passes is in service again. -/
def execTestComplete (core : Nat) (pass full : Bool) (s : State) : Host.Outcome State Fault Refusal :=
  .next (
    let c := s.core core
    if c.service ≠ .testing then s
    else
      let d := c.tested pass full
      (s.setCore core d).modIsl (coreIsl core) (fun x =>
        { x with live := x.live + (if d.counted then 1 else 0) - (if c.counted then 1 else 0) }))

/-- CORE_RETURN (R334): four roving tests and then the full test passed, and an operator's policy admits the core. -/
def execCoreReturn (core : Nat) (s : State) : Host.Outcome State Fault Refusal :=
  .next (
    let c := s.core core
    if c.service = .retired && decide (4 ≤ c.passes) && c.fullPass && s.boot.policy.isSome then
      (s.setCore core { c with service := .live, retired := false, counted := true, passes := 0, fullPass := false }).modIsl
        (coreIsl core) (fun x => { x with live := x.live + 1 })
    else s)

/-! ### Power gating (R258) -/

/-- Returns the exclusive ownership of every line a core holds. -/
def State.returnOwned (s : State) (ck : Nat) : State :=
  let i := coreIsl ck
  (((s.isl i).excl.filter (fun e => e.2 == ck)).map (·.1)).foldl (fun s li => s.recall i li) s

/-- POWER_GATING (R258): only where nothing is outstanding on the core. -/
def execPowerGating (core : Nat) (s : State) : Host.Outcome State Fault Refusal :=
  .next (
    if (s.core core).service = .live && s.coreEmpty core then
      ((s.returnOwned core).eagerRelease core true false).modCore core (fun c => { c with lines := [], service := .gated })
    else s)

/-- CORE_WAKE (R258): an empty L1, gI and gS at 0, the release counter as it was. One that left the live count drains (R333). -/
def execCoreWake (core : Nat) (s : State) : Host.Outcome State Fault Refusal :=
  .next (
    if (s.core core).service = .gated then
      s.modCore core (fun c => { c with lines := [], gI := 0, gS := 0, service := if c.counted then .live else .draining })
    else s)

/-! ### Caches acted on from outside -/

/-- SURRENDER (R254): a core may write back what is marked with a sequence or earlier. The count and the record belong to
the acquire that asks for it; asked for by itself, it is the superset of write-backs that R254 permits. -/
def execSurrender (core seq : Nat) (s : State) : Host.Outcome State Fault Refusal :=
  .next (s.writeBackAll core (dirtyLines (s.core core) (fun l => match l.mark with
    | some m => decide (m.toNat ≤ seq)
    | none => false)))

/-- EVICTION (R248, R249): a line leaves an L1, its dirty bytes written back. -/
def execEviction (core line : Nat) (s : State) : Host.Outcome State Fault Refusal := .next (s.dropLine core line)

/-- Does something to the copies of a CXL line in every L1. -/
def State.eachHolder (s : State) (li : Nat) (g : State → Nat → State) : State :=
  ((s.cores.filter (fun e => (pfind e.2.lines li).isSome)).map (·.1)).foldl g s

/-- HOST_SNOOP (R399): a host read of a line of a CXL window; dirty copies are written back and kept clean. -/
def execHostSnoop (addr : Nat) (s : State) : Host.Outcome State Fault Refusal :=
  .next (s.eachHolder ((cxlBase + addr) / 64) (fun s ck => s.writeBack ck ((cxlBase + addr) / 64)))

/-- The host's write of one run of a line: dirty copies first, then the host's bytes, and no copy stays (R399). -/
def State.hostWriteRun (s : State) (a : Nat) (bs : List Byte) : State :=
  let s1 := s.eachHolder ((cxlBase + a) / 64) (fun s ck => s.dropLine ck ((cxlBase + a) / 64))
  s1.homeWrite 0 (cxlBase + a) bs

def State.hostWriteRuns (s : State) (bs : List Byte) : List (Nat × Nat) → State
  | [] => s
  | (a, n) :: r => (s.hostWriteRun a (bs.take n)).hostWriteRuns (bs.drop n) r

/-- HOST_WRITE_INVALIDATE (R399). -/
def execHostWriteInvalidate (addr : Nat) (bytes : List Byte) (s : State) : Host.Outcome State Fault Refusal :=
  .next (s.hostWriteRuns bytes (spans addr bytes.length))

/-! ### Power and clock steps (R409, R410) -/

/-- Step key of a zone. -/
def zoneMilliwatts : Nat := 300000

/-- The step of a zone after a measurement (R409): `hot` says that the panel is above its cap and this zone draws the most,
`low` that its draw has stayed below 90 % of its share for 1 ms. -/
def nextStep (old : Nat) (r : PowerReading) (hot low : Bool) : Nat :=
  if 115 < r.celsius then 7
  else if zoneMilliwatts < r.milliwatts || 105 < r.celsius || hot then min 7 (old + 1)
  else if low then old - 1
  else old

/-- A zone's share of the panel's power is its limit (assumption 28); since when its draw has stayed below 90 % of it. -/
def State.noteDraw (s : State) (r : PowerReading) : State :=
  s.modIsl r.isl (fun x =>
    if zoneMilliwatts * 9 ≤ r.milliwatts * 10 then { x with lowSince := pdel x.lowSince r.zone }
    else if (pfind x.lowSince r.zone).isSome then x
    else { x with lowSince := pput x.lowSince r.zone s.time.toNat })

/-- One zone's step, at most once in 10 µs (R409). After a change of step the 1 ms of a low draw starts again (assumption
28). -/
def State.stepZone (s : State) (r : PowerReading) (hot : Bool) : State :=
  let x := (s.noteDraw r).isl r.isl
  let old := pget 0 x.steps r.zone
  let low := match pfind x.lowSince r.zone with
    | some t => decide (t + msNs 1 ≤ s.time.toNat)
    | none => false
  let new := nextStep old r hot low
  let ready := match pfind x.stepAt r.zone with
    | some t => decide (t + 10000 ≤ s.time.toNat)
    | none => true
  if new ≠ old && ready && decide (r.zone < 4) then
    (s.noteDraw r).modIsl r.isl (fun y =>
      { y with steps := pset 0 y.steps r.zone new, stepAt := pput y.stepAt r.zone s.time.toNat, lowSince := pdel y.lowSince r.zone })
  else s.noteDraw r

/-- REGULATOR_MEASUREMENT (R409): the panel's draw is the sum of all zones and of what else draws from it. -/
def execRegulatorMeasurement (m : Measurement) (s : State) : Host.Outcome State Fault Refusal :=
  .next (
    let total := (m.zones.map (·.milliwatts)).sum + m.rest.common + m.rest.optics + m.rest.memory + m.rest.edge
    let most := (m.zones.map (·.milliwatts)).foldl max 0
    let above := decide (s.cap * 1000 < total)
    m.zones.foldl (fun s r => s.stepZone r (above && r.milliwatts == most)) s)

end Sys2Proof.Machine
end

