-- ==== Sys2Proof/Machine/Dispatch.lean ====
section
/-! DEFINITION. Dispatch: each instruction and each step of the panel to its meaning. -/

namespace Sys2Proof.Machine

def exec (i : Instr) (s : State) : Host.Outcome State Fault Refusal :=
  match i with
  | .nop f => Sys2Proof.Machine.execNop f s
  | .clauseHeader h => Sys2Proof.Machine.execClauseHeader h s
  | .add f => Sys2Proof.Machine.execAdd f s
  | .sub f => Sys2Proof.Machine.execSub f s
  | .mul f => Sys2Proof.Machine.execMul f s
  | .mulh f => Sys2Proof.Machine.execMulh f s
  | .mad f => Sys2Proof.Machine.execMad f s
  | .abs f => Sys2Proof.Machine.execAbs f s
  | .min f => Sys2Proof.Machine.execMin f s
  | .max f => Sys2Proof.Machine.execMax f s
  | .and f => Sys2Proof.Machine.execAnd f s
  | .or f => Sys2Proof.Machine.execOr f s
  | .xor f => Sys2Proof.Machine.execXor f s
  | .not f => Sys2Proof.Machine.execNot f s
  | .shl f => Sys2Proof.Machine.execShl f s
  | .shr f => Sys2Proof.Machine.execShr f s
  | .sra f => Sys2Proof.Machine.execSra f s
  | .rotl f => Sys2Proof.Machine.execRotl f s
  | .clz f => Sys2Proof.Machine.execClz f s
  | .popc f => Sys2Proof.Machine.execPopc f s
  | .brev f => Sys2Proof.Machine.execBrev f s
  | .bfe f => Sys2Proof.Machine.execBfe f s
  | .bfi f => Sys2Proof.Machine.execBfi f s
  | .mov f => Sys2Proof.Machine.execMov f s
  | .lea f => Sys2Proof.Machine.execLea f s
  | .sel f => Sys2Proof.Machine.execSel f s
  | .cmp f => Sys2Proof.Machine.execCmp f s
  | .bra f => Sys2Proof.Machine.execBra f s
  | .brc f => Sys2Proof.Machine.execBrc f s
  | .bri f => Sys2Proof.Machine.execBri f s
  | .call f => Sys2Proof.Machine.execCall f s
  | .callI f => Sys2Proof.Machine.execCallI f s
  | .ret f => Sys2Proof.Machine.execRet f s
  | .loop f => Sys2Proof.Machine.execLoop f s
  | .exit f => Sys2Proof.Machine.execExit f s
  | .yield f => Sys2Proof.Machine.execYield f s
  | .wait f => Sys2Proof.Machine.execWait f s
  | .ld f => Sys2Proof.Machine.execLd f s
  | .st f => Sys2Proof.Machine.execSt f s
  | .ldk f => Sys2Proof.Machine.execLdk f s
  | .stk f => Sys2Proof.Machine.execStk f s
  | .sld f => Sys2Proof.Machine.execSld f s
  | .sst f => Sys2Proof.Machine.execSst f s
  | .pref f => Sys2Proof.Machine.execPref f s
  | .vget f => Sys2Proof.Machine.execVget f s
  | .vput f => Sys2Proof.Machine.execVput f s
  | .fadd f => Sys2Proof.Machine.execFadd f s
  | .fsub f => Sys2Proof.Machine.execFsub f s
  | .fmul f => Sys2Proof.Machine.execFmul f s
  | .ffma f => Sys2Proof.Machine.execFfma f s
  | .fmin f => Sys2Proof.Machine.execFmin f s
  | .fmax f => Sys2Proof.Machine.execFmax f s
  | .frnd f => Sys2Proof.Machine.execFrnd f s
  | .fexpf f => Sys2Proof.Machine.execFexpf f s
  | .flog2 f => Sys2Proof.Machine.execFlog2 f s
  | .frcp f => Sys2Proof.Machine.execFrcp f s
  | .frsq f => Sys2Proof.Machine.execFrsq f s
  | .fsqrt f => Sys2Proof.Machine.execFsqrt f s
  | .fscl f => Sys2Proof.Machine.execFscl f s
  | .fxtr f => Sys2Proof.Machine.execFxtr f s
  | .fcls f => Sys2Proof.Machine.execFcls f s
  | .cvt f => Sys2Proof.Machine.execCvt f s
  | .fcmp f => Sys2Proof.Machine.execFcmp f s
  | .fneg f => Sys2Proof.Machine.execFneg f s
  | .fabs f => Sys2Proof.Machine.execFabs f s
  | .fclamp f => Sys2Proof.Machine.execFclamp f s
  | .hadd2 f => Sys2Proof.Machine.execHadd2 f s
  | .hsub2 f => Sys2Proof.Machine.execHsub2 f s
  | .hmul2 f => Sys2Proof.Machine.execHmul2 f s
  | .hmin2 f => Sys2Proof.Machine.execHmin2 f s
  | .hmax2 f => Sys2Proof.Machine.execHmax2 f s
  | .acs2 f => Sys2Proof.Machine.execAcs2 f s
  | .hfma2 f => Sys2Proof.Machine.execHfma2 f s
  | .bfma2 f => Sys2Proof.Machine.execBfma2 f s
  | .hcmp2 f => Sys2Proof.Machine.execHcmp2 f s
  | .perm f => Sys2Proof.Machine.execPerm f s
  | .voteAny f => Sys2Proof.Machine.execVoteAny f s
  | .voteAll f => Sys2Proof.Machine.execVoteAll f s
  | .voteBallot f => Sys2Proof.Machine.execVoteBallot f s
  | .lred f => Sys2Proof.Machine.execLred f s
  | .lscan f => Sys2Proof.Machine.execLscan f s
  | .mspl f => Sys2Proof.Machine.execMspl f s
  | .mskIf f => Sys2Proof.Machine.execMskIf f s
  | .mskIfM f => Sys2Proof.Machine.execMskIfM f s
  | .mskElse f => Sys2Proof.Machine.execMskElse f s
  | .mskEnd f => Sys2Proof.Machine.execMskEnd f s
  | .mand f => Sys2Proof.Machine.execMand f s
  | .mor f => Sys2Proof.Machine.execMor f s
  | .mxor f => Sys2Proof.Machine.execMxor f s
  | .mnot f => Sys2Proof.Machine.execMnot f s
  | .mcnt f => Sys2Proof.Machine.execMcnt f s
  | .mmovMask f => Sys2Proof.Machine.execMmovMask f s
  | .mmovFromUniform f => Sys2Proof.Machine.execMmovFromUniform f s
  | .mmovToUniform f => Sys2Proof.Machine.execMmovToUniform f s
  | .sseg f => Sys2Proof.Machine.execSseg f s
  | .scmp f => Sys2Proof.Machine.execScmp f s
  | .sfnd f => Sys2Proof.Machine.execSfnd f s
  | .shash f => Sys2Proof.Machine.execShash f s
  | .hmix f => Sys2Proof.Machine.execHmix f s
  | .part f => Sys2Proof.Machine.execPart f s
  | .fork f => Sys2Proof.Machine.execFork f s
  | .rdv f => Sys2Proof.Machine.execRdv f s
  | .seqEnd f => Sys2Proof.Machine.execSeqEnd f s
  | .seqLoop f => Sys2Proof.Machine.execSeqLoop f s
  | .ldw f => Sys2Proof.Machine.execLdw f s
  | .flip f => Sys2Proof.Machine.execFlip f s
  | .mma f => Sys2Proof.Machine.execMma f s
  | .mmaC f => Sys2Proof.Machine.execMmaC f s
  | .aclr f => Sys2Proof.Machine.execAclr f s
  | .amov f => Sys2Proof.Machine.execAmov f s
  | .qnt f => Sys2Proof.Machine.execQnt f s
  | .cpy f => Sys2Proof.Machine.execCpy f s
  | .cpyx f => Sys2Proof.Machine.execCpyx f s
  | .cpym f => Sys2Proof.Machine.execCpym f s
  | .barInit f => Sys2Proof.Machine.execBarInit f s
  | .barArr f => Sys2Proof.Machine.execBarArr f s
  | .barArrx f => Sys2Proof.Machine.execBarArrx f s
  | .barWait f => Sys2Proof.Machine.execBarWait f s
  | .barTest f => Sys2Proof.Machine.execBarTest f s
  | .lda f => Sys2Proof.Machine.execLda f s
  | .stl f => Sys2Proof.Machine.execStl f s
  | .atom f => Sys2Proof.Machine.execAtom f s
  | .atomCas f => Sys2Proof.Machine.execAtomCas f s
  | .fenceAcq f => Sys2Proof.Machine.execFenceAcq f s
  | .fenceRel f => Sys2Proof.Machine.execFenceRel f s
  | .fenceSc f => Sys2Proof.Machine.execFenceSc f s
  | .trap f => Sys2Proof.Machine.execTrap f s
  | .sys f => Sys2Proof.Machine.execSys f s
  | .eret f => Sys2Proof.Machine.execEret f s
  | .npsBegin f => Sys2Proof.Machine.execNpsBegin f s
  | .npsEnd f => Sys2Proof.Machine.execNpsEnd f s
  | .round f => Sys2Proof.Machine.execRound f s
  | .trig f => Sys2Proof.Machine.execTrig f s
  | .spawn f => Sys2Proof.Machine.execSpawn f s
  | .srd f => Sys2Proof.Machine.execSrd f s
  | .swr f => Sys2Proof.Machine.execSwr f s
  | .gtime f => Sys2Proof.Machine.execGtime f s
  | .thd f => Sys2Proof.Machine.execThd f s
  | .thl f => Sys2Proof.Machine.execThl f s
  | .ths f => Sys2Proof.Machine.execThs f s
  | .tld f => Sys2Proof.Machine.execTld f s
  | .tst f => Sys2Proof.Machine.execTst f s
  | .relay f => Sys2Proof.Machine.execRelay f s
  | .thq f => Sys2Proof.Machine.execThq f s
  | .thw f => Sys2Proof.Machine.execThw f s
  | .thpf f => Sys2Proof.Machine.execThpf f s
  | .put f => Sys2Proof.Machine.execPut f s
  | .mput f => Sys2Proof.Machine.execMput f s
  | .get f => Sys2Proof.Machine.execGet f s
  | .ratm f => Sys2Proof.Machine.execRatm f s
  | .ratmCas f => Sys2Proof.Machine.execRatmCas f s
  | .ntf f => Sys2Proof.Machine.execNtf f s
  | .flushp f => Sys2Proof.Machine.execFlushp f s
  | .cwait f => Sys2Proof.Machine.execCwait f s
  | .coll f => Sys2Proof.Machine.execColl f s
  | .rfenceRel f => Sys2Proof.Machine.execRfenceRel f s
  | .rfenceAcq f => Sys2Proof.Machine.execRfenceAcq f s
  | .operationCompletes crew op => Sys2Proof.Machine.execOperationCompletes crew op s
  | .swapStart core quarter => Sys2Proof.Machine.execSwapStart core quarter s
  | .swapEnds core quarter => Sys2Proof.Machine.execSwapEnds core quarter s
  | .displacement core quarter => Sys2Proof.Machine.execDisplacement core quarter s
  | .sequencerFetch core copy => Sys2Proof.Machine.execSequencerFetch core copy s
  | .seqEndCompletes core copy => Sys2Proof.Machine.execSeqEndCompletes core copy s
  | .jobStart core job => Sys2Proof.Machine.execJobStart core job s
  | .jobCompletion core job => Sys2Proof.Machine.execJobCompletion core job s
  | .cpymBeat core job window beat => Sys2Proof.Machine.execCpymBeat core job window beat s
  | .arrivalApplied arrival => Sys2Proof.Machine.execArrivalApplied arrival s
  | .producerContextFreed crew => Sys2Proof.Machine.execProducerContextFreed crew s
  | .teamEnd team => Sys2Proof.Machine.execTeamEnd team s
  | .gangPlacement launch gang cores => Sys2Proof.Machine.execGangPlacement launch gang cores s
  | .launchCompletion launch => Sys2Proof.Machine.execLaunchCompletion launch s
  | .sectionOverrun crew => Sys2Proof.Machine.execSectionOverrun crew s
  | .trapEntry crew => Sys2Proof.Machine.execTrapEntry crew s
  | .impreciseDelivery team => Sys2Proof.Machine.execImpreciseDelivery team s
  | .surrender core seq => Sys2Proof.Machine.execSurrender core seq s
  | .eviction core line => Sys2Proof.Machine.execEviction core line s
  | .powerGating core => Sys2Proof.Machine.execPowerGating core s
  | .hostSnoop addr => Sys2Proof.Machine.execHostSnoop addr s
  | .hostWriteInvalidate addr bytes => Sys2Proof.Machine.execHostWriteInvalidate addr bytes s
  | .preemption launch gang => Sys2Proof.Machine.execPreemption launch gang s
  | .resumption launch gang cores => Sys2Proof.Machine.execResumption launch gang cores s
  | .regulatorFailure isl group => Sys2Proof.Machine.execRegulatorFailure isl group s
  | .zoneLoss isl zone => Sys2Proof.Machine.execZoneLoss isl zone s
  | .roundCommit team => Sys2Proof.Machine.execRoundCommit team s
  | .reMirror isl zone => Sys2Proof.Machine.execReMirror isl zone s
  | .guardedRestart team cores => Sys2Proof.Machine.execGuardedRestart team cores s
  | .rovingTestDue core => Sys2Proof.Machine.execRovingTestDue core s
  | .testOverdue core => Sys2Proof.Machine.execTestOverdue core s
  | .testComplete core pass full => Sys2Proof.Machine.execTestComplete core pass full s
  | .coreReturn core => Sys2Proof.Machine.execCoreReturn core s
  | .staging launch => Sys2Proof.Machine.execStaging launch s
  | .leaseRenewal lease => Sys2Proof.Machine.execLeaseRenewal lease s
  | .leaseVoid lease => Sys2Proof.Machine.execLeaseVoid lease s
  | .timeBroadcast elapsed offsets => Sys2Proof.Machine.execTimeBroadcast elapsed offsets s
  | .migrationRequest lease unit => Sys2Proof.Machine.execMigrationRequest lease unit s
  | .migrationProceeds lease unit => Sys2Proof.Machine.execMigrationProceeds lease unit s
  | .tileConversion isl conversion => Sys2Proof.Machine.execTileConversion isl conversion s
  | .packetArrival a => Sys2Proof.Machine.execPacketArrival a s
  | .acknowledgement packet => Sys2Proof.Machine.execAcknowledgement packet s
  | .collectiveCombine x => Sys2Proof.Machine.execCollectiveCombine x s
  | .linkDeclaredDead isl port => Sys2Proof.Machine.execLinkDeclaredDead isl port s
  | .islandDeclaredDead isl => Sys2Proof.Machine.execIslandDeclaredDead isl s
  | .planeDead plane panelA islA panelB islB => Sys2Proof.Machine.execPlaneDead plane panelA islA panelB islB s
  | .holdMet launch => Sys2Proof.Machine.execHoldMet launch s
  | .dependenceMet launch => Sys2Proof.Machine.execDependenceMet launch s
  | .launch c => Sys2Proof.Machine.execLaunch c s
  | .graphRecord c => Sys2Proof.Machine.execGraphRecord c s
  | .graphReplay c => Sys2Proof.Machine.execGraphReplay c s
  | .replaySlotTaken replay => Sys2Proof.Machine.execReplaySlotTaken replay s
  | .phaseOpen c => Sys2Proof.Machine.execPhaseOpen c s
  | .phaseClose c => Sys2Proof.Machine.execPhaseClose c s
  | .jobOpen c => Sys2Proof.Machine.execJobOpen c s
  | .jobClose c => Sys2Proof.Machine.execJobClose c s
  | .cancel fn irq target => Sys2Proof.Machine.execCancel fn irq target s
  | .counterAssign c => Sys2Proof.Machine.execCounterAssign c s
  | .counterRelease c => Sys2Proof.Machine.execCounterRelease c s
  | .remoteWindowLease c => Sys2Proof.Machine.execRemoteWindowLease c s
  | .leaseRelease c => Sys2Proof.Machine.execLeaseRelease c s
  | .handlerSet fn irq isl addr => Sys2Proof.Machine.execHandlerSet fn irq isl addr s
  | .submissionTailDoorbell fn q tail => Sys2Proof.Machine.execSubmissionTailDoorbell fn q tail s
  | .completionHeadDoorbell fn q head => Sys2Proof.Machine.execCompletionHeadDoorbell fn q head s
  | .heldCompletionRecord fn q => Sys2Proof.Machine.execHeldCompletionRecord fn q s
  | .queueEnable fn q ctl => Sys2Proof.Machine.execQueueEnable fn q ctl s
  | .queueErrClear fn q ctl => Sys2Proof.Machine.execQueueErrClear fn q ctl s
  | .registerWrite file offset value => Sys2Proof.Machine.execRegisterWrite file offset value s
  | .bar2Access fn offset store => Sys2Proof.Machine.execBar2Access fn offset store s
  | .panelCapWrite watts => Sys2Proof.Machine.execPanelCapWrite watts s
  | .vfWeightWrite fn weight => Sys2Proof.Machine.execVfWeightWrite fn weight s
  | .functionLevelReset fn => Sys2Proof.Machine.execFunctionLevelReset fn s
  | .panelReset => Sys2Proof.Machine.execPanelReset s
  | .getVersion port => Sys2Proof.Machine.execGetVersion port s
  | .getCapabilities port => Sys2Proof.Machine.execGetCapabilities port s
  | .negotiateAlgorithms port hash sign => Sys2Proof.Machine.execNegotiateAlgorithms port hash sign s
  | .getDigests port => Sys2Proof.Machine.execGetDigests port s
  | .getCertificate port => Sys2Proof.Machine.execGetCertificate port s
  | .challenge port nonce => Sys2Proof.Machine.execChallenge port nonce s
  | .getMeasurements port index => Sys2Proof.Machine.execGetMeasurements port index s
  | .regulatorMeasurement readings => Sys2Proof.Machine.execRegulatorMeasurement readings s
  | .coreWake core => Sys2Proof.Machine.execCoreWake core s

end Sys2Proof.Machine
end

