-- ==== Sys2Proof/Machine/Sched.lean ====
section
/-! DEFINITION. What happens by itself where the environment's script says nothing (assumption 1): the word of the selected
executor, the machine's own events in a fixed order, and the choice of the next executor (10 R154-R161, 27 R374, R403). -/

namespace Sys2Proof.Machine

/-! ### The selected executor -/

/-- The clause of the selected crew waits on a flag (R28). -/
def State.clauseHolds (s : State) (x : Exec) : Bool :=
  match x with
  | .crew id => match pfind s.crews id with
    | some c => c.clauseWaits
    | none => false
  | .seq _ _ => false

/-- The selected crew stalls at its clause header (R28, R156). -/
def State.stallExec (s : State) (x : Exec) : State :=
  match x with
  | .crew id => (s.stallCrew id).issued
  | .seq _ _ => s.issued

/-- The core's TLB takes the translation of a fetch that its launch may make (R304, assumption 51). -/
def State.fillFetch (s : State) (ck : Nat) (l : Launch) (pc : DWord) : State :=
  match s.checkPlain l (s.core ck).tlb .fetch pc.toNat 4 with
  | .ok _ => s.fillTlb ck l pc.toNat
  | .error _ => s

/-- The fetch of an executor's next word, as its TLB sees it. -/
def State.fetched (s : State) (x : Exec) : State :=
  match x with
  | .crew id =>
    match pfind s.crews id with
    | none => s
    | some c => s.fillFetch c.core (s.launchOf c) c.pc
  | .seq ck cp => s.fillFetch ck (s.launch (s.team ((s.core ck).owner.getD 0)).launch) ((s.core ck).seq cp).pc

/-- The selected executor fetches its next word and runs it, stalls, or takes the trap of the fetch. -/
def runExec (x : Exec) (s : State) : Host.Outcome State Fault Refusal :=
  if s.clauseHolds x then .next (s.stallExec x)
  else
    match s.fetch x with
    | .ok i => exec i (s.fetched x)
    | .error e => .next ((s.fetched x).fetchTrap x e)

/-- The state an outcome leads to; a stop leads nowhere. -/
def nextOf (s : State) : Host.Outcome State Fault Refusal → State
  | .next t => t
  | _ => s

/-! ### States of crews (R155, R156) -/

/-- A crew as its next word leaves it: the word runs without effect on the state kept. -/
def State.tried (s : State) (id : Nat) : State := nextOf s (runExec (.crew id) { s with cur := some (.crew id) })

/-- The stall that a crew's next word would meet, with the wait of a `cwait` in it (R369). -/
def State.trialWord (s : State) (id : Nat) (c : Crew) : Stall × Option (Nat × Word × Bool) :=
  match pfind (s.tried id).crews id with
  | some d => if d.pc ≠ c.pc then (.none, c.cw)
    else
      match d.stall with
      | .long => (.long, d.cw)
      | .hold => (.hold, c.cw)
      | _ => (.none, c.cw)
  | none => (.none, c.cw)

/-- The stall that a crew meets: at a clause header that it passes, that of the header's own wait mask, else that of the word
behind it (R28, R156). -/
def State.trial (s : State) (id : Nat) (c : Crew) : Stall × Option (Nat × Word × Bool) :=
  let t := s.tried id
  match pfind t.crews id with
  | some d =>
    if c.left = 0 && d.hdr == c.pc && d.pc == c.pc + 8 then (if d.stall = .long then (.long, c.cw) else t.trialWord id d)
    else s.trialWord id c
  | none => (.none, c.cw)

/-- Crews whose state the quarter judges: each that was stalled or held, and each with another crew in its quarter. -/
def State.judged (s : State) (id : Nat) (c : Crew) : Bool :=
  (c.place = .active || c.place = .pending) && c.trap.isNone && c.inRound.isNone && !s.stopping c.team && !s.dark c.core
    && (c.stall ≠ .none || s.crews.any (fun e => e.1 ≠ id && e.2.core = c.core && e.2.quarter = c.quarter && e.2.place ≠ .left))

/-- Puts a crew into the state found: one that meets a long-latency stall takes the time of its quarter, and one that becomes
waiting counts from there (R159). -/
def State.setStall (s0 s : State) (id : Nat) (st : Stall) (cw : Option (Nat × Word × Bool)) : State :=
  match pfind s.crews id with
  | none => s
  | some x =>
    let c : Crew := { x with cw := cw }
    if c.stall = st then s.setCrew id c
    else if st = .long && c.place = .active then
      let n := pget 0 (s0.core c.core).stamps c.quarter
      (s.setCrew id { c with stall := st, wstamp := n }).modCore c.core (fun x =>
        { x with stamps := pput x.stamps c.quarter (n + 1) })
    else
      let d : Crew := { c with stall := st }
      s.setCrew id { d with waited := if d.waits && !c.waits then 0 else c.waited }

/-- A crew that may issue: active, not stalled, and nothing stops it. -/
def State.mayIssue (s : State) (c : Crew) : Bool :=
  c.place = .active && c.stall = .none && !c.exiting && c.trap.isNone && c.inRound.isNone && !s.stopping c.team && !s.dark c.core

/-- A swap's six clocks are over (R158): six issues of its quarter, or none can issue. -/
def State.swapOver (s : State) (ck q : Nat) : Bool :=
  decide (6 ≤ pget 0 (s.core ck).swapAge q) || !(s.quarterCrews ck q).any (fun e => s.mayIssue e.2)

/-- A swap of R158 that takes a crew out for its `yield` can start in this clock: a crew waits, no place is free, and the port is
free. -/
def State.yieldSwaps (s : State) (ck q : Nat) : Bool :=
  (s.portFree ck q || s.swapOver ck q) && decide (8 ≤ s.activeCount ck q) && (s.waitingCrew ck q).isSome

/-- A `yield` that no swap follows in the next clock is over (R157, R162). -/
def State.settleYields (s : State) : State :=
  { s with crews := peach s.crews (fun _ c => if c.yielded && !s.yieldSwaps c.core c.quarter then { c with yielded := false } else c) }

/-- Judges every crew (R155, R156): ready, held or stalled in the active set, waiting or blocked in the pending set; and the
conversions that become eligible (R300); a `yield` that had its clock is over (R162). -/
def State.retest (s : State) : State :=
  let t := ((s.crews.filter (fun e => s.judged e.1 e.2)).map (fun e => (e.1, s.trial e.1 e.2))).foldl
    (fun t (id, st, cw) => s.setStall t id st cw) s
  (t.isls.filter (fun e => !e.2.convs.isEmpty)).foldl (fun t e => t.eligible e.1) t.settleYields

/-! ### The machine's own events -/

/-- Events of crews that may be due: entries, deliveries, overruns, completions. -/
def crewEvents (id : Nat) (c : Crew) : List Instr :=
  (if c.trap.isSome then [.trapEntry id] else []) ++ (if c.queued.isEmpty then [] else [.impreciseDelivery c.team])
    ++ (if c.sect.isSome then [.sectionOverrun id] else [])
    ++ (c.ops.filter (fun o => !o.done && !o.held)).map (fun o => .operationCompletes id o.id)
    ++ (if c.exiting then [.producerContextFreed id] else [])

/-- Events of a core: jobs, sequencers, swaps, a test. -/
def State.coreEvents (s : State) (ck : Nat) (c : Core) : List Instr :=
  (c.jobs.filter (·.started)).map (fun j => .jobCompletion ck j.id)
    ++ (c.jobs.map (fun j => (j.beats.take 1).map (fun b => Instr.cpymBeat ck j.id b.1 0))).flatten
    ++ (c.jobs.filter (fun j => !j.started)).map (fun j => .jobStart ck j.id)
    ++ ([false, true].filter (fun cp => (c.seq cp).st = .ending)).map (fun cp => .seqEndCompletes ck cp)
    ++ (c.swaps.filter (fun e => s.swapOver ck e.1)).map (fun e => .swapEnds ck e.1)
    ++ (if c.due.isSome && c.service ≠ .testing then [.rovingTestDue ck] else [])

/-- The contributions of a collective, each by itself and each with the next one. -/
def collEvents (k : Nat) (c : Coll) : List Instr :=
  let ks := c.parts.map (·.1)
  (ks.zip ks ++ ks.zip (ks.drop 1) ++ [(0, 0)]).map (fun (a, b) => .collectiveCombine (.step k a b))

/-- A lease that has lapsed is voided, and one is renewed once 1 ms of it is left (R309). -/
def State.leaseEvents (s : State) (k : Nat) (l : Lease) : List Instr :=
  if l.void then []
  else if s.lapsed l then [.leaseVoid k]
  else if l.expiry ≤ (s.islTime l.isl).toNat + 1000000 then [.leaseRenewal k] else []

/-- Events of launches and replays. -/
def launchEvents (n : Nat) (l : Launch) : List Instr :=
  (if l.finalDue then [.launchCompletion n] else []) ++ (if l.st = 0 ∧ l.deps ≠ [] then [.dependenceMet n] else []) ++ (if l.held then [.holdMet n] else [])
    ++ (if l.stageable then [.staging n] else [])
    ++ (l.gangs.filter (fun e => e.2.want ≠ 0)).map (fun e => .preemption n e.1)

/-- Everything that may be due, in the order it is tried. -/
def State.dueEvents (s : State) : List Instr :=
  (s.crews.map (fun e => crewEvents e.1 e.2)).flatten
    ++ (s.cores.map (fun e => s.coreEvents e.1 e.2)).flatten
    ++ s.arrivals.map (fun e => .arrivalApplied e.1)
    ++ s.packets.map (fun e => if e.2.st = .performed then .acknowledgement e.1 else .packetArrival (.here e.1))
    ++ (s.colls.map (fun e => collEvents e.1 e.2)).flatten
    ++ (s.teams.filter (fun e => s.teamOver e.1)).map (fun e => .teamEnd e.1) ++ (s.teams.filter (fun e => e.2.phase ≠ 0)).map (fun e => .roundCommit e.1)
    ++ (s.isls.map (fun e => ([0, 1, 2, 3].filter (zoneRmir e.2.zone)).map (fun z => Instr.reMirror e.1 z))).flatten
    ++ (s.leases.map (fun e => s.leaseEvents e.1 e.2)).flatten
    ++ s.migrating.map (fun m => .migrationProceeds m.lease m.unit)
    ++ (s.launches.map (fun e => launchEvents e.1 e.2)).flatten
    ++ (s.replays.filter (fun e => e.2.st = 0)).map (fun e => .replaySlotTaken e.1)
    ++ (s.queues.filter (fun e => !e.2.heldRecs.isEmpty)).map (fun e => .heldCompletionRecord ⟨e.1 / 8 / 64, e.1 / 8 % 64⟩ (e.1 % 8))
    ++ (s.vfs.filter (fun e => e.2.resetting)).map (fun e => .functionLevelReset ⟨e.1 / 64, e.1 % 64⟩)

/-- The first of some events that changes the state. -/
def State.firstOf (s : State) : List Instr → Option State
  | [] => none
  | e :: es =>
    let t := nextOf s (exec e s)
    if t = s then s.firstOf es else some t

/-! ### Placement in turn (R111, R278, R328, R403) -/

/-- Benches of an island, each as its cores. -/
def benches (i : Nat) : List (List Nat) :=
  (List.range 44).map (fun b => (islCores i).filter (fun ck => coreBench ck == b))

/-- Gives each of some teams a core of its own that it passes on, the first way there is. -/
def assignCores {α : Type} (ok : α → Nat → Bool) : List α → List Nat → Option (List Nat)
  | [], _ => some []
  | t :: ts, cs => cs.findSome? (fun ck => if ok t ck then (assignCores ok ts (cs.erase ck)).map (ck :: ·) else none)

/-- The gangs of a launch that wait to be placed, resumed or restarted, as events for every bench whose cores pass R112 for
them. -/
def State.placements (s : State) (n : Nat) (l : Launch) : List Instr :=
  let on {α : Type} (ts : List α) (crews : α → Nat) (owner : α → Bool) : List (List Nat) :=
    (benches l.isl).filterMap (assignCores (fun t ck => s.passes ck (crews t) l.nreg l.slab (owner t)) ts)
  let gs := List.range (l.nteam / (l.gsz + 1))
  let new := (gs.find? (fun g => (pget Gang.waiting l.gangs g).st = .waiting && (pget Gang.waiting l.gangs g).restart.isEmpty)).toList
  let fresh := new.map (fun g => (on (List.range (l.gsz + 1)) (fun _ => l.ncrew) (fun _ => false)).map (fun cs => Instr.gangPlacement n g cs))
  let again := (l.gangs.filter (fun e => e.2.st = .saved)).map (fun e =>
    (on e.2.teams (fun t => (e.2.crewsOf t.id).length) (·.owner)).map (fun cs => Instr.resumption n e.1 cs))
  let back := (l.gangs.filter (fun e => !e.2.restart.isEmpty)).map (fun e =>
    (on e.2.restart (fun r => l.partsOf r.2.2) (fun _ => false)).map (fun cs => Instr.guardedRestart ((e.2.restart.headD (0, 0, .start)).1) cs))
  (again ++ back ++ fresh).flatten

/-- The placement that a function's launches would make now. -/
def State.placeFor (s : State) (fn : Nat) : Option State :=
  s.firstOf ((s.launches.filter (fun e => e.2.fn == fn && e.2.staged && decide (e.2.st < 2))).map (fun e => s.placements e.1 e.2)).flatten

/-- Functions with staged launches. -/
def State.readyFns (s : State) : List Nat :=
  ((s.launches.filter (fun e => e.2.staged && decide (e.2.st < 2))).map (fun e => e.2.fn)).eraseDups.filter (fun fn => (s.placeFor fn).isSome)

/-- Deficit round robin (R403): a function with credit left places one gang and gives up one; where none has any, each gets
its weight. -/
def State.placeTurn (s : State) : Option State :=
  let fns := s.readyFns
  let own := fns.filter (fun fn => decide (1 ≤ s.weight fn))
  match own with
  | [] => match fns with
    | [] => none
    | fn :: _ => s.placeFor fn
  | f :: _ =>
    let credit (fn : Nat) : Nat := pget 0 s.deficits fn
    match own.find? (fun fn => decide (1 ≤ credit fn)) with
    | some fn => { s with deficits := pset 0 s.deficits fn (credit fn - 1) }.placeFor fn
    | none =>
      let d := own.foldl (fun d fn => pset 0 d fn (s.weight fn)) s.deficits
      { s with deficits := pset 0 d f (s.weight f - 1) }.placeFor f

/-! ### Swaps (R158, R159) -/

/-- A swap of some quarter, or the displacement of R159, once a crew has waited for 1024 issues of its quarter. -/
def State.swapTurn (s : State) : Option State :=
  let qs := ((s.crews.filter (fun e => e.2.place = .pending)).map (fun e => (e.2.core, e.2.quarter))).eraseDups
  let late (ck q : Nat) : Bool := match s.latestCrew ck q with
    | some e => decide (1024 ≤ e.2.waited)
    | none => false
  s.firstOf ((qs.map (fun (ck, q) => if late ck q then [Instr.swapStart ck q, .displacement ck q] else [.swapStart ck q])).flatten)

/-! ### The next executor (R154-R157) -/

/-- Keys of what may issue: a core's quarters 0 to 3, then its sequencers. -/
def State.issuers (s : State) : List Nat :=
  (s.crews.filter (fun e => s.mayIssue e.2)).map (fun e => e.2.core * 8 + e.2.quarter)
    ++ (s.cores.map (fun e => ([false, true].filter (fun cp => s.seqFetches e.1 cp
      && (((s.core e.1).seq cp).st = .running || nextOf s (runExec (.seq e.1 cp) { s with cur := some (.seq e.1 cp) }) ≠ s))).map
        (fun cp => e.1 * 8 + (if cp then 5 else 4)))).flatten

/-- The key whose turn it is: a sequencer that was held, since a place in the checker is its own before a crew's (R217); else the
next one above the last, else the lowest. -/
def State.issuerTurn (s : State) : Option Nat :=
  let ks := s.issuers
  let held (k : Nat) : Bool := decide (4 ≤ k % 8) && ((s.core (k / 8)).seq (k % 8 == 5)).st == .held
  match leastOf (ks.filter held), leastOf (ks.filter (fun k => decide (s.last < k))) with
  | some k, _ => some k
  | none, some k => some k
  | none, none => leastOf ks

/-- The oldest crew of a quarter that may issue (R155). -/
def State.oldest (s : State) (ck q : Nat) : Option Nat :=
  (lowestBy (fun c => (c.stamp, 0)) ((s.quarterCrews ck q).filter (fun e => s.mayIssue e.2))).map (·.1)

/-- Whether the run of a crew's word was an issue of its quarter: no header, no stall, no trap entry. -/
def State.issues (s : State) (id : Nat) (c : Crew) (t : State) : Bool :=
  !c.clauseWaits && (match s.fetch (.crew id) with
    | .error _ => false
    | .ok (.clauseHeader _) => false
    | .ok _ =>
      match pfind t.crews id with
      | none => true
      | some d => d.stall ≠ .long && d.stall ≠ .hold && d.trap.isNone && (c.handler || !d.handler))

/-- Counts an issue of a quarter (R157, R158): it ends every other crew's run, and the sixteenth in a row with another crew
ready makes the crew youngest; a swap in progress is one clock older, and so is the wait of a crew that waits (R159). -/
def State.countRun (s : State) (ck q id : Nat) (other : Bool) : State :=
  let s1 := ({ s with crews := peach s.crews (fun k c =>
    if c.core = ck && c.quarter = q && k ≠ id then { c with run := 0, waited := if c.waits then c.waited + 1 else c.waited } else c) }).modCore ck (fun c =>
      { c with swapAge := pset 0 c.swapAge q (pget 0 c.swapAge q + 1) })
  match pfind s1.crews id with
  | none => s1
  | some c =>
    if !other then s1.setCrew id { c with run := 0 }
    else if c.run + 1 < 16 then s1.setCrew id { c with run := c.run + 1 }
    else
      let (s2, n) := s1.nextStamp ck q
      s2.setCrew id { c with stamp := n, run := 0 }

/-- The word of a crew of a quarter (R155): an issue counts. -/
def State.issueBy (s0 : State) (ck q id : Nat) : State :=
  let s := s0.yieldOver ck q
  let other := ((s.quarterCrews ck q).filter (fun e => s.mayIssue e.2)).length ≠ 1
  let t := nextOf s (runExec (.crew id) { s with cur := some (.crew id) })
  match pfind s.crews id with
  | some c => if s.issues id c t then t.countRun ck q id other else t
  | none => t

/-- One issue by the executor whose turn it is; with none the panel idles. -/
def State.issueTurn (s : State) : State :=
  match s.issuerTurn with
  | none => s
  | some k =>
    let ck := k / 8
    let s1 := { s with last := k }
    if 4 ≤ k % 8 then nextOf s1 (runExec (.seq ck (k % 8 = 5)) { s1 with cur := some (.seq ck (k % 8 = 5)) })
    else
      match s.oldest ck (k % 8) with
      | none => s1
      | some id => s1.issueBy ck (k % 8) id

/-- A `spawn` that comes next, which is judged before a waiting gang takes its place (R123). -/
def State.spawnTurn (s : State) : Option State :=
  let next := s.crews.filter (fun e => s.mayIssue e.2 && !e.2.clauseWaits && s.oldest e.2.core e.2.quarter == some e.1
    && (match s.fetch (.crew e.1) with
      | .ok (.spawn _) => true
      | _ => false))
  next.head?.map (fun e => s.issueBy e.2.core e.2.quarter e.1)

/-! ### The relayout engines (R300) -/

/-- The step of a relayout engine that has let `n` issues pass (assumption 1). -/
def State.convDue (s : State) (n : Nat) : Option State :=
  s.firstOf ((s.isls.filter (fun e => decide (n ≤ e.2.convAge))).filterMap (fun e =>
    e.2.convNow.map (fun v => Instr.tileConversion e.1 v.id)))

/-- An issue lets the engines that have work grow older. -/
def State.ageConvs (s : State) : State :=
  { s with isls := peach s.isls (fun _ x => if x.convNow.isSome then { x with convAge := x.convAge + 1 } else x) }

/-- An engine's step after each 32 issues, or where nothing issues (assumption 1); else an issue. -/
def State.issueOrConvert (s : State) : State :=
  match s.convDue 32 with
  | some t => t
  | none =>
    let t := s.issueTurn
    if t = s then (s.convDue 0).getD s else t.ageConvs

/-! ### Going on -/

/-- One step of a panel on which nothing is asked for: the boot, else what is due first, else a placement, a swap or an
issue. -/
def State.proceed (s0 : State) : State :=
  if s0.boot.step = 0 ∧ s0.boot.fstep = 0 then nextOf s0 (exec .panelReset s0)
  else
    let s := s0.retest
    match s.firstOf s.dueEvents with
    | some t => t
    | none =>
      if !s.waiting.isEmpty && s.takeCommand ≠ s then s.takeCommand
      else
        match s.placeTurn with
        | some t => (s.spawnTurn.map (fun u => s.swapTurn.getD u)).getD t
        | none =>
          match s.swapTurn with
          | some t => t
          | none => s.issueOrConvert

/-- A word of a crew or a sequencer, as against an event. -/
def Instr.isWord (i : Instr) : Bool := match i with
  | .clauseHeader _ => true
  | _ => i.word?.isSome

/-- A swap or an issue while all that may be due takes longer: no packet arrives, no operation completes (R340, R345, R358). -/
def State.wordStep (s0 : State) : State :=
  let s := s0.retest
  s.swapTurn.getD s.issueOrConvert

/-- An entry of the script: an event happens; a word stands for the next issue, ahead of whatever else may be due. -/
def State.scripted (s : State) (e : Instr) : Host.Outcome State Fault Refusal :=
  if Instr.isWord e then .next s.wordStep else exec e s.retest

end Sys2Proof.Machine
end

