-- ==== Sys2Proof/Machine/Step.lean ====
section
/-! DEFINITION. One step of the panel (assumption 1). -/

namespace Sys2Proof.Machine

/-- One step: the word of the selected executor, else the next event of the script, else the panel goes on by itself. -/
def step (s : State) : Host.Outcome State Fault Refusal :=
  match s.cur with
  | some x => runExec x s
  | none =>
    match s.script with
    | e :: es => { s with script := es }.scripted e
    | [] => .next s.proceed

/-- Address of the header under a word placed by `withFetchWord`: a block of its own. -/
def placeBase : Nat := 0x10000

/-- A five-level table whose path leads the placed block's page to itself (R302): tables from 0x100000 up, each entry the
first of its table but for level 0. -/
def placeTables : List (Nat × Nat) :=
  [(0x100000, 0x108001), (0x108000, 0x10A001), (0x10A000, 0x10B001), (0x10B000, 0x10C001), (0x10C008, 0x1000F)]

def putWords : Memory → List (Nat × Nat) → Memory
  | m, [] => m
  | m, (a, v) :: r => putWords (m.writeBytes a (leBytes 8 v)) r

/-- The launch, team and crew that a placed word runs in (assumption 21). -/
def placeLaunch : Launch :=
  { blankLaunch with
    asid := 1, entry := BitVec.ofNat 64 placeBase, ranges := [⟨0, 2 ^ 57, true, true⟩], nreg := 256, slab := 1, st := 1
    gangs := [(0, { Gang.waiting with st := .placed })] }

def placeTeam : Team := { blankTeam with launch := 1, slab := 1 }

def placeCrew (left : Nat) (off : Nat) : Crew :=
  { Crew.fresh with
    team := 1, nreg := 256, pc := BitVec.ofNat 64 (placeBase + off), hdr := BitVec.ofNat 64 placeBase, left := left, slot := 0x100000 }

/-- Puts an instruction where the machine fetches next: in the code of a crew placed on core 0 of island 0, or of a
sequencer where no crew may execute it, right behind its clause header, with whose fetch the TLB has taken the page
(assumption 21). -/
def State.withFetchWord (s : State) (nbits w : Nat) : State :=
  let word := BitVec.ofNat 128 (w % 2 ^ nbits)
  let isHeader := decide ((word.extractLsb' 0 2).toNat = 3)
  let k := tableKind word
  let off := if isHeader then 0 else 8
  let left := if isHeader then 0 else 1
  let q : Sequencer :=
    { Sequencer.idle with
      st := .running, pc := BitVec.ofNat 64 (placeBase + off), hdr := BitVec.ofNat 64 placeBase, left := left }
  let s1 := (s.setTeam 1 placeTeam).setCrew 1 (placeCrew left off)
  let s2 := (s1.modIsl 0 (fun i => { i with roots := pput i.roots 1 0x100000 })).modCore 0 (fun c =>
    if k = .matrix then { c with owner := some 1, ms := q } else { c with owner := some 1 })
  let x : Exec := if k = .matrix then .seq 0 false else .crew 1
  let s3 : State :=
    { s2 with
      script := [], cur := some x, nextId := 2, launches := pput s2.launches 1 placeLaunch
      mem := (putWords s2.mem placeTables).writeBytes (placeBase + off) (wordBytes 16 word) }
  s3.fetched x

end Sys2Proof.Machine
end

