-- ==== Sys2Proof/Safety.lean ====
section
/-! DEFINITION. What counts as a safe run: steps that stop with no fault and no refusal. -/

namespace Sys2Proof.Machine

/-- A step that gives a next state. -/
def Goes (s : State) : Prop := ∃ t, step s = .next t

/-- States reached from one state in n steps, each of which gives a next state. -/
def Reaches : Nat → State → State → Prop
  | 0, s, t => t = s
  | n + 1, s, t => ∃ u, step s = .next u ∧ Reaches n u t

/-- A run is safe where every state it reaches goes on. -/
def Safe (s : State) : Prop := ∀ n t, Reaches n s t → Goes t

end Sys2Proof.Machine
end

