-- ==== Sys2Proof/Certificates/Slice0/Obligations.lean ====
section
/-! DEFINITION. The statements for the provers, with the terms they are written in. OBLIGATIONS.json lists each with its
rules. A statement about a next state gives it as an equation or names what it holds. -/

namespace Sys2Proof.Stated

open Sys2Proof Sys2Proof.Machine

/-! ### Terms -/

/-- Crew `id`, whose record is `c`, is the executor selected for the step. -/
def Runs (s : State) (id : Nat) (c : Crew) : Prop := s.cur = some (.crew id) ∧ pfind s.crews id = some c

/-- Sequencer `cp` of core `ck` (false: matrix, true: copy) is the executor selected. -/
def SeqRuns (s : State) (ck : Nat) (cp : Bool) : Prop := s.cur = some (.seq ck cp)

/-- The operands of a word are there: no register it names awaits a value (R31), and every one is below R (R120). -/
def Ready (c : Crew) (i : Instr) (f : Form) : Prop := c.preFault i.desc f = none

/-- The machine after a word that changed nothing but its crew, which became `d`. -/
def After (s : State) (id : Nat) (d : Crew) : State := { s with crews := pput s.crews id d, cur := none }

/-- The crew has passed the word (R25, R29): the next word of the same clause follows. -/
def Passed (c d : Crew) (f : Form) : Prop :=
  d.pc = c.pc + BitVec.ofNat 64 f.len.bytes ∧ d.hdr = c.hdr ∧ d.idx = c.idx + 1 ∧ d.left = c.left - 1 ∧ d.wm = 0

/-- The crew in a state. -/
def crewAt (s : State) (id : Nat) : Crew := (pfind s.crews id).getD Crew.fresh

/-- The value a word pushed last, in a lane (R116). -/
def pushed (d : Crew) (l : Nat) : DWord := laneOf (d.hget 0).vals l

/-! ### Per-lane results (R51, R53, R55) -/

/-- An operation on words of any width, at the width of a type: a 32-bit result has zeros above it. -/
def atType (op : (w : Nat) → BitVec w → BitVec w → BitVec w → BitVec w) (ty : Nat) (a b c : DWord) : DWord :=
  if regsOf ty = 2 then op 64 a b c else (op 32 (lowWord a) (lowWord b) (lowWord c)).setWidth 64

/-- A per-lane word `i` whose result in lane `l` is `r l`, of `regs` registers: active lanes take it in the named
destination where nd = 1 and in the history entry; an inactive lane keeps the destination and has zero in the entry. -/
def LaneResult (c d : Crew) (f : Form) (regs : Nat) (r : Nat → DWord) : Prop :=
  (∀ l < 32, pushed d l = if c.isActive l then r l else 0) ∧
  (∀ l < 32, laneOf (d.vget f.dst.toNat) l = if f.nd ∧ c.isActive l then lowWord (r l) else laneOf (c.vget f.dst.toNat) l) ∧
  (regs = 2 → ∀ l < 32, laneOf (d.vget (f.dst.toNat + 1)) l =
    if f.nd ∧ c.isActive l then highWord (r l) else laneOf (c.vget (f.dst.toNat + 1)) l)

/-- The per-lane form of an integer word completes, with its result by `op` at the type's width; `tb` and `tc` are the
types of b and c. -/
def IntLanes (mk : Form → Instr) (tys : Nat → Bool) (tb tc tr : Form → Nat)
    (op : Nat → (w : Nat) → BitVec w → BitVec w → BitVec w → BitVec w) : Prop :=
  ∀ (f : Form) (s : State) (id : Nat) (c : Crew), Runs s id c → Ready c (mk f) f → tys f.ty = true → f.m4 = false → f.m5 = false →
    ∃ d, exec (mk f) s = .next (After s id d) ∧ Passed c d f ∧
      LaneResult c d f (regsOf (tr f)) (fun l =>
        atType (op f.ty) f.ty (c.srcTy f f.ty f.a l) (c.srcTy f (tb f) f.b l) (c.srcTy f (tc f) f.c l))

/-- The uniform form of an integer word completes (R54): the result is computed once, written zero-extended to `k`dst
where nd = 1, and pushed in every lane. -/
def IntUniform (mk : Form → Instr) (tys : Nat → Bool) (tb tc : Form → Nat)
    (op : Nat → (w : Nat) → BitVec w → BitVec w → BitVec w → BitVec w) : Prop :=
  ∀ (f : Form) (s : State) (id : Nat) (c : Crew), Runs s id c → Ready c (mk f) f → tys f.ty = true → f.m4 = false → f.m5 = true →
    ∃ d, exec (mk f) s = .next (After s id d) ∧ Passed c d f ∧
      d.kget f.dst.toNat = (if f.nd then
        atType (op f.ty) f.ty (c.uniTy f f.ty f.a) (c.uniTy f (tb f) f.b) (c.uniTy f (tc f) f.c) else c.kget f.dst.toNat) ∧
      ∀ l < 32, pushed d l = atType (op f.ty) f.ty (c.uniTy f f.ty f.a) (c.uniTy f (tb f) f.b) (c.uniTy f (tc f) f.c)

/-- Both forms. -/
def IntWord (mk : Form → Instr) (tys : Nat → Bool) (tb tc tr : Form → Nat)
    (op : Nat → (w : Nat) → BitVec w → BitVec w → BitVec w → BitVec w) : Prop :=
  IntLanes mk tys tb tc tr op ∧ IntUniform mk tys tb tc op

def sTys (ty : Nat) : Bool := ty == 1 || ty == 3
def isS (ty : Nat) : Bool := ty == 1 || ty == 3

/-- Order of a type: unsigned for u types, two's complement for s types. -/
def lessAt (ty w : Nat) (a b : BitVec w) : Bool := if isS ty then a.slt b else a.ult b

end Sys2Proof.Stated

open Sys2Proof Sys2Proof.Machine Sys2Proof.Stated

/-! ## Integer words -/

/-- R55: `add`, `sub`, `mul` and `mad` without `.sat` give the exact result modulo 2^w. -/
def Sys2Proof.Stated.IntegerSumsAndProducts : Prop :=
  IntWord .add intTys Form.ty Form.ty Form.ty (fun _ _ a b _ => a + b) ∧
  IntWord .sub intTys Form.ty Form.ty Form.ty (fun _ _ a b _ => a - b) ∧
  IntWord .mul intTys Form.ty Form.ty Form.ty (fun _ _ a b _ => a * b) ∧
  IntWord .mad intTys Form.ty Form.ty Form.ty (fun _ _ a b x => a * b + x)

/-- R55: `and`, `or`, `xor` and `not` work bit by bit. -/
def Sys2Proof.Stated.IntegerLogic : Prop :=
  IntWord .and bitTys Form.ty Form.ty Form.ty (fun _ _ a b _ => a &&& b) ∧
  IntWord .or bitTys Form.ty Form.ty Form.ty (fun _ _ a b _ => a ||| b) ∧
  IntWord .xor bitTys Form.ty Form.ty Form.ty (fun _ _ a b _ => a ^^^ b) ∧
  IntWord .not bitTys Form.ty Form.ty Form.ty (fun _ _ a _ _ => ~~~a)

/-- R55: `abs`, `min`, `max` and `mulh`; the last gives the high half of the double-width product. -/
def Sys2Proof.Stated.IntegerOrder : Prop :=
  IntWord .abs sTys Form.ty Form.ty Form.ty (fun _ _ a _ _ => if a.msb then -a else a) ∧
  IntWord .min intTys Form.ty Form.ty Form.ty (fun ty w a b _ => if lessAt ty w b a then b else a) ∧
  IntWord .max intTys Form.ty Form.ty Form.ty (fun ty w a b _ => if lessAt ty w a b then b else a) ∧
  IntWord .mulh intTys Form.ty Form.ty Form.ty (fun ty w a b _ =>
    if isS ty then (a.signExtend (2 * w) * b.signExtend (2 * w)).extractLsb' w w
    else (a.setWidth (2 * w) * b.setWidth (2 * w)).extractLsb' w w)

/-- R55: shifts by bits [7:0] of a 32-bit amount; an amount of w or more gives 0, or the sign for `sra`; `rotl` takes it
modulo w. -/
def Sys2Proof.Stated.IntegerShifts : Prop :=
  IntWord .shl bitTys (fun _ => 0) (fun _ => 0) Form.ty (fun _ _ a b _ => a <<< (b.toNat % 256)) ∧
  IntWord .shr bitTys (fun _ => 0) (fun _ => 0) Form.ty (fun _ _ a b _ => a >>> (b.toNat % 256)) ∧
  IntWord .sra sTys (fun _ => 0) (fun _ => 0) Form.ty (fun _ w a b _ => a.sshiftRight (min (b.toNat % 256) (w - 1))) ∧
  IntWord .rotl bitTys (fun _ => 0) (fun _ => 0) Form.ty (fun _ _ a b _ => a.rotateLeft (b.toNat % 256))

/-- R55: `clz`, `popc` (their result is u32 at any width) and `brev`. -/
def Sys2Proof.Stated.IntegerBits : Prop :=
  IntWord .clz bitTys Form.ty Form.ty (fun _ => 0) (fun _ w a _ _ =>
    BitVec.ofNat w (if a = 0 then w else w - 1 - a.toNat.log2)) ∧
  IntWord .popc bitTys Form.ty Form.ty (fun _ => 0) (fun _ w a _ _ =>
    BitVec.ofNat w ((List.range w).countP (fun i => a.getLsbD i))) ∧
  IntWord .brev bitTys Form.ty Form.ty Form.ty (fun _ _ a _ _ => a.reverse)

/-- R56: the field of `bfe` and the field that `bfi` replaces. -/
def Sys2Proof.Stated.IntegerFields : Prop :=
  IntWord .bfe intTys (fun _ => 0) (fun _ => 0) Form.ty (fun ty w a p n =>
    let p := p.toNat % 128
    let n := min (n.toNat % 128) (w - p)
    if w ≤ p ∨ n = 0 then 0 else if isS ty then (a.extractLsb' p n).signExtend w else (a.extractLsb' p n).setWidth w) ∧
  IntWord .bfi bitTys Form.ty (fun _ => 0) Form.ty (fun _ w a b ctl =>
    let p := ctl.toNat % 128
    let n := min (ctl.toNat / 256 % 128) (w - p)
    if w ≤ p ∨ n = 0 then a
    else
      let mask : BitVec w := BitVec.ofNat w (2 ^ n - 1) <<< p
      (a &&& ~~~mask) ||| (b <<< p &&& mask))

/-- R55, R56: logic, shifts, bit counts and bit fields of the integer words. -/
def Obligations.IntegerBitWords : Prop := IntegerLogic ∧ IntegerShifts ∧ IntegerBits ∧ IntegerFields

namespace Sys2Proof.Stated

open Sys2Proof Sys2Proof.Machine

/-- A per-lane word completes with the result `r`, and writes its crew alone. -/
def LaneWord (i : Instr) (f : Form) (regs : Nat) (ok : Crew → Prop) (r : Crew → Nat → DWord) : Prop :=
  ∀ (s : State) (id : Nat) (c : Crew), Runs s id c → Ready c i f → ok c →
    ∃ d, exec i s = .next (After s id d) ∧ Passed c d f ∧ LaneResult c d f regs (r c)

/-- A uniform word completes with the result `r`. -/
def UniformWord (i : Instr) (f : Form) (r : Crew → DWord) : Prop :=
  ∀ (s : State) (id : Nat) (c : Crew), Runs s id c → Ready c i f →
    ∃ d, exec i s = .next (After s id d) ∧ Passed c d f ∧
      d.kget f.dst.toNat = (if f.nd then r c else c.kget f.dst.toNat) ∧ ∀ l < 32, pushed d l = r c

/-- A word that makes a mask (R60): the mask register where nd = 1, and 1 or 0 in each active lane's entry. -/
def MaskWord (i : Instr) (f : Form) (p : Crew → Nat → Bool) : Prop :=
  ∀ (s : State) (id : Nat) (c : Crew), Runs s id c → Ready c i f → f.dst.toNat ≤ 7 →
    ∃ d, exec i s = .next (After s id d) ∧ Passed c d f ∧
      (f.nd = true → ∀ l < 32, (d.mget f.dst.toNat).getLsbD l = (c.isActive l && p c l)) ∧
      (f.nd = false → d.m = c.m) ∧ ∀ l < 32, pushed d l = if c.isActive l && p c l then 1 else 0

/-- The number that an operand of an integer type holds (R53). -/
def number (ty : Nat) (x : DWord) : Int :=
  match ty with
  | 0 => (lowWord x).toNat
  | 1 => (lowWord x).toInt
  | 2 => x.toNat
  | _ => x.toInt

/-- A number clamped to the range of an integer type: u32, s32, u64, s64 (R55). -/
def clampedTo (ty : Nat) (n : Int) : DWord :=
  match ty with
  | 0 => (BitVec.ofInt 32 (max 0 (min (2 ^ 32 - 1) n))).setWidth 64
  | 1 => (BitVec.ofInt 32 (max (-2 ^ 31) (min (2 ^ 31 - 1) n))).setWidth 64
  | 2 => BitVec.ofInt 64 (max 0 (min (2 ^ 64 - 1) n))
  | _ => BitVec.ofInt 64 (max (-2 ^ 63) (min (2 ^ 63 - 1) n))

/-- Conditions of `cmp` (R60) at a width. -/
def condAt (ty cond w : Nat) (a b : BitVec w) : Bool :=
  match cond with
  | 0 => a == b
  | 1 => a != b
  | 2 => lessAt ty w a b
  | _ => !lessAt ty w b a

/-- The effective address of a lane as R66 writes it. -/
def address (c : Crew) (f : Form) (scale : Nat) (l : Nat) : DWord :=
  (if f.a = .zero then 0 else c.uni f 2 f.a)
    + (if f.b.src = .v 0 then 0 else (c.src32 f 1 f.b l).signExtend 64 * BitVec.ofNat 64 scale) + f.imm 3 false

/-! ### What a word that works on its crew alone leaves (R51, R54, R116, R126) -/

/-- Nothing of the crew but its registers, masks, history, sticky flags and its place in the clause has changed. -/
def CrewRest (c d : Crew) : Prop :=
  d = { c with
    v := d.v, k := d.k, m := d.m, em := d.em, hist := d.hist, fxs := d.fxs, pc := d.pc, idx := d.idx, left := d.left
    wm := 0, stall := .none, yielded := false, cw := none }

/-- Words of those below that push nothing onto the history (R117). -/
def pushesNone (i : Instr) : Bool :=
  match i with
  | .nop _ | .mskIf _ | .mskIfM _ | .mskElse _ | .mskEnd _ | .mand _ | .mor _ | .mxor _ | .mnot _ | .mmovMask _
  | .mmovFromUniform _ | .mmovToUniform _ => true
  | _ => false

/-- The word pushes one entry, with no value awaited, or it is one of those that push none (R116, R117). -/
def HistBy (i : Instr) (c d : Crew) : Prop :=
  if pushesNone i then d.hist = c.hist else ∃ h : Hist, h.pend = none ∧ d.hist = h :: c.hist.take 15

/-- Words that write the execution mask: the `msk` group, and a mask word whose destination is `em` (8). -/
def setsEm (i : Instr) (f : Form) : Bool :=
  match i with
  | .mskIf _ | .mskIfM _ | .mskElse _ | .mskEnd _ => true
  | .mand _ | .mor _ | .mxor _ | .mnot _ | .mmovMask _ | .mmovFromUniform _ => f.dst.toNat == 8
  | _ => false

/-- Only the destination that the word's own description names is written, in the active lanes for a named one. -/
def DestOnly (i : Instr) (f : Form) (c d : Crew) : Prop :=
  match i.desc.dst with
  | .v n => d.k = c.k ∧ d.m = c.m ∧
      (∀ r, ¬(f.nd = true ∧ f.dst.toNat ≤ r ∧ r < f.dst.toNat + n) → d.vget r = c.vget r) ∧
      ∀ r l, l < 32 → c.isActive l = false → laneOf (d.vget r) l = laneOf (c.vget r) l
  | .k _ => d.v = c.v ∧ d.m = c.m ∧ ∀ r, ¬(f.nd = true ∧ r = f.dst.toNat) → d.kget r = c.kget r
  | .m req _ => d.v = c.v ∧ d.k = c.k ∧ (f.nd = false → req = false → d.m = c.m) ∧
      ∀ r < 8, r ≠ f.dst.toNat → d.mget r = c.mget r
  | .no => d.v = c.v ∧ d.k = c.k ∧ d.m = c.m

/-- The frame of a word that works on its crew alone. -/
def LocalFrame (i : Instr) (f : Form) (c d : Crew) : Prop :=
  Passed c d f ∧ CrewRest c d ∧ HistBy i c d ∧ DestOnly i f c d ∧ (setsEm i f = false → d.em = c.em)

/-- The mod field is one the word accepts, and a mask destination lies in its range. -/
def Accepts (i : Instr) (f : Form) : Prop :=
  i.desc.modOk = true ∧ ∀ req top, i.desc.dst = .m req top → f.dst.toNat ≤ top

/-- Words that work on their crew alone and raise no floating-point flag. -/
def quietWords : List (Form → Instr) :=
  [.nop, .add, .sub, .mul, .mulh, .mad, .abs, .min, .max, .and, .or, .xor, .not, .shl, .shr, .sra, .rotl, .clz, .popc, .brev,
    .bfe, .bfi, .mov, .lea, .sel, .cmp, .fneg, .fabs, .fcls, .acs2, .perm, .voteAny, .voteAll, .voteBallot, .mspl, .mskIf,
    .mskIfM, .mskElse, .mskEnd, .mand, .mor, .mxor, .mnot, .mcnt, .mmovMask, .mmovFromUniform, .mmovToUniform, .scmp, .sfnd,
    .shash, .hmix, .part]

/-- Words that work on their crew alone and may raise floating-point flags. -/
def floatWords : List (Form → Instr) :=
  [.fadd, .fsub, .fmul, .ffma, .fmin, .fmax, .frnd, .fsqrt, .fscl, .fxtr, .cvt, .fcmp, .fclamp, .hadd2, .hsub2, .hmul2, .hmin2,
    .hmax2, .hfma2, .bfma2, .hcmp2, .lred, .lscan]

/-- The approximate units (R86). -/
def unitWords : List (Form → Instr) := [.fexpf, .flog2, .frcp, .frsq]

/-! ### Floating-point bits -/

/-- A NaN of f32. -/
def nan32 (x : Word) : Bool := decide (0x7F800000 < (x &&& 0x7FFFFFFF).toNat)

/-- The bits of an f32 without its sign. -/
def mag (x : Word) : Nat := (x &&& 0x7FFFFFFF).toNat

/-- A unit's result in the active lanes whose argument meets a condition, in the named destination and in the history, and the
sticky flags that such a lane sets. -/
def UnitAt (mk : Form → Instr) (f : Form) (ok : Word → Prop) (r : Word → Word) (x : FFlags) : Prop :=
  ∀ (s : State) (id : Nat) (c : Crew), Runs s id c → Ready c (mk f) f →
    ∃ d v, exec (mk f) s = .next { After s id d with free := s.free + 32 } ∧ LaneResult c d f 1 v ∧
      ∀ l < 32, c.isActive l = true → ok (c.src32 f 8 f.a l) →
        v l = (r (c.src32 f 8 f.a l)).setWidth 64 ∧ d.fxs &&& x.setWidth 64 = x.setWidth 64

end Sys2Proof.Stated

/-- R57, R58 and R59: moves, addresses and selects. -/
def Sys2Proof.Stated.MovesAndSelects : Prop :=
  IntWord .mov bitTys Form.ty Form.ty Form.ty (fun _ _ a _ _ => a) ∧
  (∀ f : Form, f.mod.getLsbD 0 = false →
    LaneWord (.lea f) f 2 (fun _ => True) (fun c => address c f (if f.xBit 0 then 16 else 2 ^ f.hi))) ∧
  (∀ f : Form, f.mod.getLsbD 0 = true →
    UniformWord (.lea f) f (fun c => (if f.a = .zero then 0 else c.uni f 2 f.a) + f.imm 3 false)) ∧
  (∀ f : Form, f.m5 = false → f.m4 = false →
    LaneWord (.sel f) f (regsOf f.ty) (fun _ => True) (fun c l =>
      if c.src32 f 0 f.c l = 0 then c.srcTy f f.ty f.b l else c.srcTy f f.ty f.a l)) ∧
  (∀ f : Form, f.m5 = false → f.m4 = true →
    LaneWord (.sel f) f (regsOf f.ty) (fun _ => True) (fun c l =>
      if (c.maskSrc f.c).getLsbD l then c.srcTy f f.ty f.a l else c.srcTy f f.ty f.b l)) ∧
  (∀ f : Form, f.m5 = true →
    UniformWord (.sel f) f (fun c => if lowWord (c.uni f 0 f.c) = 0 then c.uniTy f f.ty f.b else c.uniTy f f.ty f.a))

/-- R60: the compare, by the order of its type. -/
def Sys2Proof.Stated.IntegerCompare : Prop :=
  ∀ f : Form, (intTys f.ty || (bitTys f.ty && decide (f.hi < 2))) = true →
    MaskWord (.cmp f) f (fun c l =>
      if regsOf f.ty = 2 then condAt f.ty f.hi 64 (c.src64 f f.ty f.a l) (c.src64 f f.ty f.b l)
      else condAt f.ty f.hi 32 (c.src32 f f.ty f.a l) (c.src32 f f.ty f.b l))

/-- R57 to R60: moves, addresses, selects and the integer compare. -/
def Obligations.MovesAndCompares : Prop := MovesAndSelects ∧ IntegerCompare

/-- R55: with `.sat` the exact result of `add`, `sub`, `mul`, `mad` and `abs` is clamped to the type's range, in each active
lane or, in the uniform form, once. -/
def Sys2Proof.Stated.IntegerSaturation : Prop :=
  ∀ p ∈ ([(Instr.add, intTys, fun a b _ => a + b), (.sub, intTys, fun a b _ => a - b), (.mul, intTys, fun a b _ => a * b),
      (.mad, intTys, fun a b x => a * b + x), (.abs, sTys, fun a _ _ => if a < 0 then -a else a)] :
        List ((Form → Instr) × (Nat → Bool) × (Int → Int → Int → Int))),
    ∀ f : Form, p.2.1 f.ty = true → f.m4 = true →
      (f.m5 = false → LaneWord (p.1 f) f (regsOf f.ty) (fun _ => True) (fun c l =>
        clampedTo f.ty (p.2.2 (number f.ty (c.srcTy f f.ty f.a l)) (number f.ty (c.srcTy f f.ty f.b l))
          (number f.ty (c.srcTy f f.ty f.c l))))) ∧
      (f.m5 = true → UniformWord (p.1 f) f (fun c =>
        clampedTo f.ty (p.2.2 (number f.ty (c.uniTy f f.ty f.a)) (number f.ty (c.uniTy f f.ty f.b))
          (number f.ty (c.uniTy f f.ty f.c)))))

/-- R55: sums, products, order and saturation of the integer words. -/
def Obligations.IntegerArithmetic : Prop := IntegerSumsAndProducts ∧ IntegerOrder ∧ IntegerSaturation

/-- Words that work on their crew alone complete, change nothing but their crew, and of it only their destination, the
history and the place in the clause: each pushes one entry, but `nop`, the `msk` words and the mask words, which push none (R51,
R54, R116, R117). -/
def Sys2Proof.Stated.QuietWordsFrame : Prop :=
  ∀ mk ∈ quietWords, ∀ (f : Form) (s : State) (id : Nat) (c : Crew), Runs s id c → Ready c (mk f) f → Accepts (mk f) f →
    ∃ d, exec (mk f) s = .next (After s id d) ∧ LocalFrame (mk f) f c d ∧ d.fxs = c.fxs

/-- The same for the words that may raise floating-point flags: those are added to the sticky flags, and none is cleared
(R80). -/
def Sys2Proof.Stated.FloatWordsFrame : Prop :=
  ∀ mk ∈ floatWords, ∀ (f : Form) (s : State) (id : Nat) (c : Crew), Runs s id c → Ready c (mk f) f → Accepts (mk f) f →
    ∃ d, exec (mk f) s = .next (After s id d) ∧ LocalFrame (mk f) f c d ∧ ∃ x : FFlags, d.fxs = c.fxs ||| x.setWidth 64

/-- The approximate units complete: each takes one free value per lane (the model's choice, log entry 2), and leaves what
the other words of its kind leave. -/
def Sys2Proof.Stated.UnitWordsFrame : Prop :=
  ∀ mk ∈ unitWords, ∀ (f : Form) (s : State) (id : Nat) (c : Crew), Runs s id c → Ready c (mk f) f → Accepts (mk f) f →
    ∃ d, exec (mk f) s = .next { After s id d with free := s.free + 32 } ∧ LocalFrame (mk f) f c d ∧
      ∃ x : FFlags, d.fxs = c.fxs ||| x.setWidth 64

/-- Words that work on their crew alone complete, and leave what they do not write (R51, R54, R80, R116, R117): those that raise no
floating-point flag, those that may, and the approximate units. That each of these takes 32 free values is the model's choice
(log entry 2). -/
def Obligations.WordFrames : Prop := QuietWordsFrame ∧ FloatWordsFrame ∧ UnitWordsFrame

/-- R79, R86: what the units give at their special arguments, for every value of the free values, with the flags they set:
the whole column of R86's table, and a NaN source with its quiet bit set. -/
def Sys2Proof.Stated.UnitSpecialCases : Prop :=
  ∀ f : Form,
    (UnitAt .fexpf f (fun a => mag a = 0) (fun _ => 0x3F800000) 0 ∧
      UnitAt .fexpf f (fun a => 0x3F800000 < mag a ∧ mag a ≤ 0x7F800000) (fun _ => 0x7FC00000) flagNv) ∧
    (UnitAt .flog2 f (fun a => mag a = 0) (fun _ => 0xFF800000) flagDz ∧
      UnitAt .flog2 f (fun a => a = 0x7F800000) (fun _ => 0x7F800000) 0 ∧
      UnitAt .flog2 f (fun a => 0x80000000 < a.toNat ∧ a.toNat ≤ 0xFF800000) (fun _ => 0x7FC00000) flagNv) ∧
    (UnitAt .frcp f (fun a => mag a = 0) (fun a => a ||| 0x7F800000) flagDz ∧
      UnitAt .frcp f (fun a => mag a = 0x7F800000) (fun a => a &&& 0x80000000) 0 ∧
      UnitAt .frcp f (fun a => 0 < mag a ∧ mag a ≤ 0x00200000) (fun a => (a &&& 0x80000000) ||| 0x7F800000) flagOf) ∧
    (UnitAt .frsq f (fun a => mag a = 0) (fun a => a ||| 0x7F800000) flagDz ∧
      UnitAt .frsq f (fun a => a = 0x7F800000) (fun _ => 0) 0 ∧
      UnitAt .frsq f (fun a => 0x80000000 < a.toNat ∧ a.toNat ≤ 0xFF800000) (fun _ => 0x7FC00000) flagNv) ∧
    ∀ mk ∈ unitWords, UnitAt mk f (fun a => nan32 a = true) (fun a => a ||| 0x00400000) 0

/-- R81: `fneg` inverts and `fabs` clears the sign bit alone, in a NaN too. -/
def Sys2Proof.Stated.FloatSign : Prop :=
  ∀ f : Form, f.ty = 8 → f.m5 = false →
    LaneWord (.fneg f) f 1 (fun _ => True) (fun c l => (c.src32 f 8 f.a l ^^^ 0x80000000).setWidth 64) ∧
    LaneWord (.fabs f) f 1 (fun _ => True) (fun c l => (c.src32 f 8 f.a l &&& 0x7FFFFFFF).setWidth 64)

/-- R79: with a NaN source the result of `fadd`, `fsub` and `fmul` is the first NaN with its quiet bit set. -/
def Sys2Proof.Stated.FloatFirstNan : Prop :=
  ∀ mk ∈ ([.fadd, .fsub, .fmul] : List (Form → Instr)), ∀ (f : Form) (s : State) (id : Nat) (c : Crew),
    Runs s id c → Ready c (mk f) f → f.ty = 8 → f.m5 = false →
    ∃ d, exec (mk f) s = .next (After s id d) ∧ ∀ l < 32, c.isActive l = true →
      (nan32 (c.src32 f 8 f.a l) = true → pushed d l = (c.src32 f 8 f.a l ||| 0x00400000).setWidth 64) ∧
      (nan32 (c.src32 f 8 f.a l) = false → nan32 (c.src32 f 8 f.b l) = true →
        pushed d l = (c.src32 f 8 f.b l ||| 0x00400000).setWidth 64)

namespace Sys2Proof.Stated

open Sys2Proof Sys2Proof.Machine

/-! ### Fetching and stepping -/

/-- The word at an address of a launch's code, on a core: its first byte gives the length, it lies in one 32-byte block, it
may be fetched whole, and it decodes to `i` for the executor; a header stands where and only where no instruction of the
clause is left, and a control transfer is the last of its clause (R24, R25, R29, R39). -/
def WordAt (s : State) (k : ExecKind) (ck : Nat) (l : Launch) (pc : DWord) (left : Nat) (i : Instr) : Prop :=
  ∃ p q, s.checkPlain l (s.core ck).tlb .fetch pc.toNat 4 = .ok p ∧
    let n := wordLen ((s.fetchBytes ck p 4).headD 0)
    pc.toNat % 32 + n ≤ 32 ∧ s.checkPlain l (s.core ck).tlb .fetch pc.toNat n = .ok q ∧
    let w := wordOf (s.fetchBytes ck q n)
    decodeWord k w = .ok i ∧ ((w.extractLsb' 0 2).toNat = 3 ↔ left = 0) ∧
    (isControl (opcOf w) = true → (w.extractLsb' 0 2).toNat = 3 ∨ left = 1)

/-- The launch whose code a sequencer of a core runs. -/
def seqLaunch (s : State) (ck : Nat) : Launch := s.launch (s.team ((s.core ck).owner.getD 0)).launch

/-- A crew that passes its word and is otherwise as it was. -/
def past (c : Crew) (f : Form) : Crew :=
  { c with
    pc := c.pc + BitVec.ofNat 64 f.len.bytes, idx := c.idx + 1, left := c.left - 1, wm := 0, stall := .none, yielded := false
    cw := none }

/-- A crew at a transfer's target (R29, R61). -/
def sent (c : Crew) (target : DWord) : Crew :=
  { c with pc := target, hdr := target, idx := 0, left := 0, wm := 0, stall := .none, yielded := false, cw := none }

/-- A transfer's target is aligned and holds a clause header within one block (R25, R29). -/
def HeaderAt (s : State) (c : Crew) (t : DWord) : Prop :=
  t.toNat % 4 = 0 ∧ t.toNat % 32 ≤ 24 ∧ s.wordKind c.core (s.launchOf c) t = some 3

/-- A transfer's target is not aligned, or can be fetched and holds no clause header (R61). -/
def NoHeaderAt (s : State) (c : Crew) (t : DWord) : Prop :=
  t.toNat % 4 ≠ 0 ∨ ∃ n, s.wordKind c.core (s.launchOf c) t = some n ∧ n ≠ 3

/-- The word raises a precise trap of a crew: it has no effect of its own, and the crew takes the cause (R267). -/
def Raises (s : State) (id : Nat) (i : Instr) (x : Cause) : Prop := exec i s = .next (s.raiseTrap id x 0).issued

/-- The word waits: it is not issued, and its crew is stalled (R156). -/
def Waits (s : State) (id : Nat) (i : Instr) : Prop := exec i s = .next (s.stallCrew id).issued

/-- A word that reads the machine and gives a uniform result `r` (R54), and writes its crew alone. -/
def UniformWordAt (i : Instr) (f : Form) (r : State → Crew → DWord) : Prop :=
  ∀ (s : State) (id : Nat) (c : Crew), Runs s id c → Ready c i f →
    ∃ d, exec i s = .next (After s id d) ∧ LocalFrame i f c d ∧ d.fxs = c.fxs ∧
      d.kget f.dst.toNat = (if f.nd then r s c else c.kget f.dst.toNat) ∧ ∀ l < 32, pushed d l = r s c

end Sys2Proof.Stated

/-! ## Steps, words, clauses -/

/-- A step runs the word at the program counter of the executor selected, as `exec` does (R24, R29), on the state whose TLB
holds the fetch's translation (R304; `fetched` changes nothing but what is cached of the tables); with none selected it makes
the next event of the script happen (the model's choice, log entry 1). -/
def Obligations.StepRunsDecoded : Prop :=
  (∀ (s : State) (id : Nat) (c : Crew) (i : Instr), Runs s id c → c.clauseWaits = false →
    WordAt s .crew c.core (s.launchOf c) c.pc c.left i → step s = exec i (s.fetched (.crew id))) ∧
  (∀ (s : State) (ck : Nat) (cp : Bool) (i : Instr), SeqRuns s ck cp →
    WordAt s (if cp then .copy else .matrix) ck (seqLaunch s ck) ((s.core ck).seq cp).pc ((s.core ck).seq cp).left i →
    step s = exec i (s.fetched (.seq ck cp))) ∧
  (∀ (s : State) (x : Exec), s.fetched x = { s with cores := (s.fetched x).cores, isls := (s.fetched x).isls } ∧
    (∀ ck, (s.fetched x).core ck = { s.core ck with tlb := ((s.fetched x).core ck).tlb }) ∧
    ∀ i, (s.fetched x).isl i = { s.isl i with upper := ((s.fetched x).isl i).upper }) ∧
  ∀ (s : State) (e : Instr) (es : List Instr), s.cur = none → s.script = e :: es → Instr.isWord e = false →
    step s = exec e ({ s with script := es } : State).retest

/-- Words written out bit by bit from R27, R32 and R50, and what they decode to (the first from the example of R68). -/
def Obligations.DecodedWords : Prop :=
  decodeWord .crew 0x1001E0408AB0C0#128
    = .ok (.ld { Form.zero with mod := 43, nd := true, dst := 8, a := ⟨.k 4, .none⟩, b := ⟨.v 7, .none⟩, imm0 := 16 }) ∧
  decodeWord .crew 0xFF00007#128 = .ok (.clauseHeader ⟨1, 0, 15, 15⟩) ∧
  decodeWord .crew 0x98#128 = .ok (.exit Form.zero) ∧
  decodeWord .crew 0x3#128 = .error (.illegal 3) ∧
  decodeWord .crew 0x68#128 = .error (.illegal 4) ∧
  decodeWord .crew 0x294#128 = .error (.illegal 5)

/-- Every word of the set decodes back from its encoding, with every operand at every value that the encoding admits
(R27, R32, R34 to R37, R50). -/
def Obligations.DecodeEncode : Prop :=
  ∀ (k : ExecKind) (i : Instr), i.wellFormed k = true → ∃ w, encode i = some w ∧ decodeWord k w = .ok i

/-- What decodes is well formed: no word with a reserved field set, an opcode unassigned or not of the executor decodes. -/
def Sys2Proof.Stated.DecodesWellFormed : Prop :=
  ∀ (k : ExecKind) (w : BitVec 128) (i : Instr), decodeWord k w = .ok i → i.wellFormed k = true

/-- The decode checks that depend on the place of the word in its clause (R39): an instruction where a header must stand,
a header within a clause, and a control transfer that is not the last instruction. -/
def Sys2Proof.Stated.ClauseChecks : Prop :=
  (∀ (k : ExecKind) (w : BitVec 128), (w.extractLsb' 0 2).toNat ≠ 3 → checkedDecode k 0 w = .error (mkCause 1 1 0)) ∧
  (∀ (k : ExecKind) (left : Nat) (w : BitVec 128), (w.extractLsb' 0 2).toNat = 3 → 0 < left →
    checkedDecode k left w = .error (mkCause 1 2 0)) ∧
  (∀ (k : ExecKind) (left : Nat) (w : BitVec 128) (i : Instr), decodeWord k w = .ok i → (w.extractLsb' 0 2).toNat ≠ 3 → 1 < left →
    isControl (opcOf w) = true → checkedDecode k left w = .error (mkCause 1 6 0))

/-- R33, R35, R39: what decodes is well formed, and a word that does not fit its place in the clause is refused with the
sub-cause of R39. -/
def Obligations.DecodingRefuses : Prop := DecodesWellFormed ∧ ClauseChecks

/-- A crew behind a clause header (R27 to R29). -/
def Sys2Proof.Stated.behind (c : Crew) (h : Header) : Crew :=
  { c with hdr := c.pc, pc := c.pc + 8, idx := 0, left := h.cnt.toNat, fa := h.fa.toNat, fb := h.fb.toNat, wm := h.wm
           stall := .none }

/-- Passing a clause header (R27, R28): the count and the flags are taken, and the header's address with them. Where the
wait mask names a flag with an operation outstanding, the crew is long-latency stalled from there on (R28, R156). -/
def Sys2Proof.Stated.HeaderPassed : Prop :=
  (∀ (h : Header) (s : State) (id : Nat) (c : Crew), Runs s id c →
    (∀ n < 12, h.wm.getLsbD n = true → ∀ o ∈ c.ops, o.done = false → o.flag ≠ n) →
    exec (.clauseHeader h) s = .next (After s id (behind c h))) ∧
  (∀ (h : Header) (s : State) (id : Nat) (c : Crew) (n : Nat), Runs s id c → n < 12 → h.wm.getLsbD n = true →
    (∃ o ∈ c.ops, o.done = false ∧ o.frozen = false ∧ o.flag = n) → ∃ t, exec (.clauseHeader h) s = .next t ∧
      pfind t.crews id = some { behind c h with stall := .long, wstamp := pget 0 (s.core c.core).stamps c.quarter } ∧
      (∀ x, x ≠ id → pfind t.crews x = pfind s.crews x) ∧ t.mem = s.mem ∧ t.teams = s.teams) ∧
  ∀ (h : Header) (s : State) (ck : Nat) (cp : Bool), SeqRuns s ck cp → ∃ t, exec (.clauseHeader h) s = .next t ∧
    (t.core ck).seq cp = { (s.core ck).seq cp with
      hdr := ((s.core ck).seq cp).pc, pc := ((s.core ck).seq cp).pc + 8, idx := 0, left := h.cnt.toNat } ∧
    (t.core ck).seq (!cp) = (s.core ck).seq (!cp) ∧ t.crews = s.crews ∧ t.mem = s.mem

/-- An operand that awaits a value is the pending-operand trap, and a register at or above R the register-bounds trap, for
every word of a crew that moves or computes; neither has an effect of its own (R31, R120). Among the words is `lea`, of which R58 says
that it never traps after decode: that it too takes the register-bounds trap is the model's choice (log entry 86). -/
def Sys2Proof.Stated.OperandTraps : Prop :=
  ∀ mk ∈ quietWords ++ floatWords ++ unitWords, ∀ (f : Form) (s : State) (id : Nat) (c : Crew), Runs s id c →
    (c.pendingFault (mk f).desc f ≠ none → Raises s id (mk f) (mkCause 3 0 0)) ∧
    (∀ x, c.pendingFault (mk f).desc f = none → c.boundsFault (mk f).desc f = some x → Raises s id (mk f) x)

/-! ## Control -/

/-- R61, R62: a taken transfer goes to its target, a clause header; `call` writes the address behind it. -/
def Sys2Proof.Stated.TransfersTaken : Prop :=
  (∀ (f : Form) (s : State) (id : Nat) (c : Crew), Runs s id c → Ready c (.bra f) f → HeaderAt s c (c.pc + f.offset * 4) →
    exec (.bra f) s = .next (After s id (sent c (c.pc + f.offset * 4)))) ∧
  (∀ (f : Form) (s : State) (id : Nat) (c : Crew), Runs s id c → Ready c (.brc f) f → brcHolds c f = true →
    HeaderAt s c (c.pc + f.offset * 4) → exec (.brc f) s = .next (After s id (sent c (c.pc + f.offset * 4)))) ∧
  (∀ (f : Form) (s : State) (id : Nat) (c : Crew), Runs s id c → Ready c (.bri f) f → HeaderAt s c (c.uni f 2 f.a) →
    exec (.bri f) s = .next (After s id (sent c (c.uni f 2 f.a)))) ∧
  (∀ (f : Form) (s : State) (id : Nat) (c : Crew), Runs s id c → Ready c (.ret f) f → HeaderAt s c (c.uni f 2 f.a) →
    exec (.ret f) s = .next (After s id (sent c (c.uni f 2 f.a)))) ∧
  (∀ (f : Form) (s : State) (id : Nat) (c : Crew), Runs s id c → Ready c (.call f) f → HeaderAt s c (c.pc + f.offset * 4) →
    exec (.call f) s = .next (After s id
      (sent (c.kset f.dst.toNat (c.pc + BitVec.ofNat 64 f.len.bytes)) (c.pc + f.offset * 4)))) ∧
  (∀ (f : Form) (s : State) (id : Nat) (c : Crew), Runs s id c → Ready c (.callI f) f → HeaderAt s c (c.uni f 2 f.a) →
    exec (.callI f) s = .next (After s id
      (sent (c.kset f.dst.toNat (c.pc + BitVec.ofNat 64 f.len.bytes)) (c.uni f 2 f.a)))) ∧
  (∀ (f : Form) (s : State) (id : Nat) (c : Crew), Runs s id c → Ready c (.loop f) f → c.kget f.dst.toNat ≠ 1 →
    HeaderAt s c (c.pc + f.offset * 4) →
    exec (.loop f) s = .next (After s id (sent (c.kset f.dst.toNat (c.kget f.dst.toNat - 1)) (c.pc + f.offset * 4))))

/-- R62: where its condition does not hold, `brc` passes, and so does `loop` once its counter has reached 0. -/
def Sys2Proof.Stated.TransfersPassed : Prop :=
  (∀ (f : Form) (s : State) (id : Nat) (c : Crew), Runs s id c → Ready c (.brc f) f → brcHolds c f = false →
    exec (.brc f) s = .next (After s id (past c f))) ∧
  (∀ (f : Form) (s : State) (id : Nat) (c : Crew), Runs s id c → Ready c (.loop f) f → c.kget f.dst.toNat = 1 →
    exec (.loop f) s = .next (After s id (past (c.kset f.dst.toNat 0) f)))

/-- R61: a target that is not aligned, or that can be fetched and holds no clause header, is the illegal-opcode trap with
sub-cause 7 and the target, and the transfer has not happened. -/
def Sys2Proof.Stated.TargetTrap : Prop :=
  (∀ mk ∈ ([.bra, .call, .brc, .loop] : List (Form → Instr)), ∀ (f : Form) (s : State) (id : Nat) (c : Crew), Runs s id c →
    Ready c (mk f) f → (mk f = .brc f → brcHolds c f = true) → (mk f = .loop f → c.kget f.dst.toNat ≠ 1) →
    NoHeaderAt s c (c.pc + f.offset * 4) → Raises s id (mk f) (mkCause 1 7 (c.pc + f.offset * 4))) ∧
  ∀ mk ∈ ([.bri, .ret, .callI] : List (Form → Instr)), ∀ (f : Form) (s : State) (id : Nat) (c : Crew), Runs s id c →
    Ready c (mk f) f → NoHeaderAt s c (c.uni f 2 f.a) → Raises s id (mk f) (mkCause 1 7 (c.uni f 2 f.a))

/-- R61, R62: control transfers, taken, passed and trapped. -/
def Obligations.Transfers : Prop := TransfersTaken ∧ TransfersPassed ∧ TargetTrap

/-- R64, R157, R162: `wait` passes once the counter is at most its limit and else waits; `yield` makes its crew the youngest
of its quarter. -/
def Sys2Proof.Stated.WaitAndYield : Prop :=
  (∀ (f : Form) (s : State) (id : Nat) (c : Crew), Runs s id c → Ready c (.wait f) f →
    c.count (pathOf f.modN) ≤ (c.uni f 2 f.a).toNat → exec (.wait f) s = .next (After s id (past c f))) ∧
  (∀ (f : Form) (s : State) (id : Nat) (c : Crew), Runs s id c → Ready c (.wait f) f →
    (c.uni f 2 f.a).toNat < c.count (pathOf f.modN) → Waits s id (.wait f)) ∧
  ∀ (f : Form) (s : State) (id : Nat) (c : Crew), Runs s id c → Ready c (.yield f) f →
    ∃ t, exec (.yield f) s = .next t ∧
      pfind t.crews id = some { past c f with stamp := pget 0 (s.core c.core).stamps c.quarter, run := 0, yielded := true } ∧
      pget 0 (t.core c.core).stamps c.quarter = pget 0 (s.core c.core).stamps c.quarter + 1 ∧
      (∀ x, x ≠ id → pfind t.crews x = pfind s.crews x) ∧ t.mem = s.mem

/-- R63, R157: a crew that has nothing outstanding and is not its team's producer gives up its context with `exit`; one with an
operation outstanding leaves its quarter's active set and keeps the context until that completes. -/
def Sys2Proof.Stated.ExitFreesContext : Prop :=
  (∀ (f : Form) (s : State) (id : Nat) (c : Crew), Runs s id c → Ready c (.exit f) f → c.ops = [] → c.trigWait = none →
    (s.team c.team).prod ≠ c.num → (s.team c.team).phase = 0 → (s.team c.team).trigged = false →
    (s.team c.team).fatal = none → exec (.exit f) s = .next { s with crews := pdel s.crews id, cur := none }) ∧
  (∀ (f : Form) (s : State) (id : Nat) (c : Crew), Runs s id c → Ready c (.exit f) f → c.ops ≠ [] →
    (s.team c.team).phase = 0 → (s.team c.team).trigged = false →
    exec (.exit f) s = .next (After s id { past c f with exiting := true, sect := none, place := .left }))

/-- R27, R28, R63, R64, R157, R162: headers, `wait`, `yield` and `exit`. -/
def Obligations.HeadersWaitsAndExit : Prop := HeaderPassed ∧ WaitAndYield ∧ ExitFreesContext

namespace Sys2Proof.Stated

open Sys2Proof Sys2Proof.Machine

/-! ### Accesses and outstanding operations -/

/-- There is room for one more operation: of the path (R121), and in the table of R220. -/
def MayIssue (s : State) (c : Crew) (p : Path) : Prop := c.count p < p.limit ∧ (s.ottPick c).isSome = true

/-- The word is issued (R30, R65): its crew passes it and has the operation `o` outstanding, at the end of its list; the
registers, the masks and every other crew are as they were. -/
def Issued (s t : State) (id : Nat) (c : Crew) (f : Form) (p : Path) (o : Op) : Prop :=
  t.cur = none ∧ (∀ x, x ≠ id → pfind t.crews x = pfind s.crews x) ∧
  ∃ d, pfind t.crews id = some d ∧ Passed c d f ∧ d.ops = c.ops ++ [o] ∧ o.id = s.nextId ∧ o.path = p ∧ o.flag = c.flagOf f ∧
    o.done = false ∧ o.frozen = false ∧ d.em = c.em ∧ d.m = c.m ∧ d.k = c.k ∧ d.v = c.v ∧ d.fxs = c.fxs ∧
    (o.hvals = none → d.hist = c.hist) ∧ (o.hvals ≠ none → d.hist = ⟨lanesAll 0, some o.id⟩ :: c.hist.take 15)

/-- An operation brings the value `val l` to each active lane: to `regs` named registers where nd = 1, and to the history
entry reserved for it, which has zero in the inactive lanes (R69, R118). -/
def BringsLanes (c : Crew) (f : Form) (o : Op) (regs : Nat) (val : Nat → BitVec 128) : Prop :=
  o.mask = c.em ∧ o.kreg = none ∧ o.vreg = (if f.nd then some f.dst.toNat else none) ∧ (f.nd = true → o.vvals.length = regs) ∧
  (f.nd = true → ∀ j < regs, ∀ l < 32, c.isActive l = true → laneOf (o.vvals.getD j []) l = (val l).extractLsb' (32 * j) 32) ∧
  ∃ x, o.hvals = some x ∧ ∀ l < 32, laneOf x l = if c.isActive l then (val l).setWidth 64 else 0

/-- An operation brings a uniform value (R71). -/
def BringsUniform (f : Form) (o : Op) (v : DWord) : Prop :=
  o.vreg = none ∧ o.kreg = (if f.nd then some f.dst.toNat else none) ∧ o.kval = v ∧ o.hvals = some (lanesAll v)

/-- Every active lane's access is allowed, at the place that `place` gives (R68, R75, R305). -/
def LanesReach (s : State) (c : Crew) (k : Acc) (ea : Nat → DWord) (n : Nat) (place : Nat → Loc) : Prop :=
  ∀ l < 32, c.isActive l = true → s.accessAt c k (ea l) n = .ok (place l)

/-- A byte as a core reads it (R248, R263). -/
def seenByte (s : State) (ck : Nat) (p : Loc) : Byte := (s.l1Load ck p 1).2.headD 0

/-- The little-endian value of n bytes as a core reads them (R3). -/
def seenVal (s : State) (ck : Nat) (p : Loc) (n : Nat) : Nat :=
  ((List.range n).map (fun j => (seenByte s ck ⟨p.la + j, p.ah⟩).toNat * 256 ^ j)).sum

/-- A byte as a crew reads it: what its latest held write of the address is to store there, else as its core reads it (R70, R284). -/
def crewByte (s : State) (id : Nat) (c : Crew) (p : Loc) : Byte := (s.heldByte c.isl id p.la).getD (seenByte s c.core p)

/-- The little-endian value of n bytes as a crew reads them (R3). -/
def crewVal (s : State) (id : Nat) (c : Crew) (p : Loc) (n : Nat) : Nat :=
  ((List.range n).map (fun j => (crewByte s id c ⟨p.la + j, p.ah⟩).toNat * 256 ^ j)).sum

/-- No `tst` of the crew is held at a tile that is MOVING (R299). -/
def NoneHeld (s : State) (id : Nat) : Prop := ∀ e ∈ s.isls, ∀ v ∈ e.2.convs, ∀ h ∈ v.held, h.ofCrew id = false

/-- A conversion but for the bytes that its held writes have lost to later writes (R70, R284). -/
def bareConv (v : Conv) : Conv := { v with held := v.held.map (fun h => { h with lost := [] }) }

/-- The L1 has room for the lines of an instruction, so that none is evicted (R248). -/
def Room (s : State) (ck n : Nat) : Prop := (s.core ck).lines.length + n ≤ l1Capacity

/-- Every translation that a core's TLB holds is a leaf of a size of R302 with a well-formed entry (R303). -/
def Pages (s : State) : Prop :=
  ∀ ck, ∀ e ∈ (s.core ck).tlb, e.2.bits ∈ [16, 21, 30, 35] ∧ malformed e.2.entry.toNat = false

/-- A core's access has touched memory and caches alone: beside the issuing crew, nothing has changed but memory, that core's
L1 and TLB, the shared cache of table entries (R248, R304), and which bytes the crew's own held writes have lost to it (R284). -/
def CachesOnly (s t : State) (ck : Nat) : Prop :=
  t = { s with crews := t.crews, cores := t.cores, isls := t.isls, mem := t.mem, nextId := t.nextId, cur := none } ∧
  (∀ k, k ≠ ck → t.core k = s.core k) ∧
  { t.core ck with lines := [], tlb := [] } = { s.core ck with lines := [], tlb := [] } ∧
  (∀ i, { t.isl i with upper := [], convs := (t.isl i).convs.map bareConv }
    = { s.isl i with upper := [], convs := (s.isl i).convs.map bareConv })

/-- Held writes of the crew will not store a byte that the crew's later store has written (R70, R284). -/
def HeldLose (s t : State) (id : Nat) (c : Crew) (stored : Nat → Prop) : Prop :=
  ∀ a, stored a → (s.heldByte c.isl id a).isSome = true →
    ∀ v ∈ (t.isl c.isl).convs, ∀ h ∈ v.held, h.ofCrew id = true → a ∈ h.lost

/-- An address lies in the n bytes at a place. -/
def Inside (p : Loc) (n a : Nat) : Prop := p.la ≤ a ∧ a < p.la + n

/-- What a core reads after some active lanes have stored n bytes each: of a byte that several write, the highest lane's
stands (R70); every byte that none writes reads as before. -/
def Stored (s t : State) (ck : Nat) (act : Nat → Bool) (place : Nat → Loc) (n : Nat) (val : Nat → Nat) : Prop :=
  (∀ l < 32, act l = true → ∀ j < n, (∀ h < 32, l < h → act h = true → ¬Inside (place h) n ((place l).la + j)) →
    seenByte t ck ⟨(place l).la + j, (place l).ah⟩ = BitVec.ofNat 8 (val l / 256 ^ j)) ∧
  ∀ q : Loc, q.la < 2 ^ 64 → (∀ l < 32, act l = true → ¬Inside (place l) n q.la) → seenByte t ck q = seenByte s ck q

end Sys2Proof.Stated

/-! ## Loads and stores -/

/-- R66, R68, R69: `ld` issues one operation that brings each active lane the bytes at its address, widened by its type. That
the bytes are those of the moment of issue is the model's choice (log entry 52). -/
def Sys2Proof.Stated.LoadBringsBytes : Prop :=
  ∀ (f : Form) (s : State) (id : Nat) (c : Crew) (place : Nat → Loc), Runs s id c → Ready c (.ld f) f → MayIssue s c .ld →
    LanesReach s c .read (c.ea f) (memWidth f.ty (wideMem f)) place → Pages s → Room s c.core 32 →
    ∃ t o, exec (.ld f) s = .next t ∧ Issued s t id c f .ld o ∧ CachesOnly s t c.core ∧ t.mem = s.mem ∧
      BringsLanes c f o (memRegs f (wideMem f)) (fun l =>
        loadExt f.ty (crewVal s id c (place l) (memWidth f.ty (wideMem f))))

/-- R71: `ldk` brings one value to a uniform register, read at issue (log entry 52). -/
def Sys2Proof.Stated.UniformLoadBringsBytes : Prop :=
  ∀ (f : Form) (s : State) (id : Nat) (c : Crew) (p : Loc), Runs s id c → Ready c (.ldk f) f → MayIssue s c .ld →
    s.accessAt c .read (c.eaUniform f) (memWidth f.ty false) = .ok p → Pages s → Room s c.core 1 →
    ∃ t o, exec (.ldk f) s = .next t ∧ Issued s t id c f .ld o ∧ CachesOnly s t c.core ∧ t.mem = s.mem ∧
      BringsUniform f o (loadExtK f.ty (crewVal s id c p (memWidth f.ty false)))

/-- R139: `sseg` brings each active lane up to 16 bytes, at any alignment, zeros above them, read at issue (log entry 52). -/
def Sys2Proof.Stated.SegmentLoadBringsBytes : Prop :=
  ∀ (f : Form) (s : State) (id : Nat) (c : Crew) (place : Nat → List Loc), Runs s id c → Ready c (.sseg f) f → MayIssue s c .ld →
    (∀ l < 32, c.isActive l = true →
      s.bytesAt c .read (c.ea f l) (min ((c.src32 f 0 f.c l).toNat % 256) 16) = .ok (place l)) → Room s c.core 64 →
    ∃ t o, exec (.sseg f) s = .next t ∧ Issued s t id c f .ld o ∧ CachesOnly s t c.core ∧ t.mem = s.mem ∧
      BringsLanes c f o 4 (fun l => BitVec.ofNat 128
        (((place l).zip (List.range 16)).map (fun e => (crewByte s id c e.1).toNat * 256 ^ e.2)).sum)

/-- R66, R68, R69, R71, R139: the loads bring the bytes at their addresses. That those are the bytes of the moment of issue is the
model's choice (log entry 52). -/
def Obligations.Loads : Prop := LoadBringsBytes ∧ UniformLoadBringsBytes ∧ SegmentLoadBringsBytes

/-- R69, R70: `st` stores each active lane's value at its address, and no other byte changes as the core reads it. That the
bytes are stored at issue is the model's choice (log entry 52). -/
def Sys2Proof.Stated.StoreWritesBytes : Prop :=
  ∀ (f : Form) (s : State) (id : Nat) (c : Crew) (place : Nat → Loc), Runs s id c → Ready c (.st f) f → MayIssue s c .st →
    LanesReach s c .write (c.ea f) (memWidth f.ty (wideMem f)) place → Pages s → Room s c.core 33 → coreIsl c.core < 36 →
    ∃ t o, exec (.st f) s = .next t ∧ Issued s t id c f .st o ∧ CachesOnly s t c.core ∧ o.vreg = none ∧ o.kreg = none ∧ o.hvals = none ∧
      Stored s t c.core c.isActive place (memWidth f.ty (wideMem f)) (c.storeVal f) ∧
      HeldLose s t id c (fun a => ∃ l < 32, c.isActive l = true ∧ Inside (place l) (memWidth f.ty (wideMem f)) a) ∧
      ((∀ l < 32, c.isActive l = true → (place l).ah = false) → t.mem = s.mem)

/-- R71: `stk` stores one uniform value, and no other byte changes as the core reads it; stored at issue (log entry 52). -/
def Sys2Proof.Stated.UniformStoreWritesBytes : Prop :=
  ∀ (f : Form) (s : State) (id : Nat) (c : Crew) (p : Loc), Runs s id c → Ready c (.stk f) f → MayIssue s c .st →
    s.accessAt c .write (c.eaUniform f) (memWidth f.ty false) = .ok p → Pages s → Room s c.core 2 → coreIsl c.core < 36 →
    ∃ t o, exec (.stk f) s = .next t ∧ Issued s t id c f .st o ∧ CachesOnly s t c.core ∧ o.vreg = none ∧ o.kreg = none ∧ o.hvals = none ∧
      Stored s t c.core (fun l => l == 0) (fun _ => p) (memWidth f.ty false) (fun _ => (c.uni f f.ty f.c).toNat) ∧
      HeldLose s t id c (Inside p (memWidth f.ty false)) ∧
      (p.ah = false → t.mem = s.mem)

/-- R69 to R71: the stores write their bytes and no other. That they are written at issue is the model's choice (log entry 52). -/
def Obligations.Stores : Prop := StoreWritesBytes ∧ UniformStoreWritesBytes

/-- R72, R181: slab loads and stores work on the windows of teams: a load brings the window's bytes, of a byte that an
unfinished job has written the old or the new one (R181, log entry 85); a store changes the bytes it names of its windows and no
other byte of any window, nothing of memory and nothing of the caches. The values are those at issue (log entry 52). The
statement is about words for which the table of outstanding operations has room: of forms for the own window, which need none there,
those with a full table are left out. -/
def Obligations.SlabAccesses : Prop :=
  (∀ (f : Form) (s : State) (id : Nat) (c : Crew) (place : Nat → Nat × Nat), Runs s id c → Ready c (.sld f) f → MayIssue s c .sl →
    (∀ l < 32, c.isActive l = true → s.slabAt c (c.ea f l) (memWidth f.ty (wideMem f)) = .ok (place l)) →
    ∃ t o, ∃ x : Nat → List Byte, exec (.sld f) s = .next t ∧ Issued s t id c f .sl o ∧ t.mem = s.mem ∧ t.cores = s.cores ∧ t.teams = s.teams ∧
      BringsLanes c f o (memRegs f (wideMem f)) (fun l => loadExt f.ty (leNat (x l))) ∧
      ∀ l < 32, c.isActive l = true → (x l).length = memWidth f.ty (wideMem f) ∧
        ∀ j < memWidth f.ty (wideMem f), (x l).getD j 0 = (s.team (place l).1).win.read ((place l).2 + j) ∨
          ∃ e ∈ (s.team (place l).1).prior, e.1 = (place l).2 + j ∧ (x l).getD j 0 = e.2.2) ∧
  ∀ (f : Form) (s : State) (id : Nat) (c : Crew) (place : Nat → Nat × Nat), Runs s id c → Ready c (.sst f) f → MayIssue s c .sl →
    (∀ l < 32, c.isActive l = true → s.slabAt c (c.ea f l) (memWidth f.ty (wideMem f)) = .ok (place l)) →
    (∀ l < 32, c.isActive l = true → (pfind s.teams (place l).1).isSome = true) →
    ∃ t o, exec (.sst f) s = .next t ∧ Issued s t id c f .sl o ∧ o.vreg = none ∧ o.hvals = none ∧ t.mem = s.mem ∧ t.cores = s.cores ∧
      (∀ l < 32, c.isActive l = true → ∀ j < memWidth f.ty (wideMem f),
        (∀ h < 32, l < h → c.isActive h = true → (place h).1 = (place l).1 →
          ¬((place h).2 ≤ (place l).2 + j ∧ (place l).2 + j < (place h).2 + memWidth f.ty (wideMem f))) →
        (t.team (place l).1).win.read ((place l).2 + j) = BitVec.ofNat 8 (c.storeVal f l / 256 ^ j)) ∧
      ∀ u a, (∀ l < 32, c.isActive l = true → (place l).1 = u →
        ¬((place l).2 ≤ a ∧ a < (place l).2 + memWidth f.ty (wideMem f))) → (t.team u).win.read a = (s.team u).win.read a

/-- R73: `pref` passes whatever its lanes may access, and no byte that a core reads changes; with `.l2` no L1 takes a line. -/
def Sys2Proof.Stated.Prefetch : Prop :=
  (∀ (f : Form) (s : State) (id : Nat) (c : Crew), Runs s id c → Ready c (.pref f) f → f.mod.getLsbD 0 = true →
    ∃ t, exec (.pref f) s = .next t ∧ t.crews = pput s.crews id (past c f) ∧ t.mem = s.mem ∧ t.teams = s.teams ∧
      ∀ k, (t.core k).lines = (s.core k).lines) ∧
  ∀ (f : Form) (s : State) (id : Nat) (c : Crew), Runs s id c → Ready c (.pref f) f → Room s c.core 33 →
    ∃ t, exec (.pref f) s = .next t ∧ t.crews = pput s.crews id (past c f) ∧ t.mem = s.mem ∧ t.teams = s.teams ∧
      ∀ q, seenByte t c.core q = seenByte s c.core q

/-- R74: `vget` reads, and `vput` writes, the register that each active lane names. -/
def Sys2Proof.Stated.IndirectRegisters : Prop :=
  (∀ (f : Form) (s : State) (id : Nat) (c : Crew), Runs s id c → Ready c (.vget f) f →
    (∀ l < 32, c.isActive l = true → c.indirectAt f l = .ok (c.indirect f l)) → c.ops = [] →
    ∃ t o, exec (.vget f) s = .next t ∧ Issued s t id c f .none o ∧ t.mem = s.mem ∧ t.cores = s.cores ∧
      BringsLanes c f o (regsOf f.ty) (fun l =>
        if regsOf f.ty = 2 then (pairWord (laneOf (c.vget (c.indirect f l)) l) (laneOf (c.vget (c.indirect f l + 1)) l)).setWidth 128
        else (laneOf (c.vget (c.indirect f l)) l).setWidth 128)) ∧
  ∀ (f : Form) (s : State) (id : Nat) (c : Crew), Runs s id c → Ready c (.vput f) f →
    (∀ l < 32, c.isActive l = true → c.indirectAt f l = .ok (c.indirect f l)) → c.ops = [] →
    ∃ t d, exec (.vput f) s = .next t ∧ pfind t.crews id = some d ∧ Passed c d f ∧ d.k = c.k ∧ d.m = c.m ∧ d.hist = c.hist ∧
      t.mem = s.mem ∧ t.cores = s.cores ∧
      ∀ r, ∀ l < 32, laneOf (d.vget r) l =
        if c.isActive l ∧ r = c.indirect f l then lowWord (c.srcTy f f.ty f.c l)
        else if c.isActive l ∧ regsOf f.ty = 2 ∧ r = c.indirect f l + 1 then highWord (c.srcTy f f.ty f.c l)
        else laneOf (c.vget r) l

/-- R73, R74: prefetch and indirect registers. -/
def Obligations.PrefetchAndIndirect : Prop := Prefetch ∧ IndirectRegisters

/-- R75: where lanes of an access fault, the trap is the first cause of the lowest-numbered such lane, of which misalignment
comes before every other, and nothing is loaded or stored. An access of the crew as a whole (R71) traps the same way. That
faults are judged before a stall for want of entries is the model's choice (log entry 52). -/
def Sys2Proof.Stated.AccessFaults : Prop :=
  (∀ p ∈ ([(.ld, .read), (.st, .write)] : List ((Form → Instr) × Acc)), ∀ (f : Form) (s : State) (id : Nat) (c : Crew) (l : Nat)
    (x : Cause), Runs s id c → Ready c (p.1 f) f → l < 32 → c.isActive l = true →
    s.accessAt c p.2 (c.ea f l) (memWidth f.ty (wideMem f)) = .error x →
    (∀ h < l, c.isActive h = true → ∃ q, s.accessAt c p.2 (c.ea f h) (memWidth f.ty (wideMem f)) = .ok q) →
    Raises s id (p.1 f) { x with lane := some l }) ∧
  (∀ p ∈ ([(.ldk, .read), (.stk, .write)] : List ((Form → Instr) × Acc)), ∀ (f : Form) (s : State) (id : Nat) (c : Crew) (x : Cause),
    Runs s id c → Ready c (p.1 f) f → s.accessAt c p.2 (c.eaUniform f) (memWidth f.ty false) = .error x → Raises s id (p.1 f) x) ∧
  ∀ (s : State) (c : Crew) (k : Acc) (ea : DWord) (n : Nat), ea.toNat % n ≠ 0 → s.accessAt c k ea n = .error (mkCause 4 0 ea)

/-- R305: the checks of one address of a launch, in their order: address bits, the declared ranges, the page, the lease. Of
overlapping ranges one that permits the access is enough (log entry 61); an address with no valid leaf is the translation trap
with sub-cause 2 (log entry 92). -/
def Sys2Proof.Stated.AccessChecks : Prop :=
  ∀ (s : State) (l : Launch) (tlb : PMap Tlb) (k : Acc) (va n : Nat),
    (2 ^ 57 ≤ va → s.checkPlain l tlb k va n = .error (mkCause 7 0 (BitVec.ofNat 64 va))) ∧
    (va < 2 ^ 57 → (∀ r ∈ l.ranges, r.has va n = false) → s.checkPlain l tlb k va n = .error (mkCause 8 0 (BitVec.ofNat 64 va))) ∧
    (va < 2 ^ 57 → (∃ r ∈ l.ranges, r.has va n = true) → (∀ r ∈ l.ranges, r.has va n = true → k.inRange r = false) →
      s.checkPlain l tlb k va n = .error (mkCause 7 1 (BitVec.ofNat 64 va))) ∧
    (va < 2 ^ 57 → (∃ r ∈ l.ranges, r.has va n = true ∧ k.inRange r = true) →
      (s.leaf l.isl tlb l.asid va = none → s.checkPlain l tlb k va n =
        .error (if s.leaseVoid l = true then mkCause 9 0 (BitVec.ofNat 64 va) else mkCause 7 2 (BitVec.ofNat 64 va))) ∧
      ∀ e, s.leaf l.isl tlb l.asid va = some e →
        (k.onPage e = false → s.checkPlain l tlb k va n = .error (mkCause 7 2 (BitVec.ofNat 64 va))) ∧
        (k.onPage e = true → s.leaseVoid l = true → s.checkPlain l tlb k va n = .error (mkCause 9 0 (BitVec.ofNat 64 va))) ∧
        (k.onPage e = true → s.leaseVoid l = false → s.checkPlain l tlb k va n = .ok (e.loc va)))

namespace Sys2Proof.Stated

open Sys2Proof Sys2Proof.Machine

/-- Exactly lane `l` of a crew is active, and its access of n bytes is allowed at an atomic-home place `p`. -/
def OneLane (s : State) (c : Crew) (k : Acc) (ea : Nat → DWord) (n l : Nat) (p : Loc) : Prop :=
  l < 32 ∧ (∀ h < 32, c.isActive h = decide (h = l)) ∧ s.accessAt c k (ea l) n = .ok p ∧ p.ah = true ∧ isCxl p.la = false

/-- The word at a place in home memory. -/
def homeVal (s : State) (ck : Nat) (p : Loc) (n : Nat) : Nat := leNat (s.homeRead (coreIsl ck) p.la n)

/-- Home memory differs from another state's in n bytes at a place at most. -/
def HomeOnly (s t : State) (ck : Nat) (p : Loc) (n : Nat) : Prop :=
  ∀ a, ¬(s.homeKey (coreIsl ck) p.la ≤ a ∧ a < s.homeKey (coreIsl ck) p.la + n) → t.mem.read a = s.mem.read a

/-- New value of an integer or bit atomic at a width (R228). -/
def atomAt (ty op : Nat) (w : Nat) (old x : BitVec w) : BitVec w :=
  if bitTys ty then
    match op with
    | 0 => old &&& x
    | 1 => old ||| x
    | 2 => old ^^^ x
    | _ => x
  else
    match op with
    | 0 => old + x
    | 1 => if lessAt ty w x old then x else old
    | 2 => if lessAt ty w old x then x else old
    | _ => if x.ule old then 0 else old + 1

end Sys2Proof.Stated

/-! ## Synchronisation -/

/-- R225 to R227, R231: a load-acquire and a store-release issue on the `ld` and `st` paths; a release waits for what is
held back, and afterwards no `fence.rel` is pending. -/
def Sys2Proof.Stated.AcquireAndReleaseIssue : Prop :=
  (∀ (f : Form) (s : State) (id : Nat) (c : Crew) (place : Nat → Loc), Runs s id c → Ready c (.lda f) f → MayIssue s c .ld →
    LanesReach s c .read (c.eaScaled f (2 ^ f.hi)) (memWidth f.ty false) place →
    ∃ t o, exec (.lda f) s = .next t ∧ Issued s t id c f .ld o ∧ o.vreg = (if f.nd then some f.dst.toNat else none) ∧
      (crewAt t id).syncOp = some o.id ∧ t.teams = s.teams) ∧
  ∀ (f : Form) (s : State) (id : Nat) (c : Crew) (place : Nat → Loc), Runs s id c → Ready c (.stl f) f → MayIssue s c .st →
    c.unperformed = false → LanesReach s c .write (c.eaScaled f (2 ^ f.hi)) (memWidth f.ty false) place →
    ∃ t o, exec (.stl f) s = .next t ∧ Issued s t id c f .st o ∧ o.vreg = none ∧ o.hvals = none ∧
      (crewAt t id).relScope = none ∧ t.teams = s.teams

/-- R223, R225 to R227 on an atomic-home page at core scope, one lane active: `lda` brings the word at the home, and `stl`
writes it there and nothing else of memory, both at issue (the model's choice, log entry 52); the `lda` with no `tst` of the crew
held. Other lines and scopes are those
of AcquireReleaseValues. -/
def Sys2Proof.Stated.HomeAcquireAndRelease : Prop :=
  (∀ (f : Form) (s : State) (id : Nat) (c : Crew) (l : Nat) (p : Loc), Runs s id c → Ready c (.lda f) f → MayIssue s c .ld →
    f.scope = 1 → NoneHeld s id → OneLane s c .read (c.eaScaled f (2 ^ f.hi)) (memWidth f.ty false) l p →
    ∃ t o, exec (.lda f) s = .next t ∧ Issued s t id c f .ld o ∧ t.mem = s.mem ∧
      BringsLanes c f o (regsOf f.ty) (fun _ => loadExt f.ty (homeVal s c.core p (memWidth f.ty false)))) ∧
  ∀ (f : Form) (s : State) (id : Nat) (c : Crew) (l : Nat) (p : Loc), Runs s id c → Ready c (.stl f) f → MayIssue s c .st →
    c.unperformed = false → c.relScope = none → f.scope = 1 →
    OneLane s c .write (c.eaScaled f (2 ^ f.hi)) (memWidth f.ty false) l p →
    ∃ t o, exec (.stl f) s = .next t ∧ Issued s t id c f .st o ∧ HomeOnly s t c.core p (memWidth f.ty false) ∧
      homeVal t c.core p (memWidth f.ty false) = (c.srcTy f f.ty f.c l).toNat % 2 ^ (8 * memWidth f.ty false)

/-- R223, R225 to R227, R231: load-acquire and store-release; their values here on atomic-home pages at core scope, for one active
lane. That the home is read and written at issue is the model's choice (log entry 52). -/
def Obligations.AcquireAndRelease : Prop := AcquireAndReleaseIssue ∧ HomeAcquireAndRelease

/-- R228, R230 on an atomic-home page, relaxed: an integer or bit `atom` writes the operation's value over the old one, and one
that returns brings the old one. That both happen at issue is the model's choice (log entry 52). The f32 operations and
operation 3 of an s type are not in this statement, nor is an `atom` with a `tst` of its crew held. -/
def Sys2Proof.Stated.AtomicUpdates : Prop :=
  ∀ (f : Form) (s : State) (id : Nat) (c : Crew) (l : Nat) (p : Loc), Runs s id c → Ready c (.atom f) f →
    (intTys f.ty || bitTys f.ty) = true → (isS f.ty = true → f.hi < 3) →
    MayIssue s c (if f.xBit 3 then .ld else .st) → f.acquires = false → f.releases = false → c.relScope = none → NoneHeld s id →
    OneLane s c .both (c.eaScaled f (memWidth f.ty false)) (memWidth f.ty false) l p →
    let old := homeVal s c.core p (memWidth f.ty false)
    ∃ t o, exec (.atom f) s = .next t ∧ Issued s t id c f (if f.xBit 3 then .ld else .st) o ∧
      HomeOnly s t c.core p (memWidth f.ty false) ∧
      homeVal t c.core p (memWidth f.ty false)
        = (if regsOf f.ty = 2 then (atomAt f.ty f.hi 64 (BitVec.ofNat 64 old) (c.src64 f f.ty f.c l)).toNat
          else (atomAt f.ty f.hi 32 (BitVec.ofNat 32 old) (c.src32 f f.ty f.c l)).toNat) ∧
      (f.xBit 3 = true → BringsLanes c f o (regsOf f.ty) (fun _ => BitVec.ofNat 128 old)) ∧
      (f.xBit 3 = false → o.vreg = none ∧ o.hvals = none)

/-- R229, R230: `atom.cas` writes the new value where the old one is the compare value, and brings the old one, here for b32 on
an atomic-home page, at issue (log entry 52), with no `tst` of the crew held; b64 is not in this statement. -/
def Sys2Proof.Stated.CompareAndSwap : Prop :=
  ∀ (f : Form) (s : State) (id : Nat) (c : Crew) (l : Nat) (p : Loc) (q : BitVec 8), Runs s id c → Ready c (.atomCas f) f →
    f.ty = 11 → f.c.src = .v q → MayIssue s c .ld → f.acquires = false → f.releases = false → c.relScope = none →
    NoneHeld s id → OneLane s c .both (c.eaScaled f 4) 4 l p →
    let old := homeVal s c.core p 4
    ∃ t o, exec (.atomCas f) s = .next t ∧ Issued s t id c f .ld o ∧ HomeOnly s t c.core p 4 ∧
      homeVal t c.core p 4 = (if old = (laneOf (c.vget q.toNat) (f.c.perm.lane l)).toNat
        then (laneOf (c.vget (q.toNat + 1)) (f.c.perm.lane l)).toNat else old) ∧
      BringsLanes c f o 1 (fun _ => BitVec.ofNat 128 old)

/-- R224, R230: updates of one `atom` to one word are applied in increasing lane order, each lane receiving the value before
its own; here for lanes 0 and 1 of a u32 `add` on an atomic-home page. -/
def Sys2Proof.Stated.AtomicLaneOrder : Prop :=
  ∀ (f : Form) (s : State) (id : Nat) (c : Crew) (p : Loc), Runs s id c → Ready c (.atom f) f → f.ty = 0 → f.hi = 0 →
    f.xBit 3 = true → MayIssue s c .ld → f.acquires = false → f.releases = false → c.relScope = none → NoneHeld s id →
    (∀ h < 32, c.isActive h = decide (h < 2)) → p.ah = true → isCxl p.la = false →
    (∀ h < 2, s.accessAt c .both (c.eaScaled f 4 h) 4 = .ok p) →
    let old := BitVec.ofNat 32 (homeVal s c.core p 4)
    ∃ t o, exec (.atom f) s = .next t ∧ Issued s t id c f .ld o ∧
      homeVal t c.core p 4 = (old + c.src32 f 0 f.c 0 + c.src32 f 0 f.c 1).toNat ∧
      BringsLanes c f o 1 (fun h => if h = 0 then old.setWidth 128 else (old + c.src32 f 0 f.c 0).setWidth 128)

/-- R224, R228 to R230: atomic updates, compare and swap of b32, and their lane order, on atomic-home pages; not the f32 operations,
not operation 3 of s types. That an atomic reads and writes at issue is the model's choice (log entry 52). -/
def Obligations.Atomics : Prop := AtomicUpdates ∧ CompareAndSwap ∧ AtomicLaneOrder

/-- R231: with nothing earlier outstanding, `fence.rel` leaves the wider scope pending for the next release, and `fence.acq`
with no synchronisation access behind it raises the generation number alone; where the number wraps, the sweep of R255 may
record a release and so write back. -/
def Sys2Proof.Stated.AcquireAndReleaseFences : Prop :=
  (∀ (f : Form) (s : State) (id : Nat) (c : Crew), Runs s id c → Ready c (.fenceRel f) f → c.ops = [] →
    exec (.fenceRel f) s = .next (After s id { past c f with
      relScope := some (match c.relScope with
        | some r => if scopeRank f.fenceScope < scopeRank r then r else f.fenceScope
        | none => f.fenceScope) })) ∧
  ∀ (f : Form) (s : State) (id : Nat) (c : Crew), Runs s id c → Ready c (.fenceAcq f) f → c.ops = [] → c.syncLines = [] →
    f.fenceScope = 0 →
    ∃ t, exec (.fenceAcq f) s = .next t ∧ t.crews = pput s.crews id { past c f with syncOp := none, syncLines := [] } ∧
      (t.core c.core).gI = (s.core c.core).gI + 1 ∧ (t.core c.core).gS = (s.core c.core).gS ∧ t.teams = s.teams ∧
      ((s.core c.core).gI ≠ 15 → t.mem = s.mem)

/-- R231: `fence.sc` at bench, island or system scope writes back every dirty byte of its core and makes every clean line
stale; at core scope it does neither. -/
def Sys2Proof.Stated.SequentialFence : Prop :=
  (∀ (f : Form) (s : State) (id : Nat) (c : Crew), Runs s id c → Ready c (.fenceSc f) f → c.ops = [] →
    (f.fenceScope = 1 ∨ f.fenceScope = 4) → exec (.fenceSc f) s = .next (After s id (past c f))) ∧
  ∀ (f : Form) (s : State) (id : Nat) (c : Crew), Runs s id c → Ready c (.fenceSc f) f → c.ops = [] →
    f.fenceScope ≠ 1 → f.fenceScope ≠ 4 → pRising (s.core c.core).lines = true → coreIsl c.core < 36 →
    (∀ e ∈ (s.core c.core).lines, 64 * e.1 + 64 ≤ 2 ^ 64) →
    ∃ t, exec (.fenceSc f) s = .next t ∧ t.crews = pput s.crews id (past c f) ∧ t.teams = s.teams ∧
      (∀ e ∈ (t.core c.core).lines, e.2.dirty = 0) ∧
      (t.core c.core).gI = (s.core c.core).gI + 1 ∧ (t.core c.core).gS = (s.core c.core).gS + 1 ∧
      ((s.core c.core).gI ≠ 15 → (s.core c.core).gS ≠ 15 →
        ∀ li ln j, pfind (s.core c.core).lines li = some ln → j < 64 → ln.dirty.getLsbD j = true →
          t.mem.read (s.homeKey (coreIsl c.core) (64 * li) + j) = ln.bytes.getD j 0)

/-- R231: the three fences. -/
def Obligations.Fences : Prop := AcquireAndReleaseFences ∧ SequentialFence

/-! ## Barriers -/

/-- R183: `bar.init` sets the expected count and clears the arrivals; a count of 0 or above 1023 is the barrier trap with
sub-cause 0. -/
def Sys2Proof.Stated.BarrierInit : Prop :=
  (∀ (f : Form) (s : State) (id n : Nat) (c : Crew), Runs s id c → Ready c (.barInit f) f → (pfind s.teams c.team).isSome = true →
    n = (if f.a = .zero then 1 else (c.uni f 2 f.a).toNat) → 1 ≤ n → n ≤ 1023 →
    ∃ t, exec (.barInit f) s = .next t ∧ t.crews = pput s.crews id (past c f) ∧ t.mem = s.mem ∧ t.cores = s.cores ∧
      t.bar c.team f.ty = { s.bar c.team f.ty with exp := n, arr := 0 } ∧ ∀ b, b ≠ f.ty → t.bar c.team b = s.bar c.team b) ∧
  ∀ (f : Form) (s : State) (id : Nat) (c : Crew), Runs s id c → Ready c (.barInit f) f → f.a ≠ .zero →
    ((c.uni f 2 f.a).toNat = 0 ∨ 1023 < (c.uni f 2 f.a).toNat) →
    Raises s id (.barInit f) (mkCause 0x0D 0 (BitVec.ofNat 64 f.ty))

/-- R183, R184: arrivals count up to the expected count, and each full count advances the phase; on a barrier never initialised
they are the barrier trap with sub-cause 2, and so are counts of 0 or above 1023 with sub-cause 0 and, for `bar.arrx`, a team at
or above the gang's team count with sub-cause 1; that the count is judged before the team, and both before an expected count of
0, is the model's choice (log entry 100). An arrival is applied as it issues, after earlier stores, which write at their own
issue: that is the model's choice (log entries 52 and 55). -/
def Sys2Proof.Stated.BarrierArrivals : Prop :=
  (∀ (f : Form) (s : State) (id n : Nat) (c : Crew), Runs s id c → Ready c (.barArr f) f → (pfind s.teams c.team).isSome = true →
    (s.team c.team).core = c.core → n = (if f.a = .zero then 1 else (c.uni f 2 f.a).toNat) → 1 ≤ n → n ≤ 1023 →
    (s.bar c.team f.ty).exp ≠ 0 →
    ∃ t, exec (.barArr f) s = .next t ∧ t.crews = pput s.crews id (past c f) ∧ t.mem = s.mem ∧ t.cores = s.cores ∧
      t.bar c.team f.ty = { s.bar c.team f.ty with
        arr := ((s.bar c.team f.ty).arr + n) % (s.bar c.team f.ty).exp
        ph := (s.bar c.team f.ty).ph + BitVec.ofNat 16 (((s.bar c.team f.ty).arr + n) / (s.bar c.team f.ty).exp) }) ∧
  (∀ (f : Form) (s : State) (id n u : Nat) (c : Crew), Runs s id c → Ready c (.barArrx f) f →
    n = (if f.a = .zero then 1 else (c.uni f 2 f.a).toNat) → 1 ≤ n → n ≤ 1023 →
    (c.uni f 2 f.b).toNat ≤ (s.launchOf c).gsz → s.mate c.team (c.uni f 2 f.b).toNat = some u → (pfind s.teams u).isSome = true →
    (s.bar u f.ty).exp ≠ 0 →
    ∃ t, exec (.barArrx f) s = .next t ∧ t.crews = pput s.crews id (past c f) ∧
      (t.bar u f.ty).exp = (s.bar u f.ty).exp ∧ (t.bar u f.ty).arr = ((s.bar u f.ty).arr + n) % (s.bar u f.ty).exp ∧
      (t.bar u f.ty).ph = (s.bar u f.ty).ph + BitVec.ofNat 16 (((s.bar u f.ty).arr + n) / (s.bar u f.ty).exp)) ∧
  (∀ (f : Form) (s : State) (id : Nat) (c : Crew), Runs s id c → Ready c (.barArr f) f → f.a = .zero → (s.bar c.team f.ty).exp = 0 →
    Raises s id (.barArr f) (mkCause 0x0D 2 (BitVec.ofNat 64 f.ty))) ∧
  (∀ g ∈ [Instr.barArr, Instr.barArrx], ∀ (f : Form) (s : State) (id : Nat) (c : Crew), Runs s id c → Ready c (g f) f → f.a ≠ .zero →
    ((c.uni f 2 f.a).toNat = 0 ∨ 1023 < (c.uni f 2 f.a).toNat) → Raises s id (g f) (mkCause 0x0D 0 (BitVec.ofNat 64 f.ty))) ∧
  ∀ (f : Form) (s : State) (id n : Nat) (c : Crew), Runs s id c → Ready c (.barArrx f) f →
    n = (if f.a = .zero then 1 else (c.uni f 2 f.a).toNat) → 1 ≤ n → n ≤ 1023 →
    ((s.launchOf c).gsz < (c.uni f 2 f.b).toNat → Raises s id (.barArrx f) (mkCause 0x0D 1 (BitVec.ofNat 64 f.ty))) ∧
    ∀ u, (c.uni f 2 f.b).toNat ≤ (s.launchOf c).gsz → s.mate c.team (c.uni f 2 f.b).toNat = some u → (s.bar u f.ty).exp = 0 →
      Raises s id (.barArrx f) (mkCause 0x0D 2 (BitVec.ofNat 64 f.ty))

/-- R182, R183, R185: `bar.wait` passes once the phase is no longer the one it names, and else waits; `bar.test` gives the
record. Here no arrival from another core came before, so that the wait that passes acquires nothing (log entry 55). A wait on a
barrier whose expected count is 0 is the barrier trap with sub-cause 2. -/
def Sys2Proof.Stated.BarrierWaitAndTest : Prop :=
  (∀ (f : Form) (s : State) (id : Nat) (c : Crew), Runs s id c → Ready c (.barWait f) f → (s.bar c.team f.ty).exp ≠ 0 →
    (s.bar c.team f.ty).ph ≠ (c.uni f 2 f.a).setWidth 16 → (s.bar c.team f.ty).bench = false →
    exec (.barWait f) s = .next (After s id (past c f))) ∧
  (∀ (f : Form) (s : State) (id : Nat) (c : Crew), Runs s id c → Ready c (.barWait f) f → (s.bar c.team f.ty).exp ≠ 0 →
    (s.bar c.team f.ty).ph = (c.uni f 2 f.a).setWidth 16 → Waits s id (.barWait f)) ∧
  (∀ (f : Form) (s : State) (id : Nat) (c : Crew), Runs s id c → Ready c (.barWait f) f → (s.bar c.team f.ty).exp = 0 →
    Raises s id (.barWait f) (mkCause 0x0D 2 (BitVec.ofNat 64 f.ty))) ∧
  ∀ (f : Form), UniformWordAt (.barTest f) f (fun s c =>
    let x := s.bar c.team f.ty
    BitVec.ofNat 64 (x.ph.toNat * 2 ^ 48 + x.arr * 2 ^ 32 + x.exp))

/-- R182 to R185: barrier records: `bar.init`, arrivals at the own and at another team, `bar.wait` and `bar.test`. That an arrival is
applied at its issue, after earlier stores, which write at theirs, is the model's choice (log entries 52 and 55); of the waits
only those that acquire nothing from another core are in this statement. The order in which the causes of an arrival are judged is the
model's choice (log entry 100). -/
def Obligations.Barriers : Prop := BarrierInit ∧ BarrierArrivals ∧ BarrierWaitAndTest

namespace Sys2Proof.Stated

open Sys2Proof Sys2Proof.Machine

/-- Home address of a crew's trap slot (R269). -/
def slotKey (s : State) (c : Crew) : Nat := s.homeKey c.isl (ctxBase + c.slot)

/-- A 64-bit word of a crew's trap slot, at its home. -/
def slotWord (s : State) (c : Crew) (off : Nat) : DWord := BitVec.ofNat 64 (leNat (s.mem.readBytes (slotKey s c + off) 8))

/-- 32 bits of a crew's trap slot. -/
def slotHalf (s : State) (c : Crew) (off : Nat) : Word := BitVec.ofNat 32 (leNat (s.mem.readBytes (slotKey s c + off) 4))

/-- A crew that can take a trap at once: it is not in its handler, the launch has a handler, and nothing is outstanding. -/
def CanEnter (s : State) (c : Crew) : Prop := c.handler = false ∧ (s.launchOf c).handlerOk = true ∧ c.ops = []

/-- The crew has entered its handler (R272) with a cause word, an information word and a resume point: the slot holds them
with the state of the crew, and the live context starts afresh at the handler. -/
def Entered (s t : State) (id : Nat) (c : Crew) (word info : DWord) (skip : Nat) : Prop :=
  (∃ d, pfind t.crews id = some d ∧ d.pc = (s.launchOf c).handler ∧ d.hdr = (s.launchOf c).handler ∧ d.left = 0 ∧ d.handler = true ∧
    d.em = 0xFFFFFFFF ∧ d.fxs = 0 ∧ d.ops = [] ∧ d.k = c.k ∧ d.v = c.v ∧ d.m = c.m ∧
    ∀ a < 16, (d.hget a).vals = (c.hget a).vals) ∧
  slotWord t c 0 = c.hdr ∧
  slotWord t c 8 = BitVec.ofNat 64 (c.idx + skip + 256 + (if c.sect.isSome then 512 else 0) + (if c.triggered then 1024 else 0)
    + (if c.exiting then 2048 else 0)) ∧
  slotWord t c 0x10 = word ∧ slotWord t c 0x18 = c.pc ∧ slotWord t c 0x20 = info ∧ slotWord t c 0x28 = c.em.setWidth 64 ∧
  slotWord t c 0x50 = c.fxs ∧ (∀ n < 64, slotWord t c (0x100 + 8 * n) = c.kget n) ∧ (∀ n < 8, slotHalf t c (0x30 + 4 * n) = c.mget n) ∧
  (∀ n < c.nreg, ∀ l < 32, slotHalf t c (0x1300 + 128 * n + 4 * l) = laneOf (c.vget n) l) ∧
  (∀ a < 16, ∀ l < 32, slotWord t c (0x300 + 256 * a + 8 * l) = laneOf (c.hget a).vals l) ∧
  ((s.core c.core).lines = [] → ∀ a, ¬(slotKey s c ≤ a ∧ a < slotKey s c + slotSize c.nreg) → t.mem.read a = s.mem.read a)

/-- A fatal cause ends a team (R215, R267): no crew of it issues again, the fatal word is set, unless one was set before, and the
crews keep their contexts until the team ends. -/
def TeamFailed (s t : State) (team : Nat) (word : Word) : Prop :=
  (∀ x d, pfind s.crews x = some d → d.team = team → ∃ e, pfind t.crews x = some e ∧ e.exiting = true ∧ e.place = .left ∧
    e.num = d.num ∧ e.core = d.core) ∧
  (∀ x d, pfind s.crews x = some d → d.team ≠ team → pfind t.crews x = some d) ∧
  (t.team team).fatal = some ((s.team team).fatal.getD word) ∧ t.mem = s.mem

end Sys2Proof.Stated

/-! ## Traps and system instructions -/

/-- R232, R268, R270, R272: `trap` and `sys` enter the handler; the slot holds the cause, and the instruction after as the
resume point. -/
def Sys2Proof.Stated.TrapAndSysEnter : Prop :=
  (∀ (f : Form) (s : State) (id : Nat) (c : Crew), Runs s id c → Ready c (.trap f) f → CanEnter s c →
    ∃ t, exec (.trap f) s = .next t ∧ Entered s t id c (f.number ++ (0x0E : BitVec 32)) 0 1) ∧
  ∀ (f : Form) (s : State) (id : Nat) (c : Crew), Runs s id c → Ready c (.sys f) f → CanEnter s c →
    ∃ t, exec (.sys f) s = .next t ∧
      Entered s t id c (f.number ++ (0x0F : BitVec 32)) (if f.a = .zero then 0 else c.uni f 2 f.a) 1

/-- R267, R270, R272: every other precise trap resumes at its own instruction, which has had no effect; here for operands at or above
R, and for an operand that awaits a value, whose operation has completed by the entry, in every word that works on its crew
alone. -/
def Sys2Proof.Stated.PreciseTrapEnters : Prop :=
  ∀ mk ∈ quietWords ++ floatWords ++ unitWords, ∀ (f : Form) (s : State) (id : Nat) (c : Crew), Runs s id c →
    c.handler = false → (s.launchOf c).handlerOk = true →
    (∀ n, c.ops = [] → c.boundsFault (mk f).desc f = some (mkCause 6 0 (BitVec.ofNat 64 n)) → c.pendingFault (mk f).desc f = none →
      ∃ t, exec (mk f) s = .next t ∧ Entered s t id c 6 (BitVec.ofNat 64 n) 0) ∧
    ∀ o, c.ops = [o] → o.done = false → o.held = false → o.frozen = false → o.after = [] → o.path ≠ .rm → o.hn = none →
      c.trigWait = none → c.pendingFault (mk f).desc f ≠ none →
      ∃ t, exec (mk f) s = .next t ∧ Entered s t id { c.land o with ops := [] } 3 0 0

/-- R75, R305: which accesses trap, with which cause, in which order; R31, R120, R267, R270, R272: operands that await a value, or lie
at or above R, trap precisely, and the trap enters the handler with the instruction itself as its resume point. That faults are
judged before a stall (log entry 52), that one of overlapping ranges is enough (61) and that an address with no valid leaf is
sub-cause 2 (92) are the model's choices, and so is that a `lea` with a register at or above R takes the register-bounds trap, though
R58 has it never trap after decode (86). -/
def Obligations.AccessTraps : Prop := AccessFaults ∧ AccessChecks ∧ OperandTraps ∧ PreciseTrapEnters

/-- R215, R267: a trap within the handler is a double fault, which is fatal: no crew of the team issues again, the team's
fatal word is set, unless one was set before, and the crews keep their contexts until the team ends. -/
def Sys2Proof.Stated.DoubleFault : Prop :=
  ∀ (f : Form) (s : State) (id : Nat) (c : Crew), Runs s id c → Ready c (.trap f) f → c.handler = true →
    (pfind s.teams c.team).isSome = true →
    ∃ t, exec (.trap f) s = .next t ∧ TeamFailed s t c.team 0x80000E17

/-- R232, R267, R268, R270, R272: `trap`, `sys` and the double fault. -/
def Obligations.TrapsAndDoubleFault : Prop := TrapAndSysEnter ∧ DoubleFault

/-- R233, R275: `eret` outside the handler is the system-state trap with sub-cause 0; in the handler, with nothing outstanding
and no cause queued in the slot, it restores the crew from the slot and goes on at the saved instruction of the saved clause. With
a cause queued it takes the oldest one into the slot and enters the handler again, the resume point unchanged; where the resume
address holds no clause header, or the index lies above its count, it is a double fault. That the section, triggered and exiting bits
after it are those of the slot, also for a section opened in the handler, is the model's reading (log entry 39). -/
def Obligations.ReturnFromHandler : Prop :=
  (∀ (f : Form) (s : State) (id : Nat) (c : Crew), Runs s id c → Ready c (.eret f) f → c.handler = false →
    Raises s id (.eret f) (mkCause 0x10 0 0)) ∧
  (∀ (f : Form) (s : State) (id : Nat) (c : Crew) (x : Cause) (rest : List Cause), Runs s id c → Ready c (.eret f) f →
    c.handler = true → c.ops = [] → s.slotQueue c = x :: rest → (s.core c.core).lines = [] →
    ∃ t d, exec (.eret f) s = .next t ∧ pfind t.crews id = some d ∧ d.handler = true ∧ d.pc = (s.launchOf c).handler ∧
      d.hdr = (s.launchOf c).handler ∧ d.idx = 0 ∧ d.left = 0 ∧ d.em = 0xFFFFFFFF ∧ d.fxs = 0 ∧ d.k = c.k ∧ d.v = c.v ∧ d.m = c.m ∧
      slotWord t c 0x10 = x.word ∧ slotWord t c 0x20 = x.info ∧
      (∀ i < 4, slotWord t c (0xA0 + 16 * i) = ((rest[i]?).map Cause.word).getD 0 ∧
        slotWord t c (0xA8 + 16 * i) = ((rest[i]?).map Cause.info).getD 0) ∧
      ∀ a, ¬(slotKey s c + 0x10 ≤ a ∧ a < slotKey s c + 0x18) → ¬(slotKey s c + 0x20 ≤ a ∧ a < slotKey s c + 0x28) →
        ¬(slotKey s c + 0xA0 ≤ a ∧ a < slotKey s c + 0xE0) → t.mem.read a = s.mem.read a) ∧
  (∀ (f : Form) (s : State) (id : Nat) (c : Crew), Runs s id c → Ready c (.eret f) f → c.handler = true → c.ops = [] →
    s.slotQueue c = [] → (s.core c.core).lines = [] → (pfind s.teams c.team).isSome = true →
    (NoHeaderAt s c (slotWord s c 0) ∨ (HeaderAt s c (slotWord s c 0) ∧ ∃ h,
      s.fetchAt .crew c.core (s.launchOf c) (slotWord s c 0) 0 = .ok (.clauseHeader h) ∧ h.cnt.toNat < (slotWord s c 8).toNat % 64)) →
    ∃ t, exec (.eret f) s = .next t ∧ TeamFailed s t c.team 0x80000117) ∧
  ∀ (f : Form) (s : State) (id : Nat) (c : Crew) (h : Header) (a : DWord), Runs s id c → Ready c (.eret f) f → c.handler = true →
    c.ops = [] → s.slotQueue c = [] → (s.core c.core).lines = [] → HeaderAt s c (slotWord s c 0) →
    s.fetchAt .crew c.core (s.launchOf c) (slotWord s c 0) 0 = .ok (.clauseHeader h) → (slotWord s c 8).toNat % 64 ≤ h.cnt.toNat →
    s.walkWords c.core (s.launchOf c) ((slotWord s c 8).toNat % 64) (slotWord s c 0 + 8) = .ok a →
    ∃ t d, exec (.eret f) s = .next t ∧ t.cur = none ∧ t.mem = s.mem ∧ pfind t.crews id = some d ∧ d.handler = false ∧
      d.hdr = slotWord s c 0 ∧ d.idx = (slotWord s c 8).toNat % 64 ∧ d.left = h.cnt.toNat - (slotWord s c 8).toNat % 64 ∧
      d.pc = a ∧
      d.em = (slotWord s c 0x28).setWidth 32 ∧ d.fxs = slotWord s c 0x50 % 32 ∧ d.triggered = (slotWord s c 8).getLsbD 10 ∧
      d.exiting = (slotWord s c 8).getLsbD 11 ∧ d.sect = (if (slotWord s c 8).getLsbD 9 then some (slotWord s c 0x78) else none) ∧
      (∀ n < 64, d.kget n = slotWord s c (0x100 + 8 * n)) ∧ (∀ n < 8, d.mget n = slotHalf s c (0x30 + 4 * n)) ∧
      (∀ n < c.nreg, ∀ l < 32, laneOf (d.vget n) l = slotHalf s c (0x1300 + 128 * n + 4 * l)) ∧
      ∀ a < 16, ∀ l < 32, laneOf (d.hget a).vals l = slotWord s c (0x300 + 256 * a + 8 * l)

/-- R234, R235: a section opens and closes; opening an open one and closing a closed one are the system-state trap. -/
def Sys2Proof.Stated.Sections : Prop :=
  (∀ (f : Form) (s : State) (id : Nat) (c : Crew), Runs s id c → Ready c (.npsBegin f) f → c.sect = none →
    exec (.npsBegin f) s = .next (After s id { past c f with sect := some (s.islTime c.isl) })) ∧
  (∀ (f : Form) (s : State) (id : Nat) (c : Crew), Runs s id c → Ready c (.npsEnd f) f → c.sect.isSome = true →
    exec (.npsEnd f) s = .next (After s id { past c f with sect := none })) ∧
  (∀ (f : Form) (s : State) (id : Nat) (c : Crew), Runs s id c → Ready c (.npsBegin f) f → c.sect.isSome = true →
    Raises s id (.npsBegin f) (mkCause 0x10 3 0)) ∧
  ∀ (f : Form) (s : State) (id : Nat) (c : Crew), Runs s id c → Ready c (.npsEnd f) f → c.sect = none →
    Raises s id (.npsEnd f) (mkCause 0x10 4 0)

/-- R237, R327: the last crew of a guarded team to issue `round` closes the round: its part joins the others, and the record,
with the next number, stands pending in the primary slot; the crew stalls. In a team that is not guarded `round` is the
system-state trap with sub-cause 5. That `round` raises the pending-operand trap of R31 where a register it saves awaits a value
is the model's choice: R237 does not list it (log entry 43). -/
def Obligations.RoundContributes : Prop :=
  (∀ (f : Form) (s : State) (id : Nat) (c : Crew), Runs s id c → Ready c (.round f) f → HeaderAt s c (c.pc + f.offset * 4) →
    (∀ r ∈ roundRegs f.modN (c.uni f 2 f.a), r < c.nreg) → (s.launchOf c).grd = true → s.engineBusy c.core c.team = false →
    c.ops = [] → c.exiting = false → (pfind s.teams c.team).isSome = true →
    (∀ e ∈ pput s.crews id { c with inRound := some f.len.bytes, stall := .round }, e.2.team = c.team →
      e.2.exiting = true ∨ e.2.inRound.isSome = true) →
    ∃ t, exec (.round f) s = .next t ∧
      t.crews = pput s.crews id { c with
        inRound := some f.len.bytes, stall := .round
        wstamp := if c.stalled then c.wstamp else pget 0 (s.core c.core).stamps c.quarter } ∧
      (t.team c.team).phase = 2 ∧ (t.team c.team).roundNo = (s.team c.team).roundNo ∧
      (t.isl (s.team c.team).isl).stored (coreZone (s.team c.team).core) (s.team c.team).launch (s.team c.team).num false false
        = some ⟨(s.team c.team).roundNo + 1,
            (s.team c.team).parts ++ [⟨c.num, c.pc + f.offset * 4,
              (roundRegs f.modN (c.uni f 2 f.a)).map (fun r => (r, c.vget r)), (List.range 16).map c.kget⟩],
            (s.team c.team).bars⟩) ∧
  (∀ (f : Form) (s : State) (id : Nat) (c : Crew), Runs s id c → Ready c (.round f) f →
    ((∃ r ∈ roundRegs f.modN (c.uni f 2 f.a), c.vAwaits r = true) ∨ ∃ n < 16, c.kAwaits n = true) →
    Raises s id (.round f) (mkCause 3 0 0)) ∧
  ∀ (f : Form) (s : State) (id : Nat) (c : Crew), Runs s id c → Ready c (.round f) f → HeaderAt s c (c.pc + f.offset * 4) →
    (∀ r ∈ roundRegs f.modN (c.uni f 2 f.a), r < c.nreg ∧ c.vAwaits r = false) → (∀ n < 16, c.kAwaits n = false) →
    (s.launchOf c).grd = false → Raises s id (.round f) (mkCause 0x10 5 0)

/-- The lines of a core that an eager release writes back (R257): every byte that was dirty stands at its home, and the line is
clean. `cxl` says whether the bytes of CXL windows are released too; those that are not stay as they were. -/
def Sys2Proof.Stated.Released (s t : State) (ck : Nat) (cxl : Bool) : Prop :=
  ∀ li ln, pfind (s.core ck).lines li = some ln →
    ((cxl = true ∨ ln.cxl = false) →
      (∀ j < 64, ln.dirty.getLsbD j = true → t.mem.read (s.homeKey (coreIsl ck) (64 * li) + j) = ln.bytes.getD j 0) ∧
      ∃ x, pfind (t.core ck).lines li = some x ∧ x.dirty = 0) ∧
    (cxl = false → ln.cxl = true → pfind (t.core ck).lines li = some ln)

/-- R238, R257: with nothing outstanding a `trig` takes effect at once: the core's dirty bytes reach their homes, those of
CXL windows but for a launch with tis = 1. The launch knows a team as triggered once each of its live crews has executed `trig` or
exited (R383). The crew is marked as triggered where a launch depends on this one by then, and where none does no mark of the spec's
is set (log 41). With operations outstanding the crew passes, and the effect waits for them; a second `trig` of the same crew has no
effect. -/
def Sys2Proof.Stated.Trigger : Prop :=
  (∀ (f : Form) (s : State) (id : Nat) (c : Crew), Runs s id c → Ready c (.trig f) f → c.ops = [] → c.trigDone = false →
    c.trigWait = none → s.hasDependent (s.team c.team).launch = true → (pfind s.teams c.team).isSome = true →
    pRising (s.core c.core).lines = true → coreIsl c.core < 36 → (∀ e ∈ (s.core c.core).lines, 64 * e.1 + 64 ≤ 2 ^ 64) →
    ∃ t, exec (.trig f) s = .next t ∧ t.crews = pput s.crews id { past c f with triggered := true, trigDone := true } ∧
      t.teams = pput s.teams c.team { s.team c.team with trigged := true } ∧ Released s t c.core (!(s.launchOf c).tis) ∧
      ((∀ e ∈ t.crews, e.2.team = c.team → e.2.trigDone = true ∨ e.2.exiting = true) →
        (pfind s.launches (s.team c.team).launch).isSome = true →
        (s.team c.team).num ∈ (t.launch (s.team c.team).launch).trigTeams)) ∧
  (∀ (f : Form) (s : State) (id : Nat) (c : Crew), Runs s id c → Ready c (.trig f) f → c.ops = [] → c.trigDone = false →
    c.trigWait = none → s.hasDependent (s.team c.team).launch = false → (pfind s.teams c.team).isSome = true →
    pRising (s.core c.core).lines = true → coreIsl c.core < 36 → (∀ e ∈ (s.core c.core).lines, 64 * e.1 + 64 ≤ 2 ^ 64) →
    ∃ t, exec (.trig f) s = .next t ∧ t.crews = pput s.crews id { past c f with trigDone := true } ∧
      t.teams = pput s.teams c.team { s.team c.team with trigged := true } ∧ (∀ n, (t.launch n).st = (s.launch n).st) ∧
      Released s t c.core (!(s.launchOf c).tis)) ∧
  (∀ (f : Form) (s : State) (id : Nat) (c : Crew) (o : Op), Runs s id c → Ready c (.trig f) f → c.trigDone = false →
    c.trigWait = none → o ∈ c.ops → o.done = false → o.frozen = false → o.path ≠ .rm → o.path ≠ .none →
    exec (.trig f) s = .next (After s id { past c f with
      trigWait := some ((c.ops.filter (fun x => x.awaited && x.path ≠ .rm && x.path ≠ .none)).map (·.id)) })) ∧
  ∀ (f : Form) (s : State) (id : Nat) (c : Crew), Runs s id c → Ready c (.trig f) f → c.trigDone = true →
    exec (.trig f) s = .next (After s id (past c f))

/-- R234, R235, R238: sections and triggers. -/
def Obligations.SectionsAndTriggers : Prop := Sections ∧ Trigger

/-- R122, R123, R152, R239: a `spawn` that is not refused makes a crew with the lowest free number of its team, at the target,
with the eight registers handed on through the crossbar, and gives its number; with 16 crews in each quarter it gives the failure code alone. -/
def Obligations.Spawn : Prop :=
  (∀ (f : Form) (s : State) (id : Nat) (c : Crew) (r : BitVec 8), Runs s id c → Ready c (.spawn f) f →
    HeaderAt s c (c.pc + f.offset * 4) → s.spawnFails c = none → f.a.src = .v r → id ≠ s.nextId →
    ∃ t d e, exec (.spawn f) s = .next t ∧ pfind t.crews id = some d ∧ Passed c d f ∧ d.v = c.v ∧
      d.kget f.dst.toNat = (if f.nd then BitVec.ofNat 64 (s.freeNum c.team) else c.kget f.dst.toNat) ∧
      pfind t.crews s.nextId = some e ∧ e.team = c.team ∧ e.num = s.freeNum c.team ∧ e.pc = c.pc + f.offset * 4 ∧
      e.hdr = c.pc + f.offset * 4 ∧ e.left = 0 ∧ e.nreg = (s.launchOf c).nreg ∧ e.em = 0xFFFFFFFF ∧ e.ops = [] ∧
      (∀ j < 8, ∀ l < 32, laneOf (e.vget (1 + j)) l = laneOf (c.vget (r.toNat + j)) (f.a.perm.lane l)) ∧ t.mem = s.mem) ∧
  ∀ (f : Form) (s : State) (id : Nat) (c : Crew), Runs s id c → Ready c (.spawn f) f → HeaderAt s c (c.pc + f.offset * 4) →
    (∀ q < 4, 16 ≤ s.quarterLoad c.core q) →
    ∃ d, exec (.spawn f) s = .next (After s id d) ∧ Passed c d f ∧
      d.kget f.dst.toNat = (if f.nd then 0x8000000000000001 else c.kget f.dst.toNat)

/-- R103, R240, R241: what `srd` gives, register by register. -/
def Sys2Proof.Stated.SpecialRegisterReads : Prop :=
  ∀ f : Form,
    (f.number = 0x00 → UniformWordAt (.srd f) f (fun _ c => c.fxs)) ∧
    (f.number = 0x01 → UniformWordAt (.srd f) f (fun s c => BitVec.ofNat 64 (s.team c.team).roundNo)) ∧
    (f.number = 0x02 → UniformWordAt (.srd f) f (fun s c => BitVec.ofNat 64 (s.launchOf c).lcores)) ∧
    (f.number = 0x03 → UniformWordAt (.srd f) f (fun s c => BitVec.ofNat 64 (pget 0 (s.isl c.isl).steps (coreZone c.core)))) ∧
    (f.number = 0x04 → UniformWordAt (.srd f) f (fun s c => (s.core c.core).spoil)) ∧
    (f.number = 0x10 → UniformWordAt (.srd f) f (fun s c => (s.core c.core).acqf)) ∧
    (f.number = 0x11 → UniformWordAt (.srd f) f (fun s c => (s.core c.core).acqs)) ∧
    (f.number = 0x12 → UniformWordAt (.srd f) f (fun s c => (s.core c.core).surra)) ∧
    (f.number = 0x13 → UniformWordAt (.srd f) f (fun s c => (s.core c.core).wbln))

/-- R234, R240, R271: `swr` writes `fxs`; a read-only register is the system-state trap with sub-cause 2, an unassigned
number with sub-cause 1, and a trap-state register outside the handler with sub-cause 2, for `srd` too. -/
def Sys2Proof.Stated.SpecialRegisterWrites : Prop :=
  (∀ (f : Form) (s : State) (id : Nat) (c : Crew), Runs s id c → Ready c (.swr f) f → f.number = 0 →
    exec (.swr f) s = .next (After s id { past c f with fxs := c.uni f 2 f.a &&& 0x1F })) ∧
  (∀ (f : Form) (s : State) (id : Nat) (c : Crew), Runs s id c → Ready c (.swr f) f →
    f.number.toNat ∈ [1, 2, 3, 4, 0x10, 0x11, 0x12, 0x13] → Raises s id (.swr f) (mkCause 0x10 2 0)) ∧
  (∀ mk ∈ ([.srd, .swr] : List (Form → Instr)), ∀ (f : Form) (s : State) (id : Nat) (c : Crew), Runs s id c → Ready c (mk f) f →
    (f.number.toNat ∉ [0, 1, 2, 3, 4, 0x10, 0x11, 0x12, 0x13, 0x40, 0x41, 0x42, 0x43, 0x44, 0x45, 0x46] →
      Raises s id (mk f) (mkCause 0x10 1 0)) ∧
    (f.number.toNat ∈ [0x40, 0x41, 0x42, 0x43, 0x44, 0x45, 0x46] → c.handler = false →
      Raises s id (mk f) (mkCause 0x10 2 0)))

/-- A word of a crew's trap slot as the crew's own load reads it (R271). -/
def Sys2Proof.Stated.trapWord (s : State) (c : Crew) (off : Nat) : DWord :=
  BitVec.ofNat 64 (seenVal s c.core ⟨ctxBase + c.slot + off, false⟩ 8)

/-- R271: in the handler `srd` of the trap-state registers loads the words of the crew's trap slot, of word 0x008 its bits [5:0], the
slot's address and the number of queued causes; `swr` stores to word 0x000, and to bits [5:0] of word 0x008; the others are
read-only. -/
def Sys2Proof.Stated.TrapStateRegisters : Prop :=
  (∀ (f : Form) (s : State) (id : Nat) (c : Crew) (v : DWord), Runs s id c → Ready c (.srd f) f → c.handler = true →
    c.slot % 64 = 0 → Pages s → Room s c.core 1 →
    (f.number.toNat, v) ∈ [(0x40, trapWord s c 0x10), (0x41, trapWord s c 0), (0x42, trapWord s c 8 &&& 0x3F),
      (0x43, trapWord s c 0x18), (0x44, trapWord s c 0x20), (0x45, BitVec.ofNat 64 c.slot),
      (0x46, BitVec.ofNat 64 (s.slotQueue c).length)] →
    ∃ t d, exec (.srd f) s = .next t ∧ pfind t.crews id = some d ∧ (∀ x, x ≠ id → pfind t.crews x = pfind s.crews x) ∧
      LocalFrame (.srd f) f c d ∧ d.fxs = c.fxs ∧ CachesOnly s t c.core ∧ t.mem = s.mem ∧
      d.kget f.dst.toNat = (if f.nd then v else c.kget f.dst.toNat) ∧ ∀ l < 32, pushed d l = v) ∧
  (∀ (f : Form) (s : State) (id : Nat) (c : Crew) (off : Nat) (v : DWord), Runs s id c → Ready c (.swr f) f → c.handler = true →
    c.slot % 64 = 0 → Pages s → Room s c.core 2 → coreIsl c.core < 36 →
    (f.number.toNat, off, v) ∈ [(0x41, 0, c.uni f 2 f.a), (0x42, 8, (trapWord s c 8 &&& ~~~0x3F) ||| (c.uni f 2 f.a &&& 0x3F))] →
    ∃ t, exec (.swr f) s = .next t ∧ t.crews = pput s.crews id (past c f) ∧ CachesOnly s t c.core ∧ t.mem = s.mem ∧
      Stored s t c.core (fun l => l == 0) (fun _ => ⟨ctxBase + c.slot + off, false⟩) 8 (fun _ => v.toNat)) ∧
  ∀ (f : Form) (s : State) (id : Nat) (c : Crew), Runs s id c → Ready c (.swr f) f → c.handler = true →
    f.number.toNat ∈ [0x40, 0x43, 0x44, 0x45, 0x46] → Raises s id (.swr f) (mkCause 0x10 2 0)

/-- R242: `gtime` brings the panel time of its issue, as the island sees it (R310), and never less than the crew's last one. -/
def Sys2Proof.Stated.PanelTime : Prop :=
  (∀ (s : State) (i : Nat), 0 ≤ (s.time.toNat : Int) + (s.isl i).offset →
    s.islTime i = s.time + BitVec.ofInt 64 (s.isl i).offset) ∧
  ∀ (f : Form) (s : State) (id : Nat) (c : Crew), Runs s id c → Ready c (.gtime f) f → c.count .ld < 64 →
    let v : DWord := if (s.islTime c.isl).toNat < c.lastTime.toNat then c.lastTime else s.islTime c.isl
    ∃ t o, exec (.gtime f) s = .next t ∧ Issued s t id c f .ld o ∧ t.mem = s.mem ∧ t.cores = s.cores ∧
      BringsUniform f o v ∧ (crewAt t id).lastTime = v

/-- R103, R234, R240 to R242, R271: special registers and panel time. That `swr` to `fxs` keeps five bits is the model's
reading (log entry 30). -/
def Obligations.SpecialRegisters : Prop := SpecialRegisterReads ∧ SpecialRegisterWrites ∧ TrapStateRegisters ∧ PanelTime

namespace Sys2Proof.Stated

open Sys2Proof Sys2Proof.Machine

/-- The sequencer that runs. -/
def seqAt (s : State) (ck : Nat) (cp : Bool) : Sequencer := (s.core ck).seq cp

/-- A sequencer has passed its word (R216). -/
def SeqPassed (q r : Sequencer) (f : Form) : Prop :=
  r.st = .running ∧ r.pc = q.pc + BitVec.ofNat 64 f.len.bytes ∧ r.hdr = q.hdr ∧ r.idx = q.idx + 1 ∧ r.left = q.left - 1

/-- The rest of the machine after a sequencer's word: crews, teams, memory and the other cores are as they were. -/
def SeqFrame (s t : State) (ck : Nat) (cp : Bool) : Prop :=
  t.cur = none ∧ t.crews = s.crews ∧ t.teams = s.teams ∧ t.mem = s.mem ∧ seqAt t ck (!cp) = seqAt s ck (!cp) ∧
  ∀ k, k ≠ ck → pfind t.cores k = pfind s.cores k

/-- A job of a sequencer has joined the footprint checker (R217), at the end of its list and not started; the sequencer has
passed its word, and with `.inc` the registers of the operands in `inc` have advanced (R165). -/
def JobJoins (s t : State) (ck : Nat) (cp : Bool) (f : Form) (kind : JobKind) (inc : List (Operand × Nat)) (good : Job → Prop) : Prop :=
  SeqFrame s t ck cp ∧ SeqPassed (seqAt s ck cp) (seqAt t ck cp) f ∧
  (seqAt t ck cp).k = (if f.xBit 5 then (inc.foldl (fun q e => q.inc e.1 e.2) (seqAt s ck cp)).k else (seqAt s ck cp).k) ∧
  ∃ j, (t.core ck).jobs = (s.core ck).jobs ++ [j] ∧ j.id = s.nextId ∧ j.kind = kind ∧ j.team = s.seqTeam ck ∧ j.crew = none ∧
    j.started = false ∧ good j

/-- Each entry of a `fork` that is not zero is a clause header, or cannot be fetched (R29, R166). -/
def EntriesGood (s : State) (c : Crew) (f : Form) : Prop :=
  ∀ e ∈ [c.uni f 2 f.a, c.uni f 2 f.b], e ≠ 0 → e.toNat % 32 = 0 → s.targetFault c.core (s.launchOf c) e = none

/-- A job of a core by its number. -/
def jobAt (s : State) (ck id : Nat) : Job := (s.findJob ck id).getD blankJob

/-- A byte of a team's window. -/
def winByte (s : State) (t a : Nat) : Byte := (s.team t).win.read a

end Sys2Proof.Stated

/-! ## Engines -/

/-- R29, R164, R166, R167: a `fork` by the producer takes the engines where they are free, and starts a sequencer at each entry
that is not zero, with the crew's uniform registers; `rdv` passes once every sequencer that the fork started has ended, and else
waits; another crew of the team has no engine rights. An entry at which no clause header stands is the illegal-opcode trap with
sub-cause 7 of R29; that it is judged at the `fork`, before the checks of the engines, is the model's choice (log entry 67). -/
def Obligations.ForkAndRendezvous : Prop :=
  (∀ (f : Form) (s : State) (id : Nat) (c : Crew), Runs s id c → Ready c (.fork f) f → c.ops = [] → c.num = (s.team c.team).prod →
    ((s.core c.core).owner = none ∨ (s.core c.core).owner = some c.team) →
    (c.uni f 2 f.a).toNat % 32 = 0 → (c.uni f 2 f.b).toNat % 32 = 0 → (s.core c.core).ms.st = .idle → (s.core c.core).cs.st = .idle →
    EntriesGood s c f →
    ∃ t, exec (.fork f) s = .next t ∧ t.crews = pput s.crews id (past c f) ∧ t.mem = s.mem ∧ (t.core c.core).owner = some c.team ∧
      (c.uni f 2 f.a ≠ 0 → (t.core c.core).ms = ⟨.running, c.uni f 2 f.a, c.uni f 2 f.a, 0, 0, c.k⟩) ∧
      (c.uni f 2 f.b ≠ 0 → (t.core c.core).cs = ⟨.running, c.uni f 2 f.b, c.uni f 2 f.b, 0, 0, c.k⟩) ∧
      (c.uni f 2 f.a = 0 → (t.core c.core).ms.st = .idle) ∧ (c.uni f 2 f.b = 0 → (t.core c.core).cs.st = .idle) ∧
      ((s.core c.core).owner = none → (t.core c.core).acc = [] ∧ (t.core c.core).active.loaded = false ∧
        (t.core c.core).shadow.loaded = false ∧ (t.core c.core).gen = 0)) ∧
  (∀ (f : Form) (s : State) (id : Nat) (c : Crew), Runs s id c → Ready c (.fork f) f → c.ops = [] → c.num ≠ (s.team c.team).prod →
    EntriesGood s c f → Raises s id (.fork f) (mkCause 0x0A 0 0)) ∧
  (∀ (f : Form) (s : State) (id n : Nat) (c : Crew), Runs s id c → Ready c (.fork f) f → c.ops = [] → c.uni f 2 f.a ≠ 0 →
    (c.uni f 2 f.a).toNat % 32 = 0 → s.wordKind c.core (s.launchOf c) (c.uni f 2 f.a) = some n → n ≠ 3 →
    Raises s id (.fork f) (mkCause 1 7 (c.uni f 2 f.a))) ∧
  (∀ (f : Form) (s : State) (id : Nat) (c : Crew), Runs s id c → Ready c (.rdv f) f →
    ((s.team c.team).forkM = true → (s.core c.core).ms.st = .idle) → ((s.team c.team).forkC = true → (s.core c.core).cs.st = .idle) →
    exec (.rdv f) s = .next (After s id (past c f))) ∧
  ∀ (f : Form) (s : State) (id : Nat) (c : Crew), Runs s id c → Ready c (.rdv f) f →
    (((s.team c.team).forkM = true ∧ (s.core c.core).ms.st ≠ .idle) ∨ ((s.team c.team).forkC = true ∧ (s.core c.core).cs.st ≠ .idle)) →
    Waits s id (.rdv f)

/-- R168: `seq.end` leaves its sequencer ending; `seq.loop` counts its register down and goes to its target while the count is
not 0. -/
def Sys2Proof.Stated.SequencerControl : Prop :=
  (∀ (f : Form) (s : State) (ck : Nat) (cp : Bool), SeqRuns s ck cp → ∃ t, exec (.seqEnd f) s = .next t ∧ SeqFrame s t ck cp ∧
    seqAt t ck cp = { seqAt s ck cp with
      st := .ending, pc := (seqAt s ck cp).pc + BitVec.ofNat 64 f.len.bytes, idx := (seqAt s ck cp).idx + 1
      left := (seqAt s ck cp).left - 1 }) ∧
  (∀ (f : Form) (s : State) (ck : Nat) (cp : Bool), SeqRuns s ck cp → pget 0 (seqAt s ck cp).k f.dst.toNat = 1 →
    ∃ t, exec (.seqLoop f) s = .next t ∧ SeqFrame s t ck cp ∧ SeqPassed (seqAt s ck cp) (seqAt t ck cp) f ∧
      pget 0 (seqAt t ck cp).k f.dst.toNat = 0) ∧
  ∀ (f : Form) (s : State) (ck : Nat) (cp : Bool), SeqRuns s ck cp → pget 0 (seqAt s ck cp).k f.dst.toNat ≠ 1 →
    let target := (seqAt s ck cp).pc + f.offset * 4
    target.toNat % 4 = 0 → target.toNat % 32 ≤ 24 → s.wordKind ck (s.launch (s.team (s.seqTeam ck)).launch) target = some 3 →
    ∃ t, exec (.seqLoop f) s = .next t ∧ SeqFrame s t ck cp ∧ (seqAt t ck cp).st = (seqAt s ck cp).st ∧
      (seqAt t ck cp).pc = target ∧ (seqAt t ck cp).hdr = target ∧ (seqAt t ck cp).idx = 0 ∧ (seqAt t ck cp).left = 0 ∧
      pget 0 (seqAt t ck cp).k f.dst.toNat = pget 0 (seqAt s ck cp).k f.dst.toNat - 1

/-- R164, R169, R176: `aclr` clears the rows of its control word and no other of its team's accumulator; where no team owns the
engines it takes them, all of them zero and no plane loaded. It traps where another team owns them, where its control word is bad,
and where its team's matrix sequencer has not ended; that the second comes before the third is the model's choice (log entry 99). -/
def Sys2Proof.Stated.AccumulatorClear : Prop :=
  (∀ (f : Form) (s : State) (id : Nat) (c : Crew), Runs s id c → Ready c (.aclr f) f → (s.core c.core).owner = some c.team →
    (s.core c.core).ms.st = .idle → (Ctl.mk (c.uni f 2 f.a).toNat).bad false 1 = false → (Ctl.mk (c.uni f 2 f.a).toNat).gate = none →
    let ctl := Ctl.mk (c.uni f 2 f.a).toNat
    ∃ t, exec (.aclr f) s = .next t ∧ t.crews = pput s.crews id (past c f) ∧ t.mem = s.mem ∧ t.teams = s.teams ∧
      ∀ row n, n < 64 → accGet (t.core c.core).acc row n
        = if ctl.arow ≤ row ∧ row < ctl.arow + ctl.rows then 0 else accGet (s.core c.core).acc row n) ∧
  (∀ (f : Form) (s : State) (id : Nat) (c : Crew), Runs s id c → Ready c (.aclr f) f → (s.core c.core).owner = none →
    (Ctl.mk (c.uni f 2 f.a).toNat).bad false 1 = false → (Ctl.mk (c.uni f 2 f.a).toNat).gate = none →
    ∃ t, exec (.aclr f) s = .next t ∧ t.crews = pput s.crews id (past c f) ∧ t.mem = s.mem ∧ t.teams = s.teams ∧
      (t.core c.core).owner = some c.team ∧ (∀ row n, n < 64 → accGet (t.core c.core).acc row n = 0) ∧
      (t.core c.core).active = .zero ∧ (t.core c.core).shadow = .zero ∧ (t.core c.core).gen = 0 ∧
      (t.core c.core).ms.st = .idle ∧ (t.core c.core).cs.st = .idle ∧ (t.core c.core).jobs = (s.core c.core).jobs) ∧
  ∀ (f : Form) (s : State) (id : Nat) (c : Crew), Runs s id c → Ready c (.aclr f) f →
    (∀ u, (s.core c.core).owner = some u → u ≠ c.team → Raises s id (.aclr f) (mkCause 0x0A 1 0)) ∧
    ((s.core c.core).owner = none ∨ (s.core c.core).owner = some c.team →
      (Ctl.mk (c.uni f 2 f.a).toNat).bad false 1 = true ∨ (Ctl.mk (c.uni f 2 f.a).toNat).gate.isSome = true →
      Raises s id (.aclr f) (mkCause 0x0C 0 0)) ∧
    ((s.core c.core).owner = some c.team → (Ctl.mk (c.uni f 2 f.a).toNat).bad false 1 = false →
      (Ctl.mk (c.uni f 2 f.a).toNat).gate = none → (s.core c.core).ms.st ≠ .idle → Raises s id (.aclr f) (mkCause 0x0A 2 0))

/-- R169 to R178, R217: with a good control word, an open gate, operands in the window and room in the checker, each engine
instruction of the matrix sequencer becomes a job. That `.inc` leaves an immediate base as it is, and the job runs at it, is the model's
choice (log entry 90). -/
def Obligations.EngineJobsJoin : Prop :=
  (∀ (f : Form) (s : State) (ck : Nat), SeqRuns s ck false →
    let ctl := Ctl.mk ((seqAt s ck false).uni f f.c).toNat
    let a := (seqAt s ck false).uni f f.a
    let n := (imageParts f.ty f.hi ctl.kl).size
    ldwBad ctl f.ty f.hi = false → ctl.gate = none → (∀ j ∈ (s.core ck).jobs, j.kind ≠ .ldw) → (s.core ck).jobs.length < 16 →
    s.seqSlab (s.seqTeam ck) (seqAt s ck false).pc [(a, 64, n)] = none →
    ∃ t, exec (.ldw f) s = .next t ∧ JobJoins s t ck false f .ldw [(f.a, n)] (fun j => j.a = a ∧ j.mod = f.modN ∧
      j.reads = [slabRegion (s.seqTeam ck) a n] ∧ j.writes = [planeRegion (s.core ck) false])) ∧
  (∀ mk ∈ ([(.mma, false), (.mmaC, true)] : List ((Form → Instr) × Bool)), ∀ (f : Form) (s : State) (ck : Nat), SeqRuns s ck false →
    let ctl := Ctl.mk ((seqAt s ck false).uni f f.c).toNat
    let a := (seqAt s ck false).uni f f.a
    let b := (seqAt s ck false).uni f f.b
    let p := (s.core ck).active
    let n := ctl.rows * rowBytes f.ty p.spars
    let m := ctl.rows * scaleBytes f.ty p.spars
    let per := if mk.2 then 2 else 1
    ctl.bad true per = false → ctl.gate = none → streamMismatch p f.ty mk.2 = none → (s.core ck).jobs.length < 16 →
    s.seqSlab (s.seqTeam ck) (seqAt s ck false).pc ((a, 1, n) :: (if m = 0 then [] else [(b, 1, m)])) = none →
    ∃ t, exec (mk.1 f) s = .next t ∧
      JobJoins s t ck false f (if mk.2 then .mmaC else .mma) ((f.a, n) :: (if f.b = .zero then [] else [(f.b, m)])) (fun j =>
        j.a = a ∧ j.b = b ∧ j.mod = f.modN ∧ j.writes = [accRegion ctl.arow (per * ctl.rows)])) ∧
  (∀ (f : Form) (s : State) (ck : Nat), SeqRuns s ck false →
    let ctl := Ctl.mk ((seqAt s ck false).uni f f.c).toNat
    let a := (seqAt s ck false).uni f f.a
    let n := ctl.rows * 64 * (if f.ty = 0 then 4 else 2)
    ctl.bad false 1 = false → ctl.gate = none → (s.core ck).jobs.length < 16 →
    s.seqSlab (s.seqTeam ck) (seqAt s ck false).pc [(a, if f.ty = 0 then 4 else 2, n)] = none →
    ∃ t, exec (.amov f) s = .next t ∧ JobJoins s t ck false f .amov [(f.a, n)] (fun j => j.a = a ∧ j.mod = f.modN ∧
      j.reads = [accRegion ctl.arow ctl.rows])) ∧
  ∀ (f : Form) (s : State) (ck : Nat), SeqRuns s ck false →
    let ctl := Ctl.mk ((seqAt s ck false).uni f f.c).toNat
    let a := (seqAt s ck false).uni f f.a
    let b := (seqAt s ck false).uni f f.b
    let n := ctl.rows * packedRow f.ty
    ctl.bad false 1 = false → qntBad f.ty (f.xBit 4) b.toNat = false → ctl.gate = none → (s.core ck).jobs.length < 16 →
    s.seqSlab (s.seqTeam ck) (seqAt s ck false).pc [(a, 8, n)] = none →
    ∃ t, exec (.qnt f) s = .next t ∧ JobJoins s t ck false f .qnt [(f.a, n)] (fun j => j.a = a ∧ j.b = b ∧ j.mod = f.modN ∧
      j.reads = [accRegion ctl.arow ctl.rows])

/-- R172: with no load of a plane outstanding and every stream begun, whatever else is in the checker, `flip` exchanges the planes;
until then its sequencer waits, and the planes stay. -/
def Sys2Proof.Stated.PlaneFlip : Prop :=
  (∀ (f : Form) (s : State) (ck : Nat), SeqRuns s ck false →
    (∀ j ∈ (s.core ck).jobs, j.kind ≠ .ldw ∧ (j.kind = .mma ∨ j.kind = .mmaC → j.started = true)) →
    ∃ t, exec (.flip f) s = .next t ∧ SeqFrame s t ck false ∧ SeqPassed (seqAt s ck false) (seqAt t ck false) f ∧
      (t.core ck).active = (s.core ck).shadow ∧ (t.core ck).shadow = (s.core ck).active ∧ (t.core ck).acc = (s.core ck).acc ∧
      (t.core ck).jobs = (s.core ck).jobs) ∧
  ∀ (f : Form) (s : State) (ck : Nat) (j : Job), SeqRuns s ck false → j ∈ (s.core ck).jobs → j.crew = none →
    j.kind = .ldw ∨ ((j.kind = .mma ∨ j.kind = .mmaC) ∧ j.started = false) →
    ∃ t, exec (.flip f) s = .next t ∧ SeqFrame s t ck false ∧ seqAt t ck false = { seqAt s ck false with st := .held } ∧
      (t.core ck).active = (s.core ck).active ∧ (t.core ck).shadow = (s.core ck).shadow ∧ (t.core ck).acc = (s.core ck).acc ∧
      (t.core ck).jobs = (s.core ck).jobs

/-- R164, R169, R172, R176: the accumulator clear, with its traps, and the exchange of planes. The order of two of its traps is the
model's choice (log entry 99). -/
def Obligations.AccumulatorAndPlanes : Prop := AccumulatorClear ∧ PlaneFlip

/-- R179, R180, R213, R217: a copy instruction with a good card becomes a job: of the producer crew, with an operation that
stands for it, or of a sequencer. -/
def Obligations.CopyJobsJoin : Prop :=
  (∀ mk ∈ ([(.cpy, .cpy), (.cpyx, .cpyx), (.cpym, .cpym)] : List ((Form → Instr) × JobKind)),
    ∀ (f : Form) (s : State) (id : Nat) (c : Crew), Runs s id c → Ready c (mk.1 f) f → c.num = (s.team c.team).prod → f.xBit 5 = false →
    s.slabCheck c.team (c.uni f 2 f.a) 64 64 = .ok →
    let card := listDWords 8 (s.winRead c.team ((c.uni f 2 f.a).toNat % 2 ^ 32) 64)
    let j := s.cardJob mk.2 c.team (some id) (c.uni f 2 f.a) card
    cardBad mk.2 card = false → (s.core c.core).jobsFull true = false → (s.ottPick c).isSome = true →
    ∃ t d o, exec (mk.1 f) s = .next t ∧ pfind t.crews id = some d ∧ Passed c d f ∧ d.ops = c.ops ++ [o] ∧ o.id = s.nextId ∧
      o.path = .none ∧ o.held = true ∧ o.done = false ∧ d.k = c.k ∧ d.v = c.v ∧ d.hist = c.hist ∧ t.mem = s.mem ∧ t.teams = s.teams ∧
      (t.core c.core).jobs = (s.core c.core).jobs ++ [j] ∧ j.id = s.nextId ∧ j.card = card ∧ j.started = false) ∧
  ∀ mk ∈ ([(.cpy, .cpy), (.cpyx, .cpyx), (.cpym, .cpym)] : List ((Form → Instr) × JobKind)),
    ∀ (f : Form) (s : State) (ck : Nat) (cp : Bool), SeqRuns s ck cp → (s.core ck).jobsFull true = false →
    s.slabCheck (s.seqTeam ck) ((seqAt s ck cp).uni f f.a) 64 64 = .ok →
    let card := listDWords 8 (s.winRead (s.seqTeam ck) (((seqAt s ck cp).uni f f.a).toNat % 2 ^ 32) 64)
    let j := s.cardJob mk.2 (s.seqTeam ck) none ((seqAt s ck cp).uni f f.a) card
    cardBad mk.2 card = false → j.gate = none →
    ∃ t, exec (mk.1 f) s = .next t ∧ JobJoins s t ck cp f mk.2 [(f.a, 64)] (fun x => x = j)

/-- R175, R180, R218: what jobs do when they start: a `cpy` of one row within the window copies its bytes, and a stream that the
active plane does not fit stops with its mismatch and writes no row. That a job reads and writes all its bytes at its start is the
model's choice (log entry 85); R181 lets each byte be seen before or after. -/
def Sys2Proof.Stated.JobsStart : Prop :=
  (∀ (s : State) (ck id sub : Nat) (j : Job), s.findJob ck id = some j → j.started = false → s.jobReady ck j = true →
    s.stopping j.team = false → s.dark ck = false → (j.kind = .mma ∨ j.kind = .mmaC) →
    streamMismatch (s.core ck).active (j.mod % 16) (decide (j.kind = .mmaC)) = some sub →
    ∃ t, exec (.jobStart ck id) s = .next t ∧ (jobAt t ck id).started = true ∧
      (jobAt t ck id).fault = some { mkCause 0x0B sub j.addr with org := 1 } ∧ (t.core ck).acc = (s.core ck).acc ∧ t.crews = (s.enterTable j).crews) ∧
  ∀ (s : State) (ck id n x y : Nat) (j : Job), s.findJob ck id = some j → j.started = false → s.jobReady ck j = true →
    s.stopping j.team = false → s.dark ck = false → j.kind = .cpy → cardSk j.card = 1 → cardDk j.card = 1 → cardRows j.card = 1 →
    cardRow j.card = n → cardWord j.card 1 = x → cardWord j.card 2 = y → x + n ≤ (s.team j.team).slab * 4096 →
    y + n ≤ (s.team j.team).slab * 4096 → (s.team j.team).slab ≤ 128 → 1 ≤ n → (pfind s.teams j.team).isSome = true →
    ∃ t, exec (.jobStart ck id) s = .next t ∧ (jobAt t ck id).started = true ∧ (jobAt t ck id).fault = none ∧
      (j.gate = none → t.mem = s.mem) ∧ t.crews = (s.enterTable j).crews ∧ (∀ i < n, winByte t j.team (y + i) = winByte s j.team (x + i)) ∧
      ∀ a, ¬(y ≤ a ∧ a < y + n) → winByte t j.team a = winByte s j.team a

/-- R180, R184, R212: a started job without beats left leaves the checker when it completes, and an arrival that its card
asks for is owed; an arrival is applied to its barrier; a beat is written where the window's tag is still the recorded one and
its gang is not being pre-empted, and discarded and counted otherwise (R279). -/
def Sys2Proof.Stated.JobsComplete : Prop :=
  (∀ (s : State) (ck id : Nat) (j : Job), s.findJob ck id = some j → j.started = true → j.beats = [] → s.jobHeld ck id = false →
    j.fault = none → j.crew = none → j.kind = .cpy → cardField j.card 16 1 = 1 → cardWord j.card 6 = 0 → (s.core ck).owed = [] →
    ∃ t, exec (.jobCompletion ck id) s = .next t ∧ (t.core ck).jobs = (s.core ck).jobs.filter (fun x => x.id != id) ∧
      t.arrivals = pput s.arrivals s.nextId (j.team, cardField j.card 12 4, j.team, ck) ∧ t.crews = s.crews ∧ t.mem = s.mem ∧
      (∀ u, t.team u = { s.team u with prior := (t.team u).prior }) ∧ ∀ u, ∀ e ∈ (t.team u).prior, e.2.1 ≠ id) ∧
  (∀ (s : State) (k u b src : Nat), pfind s.arrivals k = some (u, b, src, (s.team u).core) → (pfind s.teams u).isSome = true →
    (s.bar u b).exp ≠ 0 →
    ∃ t, exec (.arrivalApplied k) s = .next t ∧ pfind t.arrivals k = none ∧ t.crews = s.crews ∧ t.mem = s.mem ∧
      t.bar u b = { s.bar u b with
        arr := ((s.bar u b).arr + 1) % (s.bar u b).exp
        ph := (s.bar u b).ph + BitVec.ofNat 16 (((s.bar u b).arr + 1) / (s.bar u b).exp) }) ∧
  (∀ (s : State) (ck id tw off u wc : Nat) (bs : List Byte) (tag : BitVec 8) (j : Job) (x : Team), s.findJob ck id = some j →
    j.beats = [(tw, off, bs)] → j.windows = [(tw, u, wc, tag)] → pfind s.teams u = some x → x.tag = tag →
    (pget Gang.waiting (s.launch x.launch).gangs x.gang).want ≠ 2 →
    ∃ t, exec (.cpymBeat ck id tw 0) s = .next t ∧ (jobAt t ck id).beats = [] ∧ t.crews = s.crews ∧ t.mem = s.mem ∧
      (∀ i < bs.length, winByte t u (off + i) = bs.getD i 0) ∧
      ∀ a, ¬(off ≤ a ∧ a < off + bs.length) → winByte t u a = winByte s u a) ∧
  ∀ (s : State) (ck id tw off u wc : Nat) (bs : List Byte) (tag : BitVec 8) (j : Job) (x : Team), s.findJob ck id = some j →
    j.beats = [(tw, off, bs)] → j.windows = [(tw, u, wc, tag)] → j.spoiled = [] → pfind s.teams u = some x →
    (x.tag ≠ tag ∨ (pget Gang.waiting (s.launch x.launch).gangs x.gang).want = 2) →
    ∃ t, exec (.cpymBeat ck id tw 0) s = .next t ∧ (jobAt t ck id).beats = [] ∧ t.teams = s.teams ∧ t.mem = s.mem ∧
      (t.core wc).spoil = (s.core wc).spoil + 1

/-- R166, R168, R216: a sequencer that may fetch is the next executor; one that is ending with nothing of its work left is
idle. -/
def Sys2Proof.Stated.SequencerEvents : Prop :=
  (∀ (s : State) (ck : Nat) (cp : Bool), s.seqFetches ck cp = true →
    exec (.sequencerFetch ck cp) s = .next { s with cur := some (.seq ck cp) }) ∧
  ∀ (s : State) (ck : Nat) (cp : Bool), (seqAt s ck cp).st = .ending → (s.core ck).jobs = [] → (s.core ck).owed = [] →
    ∃ t, exec (.seqEndCompletes ck cp) s = .next t ∧ seqAt t ck cp = { seqAt s ck cp with st := .idle } ∧
      seqAt t ck (!cp) = seqAt s ck (!cp) ∧ t.crews = s.crews ∧ t.mem = s.mem

/-- R166, R168, R216: the control words and the events of a sequencer. -/
def Obligations.Sequencers : Prop := SequencerControl ∧ SequencerEvents

namespace Sys2Proof.Stated

open Sys2Proof Sys2Proof.Machine

/-- The record that a word names. -/
def handleOf (s : State) (c : Crew) (f : Form) : BitVec 512 := s.tnGet c.team f.ty

/-- The eight uniform registers from a number on, as one record (R283). -/
def recordFrom (c : Crew) (a : Nat) : BitVec 512 :=
  BitVec.ofNat 512 ((List.range 8).map (fun i => (c.kget (a + i)).toNat * 2 ^ (64 * i))).sum

/-- Of a team's registers only the one that the word names may differ. -/
def OtherHandles (s t : State) (c : Crew) (f : Form) : Prop := ∀ n, n ≠ f.ty → t.tnGet c.team n = s.tnGet c.team n

/-- The packets that a step sent, in order. -/
def newPackets (s t : State) : List Packet := (t.packets.drop s.packets.length).map (·.2)

/-- Every packet sent belongs to an operation, from an island to one of some targets, ordered or not. -/
def SentFor (s t : State) (rop src : Nat) (js : List Nat) (ordered : Bool) : Prop :=
  ∀ p ∈ newPackets s t, p.rop = rop ∧ p.src = src ∧ p.dst ∈ js ∧ p.ordered = ordered ∧ p.err = none

/-- The remote operation of an issued word, which waits for its answers. -/
def RemoteOp (s t : State) (c : Crew) (o : Op) (kind : RKind) (left : Nat) : Prop :=
  o.held = true ∧ ∃ r, pfind t.rops o.id = some r ∧ r.kind = kind ∧ r.left = left ∧ r.team = c.team ∧ r.isl = c.isl ∧
    r.fn = (s.launchOf c).fn

/-- What a put or get moves, cut at the lines of the remote side (R363). -/
def putPieces (a : Nat) (n : Nat) (bs : List Byte) : List Payload :=
  (spans a n).map (fun e => .put e.1 ((bs.drop (e.1 - a)).take e.2))

end Sys2Proof.Stated

/-! ## Handles -/

/-- R281, R283: `thd` writes a valid record; `thl` issues an operation that brings the 64 bytes at its address, or zero where
they are no valid record, and leaves the register as it is until that completes (the write itself is in CrewEvents); `ths`
stores the record as it stands. That `thl` reads its record at issue (log entry 57) and that `ths` writes at issue (log entry
52) are the model's choices. -/
def Obligations.HandleLoads : Prop :=
  (∀ (f : Form) (s : State) (id : Nat) (c : Crew), Runs s id c → Ready c (.thd f) f → (pfind s.teams c.team).isSome = true →
    (∀ i < 8, c.kAwaits (f.a.src.bits.toNat % 64 + i) = false) → hPd (handleOf s c f) = false →
    hValid (recordFrom c (f.a.src.bits.toNat % 64)) = true →
    ∃ t, exec (.thd f) s = .next t ∧ t.crews = pput s.crews id (past c f) ∧ t.mem = s.mem ∧ t.cores = s.cores ∧
      handleOf t c f = recordFrom c (f.a.src.bits.toNat % 64) ∧ OtherHandles s t c f) ∧
  (∀ (f : Form) (s : State) (id : Nat) (c : Crew) (p : Loc), Runs s id c → Ready c (.thl f) f → (pfind s.teams c.team).isSome = true →
    MayIssue s c .tn → hPd (handleOf s c f) = false → s.accessAt c .read (c.eaUniform f) 64 = .ok p → Pages s → Room s c.core 1 →
    ∃ t o, exec (.thl f) s = .next t ∧ Issued s t id c f .tn o ∧ t.mem = s.mem ∧ t.teams = s.teams ∧ o.vreg = none ∧
      o.kreg = none ∧ o.hvals = none ∧ o.hn = some f.ty ∧ o.held = false ∧
      let r := BitVec.ofNat 512 (seenVal s c.core p 64)
      o.hrec = some (if hValid r then r else 0)) ∧
  ∀ (f : Form) (s : State) (id : Nat) (c : Crew) (p : Loc), Runs s id c → Ready c (.ths f) f → MayIssue s c .tn →
    s.accessAt c .write (c.eaUniform f) 64 = .ok p → Pages s → Room s c.core 2 → coreIsl c.core < 36 →
    ∃ t o, exec (.ths f) s = .next t ∧ Issued s t id c f .tn o ∧ t.teams = s.teams ∧
      Stored s t c.core (fun l => l == 0) (fun _ => p) 64 (fun _ => (handleOf s c f).toNat) ∧ (p.ah = false → t.mem = s.mem)

/-- R282, R284, R285, R295: element loads and stores of a valid handle with no relay pending work at the elements' places, which
its layout gives (the place is `elemOffset`, the layouts of R290 to R295); `thpf` leaves every crew and team as it was but for
the word passed. The values are those at issue, the model's choice (log entry 52). -/
def Obligations.ElementAccesses : Prop :=
  (∀ (f : Form) (s : State) (id : Nat) (c : Crew) (e : Nat → ElemRef), Runs s id c → Ready c (.tld f) f → MayIssue s c .tn →
    let r := handleOf s c f
    c.handleFault f r = none → hPd r = false →
    (∀ l < 32, c.isActive l = true → s.elemRef (s.launchOf c) c.slotRange r .read (c.coords f l) = .ok (e l)) → Room s c.core 64 →
    ∃ t o, exec (.tld f) s = .next t ∧ Issued s t id c f .tn o ∧ t.mem = s.mem ∧ t.teams = s.teams ∧
      (∀ l < 32, c.isActive l = true →
        (e l).ba = 8 * hBase r + elemWidth (hFmt r) * elemOffset r (hTag r) (hStride r) (c.coords f l)) ∧
      BringsLanes c f o 1 (fun l =>
        tldExt (elemWidth (hFmt r)) f.m4 (crewVal s id c (e l).loc (elemWidth (hFmt r) / 8)))) ∧
  (∀ (f : Form) (s : State) (id : Nat) (c : Crew) (e : Nat → ElemRef), Runs s id c → Ready c (.tst f) f → MayIssue s c .tn →
    let r := handleOf s c f
    c.handleFault f r = none → hPd r = false →
    (∀ l < 32, c.isActive l = true → s.elemRef (s.launchOf c) c.slotRange r .write (c.coords f l) = .ok (e l)) → Room s c.core 65 →
    coreIsl c.core < 36 →
    ∃ t o, exec (.tst f) s = .next t ∧ Issued s t id c f .tn o ∧ o.vreg = none ∧ o.hvals = none ∧ t.teams = s.teams ∧
      Stored s t c.core c.isActive (fun l => (e l).loc) (elemWidth (hFmt r) / 8) (fun l => (c.src32 f 11 f.c l).toNat)) ∧
  ∀ (f : Form) (s : State) (id : Nat) (c : Crew), Runs s id c → Ready c (.thpf f) f →
    ∃ t, exec (.thpf f) s = .next t ∧ t.crews = pput s.crews id (past c f) ∧ t.teams = s.teams ∧ (f.m4 = false → t.mem = s.mem)

/-- R286 to R288, R301: `relay` leaves its record pending and starts a conversion under its own lease; `thw` settles the record once the conversion is
complete and else waits; `thq` brings the conversion's progress. -/
def Obligations.Relayout : Prop :=
  (∀ (f : Form) (s : State) (id : Nat) (c : Crew), Runs s id c → Ready c (.relay f) f → (pfind s.teams c.team).isSome = true →
    let r := handleOf s c f
    let r' := hRelay r (c.uni f 2 f.a).toNat (c.uni f 2 f.b).toNat (c.uni f 2 f.c).toNat
    hValid r = true → hPd r = false →
    relayBad (s.launchOf c) r (c.uni f 2 f.a).toNat (c.uni f 2 f.b).toNat (c.uni f 2 f.c).toNat = false →
    ∃ t v, exec (.relay f) s = .next t ∧ t.crews = pput s.crews id (past c f) ∧ t.mem = s.mem ∧ t.cores = s.cores ∧
      handleOf t c f = r' ∧ OtherHandles s t c f ∧
      (t.isl (s.launchOf c).isl).convs = ((s.isl (s.launchOf c).isl).convs.filter (fun u =>
        !(u.complete && u.asid == (s.launchOf c).asid && hMap u.handle == (c.uni f 2 f.c).toNat))) ++ [v] ∧
      v.handle = r' ∧ v.tiles = hTiles r ∧ v.next = 0 ∧ v.moving = false ∧ v.held = [] ∧ v.hw = 0 ∧ v.stopped = false ∧
      v.complete = false ∧ v.asid = (s.launchOf c).asid ∧ ∃ x, pfind t.leases v.lease = some x ∧ x.void = false ∧
      x.asid = (s.launchOf c).asid ∧ x.units = [(hBase r, oldBytes r), ((c.uni f 2 f.b).toNat, newBytes r'),
        ((c.uni f 2 f.c).toNat, 8 * hTiles r)]) ∧
  (∀ (f : Form) (s : State) (id : Nat) (c : Crew), Runs s id c → Ready c (.thw f) f →
    let r := handleOf s c f
    (hPd r = false → exec (.thw f) s = .next (After s id (past c f))) ∧
    (hPd r = true → s.relayDone (s.launchOf c) r = false → Waits s id (.thw f)) ∧
    (hPd r = true → s.relayDone (s.launchOf c) r = true → (pfind s.teams c.team).isSome = true →
      ∃ t, exec (.thw f) s = .next t ∧ t.crews = pput s.crews id (past c f) ∧
        ((s.core c.core).gI ≠ 15 → t.mem = s.mem) ∧ handleOf t c f = hSettle r ∧
        OtherHandles s t c f ∧ (t.core c.core).gI = (s.core c.core).gI + 1 ∧ (t.core c.core).gS = (s.core c.core).gS)) ∧
  ∀ (f : Form) (s : State) (id : Nat) (c : Crew), Runs s id c → Ready c (.thq f) f → MayIssue s c .tn →
    let r := handleOf s c f
    ∃ t o v, exec (.thq f) s = .next t ∧ Issued s t id c f .tn o ∧ BringsUniform f o v ∧ t.mem = s.mem ∧ t.teams = s.teams ∧
      ((hValid r = false ∨ hPd r = false) → v = 0) ∧
      (hValid r = true → hPd r = true → ∀ x, s.convAt (s.launchOf c).isl (s.launchOf c).asid (hMap r) = some x →
        v = BitVec.ofNat 64 (2 ^ 63 + 2 ^ 48 * min x.hw 0x7FFF + 2 ^ 24 * x.next + hTiles r))

/-! ## Remote operations -/

/-- R335, R339, R341, R342, R344, R363: a remote word with good operands and a target that can be reached is issued on the `rm`
path and sends its packets. -/
def Obligations.RemoteWordsIssue : Prop :=
  (∀ (f : Form) (s s1 : State) (id : Nat) (c : Crew) (bs : List Byte), Runs s id c → Ready c (.put f) f → MayIssue s c .rm →
    let w := c.uni f 2 f.c
    s.rwFault w (lenBad w) (c.uni f 2 f.a) = none → s.localRead c f.localSlab (c.uni f 2 f.b) (rwLen w) = .ok (s1, bs) →
    s.unreachable c.isl (s.rwTarget w) = none →
    ∃ t o, exec (.put f) s = .next t ∧ Issued s t id c f .rm o ∧ RemoteOp s t c o .put 1 ∧
      SentFor s t o.id c.isl [s.rwTarget w] (!f.relaxed) ∧
      (newPackets s t).map (·.what) = putPieces (c.uni f 2 f.a).toNat (rwLen w) bs) ∧
  (∀ (f : Form) (s s1 : State) (id : Nat) (c : Crew) (bs : List Byte), Runs s id c → Ready c (.mput f) f → MayIssue s c .rm →
    let w := c.uni f 2 f.c
    let m := c.kget (f.c.src.bits.toNat % 64 + 1)
    let js := (List.range s.islands).filter m.getLsbD
    rwIsl w = 0 → rwOp w = false → m ≠ 0 → m.toNat < 2 ^ s.islands →
    s.rwFault w (lenBad w) (c.uni f 2 f.a) = none → s.localRead c f.localSlab (c.uni f 2 f.b) (rwLen w) = .ok (s1, bs) →
    (∀ j ∈ js, s.unreachable c.isl j = none) →
    ∃ t o, exec (.mput f) s = .next t ∧ Issued s t id c f .rm o ∧ RemoteOp s t c o .put js.length ∧
      SentFor s t o.id c.isl js (!f.relaxed) ∧
      ∀ j ∈ js, ((newPackets s t).filter (fun p => p.dst == j)).map (·.what) = putPieces (c.uni f 2 f.a).toNat (rwLen w) bs) ∧
  (∀ (f : Form) (s : State) (id : Nat) (c : Crew) (slab : Option Nat) (inSlot : Bool) (loc : Nat), Runs s id c → Ready c (.get f) f →
    MayIssue s c .rm →
    let w := c.uni f 2 f.c
    s.rwFault w (lenBad w) (c.uni f 2 f.a) = none → s.localDest c f.localSlab (c.uni f 2 f.b) (rwLen w) = .ok (slab, inSlot, loc) →
    s.unreachable c.isl (s.rwTarget w) = none →
    ∃ t o, exec (.get f) s = .next t ∧ Issued s t id c f .rm o ∧ RemoteOp s t c o .get (rwLen w) ∧ t.mem = s.mem ∧
      o.kreg = (if f.nd then some f.dst.toNat else none) ∧ SentFor s t o.id c.isl [s.rwTarget w] (!f.relaxed) ∧
      (newPackets s t).map (·.what) = [.get (c.uni f 2 f.a).toNat (rwLen w)]) ∧
  (∀ (f : Form) (s : State) (id : Nat) (c : Crew), Runs s id c → Ready c (.ratm f) f → MayIssue s c .rm →
    let w := c.uni f 2 f.b
    ratmFault s f w (c.uni f 2 f.a) = none → s.unreachable c.isl (s.rwTarget w) = none →
    ∃ t o, exec (.ratm f) s = .next t ∧ Issued s t id c f .rm o ∧ RemoteOp s t c o .atomic 1 ∧ t.mem = s.mem ∧
      o.kreg = (if f.nd then some f.dst.toNat else none) ∧ SentFor s t o.id c.isl [s.rwTarget w] (!f.xBit 4) ∧
      (newPackets s t).map (·.what) = [.atomic (c.uni f 2 f.a).toNat f.ty f.hi false (c.uni f f.ty f.c) 0]) ∧
  (∀ (f : Form) (s : State) (id : Nat) (c : Crew), Runs s id c → Ready c (.ratmCas f) f → MayIssue s c .rm →
    let w := c.uni f 2 f.b
    let k := f.c.src.bits.toNat % 64
    ratmFault s f w (c.uni f 2 f.a) = none → s.unreachable c.isl (s.rwTarget w) = none →
    ∃ t o, exec (.ratmCas f) s = .next t ∧ Issued s t id c f .rm o ∧ RemoteOp s t c o .atomic 1 ∧ t.mem = s.mem ∧
      o.kreg = (if f.nd then some f.dst.toNat else none) ∧ SentFor s t o.id c.isl [s.rwTarget w] (!f.xBit 4) ∧
      (newPackets s t).map (·.what) = [.atomic (c.uni f 2 f.a).toNat f.ty f.hi true (c.kget k) (c.kget (k + 1))]) ∧
  ∀ (f : Form) (s : State) (id : Nat) (c : Crew), Runs s id c → Ready c (.ntf f) f → MayIssue s c .rm →
    let w := c.uni f 2 f.a
    s.rwFault w (decide (4096 ≤ rwLen w)) 0 = none → s.unreachable c.isl (s.rwTarget w) = none →
    ∃ t o, exec (.ntf f) s = .next t ∧ Issued s t id c f .rm o ∧ RemoteOp s t c o .notify 1 ∧ t.mem = s.mem ∧
      SentFor s t o.id c.isl [s.rwTarget w] (!f.relaxed) ∧
      (newPackets s t).map (·.what) = [.notify (rwLen w) (lowWord (c.uni f 2 f.b))]

/-- R343, R346, R347, R382: the remote waits and fences pass where what they wait for is over, and else wait; a counter above 4095
is the remote-operand trap with sub-cause 5; a launch's hold passes by the same rule as `cwait`. With nothing outstanding
`rfence.rel` is an eager release at system scope (R257): every dirty byte of the core stands at its home, and no line is dirty;
`rfence.acq` raises both generation numbers. -/
def Sys2Proof.Stated.RemoteWaits : Prop :=
  (∀ (f : Form) (s : State) (id : Nat) (c : Crew), Runs s id c → Ready c (.flushp f) f →
    ((∀ e ∈ s.rops, e.2.crew = id → e.2.kind = .get ∨ e.2.kind = .coll) →
      exec (.flushp f) s = .next (After s id (past c f))) ∧
    ((∃ e ∈ s.rops, e.2.crew = id ∧ e.2.kind ≠ .get ∧ e.2.kind ≠ .coll) → Waits s id (.flushp f))) ∧
  (∀ (f : Form) (s : State) (id : Nat) (c : Crew), Runs s id c → Ready c (.cwait f) f →
    let n := (c.uni f 2 f.a).toNat
    let h := lowWord (c.uni f 2 f.b)
    let x := pget 0 (s.isl c.isl).counters n
    (4096 ≤ n → Raises s id (.cwait f) (mkCause 0x16 5 0)) ∧
    (n < 4096 → pfind (s.isl c.isl).owners n = some (s.launchOf c).asid → (x - h).toNat < 2 ^ 31 →
      ∃ t, exec (.cwait f) s = .next t ∧ t.crews = pput s.crews id (past c f) ∧
        ((s.core c.core).gI ≠ 15 → (s.core c.core).gS ≠ 15 → t.mem = s.mem) ∧
        (t.core c.core).gI = (s.core c.core).gI + 1 ∧ (t.core c.core).gS = (s.core c.core).gS + 1) ∧
    (n < 4096 → c.cw = none → pfind (s.isl c.isl).owners n = some (s.launchOf c).asid → 2 ^ 31 ≤ (x - h).toNat →
      ∃ t d, exec (.cwait f) s = .next t ∧ pfind t.crews id = some d ∧ d.pc = c.pc ∧ d.stall = .long ∧ d.cw = some (n, h, false))) ∧
  (∀ (s : State) (n k : Nat) (h : Word) (l : Launch), pfind s.launches n = some l → l.held = true → l.hold = some (k, h) →
    ((pget 0 (s.isl l.isl).counters k - h).toNat < 2 ^ 31 →
      exec (.holdMet n) s = .next { s with launches := pput s.launches n { l with held := false } }) ∧
    (2 ^ 31 ≤ (pget 0 (s.isl l.isl).counters k - h).toNat → exec (.holdMet n) s = .next s)) ∧
  (∀ (f : Form) (s : State) (id : Nat) (c : Crew), Runs s id c → Ready c (.rfenceRel f) f → c.ops = [] →
    pRising (s.core c.core).lines = true → coreIsl c.core < 36 → (∀ e ∈ (s.core c.core).lines, 64 * e.1 + 64 ≤ 2 ^ 64) →
    ∃ t, exec (.rfenceRel f) s = .next t ∧ t.crews = pput s.crews id (past c f) ∧ t.teams = s.teams ∧
      Released s t c.core true) ∧
  ∀ (f : Form) (s : State) (id : Nat) (c : Crew), Runs s id c → Ready c (.rfenceAcq f) f → (∀ e ∈ s.rops, e.2.crew ≠ id) →
    ∃ t, exec (.rfenceAcq f) s = .next t ∧ t.crews = pput s.crews id (past c f) ∧ t.teams = s.teams ∧
      ((s.core c.core).gI ≠ 15 → (s.core c.core).gS ≠ 15 → t.mem = s.mem) ∧
      (t.core c.core).gI = (s.core c.core).gI + 1 ∧ (t.core c.core).gS = (s.core c.core).gS + 1

/-- The member of a collective that a `coll` makes, and its contribution (R348): the identity of an empty one, else the
elements at its source. -/
def Sys2Proof.Stated.CollGood (s s1 : State) (c : Crew) (f : Form) (ps src : List (Loc × Nat)) (bs : List Byte) : Prop :=
  let a := (c.uni f 2 f.a).toNat
  let card := listDWords 8 bs
  a % 64 = 0 ∧ s.regionAt c .read a 64 = .ok ps ∧ s.loadPieces c.core ps = (s1, bs) ∧ s.cBad c.isl card = false ∧
    s1.cRegions c card = .ok src ∧ (∀ i < 64, (cIm card).getLsbD i = true → (s.isl i).dead = false) ∧
    (s.collPairs card c.isl).any s.cutOff = false ∧ s.planeGone card = false

/-- R348, R351: a member of a collective whose card is good, and whose members can be reached, is issued: the first one opens
the collective with its contribution, and a later one whose card agrees joins with its own; each waits for its result. -/
def Obligations.CollectiveOpens : Prop :=
  (∀ (f : Form) (s s1 : State) (id : Nat) (c : Crew) (ps src : List (Loc × Nat)) (bs : List Byte), Runs s id c → Ready c (.coll f) f →
    MayIssue s c .rm → CollGood s s1 c f ps src bs →
    let card := listDWords 8 bs
    let vals := if cEmpty card then cIdentity card else listWords (cSize card) (cElems card) (s1.loadPieces c.core src).2
    s.findColl (s.launchOf c).fn (cardField card 48 16) = none →
    ∃ t o, exec (.coll f) s = .next t ∧ Issued s t id c f .rm o ∧ RemoteOp s t c o .coll 1 ∧
      o.kreg = (if f.nd then some f.dst.toNat else none) ∧ t.packets = s.packets ∧
      t.colls = pput s.colls (s.nextId + 1)
        ⟨(s.launchOf c).fn, s.cAgreed card, [⟨c.isl, o.id, cEmpty card, false, false⟩], [(c.isl, vals)], false, 0⟩) ∧
  ∀ (f : Form) (s s1 : State) (id k : Nat) (c : Crew) (x : Coll) (ps src : List (Loc × Nat)) (bs : List Byte), Runs s id c →
    Ready c (.coll f) f → MayIssue s c .rm → CollGood s s1 c f ps src bs →
    let card := listDWords 8 bs
    let vals := if cEmpty card then cIdentity card else listWords (cSize card) (cElems card) (s1.loadPieces c.core src).2
    s.findColl (s.launchOf c).fn (cardField card 48 16) = some (k, x) → x.broken = false → x.card = s.cAgreed card →
    (∀ m ∈ x.members, m.isl ≠ c.isl) →
    ∃ t o, exec (.coll f) s = .next t ∧ Issued s t id c f .rm o ∧ RemoteOp s t c o .coll 1 ∧
      o.kreg = (if f.nd then some f.dst.toNat else none) ∧ t.packets = s.packets ∧
      t.colls = pput s.colls k
        { x with members := x.members ++ [⟨c.isl, o.id, cEmpty card, false, false⟩], parts := pput x.parts c.isl vals }

/-! ## Events of crews, teams and gangs -/

/-- R30, R63, R65, R118, R281: an operation that completes gives its values to the registers and to the history entry that
awaited it, a handle operand its record, and its counter falls; an exited crew with nothing left loses its context, a
producer once its engines have stopped and its jobs have completed (R214). -/
def Sys2Proof.Stated.OperationsComplete : Prop :=
  (∀ (s : State) (id : Nat) (c : Crew) (o : Op), pfind s.crews id = some c → c.ops = [o] → o.done = false → o.held = false →
    o.after = [] → o.frozen = false → c.trigWait = none → c.exiting = false →
    ∃ t d, exec (.operationCompletes id o.id) s = .next t ∧ pfind t.crews id = some d ∧ d.ops = [] ∧ t.mem = s.mem ∧
      (∀ x, x ≠ id → pfind t.crews x = pfind s.crews x) ∧
      (o.vreg = none → d.v = c.v) ∧ (o.kreg = none → d.k = c.k) ∧
      (∀ r x, o.vreg = some r → o.vvals = [x] → ∀ l < 32,
        laneOf (d.vget r) l = if o.mask.getLsbD l then laneOf x l else laneOf (c.vget r) l) ∧
      (∀ n < 64, o.kreg = some n → d.kget n = o.kval) ∧
      (∀ x, o.hvals = some x → d.hist = c.hist.map (fun h => if h.pend = some o.id then ⟨x, none⟩ else h)) ∧
      (∀ n r u, o.hn = some n → o.hrec = some r → pfind s.teams c.team = some u →
        t.tnGet c.team n = r ∧ ∀ m, m ≠ n → t.tnGet c.team m = s.tnGet c.team m) ∧
      ((o.hn = none ∨ o.hrec = none) → t.teams = s.teams)) ∧
  ∀ (s : State) (id : Nat) (c : Crew), pfind s.crews id = some c → c.exiting = true → c.ops = [] → c.trigWait = none →
    (s.team c.team).fatal = none →
    ((s.team c.team).prod = c.num → ((s.core c.core).owner = some c.team →
        ∀ q ∈ [(s.core c.core).ms, (s.core c.core).cs], q.st = .idle ∨ q.st = .faulted) ∧
      ∀ j ∈ (s.core c.core).jobs, j.crew ≠ some id) →
    exec (.producerContextFreed id) s = .next { s with crews := pdel s.crews id }

namespace Sys2Proof.Stated

open Sys2Proof Sys2Proof.Machine

/-- A pending crew of a quarter that could issue, and that has waited longer than every other one (R158). -/
def WaitsLongest (s : State) (ck q id : Nat) (c : Crew) : Prop :=
  (id, c) ∈ s.quarterCrews ck q ∧ c.waits = true ∧
    ∀ e ∈ s.quarterCrews ck q, e.2.waits = true → e ≠ (id, c) → c.wstamp < e.2.wstamp

/-- A waiting crew of a quarter that has waited for the most issues, the oldest in the pending set of those that have waited
as long (R159). -/
def WaitsMost (s : State) (ck q id : Nat) (c : Crew) : Prop :=
  (id, c) ∈ s.quarterCrews ck q ∧ c.waits = true ∧
    ∀ e ∈ s.quarterCrews ck q, e.2.waits = true → e ≠ (id, c) →
      e.2.waited < c.waited ∨ (e.2.waited = c.waited ∧ c.wstamp < e.2.wstamp)

/-- An active crew of a quarter that a key puts before every other one which it is compared with. -/
def FirstBy (s : State) (ck q out : Nat) (d : Crew) (among : Crew → Bool) (before : Crew → Crew → Prop) : Prop :=
  (out, d) ∈ s.quarterCrews ck q ∧ d.place = .active ∧ among d = true ∧
    ∀ e ∈ s.quarterCrews ck q, e.2.place = .active → among e.2 = true → e ≠ (out, d) → before d e.2

/-- A swap of a quarter has started: one crew moves in, another out; no other crew is touched but that a `yield` of the quarter
has had its clock. -/
def SwapStarted (s t : State) (ck q : Nat) (out : Option (Nat × Crew)) (into : Nat × Crew) : Prop :=
  pfind (t.core ck).swaps q = some (out.map (·.1), some into.1) ∧ t.mem = s.mem ∧
  pfind t.crews into.1 = some { into.2 with place := .movingIn, yielded := false } ∧
  (∀ e, out = some e → pfind t.crews e.1 = some { e.2 with place := .movingOut, yielded := false }) ∧
  ∀ x, x ≠ into.1 → (∀ e, out = some e → x ≠ e.1) → pfind t.crews x = (pfind s.crews x).map (fun d =>
    if d.core = ck ∧ d.quarter = q then { d with yielded := false } else d)

end Sys2Proof.Stated

/-- R157 to R159: a swap starts where the port is free and a pending crew could issue: into a free place, else for the crew
that yielded, else for the one stalled longest; where none waits nothing happens. It ends with the crew in the active set as
its youngest, and the other pending; a displacing one sends out the crew that entered first. -/
def Sys2Proof.Stated.Swaps : Prop :=
  (∀ (s : State) (ck q id : Nat) (c : Crew), pfind (s.core ck).swaps q = none → WaitsLongest s ck q id c →
    pfind s.crews id = some c →
    (s.activeCount ck q < 8 → ∃ t, exec (.swapStart ck q) s = .next t ∧ SwapStarted s t ck q none (id, c)) ∧
    ∀ out d, 8 ≤ s.activeCount ck q → pfind s.crews out = some d →
      (FirstBy s ck q out d (·.yielded) (fun _ _ => False) ∨
        ((∀ e ∈ s.quarterCrews ck q, e.2.place = .active → e.2.yielded = false) ∧
          FirstBy s ck q out d (·.stalled) (fun a b => a.wstamp < b.wstamp ∨ (a.wstamp = b.wstamp ∧ a.stamp < b.stamp)))) →
      ∃ t, exec (.swapStart ck q) s = .next t ∧ SwapStarted s t ck q (some (out, d)) (id, c)) ∧
  (∀ (s : State) (ck q : Nat), (∀ e ∈ s.quarterCrews ck q, e.2.waits = false) → exec (.swapStart ck q) s = .next s) ∧
  (∀ (s : State) (ck q id : Nat) (c : Crew) (n : Nat), pfind s.crews id = some c → c.place ≠ .left → c.core = ck → c.quarter = q →
    n = pget 0 (s.core ck).stamps q →
    let c1 : Crew := { c with place := .active, stamp := n, entered := n, run := 0, stall := .none }
    (pfind (s.core ck).swaps q = some (none, some id) →
      ∃ t, exec (.swapEnds ck q) s = .next t ∧ pfind (t.core ck).swaps q = none ∧ t.mem = s.mem ∧
        t.crews = pput s.crews id c1) ∧
    ∀ out d, pfind (s.core ck).swaps q = some (some out, some id) → out ≠ id → pfind s.crews out = some d → d.place ≠ .left →
      d.core = ck → d.quarter = q →
      ∃ t, exec (.swapEnds ck q) s = .next t ∧ pfind (t.core ck).swaps q = none ∧ t.mem = s.mem ∧
        t.crews = pput (pput s.crews id c1) out { d with
          place := .pending, wstamp := n + 1, run := 0, yielded := false, waited := 0
          stall := if d.stall = .hold then .none else d.stall }) ∧
  ∀ (s : State) (ck q id out : Nat) (c d : Crew), pfind (s.core ck).swaps q = none → 8 ≤ s.activeCount ck q →
    WaitsMost s ck q id c → pfind s.crews id = some c → pfind s.crews out = some d →
    FirstBy s ck q out d (fun _ => true) (fun a b => a.entered < b.entered) →
    ∃ t, exec (.displacement ck q) s = .next t ∧ SwapStarted s t ck q (some (out, d)) (id, c)

/-- R30, R63, R65, R118, R157 to R159, R214: completions, swaps and freed contexts. -/
def Obligations.CrewEvents : Prop := OperationsComplete ∧ Swaps

/-- R236, R272, R274: between two issues a crew takes its section's overrun after 100 µs on its island's clock, but at just
100 µs an `nps.end` that can issue goes first; it enters the handler once what the entry waited for is done, and takes its
team's oldest imprecise cause. -/
def Obligations.TrapsBetweenIssues : Prop :=
  (∀ (s : State) (id : Nat) (c : Crew) (x : DWord), pfind s.crews id = some c → c.sect = some x → c.inRound = none →
    c.trap = none → s.stopping c.team = false → CanEnter s c →
    let now := (s.islTime c.isl).toNat
    (x.toNat + 100000 < now ∨ (x.toNat + 100000 = now ∧ ∀ f, s.fetch (.crew id) ≠ .ok (.npsEnd f)) →
      ∃ t, exec (.sectionOverrun id) s = .next t ∧ Entered s t id { c with sect := none } 0x11 (s.islTime c.isl) 0) ∧
    (now < x.toNat + 100000 ∨ (x.toNat + 100000 = now ∧ c.place = .active ∧ c.clauseWaits = false ∧
        ∃ f, s.fetch (.crew id) = .ok (.npsEnd f)) →
      exec (.sectionOverrun id) s = .next s)) ∧
  (∀ (s : State) (id : Nat) (c : Crew) (x : Cause), pfind s.crews id = some c → c.trap = some x → c.ops = [] →
    ∃ t, exec (.trapEntry id) s = .next t ∧ Entered s t id c x.word x.info 0) ∧
  ∀ (s : State) (id u : Nat) (c : Crew) (x : Cause) (xs : List Cause), s.producer u = some id → pfind s.crews id = some c →
    c.queued = x :: xs → x.fatal = false → c.inRound = none → c.trap = none → s.stopping u = false → CanEnter s c →
    ∃ t, exec (.impreciseDelivery u) s = .next t ∧ Entered s t id { c with queued := xs } x.word x.info 0

/-- R111, R114, R115, R124, R215, R376, R378: placing a gang puts a team on each core, with every crew of it at the entry, and
starts the launch; a team that is over gives up its core and its engines; a launch whose gangs have all retired is completed, or failed
with code 0x20 where a team ended by a fatal cause. -/
def Sys2Proof.Stated.TeamsAndLaunches : Prop :=
  (∀ (s : State) (n g : Nat) (cores : List Nat), s.gangFits n g cores = true →
    ∃ t, exec (.gangPlacement n g cores) s = .next t ∧ (t.gang n g).st = .placed ∧ (t.launch n).st = 1 ∧
      ∀ ck ∈ cores, ∃ e ∈ t.teams, e.2.core = ck ∧ e.2.launch = n ∧ e.2.gang = g ∧ e.2.slab = (s.launch n).slab ∧
        ∀ k < (s.launch n).ncrew, ∃ x ∈ t.crews, x.2.team = e.1 ∧ x.2.num = k ∧ x.2.core = ck ∧ x.2.pc = (s.launch n).entry ∧
          x.2.hdr = (s.launch n).entry ∧ x.2.left = 0 ∧ x.2.nreg = (s.launch n).nreg ∧ x.2.em = 0xFFFFFFFF ∧ x.2.ops = []) ∧
  (∀ (s : State) (u : Nat), s.teamOver u = true →
    ∃ t, exec (.teamEnd u) s = .next t ∧ pfind t.teams u = none ∧ t.crews = s.crews.filter (fun e => e.2.team != u) ∧
      (t.core (s.team u).core).owner ≠ some u) ∧
  (∀ (s : State) (n : Nat) (l : Launch), pfind s.launches n = some l → l.finalDue = true → l.st = 1 →
    ∃ t, exec (.launchCompletion n) s = .next t ∧ (t.launch n).finalDue = false ∧ t.crews = s.crews ∧ t.teams = s.teams ∧
      (l.fatal = none → (t.launch n).st = 2 ∧ (t.launch n).code = 0) ∧
      ∀ w, l.fatal = some w → (t.launch n).st = 4 ∧ (t.launch n).code = 0x20 ∧ (t.launch n).aux = w)

/-- R277, R278, R328: a pre-emption is asked for, waits for open sections and for rounds, stops the gang's crews, and saves the
gang once all that was issued is done; a resumed crew goes on
with its registers, masks, history and place in the code, on the new core; a restarted team takes its record's number and
barriers. -/
def Obligations.GangsMove : Prop :=
  (∀ (s : State) (n g : Nat), (s.launch n).st = 1 → (s.gang n g).st = .placed → s.gangDark n g = false →
    ((s.gang n g).want = 0 →
      ∃ t, exec (.preemption n g) s = .next t ∧ (t.gang n g).want = 1 ∧ t.crews = s.crews ∧ t.teams = s.teams) ∧
    ((s.gang n g).want = 1 → s.gangHolds n g = true → exec (.preemption n g) s = .next s) ∧
    ((s.gang n g).want = 1 → s.gangHolds n g = false →
      ∃ t, exec (.preemption n g) s = .next t ∧ (t.gang n g).want = 2 ∧ t.mem = s.mem)) ∧
  (∀ (s : State) (n g : Nat), (s.launch n).st = 1 → (s.gang n g).st = .placed → (s.gang n g).want = 2 →
    s.gangDark n g = false → (∀ e ∈ s.gangTeams n g, e.2.fatal = none) → s.gangDrained n g = true →
    ∃ t, exec (.preemption n g) s = .next t ∧ (t.gang n g).st = .saved ∧ (t.gang n g).crews = s.gangCrews n g ∧
      ∀ e ∈ s.gangTeams n g, pfind t.teams e.1 = none ∧ ∀ x ∈ t.crews, x.2.team ≠ e.1) ∧
  (∀ (s : State) (n g ck id : Nat) (c : Crew) (a : SavedTeam), s.resumeFits n g [ck] = true → (s.gang n g).teams = [a] →
    (s.gang n g).crews = [(id, c)] → c.team = a.id → c.num < 16 →
    ∃ t d, exec (.resumption n g [ck]) s = .next t ∧ (t.gang n g).st = .placed ∧ (t.team a.id).core = ck ∧
      (t.team a.id).win = a.team.win ∧ (t.team a.id).bars = a.team.bars ∧ (t.team a.id).tn = a.team.tn ∧
      pfind t.crews id = some d ∧ d.core = ck ∧ d.pc = c.pc ∧ d.hdr = c.hdr ∧ d.left = c.left ∧ d.em = c.em ∧ d.m = c.m ∧
      d.k = c.k ∧ d.v = c.v ∧ d.hist = c.hist ∧ d.fxs = c.fxs) ∧
  ∀ (s : State) (n g ck id num : Nat) (r : Record), s.restartGang id = some (n, g) → (s.gang n g).restart = [(id, num, r)] →
    (s.launch n).st = 1 → (s.launch n).gangTurn g = true → oneBench (s.launch n).isl [ck] = true →
    (s.isl (s.launch n).isl).isolatedZone (coreZone ck) = false →
    (s.isl (s.launch n).isl).isolatedZone (buddyOf (s.isl (s.launch n).isl).zone (coreZone ck)) = false →
    (r.no = 0 ∨ ((s.isl (s.launch n).isl).survivor n num).isSome = true) →
    s.storeRoom (s.launch n).isl (coreZone ck) n [(num, (s.launch n).partsOf r)] = true →
    s.passes ck ((s.launch n).partsOf r) (s.launch n).nreg (s.launch n).slab false = true →
    ∃ t, exec (.guardedRestart id [ck]) s = .next t ∧ (t.gang n g).st = .placed ∧ (t.gang n g).restart = [] ∧
      ∃ e ∈ t.teams, e.2.core = ck ∧ e.2.launch = n ∧ e.2.num = num ∧ e.2.roundNo = r.no ∧ e.2.bars = r.bars

/-! ## Events of caches, cores and zones -/

namespace Sys2Proof.Stated

open Sys2Proof Sys2Proof.Machine

/-- Every byte that was dirty in some lines of a core stands at its home (R249, R257). -/
def AtHomes (s t : State) (ck : Nat) (which : Line → Prop) : Prop :=
  ∀ li ln, pfind (s.core ck).lines li = some ln → which ln → ∀ j < 64, ln.dirty.getLsbD j = true →
    t.mem.read (s.homeKey (coreIsl ck) (64 * li) + j) = ln.bytes.getD j 0

/-- A core of a panel, whose cache holds lines of the address space, each once. -/
def Cached (s : State) (ck : Nat) : Prop :=
  coreIsl ck < 36 ∧ pRising (s.core ck).lines = true ∧ ∀ e ∈ (s.core ck).lines, 64 * e.1 + 64 ≤ 2 ^ 64

/-- The lines of an island that are owned are owned by cores of it, each by one (R223). -/
def OwnedWithin (s : State) (i : Nat) : Prop :=
  pRising (s.isl i).excl = true ∧ ∀ e ∈ (s.isl i).excl, coreIsl e.2 = i

/-- One core alone holds a byte of a line dirty. -/
def SoleDirty (s : State) (ck li j : Nat) (ln : Line) : Prop :=
  pfind (s.core ck).lines li = some ln ∧ ln.dirty.getLsbD j = true ∧
    ∀ q x, q ≠ ck → pfind (s.core q).lines li = some x → x.dirty.getLsbD j = false

end Sys2Proof.Stated

/-- R248, R249, R254, R258, R399: what acts on a core's cache from outside. After a surrender every byte of a line marked up to its
sequence stands at its home and the line is clean; an eviction writes its line back and drops it; a core that is gated has all its
dirty bytes at their homes, has returned what it owned with the bench-scope releases recorded, and holds no line, as when it wakes;
after a host's read a byte that one core held dirty stands at the host and no copy is dirty; after a host's write of a line no copy
is left, the host's bytes stand there, and of the other bytes those that one core held dirty. -/
def Sys2Proof.Stated.CacheEvents : Prop :=
  (∀ (s : State) (ck seq : Nat), ∃ t, exec (.surrender ck seq) s = .next t ∧ t.crews = s.crews ∧ t.teams = s.teams ∧
    (∀ li ln m, pfind (s.core ck).lines li = some ln → ln.mark = some m → m.toNat ≤ seq →
      ∃ x, pfind (t.core ck).lines li = some x ∧ x.dirty = 0) ∧
    (Cached s ck → AtHomes s t ck (fun ln => ∃ m, ln.mark = some m ∧ m.toNat ≤ seq))) ∧
  (∀ (s : State) (ck li : Nat) (ln : Line), pfind (s.core ck).lines li = some ln →
    pfind (s.isl (coreIsl ck)).excl li = none →
    ∃ t, exec (.eviction ck li) s = .next t ∧ pfind (t.core ck).lines li = none ∧ t.crews = s.crews ∧
      ∀ j < 64, t.mem.read (s.homeKey (coreIsl ck) (64 * li) + j)
        = if ln.dirty.getLsbD j then ln.bytes.getD j 0 else s.mem.read (s.homeKey (coreIsl ck) (64 * li) + j)) ∧
  (∀ (s : State) (ck : Nat), (s.core ck).service = .live → s.coreEmpty ck = true →
    ∃ t, exec (.powerGating ck) s = .next t ∧ (t.core ck).service = .gated ∧ (t.core ck).lines = [] ∧
      (t.core ck).relSeq = (s.core ck).relSeq ∧ t.crews = s.crews ∧
      (Cached s ck → OwnedWithin s (coreIsl ck) →
        (∀ li ln n q m, pfind (s.core ck).lines li = some ln → ln.bench = some n →
          pfind (s.isl (coreIsl ck)).rel li = some (q, m) → q = ck) →
        AtHomes s t ck (fun _ => True) ∧
        ∀ li ln n, pfind (s.core ck).lines li = some ln → pfind (s.isl (coreIsl ck)).excl li = some ck →
          pfind (t.isl (coreIsl ck)).excl li = none ∧
          (ln.bench = some n → pfind (t.isl (coreIsl ck)).rel li = some (ck, n)))) ∧
  (∀ (s : State) (ck : Nat), (s.core ck).service = .gated →
    ∃ t, exec (.coreWake ck) s = .next t ∧ t.mem = s.mem ∧
      t.core ck = { s.core ck with
        lines := [], gI := 0, gS := 0, service := if (s.core ck).counted then .live else .draining }) ∧
  (∀ (s : State) (a : Nat), ∃ t, exec (.hostSnoop a) s = .next t ∧ t.crews = s.crews ∧
    (∀ ck x, pfind (t.core ck).lines ((cxlBase + a) / 64) = some x → x.dirty = 0) ∧
    (cxlBase + a < ctxBase → ∀ ck j ln, j < 64 → SoleDirty s ck ((cxlBase + a) / 64) j ln →
      t.mem.read (s.homeKey 0 (cxlBase + a / 64 * 64) + j) = ln.bytes.getD j 0)) ∧
  ∀ (s : State) (a : Nat) (bs : List Byte), bs ≠ [] → a % 64 + bs.length ≤ 64 →
    ∃ t, exec (.hostWriteInvalidate a bs) s = .next t ∧ t.crews = s.crews ∧
      (∀ ck, pfind (t.core ck).lines ((cxlBase + a) / 64) = none) ∧ t.mem.readBytes (s.homeKey 0 (cxlBase + a)) bs.length = bs ∧
      (cxlBase + a < ctxBase → (∀ i, pfind (s.isl i).excl ((cxlBase + a) / 64) = none) →
        ∀ ck j ln, j < 64 → (j < a % 64 ∨ a % 64 + bs.length ≤ j) → SoleDirty s ck ((cxlBase + a) / 64) j ln →
          t.mem.read (s.homeKey 0 (cxlBase + a / 64 * 64) + j) = ln.bytes.getD j 0)

namespace Sys2Proof.Stated

open Sys2Proof Sys2Proof.Machine

/-- Exactly lane `l` of a crew is active, and its access of n bytes is allowed at a place in one line of its island's own memory
that is on no atomic-home page and that no core owns. -/
def OneWord (s : State) (c : Crew) (k : Acc) (ea : Nat → DWord) (n l : Nat) (p : Loc) : Prop :=
  l < 32 ∧ (∀ h < 32, c.isActive h = decide (h = l)) ∧ s.accessAt c k (ea l) n = .ok p ∧ p.ah = false ∧ isCxl p.la = false ∧
    p.la + n ≤ 2 ^ 64 ∧ p.la % 64 + n ≤ 64 ∧ coreIsl c.core < 36 ∧ pfind (s.isl (coreIsl c.core)).excl (p.la / 64) = none

/-- A byte at its home. -/
def homeByte (s : State) (ck la : Nat) : Byte := s.mem.read (s.homeKey (coreIsl ck) la)

/-- A byte of a line as a core holds it dirty, else another byte. -/
def dirtyOr (s : State) (ck la : Nat) (other : Byte) : Byte :=
  match pfind (s.core ck).lines (la / 64) with
  | some ln => if ln.dirty.getLsbD (la % 64) then ln.bytes.getD (la % 64) 0 else other
  | none => other

/-- A core holds a byte dirty. -/
def HoldsDirty (s : State) (ck la : Nat) : Prop :=
  ∃ ln, pfind (s.core ck).lines (la / 64) = some ln ∧ ln.dirty.getLsbD (la % 64) = true

/-- The generation numbers after an acquire at bench, island or system scope (R255). -/
def Acquired (s t : State) (ck scope : Nat) : Prop :=
  (t.core ck).gI = (s.core ck).gI + 1 ∧ (t.core ck).gS = (if scope = 3 then (s.core ck).gS + 1 else (s.core ck).gS)

/-- What a load brings its lanes: the value of n bytes. -/
def BringsBytes (c : Crew) (f : Form) (o : Op) (n : Nat) (byte : Nat → Byte) : Prop :=
  BringsLanes c f o (regsOf f.ty) (fun _ => loadExt f.ty ((List.range n).map (fun j => (byte j).toNat * 256 ^ j)).sum)

/-- The release sequence that a core's next release takes, where it does not wrap (R249). -/
def NextRelease (s t : State) (ck : Nat) (n : Word) : Prop := n = (s.core ck).relSeq + 1 ∧ (t.core ck).relSeq = n

end Sys2Proof.Stated

/-- R223, R226, R227, R249, R253 to R256: what an acquire reads and a release leaves, on lines of island memory. An acquire at
island or system scope whose line has another core's release recorded finds at the home that core's bytes marked up to the release,
all of which are at their homes then, and the record is gone; with no record, or its own, it finds its own dirty bytes and else the
home's. At bench scope it owns the line from then on, with the bytes that one core of the island held dirty. A release takes the
next sequence and marks what is dirty with it; at island or system scope its word is at the home and the sequence recorded there,
after another core's release has been surrendered; it writes back nothing but its own line. At bench scope word and sequence are
in the owned line. No `tst` of an acquiring crew is held. That all of this happens as the word issues is the model's choice (log
entry 52). -/
def Sys2Proof.Stated.AcquireReleaseValues : Prop :=
  (∀ (f : Form) (s : State) (id : Nat) (c : Crew) (l q : Nat) (p : Loc) (n : Word), Runs s id c → Ready c (.lda f) f → MayIssue s c .ld → NoneHeld s id →
    (f.scope = 0 ∨ f.scope = 3) → OneWord s c .read (c.eaScaled f (2 ^ f.hi)) (memWidth f.ty false) l p → q ≠ c.core →
    pfind (s.isl (coreIsl c.core)).rel (p.la / 64) = some (q, n) → coreIsl q = coreIsl c.core → Cached s q →
    (∀ ln, pfind (s.core c.core).lines (p.la / 64) = some ln → ln.dirty = 0) →
    ∃ t o, exec (.lda f) s = .next t ∧ Issued s t id c f .ld o ∧
      BringsBytes c f o (memWidth f.ty false) (fun j =>
        if (pfind (s.core q).lines (p.la / 64)).any (fun ln => ln.mark.any (fun m => decide (m.toNat ≤ n.toNat))) then
          dirtyOr s q (p.la + j) (homeByte s c.core (p.la + j))
        else homeByte s c.core (p.la + j)) ∧
      pfind (t.isl (coreIsl c.core)).rel (p.la / 64) = none ∧ (t.core c.core).acqs = (s.core c.core).acqs + 1 ∧
      (t.core c.core).acqf = (s.core c.core).acqf ∧ Acquired s t c.core f.scope ∧
      ((s.core c.core).gI ≠ 15 → (s.core c.core).gS ≠ 15 →
        AtHomes s t q (fun ln => ∃ m, ln.mark = some m ∧ m.toNat ≤ n.toNat))) ∧
  (∀ (f : Form) (s : State) (id : Nat) (c : Crew) (l : Nat) (p : Loc), Runs s id c → Ready c (.lda f) f → MayIssue s c .ld → NoneHeld s id →
    (f.scope = 0 ∨ f.scope = 3) → OneWord s c .read (c.eaScaled f (2 ^ f.hi)) (memWidth f.ty false) l p →
    (∀ q n, pfind (s.isl (coreIsl c.core)).rel (p.la / 64) = some (q, n) → q = c.core) →
    ∃ t o, exec (.lda f) s = .next t ∧ Issued s t id c f .ld o ∧
      BringsBytes c f o (memWidth f.ty false) (fun j => dirtyOr s c.core (p.la + j) (homeByte s c.core (p.la + j))) ∧
      (t.core c.core).acqf = (s.core c.core).acqf + 1 ∧ (t.core c.core).acqs = (s.core c.core).acqs ∧ Acquired s t c.core f.scope) ∧
  (∀ (f : Form) (s : State) (id : Nat) (c : Crew) (l : Nat) (p : Loc), Runs s id c → Ready c (.lda f) f → MayIssue s c .ld → NoneHeld s id →
    f.scope = 2 → OneWord s c .read (c.eaScaled f (2 ^ f.hi)) (memWidth f.ty false) l p → Room s c.core 1 →
    (∀ q n, pfind (s.isl (coreIsl c.core)).rel (p.la / 64) = some (q, n) → coreIsl q = coreIsl c.core) →
    ∃ t o, ∃ byte : Nat → Byte, exec (.lda f) s = .next t ∧ Issued s t id c f .ld o ∧
      BringsBytes c f o (memWidth f.ty false) byte ∧ Acquired s t c.core 2 ∧
      ((s.core c.core).gI ≠ 15 → pfind (t.isl (coreIsl c.core)).excl (p.la / 64) = some c.core) ∧
      ∀ j < memWidth f.ty false,
        ((∀ q, coreIsl q = coreIsl c.core → q ≠ c.core → ¬ HoldsDirty s q (p.la + j)) →
          byte j = dirtyOr s c.core (p.la + j) (homeByte s c.core (p.la + j))) ∧
        ∀ q ln, coreIsl q = coreIsl c.core → SoleDirty s q (p.la / 64) ((p.la + j) % 64) ln →
          byte j = ln.bytes.getD ((p.la + j) % 64) 0) ∧
  (∀ (f : Form) (s : State) (id : Nat) (c : Crew) (l : Nat) (p : Loc), Runs s id c → Ready c (.stl f) f → MayIssue s c .st →
    c.unperformed = false → c.relScope = none → (f.scope = 0 ∨ f.scope = 3) → (s.core c.core).relSeq ≠ 0xFFFFFFFF →
    OneWord s c .write (c.eaScaled f (2 ^ f.hi)) (memWidth f.ty false) l p →
    ∃ t o n, exec (.stl f) s = .next t ∧ Issued s t id c f .st o ∧ NextRelease s t c.core n ∧
      pfind (t.isl (coreIsl c.core)).rel (p.la / 64) = some (c.core, n) ∧
      ((∀ q m, pfind (s.isl (coreIsl c.core)).rel (p.la / 64) = some (q, m) → q = c.core) →
        (∀ li ln, li ≠ p.la / 64 → pfind (s.core c.core).lines li = some ln →
          pfind (t.core c.core).lines li = some (if ln.dirty = 0 ∨ ln.mark ≠ none then ln else { ln with mark := some n })) ∧
        (∀ a, ¬(s.homeKey (coreIsl c.core) (p.la / 64 * 64) ≤ a ∧ a < s.homeKey (coreIsl c.core) (p.la / 64 * 64) + 64) →
          t.mem.read a = s.mem.read a) ∧
        ∀ j < 64, homeByte t c.core (p.la / 64 * 64 + j) =
          if p.la % 64 ≤ j ∧ j < p.la % 64 + memWidth f.ty false then
            BitVec.ofNat 8 ((c.srcTy f f.ty f.c l).toNat / 256 ^ (j - p.la % 64))
          else dirtyOr s c.core (p.la / 64 * 64 + j) (homeByte s c.core (p.la / 64 * 64 + j))) ∧
      ∀ q m, pfind (s.isl (coreIsl c.core)).rel (p.la / 64) = some (q, m) → q ≠ c.core → coreIsl q = coreIsl c.core →
        Cached s q → AtHomes s t q (fun ln => ∃ x, ln.mark = some x ∧ x.toNat ≤ m.toNat)) ∧
  ∀ (f : Form) (s : State) (id : Nat) (c : Crew) (l : Nat) (p : Loc), Runs s id c → Ready c (.stl f) f → MayIssue s c .st →
    c.unperformed = false → c.relScope = none → f.scope = 2 → (s.core c.core).relSeq ≠ 0xFFFFFFFF → Room s c.core 1 →
    OneWord s c .write (c.eaScaled f (2 ^ f.hi)) (memWidth f.ty false) l p →
    ∃ t o n x, exec (.stl f) s = .next t ∧ Issued s t id c f .st o ∧ NextRelease s t c.core n ∧
      pfind (t.isl (coreIsl c.core)).excl (p.la / 64) = some c.core ∧
      (t.isl (coreIsl c.core)).rel = (s.isl (coreIsl c.core)).rel ∧
      pfind (t.core c.core).lines (p.la / 64) = some x ∧ x.bench = some n ∧
      ∀ j < memWidth f.ty false, x.dirty.getLsbD (p.la % 64 + j) = true ∧
        x.bytes.getD (p.la % 64 + j) 0 = BitVec.ofNat 8 ((c.srcTy f f.ty f.c l).toNat / 256 ^ j)

/-- R223, R226, R227, R248, R249, R253 to R256, R258, R399: what acts on a core's cache from outside: surrenders, evictions, power
gating, host accesses; and what an acquire reads and a release leaves on lines of island memory, at every scope but the
core's. That an acquire and a release work at issue is the model's choice (log entry 52). -/
def Obligations.CacheUse : Prop := CacheEvents ∧ AcquireReleaseValues

/-- R317, R321, R323, R326, R327, R329: a failed supply isolates its zone at once; the loss marks the zone and its cores lost; a
pending round is copied to the buddy and then committed, which raises the round number and lets its crews go on; a re-mirrored
zone loses its mark. -/
def Obligations.ZonesAndRounds : Prop :=
  (∀ (s : State) (i z : Nat), i < s.islands → (s.isl i).dead = false → z < 4 → (s.isl i).isolated.getLsbD z = false →
    ∃ t, exec (.regulatorFailure i z) s = .next t ∧ (t.isl i).isolated.getLsbD z = true ∧
      pfind (t.isl i).lostAt z = some s.time ∧ t.mem = s.mem ∧
      (∀ e ∈ t.crews, inZone i z e.2.core = false) ∧
      ∀ e ∈ s.crews, inZone i z e.2.core = false → e ∈ t.crews) ∧
  (∀ (s : State) (i z : Nat), (s.isl i).isolated.getLsbD z = true → zoneLost (s.isl i).zone z = false → (s.isl i).dead = false →
    ∃ t, exec (.zoneLoss i z) s = .next t ∧ zoneLost (t.isl i).zone z = true ∧
      ∀ p < 168, coreZone (i * 256 + p) = z → (t.core (i * 256 + p)).service = .lost) ∧
  (∀ (s : State) (u : Nat) (x : Team), pfind s.teams u = some x → x.phase = 2 →
    zoneRmir (s.isl x.isl).zone (coreZone x.core) = false →
    buddyOf (s.isl x.isl).zone (coreZone x.core) ≠ coreZone x.core → (s.isl x.isl).isolatedZone (coreZone x.core) = false →
    (s.isl x.isl).isolatedZone (buddyOf (s.isl x.isl).zone (coreZone x.core)) = false →
    ∃ t, exec (.roundCommit u) s = .next t ∧ t.teams = pput s.teams u { x with phase := 3 } ∧ t.crews = s.crews ∧ t.mem = s.mem ∧
      (t.isl x.isl).stored (buddyOf (s.isl x.isl).zone (coreZone x.core)) x.launch x.num true true = some x.record) ∧
  (∀ (s : State) (u : Nat) (x : Team), pfind s.teams u = some x → x.phase = 3 →
    (s.isl x.isl).isolatedZone (coreZone x.core) = false →
    (buddyOf (s.isl x.isl).zone (coreZone x.core) = coreZone x.core ∨
      (s.isl x.isl).isolatedZone (buddyOf (s.isl x.isl).zone (coreZone x.core)) = false) →
    ∃ t, exec (.roundCommit u) s = .next t ∧
      t.teams = pput s.teams u { x with roundNo := x.roundNo + 1, parts := [], phase := 0 } ∧ t.mem = s.mem ∧
      (t.isl x.isl).stored (coreZone x.core) x.launch x.num false true = some x.record ∧
      ∀ e ∈ s.crews, e.2.team = u → (e.1, e.2.leaveRound) ∈ t.crews) ∧
  ∀ (s : State) (i z : Nat), zoneRmir (s.isl i).zone z = true → zoneLost (s.isl i).zone z = false →
    (s.isl i).isolatedZone z = false → (s.isl i).isolatedZone (buddyOf (s.isl i).zone z) = false →
    ∃ t, exec (.reMirror i z) s = .next t ∧ zoneRmir (t.isl i).zone z = false ∧ t.crews = s.crews ∧ t.teams = s.teams ∧ t.mem = s.mem

/-- R332 to R334, R409: an empty core whose test is due goes under test, and a power-gated one keeps the due time until it wakes;
one overdue by 10 ms drains; a pass brings it back into service, a failure retires it; a retired core returns with four
passes, a full pass and a policy; above 115 °C a zone goes to its last step, and where the panel draws more than its cap the
zone that draws the most goes one step on. That the panel's draw is the sum of a measurement's readings, here of one zone and of what
else the measurement brings along, and the zone of greatest draw the one of greatest reading, is the model's reading (log entry 28). -/
def Obligations.CoreService : Prop :=
  (∀ (s : State) (ck : Nat), (s.core ck).due = none → s.dark ck = false →
    ((s.core ck).service = .live → s.coreEmpty ck = true → s.testRoom ck = true →
      ∃ t, exec (.rovingTestDue ck) s = .next t ∧ (t.core ck).service = .testing ∧ (t.core ck).due = some s.time ∧
        t.crews = s.crews) ∧
    ((s.core ck).service = .gated → s.teamsOn ck = [] →
      exec (.rovingTestDue ck) s = .next (s.modCore ck (fun c => { c with due := some s.time })))) ∧
  (∀ (s : State) (ck : Nat) (d : DWord), (s.core ck).due = some d → (s.core ck).service = .live →
    d.toNat + 10000000 ≤ s.time.toNat →
    ∃ t, exec (.testOverdue ck) s = .next t ∧ (t.core ck).service = .draining ∧ (t.core ck).counted = false ∧ t.crews = s.crews) ∧
  (∀ (s : State) (ck : Nat) (full : Bool), (s.core ck).service = .testing → (s.core ck).retired = false →
    (∃ t, exec (.testComplete ck true full) s = .next t ∧ (t.core ck).service = .live ∧ (t.core ck).due = none ∧
      (t.core ck).counted = true) ∧
    ∃ t, exec (.testComplete ck false full) s = .next t ∧ (t.core ck).service = .retired ∧ (t.core ck).retired = true ∧
      (t.core ck).counted = false) ∧
  (∀ (s : State) (ck : Nat), (s.core ck).service = .retired → 4 ≤ (s.core ck).passes → (s.core ck).fullPass = true →
    s.boot.policy.isSome = true →
    ∃ t, exec (.coreReturn ck) s = .next t ∧ (t.core ck).service = .live ∧ (t.core ck).retired = false ∧
      (t.isl (coreIsl ck)).live = (s.isl (coreIsl ck)).live + 1) ∧
  ∀ (s : State) (r : PowerReading) (o : OtherDraw), r.zone < 4 → pfind (s.isl r.isl).stepAt r.zone = none →
    (115 < r.celsius →
      ∃ t, exec (.regulatorMeasurement ⟨[r], o⟩) s = .next t ∧ pget 0 (t.isl r.isl).steps r.zone = 7 ∧ t.crews = s.crews ∧
        t.mem = s.mem) ∧
    (r.celsius ≤ 115 → s.cap * 1000 < r.milliwatts + o.common + o.optics + o.memory + o.edge →
      pget 0 (s.isl r.isl).steps r.zone < 7 →
      ∃ t, exec (.regulatorMeasurement ⟨[r], o⟩) s = .next t ∧
        pget 0 (t.isl r.isl).steps r.zone = pget 0 (s.isl r.isl).steps r.zone + 1 ∧ t.crews = s.crews ∧ t.mem = s.mem)

/-! ## Events of leases, panel time and the fabric -/

/-- R307, R309 to R312: a launch none of whose units another lease covers is staged and gets a lease of 2 ms; a renewal within
2 µs of the expiry, while the holder's own clock has not passed it, gives 2 ms more, and otherwise the lease is void; an expired
lease is void on its holder's clock; time passes with a broadcast, an island takes the offset measured unless its clock would run
backwards (R242), and no lease that a holder's clock has passed stays valid; a migration waits until every valid lease on its unit has
been expired for 2 µs, which are void when it proceeds; that its page is unmapped where the free value says so is the model's
choice (log entry 27). -/
def Sys2Proof.Stated.LeasesAndTime : Prop :=
  (∀ (s s1 : State) (n : Nat) (l : Launch), pfind s.launches n = some l → l.stageable = true → l.asid ≠ 0 →
    s.unitHeld l.isl l.asid l.ranges = false → s.stageRanges l.isl l.asid l.ranges = (s1, 0) →
    ∃ t k x, exec (.staging n) s = .next t ∧ (t.launch n).staged = true ∧ (t.launch n).lease = some k ∧ pfind t.leases k = some x ∧
      x.launch = some n ∧ x.void = false ∧ x.expiry = s.time.toNat + 2000000) ∧
  (∀ (s : State) (k : Nat) (l : Lease), pfind s.leases k = some l → l.void = false →
    (s.time.toNat ≤ l.expiry + 2000 → (s.islTime l.isl).toNat ≤ l.expiry → exec (.leaseRenewal k) s = .next { s with
      leases := pput s.leases k { l with expiry := s.time.toNat + 2000000 } }) ∧
    (l.expiry + 2000 < s.time.toNat ∨ l.expiry < (s.islTime l.isl).toNat → (∀ v ∈ (s.isl l.isl).convs, v.lease ≠ k) → ∃ t, exec (.leaseRenewal k) s = .next t ∧
      t.leases = pput s.leases k { l with void := true } ∧ t.mem = s.mem)) ∧
  (∀ (s : State) (k : Nat) (l : Lease), pfind s.leases k = some l → l.expiry < (s.islTime l.isl).toNat →
    ∃ t, exec (.leaseVoid k) s = .next t ∧ (∀ x, pfind t.leases k = some x → x.void = true) ∧
      ((∀ v ∈ (s.isl l.isl).convs, v.lease ≠ k) → (pfind t.leases k).isSome = true)) ∧
  (∀ (s : State) (n i : Nat) (d : Int), d.natAbs ≤ 1000 → s.time.toNat + n + 1000 < 2 ^ 64 →
    ∃ t, exec (.timeBroadcast n [(i, d)]) s = .next t ∧ t.time = s.time + BitVec.ofNat 64 n ∧
      (((s.islTime i).toNat : Int) ≤ s.time.toNat + n + d → (t.isl i).offset = d) ∧
      (s.islTime i).toNat ≤ (t.islTime i).toNat ∧
      (∀ k x, pfind t.leases k = some x → x.void = false → (t.islTime x.isl).toNat ≤ x.expiry) ∧
      ((∀ e ∈ s.leases, e.2.void = true) → t.crews = s.crews ∧ t.mem = s.mem)) ∧
  (∀ (s : State) (k u : Nat) (l : Lease), pfind s.leases k = some l → s.findMigration k u = none →
    exec (.migrationRequest k u) s = .next { s with migrating := s.migrating ++ [⟨k, u, l.isl, l.asid⟩] }) ∧
  ∀ (s : State) (k u : Nat) (m : Migration), s.findMigration k u = some m →
    (s.mayMove m = false → exec (.migrationProceeds k u) s = .next s) ∧
    (s.mayMove m = true →
      ∃ t, exec (.migrationProceeds k u) s = .next t ∧ t.moved = s.moved ++ [(k, u)] ∧ t.migrating = s.migrating.filter (· ≠ m) ∧
        (∀ x l, pfind t.leases x = some l → s.leaseHolds l m = false) ∧
        ∀ p, Config.freeBit s.free = false → (∀ i, (s.isl i).convs = []) → s.pageOf m.isl m.asid m.unit = some p →
          t.mem.readBytes (s.homeKey m.isl p.place) 8 = leBytes 8 0)

/-- R286, R300, R383: the engine's conversion in turn sets its next tile MOVING, then has it NEW with nothing held, and with the
last tile it is complete and its lease is released; a launch leaves the dependences that are met. -/
def Sys2Proof.Stated.TilesAndDependences : Prop :=
  (∀ (s : State) (i : Nat) (v : Conv), (∀ u ∈ (s.isl i).convs, u.elig.isSome = true ∨ u.complete = true) →
    (s.isl i).convNow = some v →
    (v.moving = false → ∃ t u, exec (.tileConversion i v.id) s = .next t ∧ u ∈ (t.isl i).convs ∧ u = { v with moving := true }) ∧
    (v.moving = true → v.stopped = false → v.next + 1 < v.tiles →
      ∃ t u, exec (.tileConversion i v.id) s = .next t ∧ u ∈ (t.isl i).convs ∧ u.id = v.id ∧ u.next = v.next + 1 ∧ u.held = [] ∧
        u.complete = false) ∧
    (v.moving = true → v.stopped = false → v.tiles ≤ v.next + 1 →
      ∃ t u, exec (.tileConversion i v.id) s = .next t ∧ u ∈ (t.isl i).convs ∧ u.id = v.id ∧ u.next = v.next + 1 ∧ u.held = [] ∧
        u.complete = true ∧ pfind t.leases v.lease = none)) ∧
  ∀ (s : State) (n : Nat) (l : Launch), pfind s.launches n = some l → l.st = 0 → (∀ d ∈ l.deps, s.depState d = 1) →
    exec (.dependenceMet n) s = .next { s with launches := pput s.launches n { l with deps := [] } }

/-- R300, R307, R309 to R312, R383: staging, leases, panel time, migrations, tiles and dependences. -/
def Obligations.LeasesAndTiles : Prop := LeasesAndTime ∧ TilesAndDependences

namespace Sys2Proof.Stated

open Sys2Proof Sys2Proof.Machine

/-- A member gets the combined result: every member of an all-reduce, and the root (R348, R351). -/
def Receives (s : State) (card : List DWord) (i : Nat) : Prop :=
  cAll card = true ∨ (cRoot card = i ∧ (cPanel card = 0xFF ∨ cPanel card = s.panelNum))

/-- What the members of a card contribute to an element, by island (R350). -/
def contributed (c : Coll) (j : Nat) : List Nat :=
  ((List.range 64).filter (cIm c.card).getLsbD).map (fun i => (pget [] c.parts i).getD j 0)

/-- The combined value of an element of s32 or u32 (R349): the sum modulo 2^32, or the greatest. -/
def Combined (c : Coll) (j v : Nat) : Prop :=
  (cOp c.card = 0 → v = (contributed c j).sum % 2 ^ 32) ∧
  (cOp c.card = 1 → v ∈ contributed c j ∧ ∀ x ∈ contributed c j,
    if cTy c.card = 2 then (BitVec.ofNat 32 x).toInt ≤ (BitVec.ofNat 32 v).toInt else x ≤ v)

/-- A sum or maximum of integers on the own panel whose members all wait, each on its own island: every part has the elements of
the card, no line of a member's island is owned, and neither its core's cache nor a `trig` of its crew holds bytes back. -/
def Gathered (s : State) (c : Coll) : Prop :=
  cPm c.card = 0 ∧ cIm c.card ≠ 0 ∧ (cTy c.card = 2 ∨ cTy c.card = 3) ∧ (cOp c.card = 0 ∨ cOp c.card = 1) ∧
  (c.members.map (·.isl)).Nodup ∧ (c.members.map (·.rop)).Nodup ∧
  (∀ i < 64, (cIm c.card).getLsbD i = true →
    (pget [] c.parts i).length = cCnt c.card ∧ ∀ v ∈ pget [] c.parts i, v < 2 ^ 32) ∧
  ∀ m ∈ c.members, m.final = false ∧ m.isl < 36 ∧ (s.isl m.isl).excl = [] ∧ (∀ a, pget 0 (s.isl m.isl).roots a < 2 ^ 52) ∧
    ∀ r, pfind s.rops m.rop = some r → r.isl = m.isl ∧ r.loc < 2 ^ 57 ∧ (s.core r.core).lines = [] ∧
      ∀ d, pfind s.crews r.crew = some d → d.trigWait = none ∧ ∀ o ∈ d.ops, o.frozen = false

/-- A crew waits for a remote operation alone, which gives its result to a uniform register. -/
def AwaitsResult (s : State) (rop : Nat) (r : ROp) (q : Nat) : Prop :=
  ∃ d o, pfind s.crews r.crew = some d ∧ d.ops = [o] ∧ o.id = rop ∧ o.done = false ∧ o.after = [] ∧ o.hn = none ∧
    o.kreg = some q ∧ q < 64

/-- A remote operation is over: it is forgotten, and the crew that waited for it alone has its result in the uniform register and in
the history entry reserved for it (R335, R341, R344). -/
def Delivered (s t : State) (rop : Nat) (r : ROp) (v : DWord) : Prop :=
  pfind t.rops rop = none ∧
  ∀ q d, AwaitsResult s rop r q → pfind s.crews r.crew = some d → d.trigWait = none → (∀ o ∈ d.ops, o.frozen = false) →
    ∃ e, pfind t.crews r.crew = some e ∧ e.ops = [] ∧ e.kget q = v ∧
      ∀ a < 16, (d.hget a).pend = some rop → (∀ o ∈ d.ops, o.hvals ≠ none) → (e.hget a).pend = none ∧
        ∀ l < 32, laneOf (e.hget a).vals l = v

/-- A packet that its target performs on arrival (R366): it is on its way to an island of this panel, its plane's port does not serve
another first (R403), and of an ordered one the epoch is the pair's and every earlier ordered packet of the pair is performed. -/
def Arrives (s : State) (k : Nat) (p : Packet) : Prop :=
  pfind s.packets k = some p ∧ p.st = .flying ∧ isFar p.dst = false ∧ s.portYields k = false ∧
  (p.ordered = true → (s.stream p.src p.dst).epoch ≤ p.epoch ∧
    ∀ e ∈ s.packets, e.2.src = p.src → e.2.dst = p.dst → e.2.ordered = true → e.2.seq < p.seq → e.2.st = .performed)

/-- A packet is performed, and its acknowledgement, with its result, is due. -/
def PerformedAs (t : State) (k : Nat) (v : DWord) : Prop :=
  ∃ q, pfind t.packets k = some q ∧ q.st = .performed ∧ q.err = none ∧ q.reply = v

/-- No exclusive owner holds the line of a place, or the place is on an atomic-home page (R263, R340). -/
def Unowned (s : State) (i : Nat) (p : Loc) : Prop := p.ah = true ∨ pfind (s.isl i).excl (p.la / 64) = none

/-- The new value of a remote atomic, as R228 to R230 give it for one lane; not the f32 operations, not operation 3 of s types. -/
def remoteNew (ty op : Nat) (cas : Bool) (c d : DWord) (old : Nat) : Nat :=
  let w := 8 * memWidth ty false
  if cas then (if old = c.toNat % 2 ^ w then d.toNat % 2 ^ w else old)
  else if regsOf ty = 2 then (atomAt ty op 64 (BitVec.ofNat 64 old) c).toNat
  else (atomAt ty op 32 (BitVec.ofNat 32 old) (lowWord c)).toNat

/-- The plane that a failure names, from its two ends: the pair of islands, as the panel numbers them (R394). -/
def planeEnds (s : State) (pa a pb b : Nat) : Nat × Nat :=
  (if pa = s.panelNum then a else farIsland pa a, if pb = s.panelNum then b else farIsland pb b)

end Sys2Proof.Stated

/-- R340, R341, R344, R349 to R351, R364, R366, R367, R372, R394, R396, R414: a put, a notify, a remote atomic and a get are performed at
their target, an ordered packet after those before it; a put leaves atoms that were performed before alone; a get's bytes come
back and are written at the issuer, with the last of which it is over; an acknowledged operation is over, with its result; a named
tree combines once every member has issued, with the sum or the maximum at the root, or at every member of an all-reduce, and each
member's result; a dead link carries nothing; on a dead island no crew is left and every launch is final; a dead plane is recorded,
resets each pair with a packet on it, whose operations end in the remote error with sub-cause 7, and leaves every other pair alone.
That one acknowledgement stands for all packets of an operation at its target is the model's reading (log entry 46). -/
def Sys2Proof.Stated.FabricEvents : Prop :=
  (∀ (s : State) (k a : Nat) (bs : List Byte) (p : Packet) (l : Loc), Arrives s k p → p.what = .put a bs →
    s.remoteLoc p.dst p.fn .write a = .ok l →
    ∃ t, exec (.packetArrival (.here k)) s = .next t ∧ PerformedAs t k 0 ∧ t.crews = s.crews ∧
      (∀ j < bs.length, pfind p.part ((a + j) / 8) = none → t.mem.read (s.homeKey p.dst l.la + j) = bs.getD j 0) ∧
      (Unowned s p.dst l → l.la % 64 + bs.length ≤ 64 → ∀ x,
        (∀ j < bs.length, pfind p.part ((a + j) / 8) = none → x ≠ s.homeKey p.dst l.la + j) → t.mem.read x = s.mem.read x)) ∧
  (∀ (s : State) (k n a : Nat) (v : Word) (p : Packet), Arrives s k p → p.what = .notify n v → s.asidOf p.dst p.fn = some a →
    pfind (s.isl p.dst).owners n = some a →
    ∃ t, exec (.packetArrival (.here k)) s = .next t ∧ PerformedAs t k 0 ∧ t.mem = s.mem ∧
      pget 0 (t.isl p.dst).counters n = pget 0 (s.isl p.dst).counters n + v) ∧
  (∀ (s : State) (k a ty op : Nat) (cas : Bool) (c d : DWord) (p : Packet) (l : Loc), Arrives s k p → p.what = .atomic a ty op cas c d →
    s.remoteLoc p.dst p.fn .both a = .ok l → (intTys ty || bitTys ty) = true → (isS ty = true → op < 3) → op < 4 →
    (∀ e ∈ s.cores, coreIsl e.1 = p.dst → pfind e.2.lines (l.la / 64) = none) →
    let n := memWidth ty false
    let key := s.homeKey p.dst l.la
    let old := leNat (s.mem.readBytes key n)
    ∃ t, exec (.packetArrival (.here k)) s = .next t ∧ PerformedAs t k (BitVec.ofNat 64 old) ∧ t.crews = s.crews ∧
      leNat (t.mem.readBytes key n) = remoteNew ty op cas c d old ∧
      ∀ x, ¬(key ≤ x ∧ x < key + n) → t.mem.read x = s.mem.read x) ∧
  (∀ (s : State) (k a n : Nat) (p : Packet) (l : Loc), Arrives s k p → p.what = .get a n → 0 < n → a % 64 + n ≤ 64 → p.part = [] →
    s.remoteLoc p.dst p.fn .read a = .ok l → Unowned s p.dst l →
    ∃ t, exec (.packetArrival (.here k)) s = .next t ∧ pfind t.packets k = some { p with st := .performed } ∧ t.mem = s.mem ∧
      t.crews = s.crews ∧ ∃ e ∈ t.packets, e.2.src = p.dst ∧ e.2.dst = p.src ∧ e.2.rop = p.rop ∧ e.2.st = .flying ∧
        e.2.what = .reply 0 (s.mem.readBytes (s.homeKey p.dst l.la) n)) ∧
  (∀ (s : State) (k off : Nat) (bs : List Byte) (p : Packet) (r : ROp) (l : Loc), pfind s.packets k = some p → p.st = .flying →
    s.portYields k = false → p.what = .reply off bs → pfind s.rops p.rop = some r → r.slab = none → 0 < bs.length →
    (r.loc + off) % 64 + bs.length ≤ 64 → s.localLoc r (r.loc + off) = some l → (s.core r.core).lines = [] → Unowned s r.isl l →
    ∃ t, exec (.packetArrival (.here k)) s = .next t ∧ t.mem.readBytes (s.homeKey r.isl l.la) bs.length = bs ∧
      (∀ x, ¬(s.homeKey r.isl l.la ≤ x ∧ x < s.homeKey r.isl l.la + bs.length) → t.mem.read x = s.mem.read x) ∧
      (r.left = bs.length → Delivered s t p.rop r (BitVec.ofNat 64 r.len)) ∧
      (bs.length < r.left → pfind t.rops p.rop = some { r with begun := true, left := r.left - bs.length } ∧ t.crews = s.crews)) ∧
  (∀ (s : State) (k : Nat) (p : Packet), pfind s.packets k = some p → p.st = .flying → s.portYields k = false → p.ordered = true →
    (∀ off bs, p.what ≠ .reply off bs) → (s.stream p.src p.dst).epoch ≤ p.epoch →
    (∃ e ∈ s.packets, e.2.src = p.src ∧ e.2.dst = p.dst ∧ e.2.ordered = true ∧ e.2.seq < p.seq ∧ e.2.st ≠ .performed) →
    exec (.packetArrival (.here k)) s = .next { s with packets := pput s.packets k { p with st := .heldAt } }) ∧
  (∀ (s : State) (k : Nat) (p : Packet) (r : ROp), pfind s.packets k = some p → p.answered = false →
    (∀ e ∈ s.packets, e.2.rop = p.rop → e.2.dst = p.dst → e.2.src = p.src → e.2.st = .performed ∧ e.2.err = none) →
    pfind s.rops p.rop = some r → r.left ≤ 1 →
    ∃ t, exec (.acknowledgement k) s = .next t ∧ Delivered s t p.rop r p.reply ∧
      ∀ e ∈ t.packets, ¬(e.2.rop = p.rop ∧ e.2.dst = p.dst ∧ e.2.src = p.src)) ∧
  (∀ (s : State) (k a b : Nat) (c : Coll), pfind s.colls k = some c → c.broken = false → cTree c.card = true → s.collComplete c = true →
    ∃ t, exec (.collectiveCombine (.step k a b)) s = .next t ∧ pfind t.colls k = none ∧
      (Gathered s c → ∀ m ∈ c.members, ∀ r, pfind s.rops m.rop = some r → pfind t.rops m.rop = none ∧
        (∀ q, AwaitsResult s m.rop r q → ∃ e, pfind t.crews r.crew = some e ∧ e.ops = [] ∧
          (Receives s c.card m.isl → e.kget q = BitVec.ofNat 64 (c.members.filter (fun x => !x.empty)).length) ∧
          (¬ Receives s c.card m.isl → e.kget q = 0)) ∧
        (Receives s c.card m.isl → r.slab = none → r.loc % 64 + 4 * cCnt c.card ≤ 64 →
          ∀ p, s.localLoc r r.loc = some p → isCxl p.la = false → ∀ j < cCnt c.card,
            Combined c j (leNat (t.mem.readBytes (s.homeKey m.isl (p.la + 4 * j)) 4))))) ∧
  (∀ (s : State) (i p : Nat), s.portLive i p = true → p < 8 →
    ∃ t, exec (.linkDeclaredDead i p) s = .next t ∧ t.portLive i p = false ∧ s.topo.gen < t.topo.gen) ∧
  (∀ (s : State) (i : Nat), i < s.islands → (s.isl i).dead = false →
    ∃ t, exec (.islandDeclaredDead i) s = .next t ∧ (t.isl i).dead = true ∧ (∀ e ∈ t.crews, e.2.isl ≠ i) ∧
      ∀ n l, pfind t.launches n = some l → l.isl = i → 2 ≤ l.st) ∧
  ∀ (s : State) (pl pa a pb b : Nat), pl < 4 →
    let z := planeEnds s pa a pb b
    let cut : State := { s with deadPlanes := s.deadPlanes ++ [(pl, pa, a, pb, b)] }
    ∃ t, exec (.planeDead pl pa a pb b) s = .next t ∧ t.deadPlanes = cut.deadPlanes ∧
      (∀ e ∈ s.packets, e.2.pair ≠ z → e.2.pair ≠ (z.2, z.1) → e ∈ t.packets) ∧
      ∀ x ∈ [z, (z.2, z.1)],
        ((∃ e ∈ s.packets, e.2.pair = x ∧ e.2.route = 2 ^ 32 + pl ∧ e.2.st = .flying) →
          (∀ e ∈ t.packets, e.2.pair = x → e.2.ordered = false ∧ e.2.st ≠ .performed) ∧
          (z.1 ≠ z.2 → (t.stream x.1 x.2).epoch = (s.stream x.1 x.2).epoch + 1 ∧ (t.stream x.1 x.2).next = 0) ∧
          ∀ e ∈ s.packets, e.2.pair = x → ∀ r, pfind s.rops e.2.rop = some r → (pfind s.teams r.team).isSome = true →
            pfind t.rops e.2.rop = none ∧ (t.team r.team).fatal = some ((s.team r.team).fatal.getD 0x80000714)) ∧
        ((∀ e ∈ s.packets, e.2.pair = x → e.2.route ≠ 2 ^ 32 + pl) → cut.cutOff x = false →
          ∀ e ∈ s.packets, e.2.pair = x → e ∈ t.packets)

/-- R340, R349 to R351, R364, R367, R372, R394, R396, R414: packets, with the replies of gets and the remote atomics (R341, R344),
acknowledgements (one for an operation at a target: log entry 46), collectives with their combined value, dead links, islands and
planes; R343, R346, R347, R382: the remote waits and fences, and the launch hold. -/
def Obligations.FabricAndWaits : Prop := FabricEvents ∧ RemoteWaits

namespace Sys2Proof.Stated

open Sys2Proof Sys2Proof.Machine

/-- The command of a function is taken (R374, R387): the panel takes commands of it, and the journal slot is free; `s1` is the
machine with the command entered under the next sequence number. -/
def Taken (s s1 : State) (f : Fn) (kind : Nat) (obj : DWord) : Prop :=
  s.accepts f = true ∧ s.takeSeq f.num kind obj = some (s1, s.nextSeq)

/-- The journal's entry of a sequence number shows a state and a code (R388). -/
def Journalled (t : State) (seq st code : Nat) : Prop :=
  t.entryRead seq 0 = seq ∧ t.entryRead seq 1 / 2 ^ 16 % 8 = st ∧ t.entryRead seq 1 / 2 ^ 24 % 256 = code

/-- The journal lies in the island's own memory, and the sequence number has 64 bits. -/
def JournalFits (s : State) : Prop := s.journalBase + 2 ^ 21 ≤ 2 ^ 52 ∧ s.nextSeq < 2 ^ 64

/-- A command that is no unit is final at once with a code (R402). -/
def Done (s t : State) (code : Nat) : Prop :=
  t.nextSeq = s.nextSeq + 1 ∧ (JournalFits s → Journalled t s.nextSeq (if code = 0 then 2 else 4) code)

/-- A field of a launch record: bits of the 8 bytes at an offset, from a lowest bit on (R105 to R108). -/
def recField (bs : List Byte) (off lo w : Nat) : Nat := leNat ((bs.drop off).take 8) / 2 ^ lo % 2 ^ w

/-- The declared ranges in use: nrng of the sixteen (R105, R108). -/
def recRangesInUse (bs : List Byte) : List Nat := List.range (min (recField bs 0 36 5) 16)

/-- The bytes of a declared range in use, with one of its permission bits set: bit 62 is r, bit 63 is w (R108). -/
def InDeclared (bs : List Byte) (perm a : Nat) : Prop :=
  ∃ i ∈ recRangesInUse bs, recField bs (0x58 + 16 * i) perm 1 = 1 ∧ recField bs (0x50 + 16 * i) 0 64 ≤ a ∧
    a < recField bs (0x50 + 16 * i) 0 64 + recField bs (0x58 + 16 * i) 0 56

/-- The index of a handle: 6 of the 96 bits at offset 8 (R106). -/
def recIndex (bs : List Byte) (n : Nat) : Nat := leNat ((bs.drop 8).take 12) / 2 ^ (6 * n) % 64

/-- A core that counts as live takes one team of the record at its full repaired capacity (R18, R112; that a power-gated core and
one under a roving test count is log entry 75). -/
def coreCould (s : State) (bs : List Byte) (ck : Nat) : Bool :=
  (s.core ck).counted && !(s.isl (coreIsl ck)).zone.getLsbD (coreZone ck) &&
    decide ((recField bs 0 10 4 + 1) * (recField bs 0 18 3 + 1) ≤ 32 * pget 16 s.fuses.rfBanks ck) &&
    decide (recField bs 0 21 8 ≤ 16 * pget 8 s.fuses.slabBanks ck)

/-- A job or a phase of a function is open (R386). -/
def UnitOpen (s : State) (f : Fn) (isPhase : Bool) (job phase : Nat) : Prop :=
  ∃ u ∈ s.units, u.isPhase = isPhase ∧ u.port * 64 + u.vf = f.num ∧ u.job = job ∧ (isPhase = true → u.phase = phase) ∧ u.st < 2 ∧
    u.closed = false

/-- A dependence that its launch cannot have (R383). -/
def DepBad (s : State) (isl : Nat) (d : Dep) : Prop :=
  d.seq ≠ 0 ∧ s.nextSeq ≤ d.seq + 65536 ∧
    (s.nextSeq ≤ d.seq + 1 ∨ (pfind s.launches d.seq = none ∧ (pfind s.replays d.seq = none ∨ d.ear = true)) ∨
      (d.ear = true ∧ (pfind s.launches d.seq).any (fun l => l.tis && l.isl != isl) = true))

/-- The checks of R109 in increasing code order, each as what makes it fail, judged in the state that has taken the command. Of
the model's choice: an index of a handle that is not loaded and an entry of the range table that is not in use count as
reserved (log entries 32, 83), entry and parameter block lie in a range where their first byte does (log entry 83), job 0 with
phase 0 is the default unit and needs no opening (R379). -/
def launchChecks (s : State) (bs : List Byte) (c : LaunchCmd) : List (Nat × Prop) :=
  let isl := recField bs 0x30 0 6
  let gang := recField bs 0x30 30 2 + 1
  let base (i : Nat) := recField bs (0x50 + 16 * i) 0 64
  let len (i : Nat) := recField bs (0x58 + 16 * i) 0 56
  [(0x01, recField bs 0 60 4 ≠ 1),
   (0x02, (∃ e ∈ ([(0, 41, 3), (0, 0, 10), (0x10, 32, 32), (0x18, 0, 64), (0x30, 48, 16), (0x30, 6, 22), (0x40, 44, 20),
        (0x48, 0, 64), (0x20, 0, 5), (0x28, 0, 3), (0x38, 0, 6)] : List (Nat × Nat × Nat)), recField bs e.1 e.2.1 e.2.2 ≠ 0) ∨
      (∃ i < 16, recField bs (0x58 + 16 * i) 56 6 ≠ 0) ∨
      (∃ i < 16, recField bs 0 36 5 ≤ i ∧ (base i ≠ 0 ∨ recField bs (0x58 + 16 * i) 0 64 ≠ 0)) ∨
      (∃ n < 16, recField bs 0 (44 + n) 1 = 0 ∧ recIndex bs n ≠ 0) ∨
      (recField bs 0x30 28 1 = 0 ∧ recField bs 0x40 0 64 ≠ 0)),
   (0x03, recField bs 0 10 4 < recField bs 0 14 4),
   (0x04, 16 < recField bs 0 36 5 ∨ (∃ i ∈ recRangesInUse bs, len i = 0 ∨ 2 ^ 57 < base i + len i) ∨
      ¬ InDeclared bs 62 (recField bs 0x20 0 64) ∨ ¬ InDeclared bs 62 (recField bs 0x28 0 64)),
   (0x05, 128 < recField bs 0 21 8),
   (0x06, recField bs 0x30 32 16 = 0 ∨ recField bs 0x30 32 16 % gang ≠ 0),
   (0x07, s.islands ≤ isl ∨ (s.isl isl).dead = true),
   (0x08, ∀ b < 44, ((List.range 168).filter (fun p => coreBench p == b && coreCould s bs (isl * 256 + p))).length < gang),
   (0x09, recField bs 0x30 29 1 = 1 ∧ ∃ i ∈ recRangesInUse bs, recField bs (0x58 + 16 * i) 63 1 = 1 ∧
      ∃ j ∈ recRangesInUse bs, recField bs (0x58 + 16 * j) 62 1 = 1 ∧
        (i = j ∨ (base i < base j + len j ∧ base j < base i + len i))),
   (0x0A, ∃ n < 16, recField bs 0 (44 + n) 1 = 1 ∧ ¬ ∃ i ∈ recRangesInUse bs, recField bs (0x58 + 16 * i) 62 1 = 1 ∧
      base i ≤ recField bs 0x38 0 64 + 64 * recIndex bs n ∧ recField bs 0x38 0 64 + 64 * recIndex bs n + 64 ≤ base i + len i),
   (0x0D, recField bs 0x30 28 1 = 1 ∧ (s.asidOf isl c.fn.num = none ∨
      pfind (s.isl isl).owners (recField bs 0x40 32 12) ≠ s.asidOf isl c.fn.num)),
   (0x0E, ∃ d ∈ c.deps.take 4, DepBad s isl d),
   (0x0F, ¬(c.job = 0 ∧ c.phase = 0) ∧
      ¬(UnitOpen s c.fn true c.job c.phase ∧ (c.job = 0 ∨ UnitOpen s c.fn false c.job 0)))]

/-- No launch but one is touched, save that one that is waiting leaves dependences that are met (R383). -/
def LaunchesKept (s t : State) (but : Nat) : Prop :=
  ∀ n, n ≠ but → pfind t.launches n = pfind s.launches n ∨
    ∃ l ds, pfind s.launches n = some l ∧ l.st = 0 ∧ ds.Sublist l.deps ∧ pfind t.launches n = some { l with deps := ds }

end Sys2Proof.Stated

/-! ## Commands -/

/-- R109, R374 to R376: a launch command gets the next sequence number. Each check of R109 that fails while every check before it
holds gives the launch its code, and the launch is failed; where all of them hold it is accepted, with what its record says. -/
def Sys2Proof.Stated.LaunchCommand : Prop :=
  ∀ (s s1 : State) (c : LaunchCmd), Taken s s1 c.fn 1 c.record →
    let bs := s1.readCmd c.fn.num c.record.toNat 336
    ∃ t x, exec (.launch c) s = .next t ∧ t.nextSeq = s.nextSeq + 1 ∧ pfind t.launches s.nextSeq = some x ∧
      (∀ before check after, launchChecks s1 bs c = before ++ check :: after → (∀ e ∈ before, ¬ e.2) → check.2 →
        x.code = check.1 ∧ x.st = 4) ∧
      ((∀ e ∈ launchChecks s1 bs c, ¬ e.2) → x.code = 0 ∧ x.st = 0) ∧
      x.isl = recField bs 0x30 0 6 ∧ x.nteam = recField bs 0x30 32 16 ∧ x.gsz = recField bs 0x30 30 2 ∧
      x.entry.toNat = recField bs 0x20 0 64 ∧ x.param.toNat = recField bs 0x28 0 64 ∧ x.ncrew = recField bs 0 10 4 + 1 ∧
      x.nreg = 32 * (recField bs 0 18 3 + 1) ∧ x.slab = recField bs 0 21 8 ∧ x.prod = recField bs 0 14 4 ∧
      x.ranges = (recRangesInUse bs).map (fun i =>
        ⟨recField bs (0x50 + 16 * i) 0 64, recField bs (0x58 + 16 * i) 0 56, recField bs (0x58 + 16 * i) 62 1 == 1,
          recField bs (0x58 + 16 * i) 63 1 == 1⟩) ∧
      LaunchesKept s t s.nextSeq ∧ t.crews = s.crews ∧ t.teams = s.teams

/-- R109, R374 to R376: a launch command is accepted, or fails with the code of its first failing check; R111, R114, R115, R124, R215,
R376, R378: gangs are placed, teams and launches end. -/
def Obligations.LaunchesAndTeams : Prop := TeamsAndLaunches ∧ LaunchCommand

/-- R384, R385, R386: a graph record keeps its nodes; a replay is accepted and waits for a slot, or fails with code 0x0F (R386)
or 0x12; the slot is taken with the number of a launch for each node. That 0x0F comes before 0x12 where both hold is the model's
choice (log entry 93). -/
def Obligations.Graphs : Prop :=
  (∀ (s s1 : State) (c : GraphCmd), Taken s s1 c.fn 2 (BitVec.ofNat 64 c.graph) → s1.graphBad c = false →
    let ns := (List.range c.nodes).map (s1.readNode c.fn.num c.table.toNat)
    (∀ e ∈ ns.zip (List.range c.nodes), ∀ p ∈ e.1.2.2.1, p.1 < e.2) →
    ∃ t g, exec (.graphRecord c) s = .next t ∧ t.nextSeq = s.nextSeq + 1 ∧ t.graph c.fn.num c.graph = some g ∧ g.nodes = ns ∧
      g.ovl = c.ovl ∧ g.patch = c.patch ∧ g.counter = 0 ∧ t.launches = s.launches) ∧
  (∀ (s s1 : State) (c : ReplayCmd), Taken s s1 c.fn 3 (BitVec.ofNat 64 c.graph) →
    ∃ t r, exec (.graphReplay c) s = .next t ∧ t.nextSeq = s.nextSeq + 1 ∧ pfind t.replays s.nextSeq = some r ∧
      r.graph = c.graph ∧ r.slot = none ∧
      (s.findUnits c.fn.num c.job c.phase = none → r.st = 4 ∧ r.code = 0x0F) ∧
      (s.findUnits c.fn.num c.job c.phase ≠ none → s.graph c.fn.num c.graph = none → r.st = 4 ∧ r.code = 0x12) ∧
      (s.findUnits c.fn.num c.job c.phase ≠ none → s.graph c.fn.num c.graph ≠ none → r.st = 0 ∧ r.code = 0)) ∧
  ∀ (s : State) (k i : Nat) (r : Replay) (g : Graph), pfind s.replays k = some r → s.graph (r.port * 64 + r.vf) r.graph = some g →
    s.slotFor k r g = some i → (∀ j < g.nodes.length, s.slotFree (s.nextSeq + j) = true) →
    ∃ t x, exec (.replaySlotTaken k) s = .next t ∧ t.nextSeq = s.nextSeq + g.nodes.length ∧ pfind t.replays k = some x ∧
      x.slot = some i ∧ x.st ≠ 0 ∧ t.crews = s.crews

/-- R386: opening a phase or a job makes a unit that is started; closing closes it. That a command that opens what is open
already, or whose job is not open, and one that closes a job with an open phase fail with code 0x0F is the model's reading (log
entry 36). R379: cancelling a launch that is not final makes it cancelled. -/
def Obligations.PhasesJobsCancel : Prop :=
  (∀ p ∈ ([(Instr.phaseOpen, 4, true), (Instr.jobOpen, 6, false)] : List ((UnitCmd → Instr) × Nat × Bool)),
    ∀ (s s1 : State) (c : UnitCmd), Taken s s1 c.fn p.2.1 (c.obj p.2.2) →
    ∃ t, exec (p.1 c) s = .next t ∧ t.nextSeq = s.nextSeq + 1 ∧ t.launches = s.launches ∧
      (s.openBad c p.2.2 = true → t.units = s.units) ∧
      (s.openBad c p.2.2 = false → ∃ u, t.units = s.units ++ [u] ∧ u.seq = s.nextSeq ∧ u.isPhase = p.2.2 ∧ u.job = c.job ∧
        u.st = 1 ∧ u.closed = false ∧ u.counter = 0)) ∧
  (∀ p ∈ ([(Instr.phaseClose, 5, true), (Instr.jobClose, 7, false)] : List ((UnitCmd → Instr) × Nat × Bool)),
    ∀ (s s1 : State) (c : UnitCmd) (n : Nat), Taken s s1 c.fn p.2.1 (c.obj p.2.2) → s.closable c p.2.2 = some n →
    ∃ t, exec (p.1 c) s = .next t ∧ t.nextSeq = s.nextSeq + 1 ∧ LaunchesKept s t s.nextSeq ∧
      ∀ u ∈ t.units, u.seq = n → u.closed = true) ∧
  ∀ (s s1 : State) (f : Fn) (irq : Bool) (n : Nat) (l : Launch), Taken s s1 f 8 (BitVec.ofNat 64 n) →
    pfind s.launches n = some l → l.st < 2 → l.finalDue = false →
    ∃ t, exec (.cancel f irq n) s = .next t ∧ t.nextSeq = s.nextSeq + 1 ∧ (t.launch n).st = 3 ∧ (l.st = 1 → (t.launch n).finalDue = true)

/-- R272, R368, R374: counters are given, with their value, to a function and taken back; a remote window is leased and
released; a handler address is set; a handler command for an island that is not there fails with code 0x07. That the release of
a window that no lease holds completes is the model's choice (log entry 34). -/
def Obligations.SettingsCommands : Prop :=
  (∀ (s s1 : State) (c : CounterCmd) (a : Nat), Taken s s1 c.fn 9 c.obj → s.islBad c.isl = false →
    pfind (s.isl c.isl).owners (c.counter % 4096) = none → s.asidOf c.isl c.fn.num = some a → a ≠ 0 →
    ∃ t, exec (.counterAssign c) s = .next t ∧ Done s t 0 ∧ pfind (t.isl c.isl).owners (c.counter % 4096) = some a ∧
      pget 0 (t.isl c.isl).counters (c.counter % 4096) = c.value) ∧
  (∀ (s s1 : State) (c : CounterCmd) (a : Nat), Taken s s1 c.fn 0x0A c.obj → s.islBad c.isl = false →
    pfind (s.isl c.isl).owners (c.counter % 4096) = some a → s.asidOf c.isl c.fn.num = some a →
    ∃ t, exec (.counterRelease c) s = .next t ∧ Done s t 0 ∧ pfind (t.isl c.isl).owners (c.counter % 4096) = none ∧
      (t.isl c.isl).counters = (s.isl c.isl).counters) ∧
  (∀ (s s1 : State) (c : WindowCmd), Taken s s1 c.fn 0x0B c.base → s.islBad c.isl = false →
    ∃ t k x, exec (.remoteWindowLease c) s = .next t ∧ Done s t 0 ∧ pfind t.leases k = some x ∧ x.window = true ∧ x.void = false ∧
      x.isl = c.isl ∧ x.fn = c.fn.num ∧ x.units = [(c.base.toNat, c.len)] ∧ x.expiry = s.time.toNat + 2000000) ∧
  (∀ (s s1 : State) (c : WindowCmd), Taken s s1 c.fn 0x0C c.base → s.islBad c.isl = false →
    ∃ t, exec (.leaseRelease c) s = .next t ∧ Done s t 0 ∧ ∀ e ∈ t.leases, e.2.window = true → e.2.fn = c.fn.num → e.2.isl = c.isl →
      ∀ u ∈ e.2.units, u.1 ≠ c.base.toNat) ∧
  (∀ (s s1 : State) (f : Fn) (irq : Bool) (i : Nat) (a : DWord), Taken s s1 f 0x0D (BitVec.ofNat 64 (i % 64)) → s.islBad i = false →
    ∃ t, exec (.handlerSet f irq i a) s = .next t ∧ Done s t 0 ∧ pget 0 t.handlers (f.num * 64 + i) = a) ∧
  ∀ (s s1 : State) (f : Fn) (irq : Bool) (i : Nat) (a : DWord), Taken s s1 f 0x0D (BitVec.ofNat 64 (i % 64)) → s.islBad i = true →
    ∃ t, exec (.handlerSet f irq i a) s = .next t ∧ Done s t 7 ∧ t.handlers = s.handlers

/-! ## Host ports, boot and SPDM -/

/-- R400 to R402: doorbells and queue control: a tail in range is taken and the queue waits for the command processor, one out
of range disables the queue with its error; heads, held records, enabling and the clearing of the error. That a queue's base
drops its low six bits (log entry 94) and when a completion queue is full (log entry 25) are the model's choices. -/
def Obligations.QueueRegisters : Prop :=
  ∀ (s : State) (f : Fn) (q : Nat), s.portUp f = true → q < 8 →
    let k := qKey f.num q
    let x := s.queue k
    (∀ n, x.enabled = true → n < x.sqSize → ∃ t, exec (.submissionTailDoorbell f q n) s = .next t ∧
      t.queue k = { x with sqTail := n } ∧ (f.num, q, n) ∈ t.waiting ∧ t.mem = s.mem) ∧
    (∀ n, x.enabled = true → x.sqSize ≤ n → ∃ t, exec (.submissionTailDoorbell f q n) s = .next t ∧
      (t.queue k).enabled = false ∧ (t.queue k).ctl.getLsbD 1 = true ∧ ∀ e ∈ t.waiting, (e.1, e.2.1) ≠ (f.num, q)) ∧
    (∀ n, x.enabled = true → n < x.cqSize → ∃ t, exec (.completionHeadDoorbell f q n) s = .next t ∧
      t.queue k = { x with cqHead := n } ∧ t.mem = s.mem) ∧
    (∀ r irq rs, x.heldRecs = (r, irq) :: rs → x.full = false → ∃ t, exec (.heldCompletionRecord f q) s = .next t ∧
      t.queue k = { x with heldRecs := rs, cqTail := (x.cqTail + 1) % x.cqSize } ∧
      t.mem.readBytes (hostKey (f.num / 64) (x.cqBase.toNat + 32 * x.cqTail)) (8 * r.length)
        = (r.map (fun w => leBytes 8 w.toNat)).flatten) ∧
    (∀ v, x.enabled = false → ∃ t, exec (.queueEnable f q v) s = .next t ∧ (t.queue k).enabled = true ∧ (t.queue k).sqHead = 0 ∧
      (t.queue k).sqTail = 0 ∧ (t.queue k).cqHead = 0 ∧ (t.queue k).cqTail = 0 ∧ (t.queue k).sqBase = x.sqBase) ∧
    (∀ v, ∃ t, exec (.queueErrClear f q v) s = .next t ∧ (t.queue k).ctl.getLsbD 1 = false) ∧
    ∀ v, x.enabled = false → ∃ t, exec (.registerWrite (.bar0 f) (0x1000 + 64 * q) v) s = .next t ∧
      t.queue k = { x with sqBase := v &&& ~~~63 } ∧ t.mem = s.mem

/-- R398, R402 to R404, R411: an access of BAR 2 outside every leased unit reads as ones and stores nothing, and the status word of the
function records it, in a form that the spec does not give (a fresh free value, log entry 19); an access within the leased units reads
and writes the eight bytes at their home. That the aperture holds the windows one after the other is the model's choice (log entry
19). From step 2 of the
boot on the cap takes values from 1000 to 65000 and a weight is written, by themselves or through BAR 4 by the physical
function, whose other registers ignore a write; a function whose units are all final comes out of its reset with its registers
at their reset values, and one that goes into it has no queue that waits. The write of a vector mask and the sending of a masked
vector as it is unmasked are the model's choices (log entries 19 and 63). -/
def Obligations.HostPorts : Prop :=
  (∀ (s : State) (f : Fn) (off : Nat), s.portUp f = true → windowAt (s.windowsOf f.num) off = none →
    (∃ t d, exec (.bar2Access f off none) s = .next t ∧ t.hostRead = BitVec.allOnes 64 ∧ t.mem = s.mem ∧
      t.vf f.num = { s.vf f.num with status := d } ∧ t.free = s.free + 1) ∧
    ∀ v, ∃ t d, exec (.bar2Access f off (some v)) s = .next t ∧ t.hostRead = s.hostRead ∧ t.mem = s.mem ∧
      t.vf f.num = { s.vf f.num with status := d } ∧ t.free = s.free + 1) ∧
  (∀ (s : State) (f : Fn) (off i va asid : Nat) (p : Tlb), s.portUp f = true →
    windowAt (s.windowsOf f.num) off = some (i, va) → windowAt (s.windowsOf f.num) (off + 7) = some (i, va + 7) → off + 8 ≤ 2 ^ 30 →
    va % 64 ≤ 56 → s.asidOf i f.num = some asid → s.leaf i [] asid va = some p →
    let key := s.homeKey i (p.loc va).la
    exec (.bar2Access f off none) s = .next { s with hostRead := BitVec.ofNat 64 (leNat (s.mem.readBytes key 8)) } ∧
    (pfind (s.isl i).excl ((p.loc va).la / 64) = none → ∀ v, ∃ t,
      exec (.bar2Access f off (some v)) s = .next t ∧ t.hostRead = s.hostRead ∧ t.vf f.num = s.vf f.num ∧
      BitVec.ofNat 64 (leNat (t.mem.readBytes key 8)) = v ∧ ∀ a, ¬(key ≤ a ∧ a < key + 8) → t.mem.read a = s.mem.read a)) ∧
  (∀ (s : State) (n : Nat), (2 ≤ s.boot.step → 1000 ≤ n → n ≤ 65000 →
      exec (.panelCapWrite n) s = .next { s with cap := n } ∧ ∀ port < 4, ∀ v : DWord, v.toNat = n →
        exec (.registerWrite (.bar4 port true) 0x28 v) s = .next { s with cap := n }) ∧
    (s.boot.step < 2 ∨ n < 1000 ∨ 65000 < n → exec (.panelCapWrite n) s = .next s)) ∧
  (∀ (s : State) (f : Fn) (n : Nat), 2 ≤ s.boot.step → f.port < 4 → f.vf < 64 → n < 256 →
    ∃ t, exec (.vfWeightWrite f n) s = .next t ∧ t.weight f.num = n ∧ t.mem = s.mem ∧
      ∀ port < 4, ∀ v : DWord, v.toNat = n → exec (.registerWrite (.bar4 port true) (0x6200 + 8 * f.num) v) s = .next t) ∧
  (∀ (s : State) (port off : Nat) (pf : Bool) (v : DWord),
    pf = false ∨ (off ≠ 0x28 ∧ (off < 0x6200 ∨ 0x6A00 ≤ off)) → exec (.registerWrite (.bar4 port pf) off v) s = .next s) ∧
  (∀ (s : State) (f : Fn) (vec : Nat) (v : DWord), s.portUp f = true → vec < 16 →
    (v.getLsbD 0 = true → ∃ t, exec (.registerWrite (.masks f) vec v) s = .next t ∧ (t.vf f.num).masked.getLsbD vec = true ∧
      (t.vf f.num).fired = (s.vf f.num).fired) ∧
    (v.getLsbD 0 = false → ∃ t, exec (.registerWrite (.masks f) vec v) s = .next t ∧ (t.vf f.num).masked.getLsbD vec = false ∧
      (t.vf f.num).pending.getLsbD vec = false ∧
      (t.vf f.num).fired = if (s.vf f.num).pending.getLsbD vec then vec :: (s.vf f.num).fired else (s.vf f.num).fired)) ∧
  (∀ (s : State) (f : Fn), f.port < 4 → f.vf < 64 → (s.vf f.num).resetting = true → s.allFinal f.num = true →
    ∃ t, exec (.functionLevelReset f) s = .next t ∧ t.vf f.num = Vf.reset ∧ (∀ q < 8, t.queue (qKey f.num q) = Queue.reset) ∧
      ∀ e ∈ t.leases, e.2.fn ≠ f.num) ∧
  ∀ (s : State) (f : Fn), f.port < 4 → f.vf < 64 → (s.vf f.num).resetting = false →
    ∃ t, exec (.functionLevelReset f) s = .next t ∧ ∀ e ∈ t.waiting, e.1 ≠ f.num

/-- R405, R406, R411, R412: a panel reset with a good command-processor and a good island image ends at step 6 with nothing
placed and nothing queued; a bad one stops the boot with its step and reason, and host ports or an SPDM responder that do not come
up stop it at step 2. That panel time is 0 afterwards is the model's choice (log entry 5), and that such a stop has no reason code
too (log entry 6). -/
def Obligations.PanelReset : Prop :=
  ∀ s : State,
    (s.boot.cp.reason = 0 → s.boot.ports = true → s.boot.island.reason = 0 → ∃ t, exec .panelReset s = .next t ∧ t.boot.step = 6 ∧ t.crews = [] ∧
      t.teams = [] ∧ t.launches = [] ∧ t.queues = [] ∧ t.packets = [] ∧ t.leases = [] ∧ t.cap = 65000 ∧ t.time = 0 ∧
      t.topo.written = true) ∧
    (s.boot.cp.reason ≠ 0 → ∃ t, exec .panelReset s = .next t ∧ t.boot.step = 0 ∧ t.boot.fstep = 1 ∧
      t.boot.code = s.boot.cp.reason ∧ t.crews = []) ∧
    (s.boot.cp.reason = 0 → s.boot.ports = false → ∃ t, exec .panelReset s = .next t ∧ t.boot.step = 1 ∧ t.boot.fstep = 2 ∧
      t.boot.code = 0 ∧ t.crews = []) ∧
    (s.boot.cp.reason = 0 → s.boot.ports = true → s.boot.island.reason ≠ 0 → ∃ t, exec .panelReset s = .next t ∧ t.boot.step = 2 ∧
      t.boot.fstep = 3 ∧ t.boot.code = s.boot.island.reason ∧ t.crews = [])

/-- R407: what the responder answers on a port: the version, then the capabilities, then the algorithms, and with SHA-384 and
ECDSA P-384 agreed the certificate of the fuses, its digest, the answer to a challenge and the measurements: the count for index 0,
all five for index 0xFF, one for the indexes 1 to 5, where a token or a policy that is absent gives 48 zero bytes. That a request
out of this order gets no answer, what bits stand for the algorithms and the capabilities, that 0x13 is version 1.3, and how the
words of an answer follow one another is the model's choice (log entry 7); nonces and signatures are free values (log entry 2). -/
def Obligations.SpdmAnswers : Prop :=
  ∀ (s : State) (p : Nat), 2 ≤ s.boot.step → p < 4 →
    let x := pget ⟨0, false, []⟩ s.spdm p
    (∃ t, exec (.getVersion p) s = .next t ∧ pfind t.spdm p = some ⟨1, false, [0x13]⟩) ∧
    (∃ t, exec (.getCapabilities p) s = .next t ∧ (x.stage = 0 → pfind t.spdm p = some { x with answer := [] }) ∧
      (x.stage ≠ 0 → ∃ a : DWord, a &&& ~~~0x40021 = 0x16 ∧ pfind t.spdm p = some ⟨2, false, [a]⟩)) ∧
    (∀ h g, ∃ t, exec (.negotiateAlgorithms p h g) s = .next t ∧
      (x.stage < 2 → pfind t.spdm p = some { x with answer := [] }) ∧
      (2 ≤ x.stage → ∃ a, pfind t.spdm p = some ⟨3, h.testBit 1 && g.testBit 7, a⟩)) ∧
    (x.negotiated = true →
      (∃ t, exec (.getDigests p) s = .next t ∧
        pfind t.spdm p = some { x with answer := (List.range 6).map (Config.sha384 s.fuses.cert) }) ∧
      (∃ t, exec (.getCertificate p) s = .next t ∧ pfind t.spdm p = some { x with answer := s.fuses.cert }) ∧
      (∀ n, ∃ t a, exec (.challenge p n) s = .next t ∧ a.length = 17 ∧
        pfind t.spdm p = some { x with answer := (List.range 6).map (Config.sha384 s.fuses.cert) ++ a }) ∧
      let zero : List DWord := List.replicate 6 0
      let b1 : List DWord := [1, s.fuses.rom]
      let b2 := 2 :: s.boot.cp.digest
      let b3 := 3 :: s.boot.island.digest
      let b4 := 4 :: (match s.boot.token with
        | some k => k.image.digest
        | none => zero)
      let b5 := 5 :: (match s.boot.policy with
        | some d => d
        | none => zero)
      (∀ e ∈ ([(0, [5, 0]), (1, 0 :: 1 :: b1), (2, 0 :: 1 :: b2), (3, 0 :: 1 :: b3), (4, 0 :: 1 :: b4), (5, 0 :: 1 :: b5),
          (0xFF, 0 :: 5 :: b1 ++ b2 ++ b3 ++ b4 ++ b5)] : List (Nat × List DWord)),
        ∃ t a, exec (.getMeasurements p e.1) s = .next t ∧ a.length = 17 ∧
          pfind t.spdm p = some { x with answer := e.2 ++ a }) ∧
      ∀ n, 5 < n → n ≠ 0xFF → ∃ t, exec (.getMeasurements p n) s = .next t ∧ pfind t.spdm p = some { x with answer := [] })

/-! ## The whole machine -/

/-- Every step keeps the canonical form of memory: addresses rise, and no byte that reads as an unlisted one is listed. -/
def Obligations.MemoryStaysCanonical : Prop :=
  ∀ s t : State, s.mem.wf = true → step s = .next t → t.mem.wf = true

/-- R302 to R304: every step keeps this: a translation that a core's TLB holds is a leaf of one of the four page sizes, with a
well-formed entry. -/
def Obligations.TranslationsStayLeaves : Prop :=
  ∀ s t : State, Pages s → step s = .next t → Pages t

/-- R18, R241, R249, R255, R317, R368, R387, R400, R405, R411: the machine after reset, where the spec gives the value, and
panel time 0, which is the model's choice (log entry 5); its memory is canonical and no core holds a translation. -/
def Obligations.ResetState : Prop :=
  State.reset.boot.step = 0 ∧ State.reset.boot.code = 0 ∧ State.reset.cap = 65000 ∧ State.reset.time = 0 ∧
  State.reset.crews = [] ∧ State.reset.teams = [] ∧ State.reset.launches = [] ∧ State.reset.nextSeq = 1 ∧
  (∀ i, (State.reset.isl i).zone = 0x3900 ∧ (State.reset.isl i).counters = [] ∧ (State.reset.isl i).owners = []) ∧
  (∀ k, State.reset.queue k = Queue.reset) ∧ (∀ fn, State.reset.weight fn = 16) ∧
  (∀ ck, (State.reset.core ck).lines = [] ∧ (State.reset.core ck).gI = 0 ∧ (State.reset.core ck).gS = 0 ∧
    (State.reset.core ck).relSeq = 0 ∧ (State.reset.core ck).acqf = 0 ∧ (State.reset.core ck).acqs = 0 ∧
    (State.reset.core ck).surra = 0 ∧ (State.reset.core ck).wbln = 0 ∧ (State.reset.core ck).spoil = 0) ∧
  State.reset.mem.wf = true ∧ Pages State.reset

namespace Sys2Proof.Stated

open Sys2Proof Sys2Proof.Machine

/-! ### Values of the words that work on a crew (R51, R54, R79 to R90, R127 to R144) -/

/-- A per-lane word completes, and each active lane's result is one that a relation allows. -/
def LanesHave (i : Instr) (f : Form) (regs : Nat) (allows : Crew → Nat → DWord → Prop) : Prop :=
  ∀ (s : State) (id : Nat) (c : Crew), Runs s id c → Ready c i f →
    ∃ d r, exec i s = .next (After s id d) ∧ Passed c d f ∧ LaneResult c d f regs r ∧ ∀ l < 32, c.isActive l = true → allows c l (r l)

/-- A uniform word completes, and its result is one that a relation allows. -/
def UniformHas (i : Instr) (f : Form) (allows : Crew → DWord → Prop) : Prop :=
  ∀ (s : State) (id : Nat) (c : Crew), Runs s id c → Ready c i f →
    ∃ d v, exec i s = .next (After s id d) ∧ Passed c d f ∧ allows c v ∧
      d.kget f.dst.toNat = (if f.nd then v else c.kget f.dst.toNat) ∧ ∀ l < 32, pushed d l = v

/-- A word completes that writes masks and nothing else of the crew's registers and history: what `em` and what each mask register
then holds. -/
def MasksAre (i : Instr) (f : Form) (em : Crew → Word) (m : Crew → Nat → Word) : Prop :=
  ∀ (s : State) (id : Nat) (c : Crew), Runs s id c → Ready c i f →
    ∃ d, exec i s = .next (After s id d) ∧ Passed c d f ∧ d.em = em c ∧ (∀ r < 8, d.mget r = m c r) ∧ d.hist = c.hist ∧ d.v = c.v ∧
      d.k = c.k

/-- The 32-bit word with the bits for which a condition holds. -/
def bitsWhere (p : Nat → Bool) : Word := BitVec.ofNat 32 (((List.range 32).map (fun l => if p l then 2 ^ l else 0)).sum)

/-- The predicate of `vote.ballot` in a lane (R132): a value that is not zero, or bit n[5:0] of a, of which a named register has
32 bits. -/
def ballotBit (c : Crew) (f : Form) (l : Nat) : Bool :=
  if f.b = .zero then decide (c.src32 f 0 f.a l ≠ 0)
  else
    let a : DWord := match f.a.src with
      | .v _ => (c.src32 f 0 f.a l).setWidth 64
      | _ => c.src64 f 0 f.a l
    a.getLsbD ((c.uni f 0 f.b).toNat % 64)

/-! ### Floating point in integers

A finite number of a format is an integer times the format's least positive number, 2^(2 − bias' − wF) with bias' = 2^(wE − 1):
`fint` is that integer. An exact result x is given as n / 2^k such units. -/

/-- Widths of the exponent and the fraction of f32, f16 (type 9) and bf16 (type 10) (R95). -/
def fieldsOf (ty : Nat) : Nat × Nat := if ty = 9 then (5, 10) else if ty = 10 then (8, 7) else (8, 23)

/-- Least positive numbers in 1: 1 is 2^unitExp of them. -/
def unitExp (F : Nat × Nat) : Nat := F.2 + 2 ^ (F.1 - 1) - 2

def fneg (F : Nat × Nat) (x : Nat) : Bool := x.testBit (F.1 + F.2)
def fmag (F : Nat × Nat) (x : Nat) : Nat := x % 2 ^ (F.1 + F.2)
/-- The bits of +∞; those of a finite number lie below it, those of a NaN above. -/
def finf (F : Nat × Nat) : Nat := (2 ^ F.1 - 1) * 2 ^ F.2
def fisNan (F : Nat × Nat) (x : Nat) : Bool := decide (finf F < fmag F x)
def fisInf (F : Nat × Nat) (x : Nat) : Bool := decide (fmag F x = finf F)
def ffin (F : Nat × Nat) (x : Nat) : Bool := decide (fmag F x < finf F)
/-- A pattern with a sign. -/
def fsign (F : Nat × Nat) (neg : Bool) (m : Nat) : Nat := if neg then 2 ^ (F.1 + F.2) + m else m
/-- The default NaN (R79), and a NaN with its quiet bit set. -/
def fnan (F : Nat × Nat) : Nat := finf F + 2 ^ (F.2 - 1)
def fquiet (F : Nat × Nat) (x : Nat) : Nat := x ||| 2 ^ (F.2 - 1)

/-- The number that a finite pattern stands for (R96), in least positive numbers. -/
def fint (F : Nat × Nat) (x : Nat) : Int :=
  let e := fmag F x / 2 ^ F.2
  let m := fmag F x % 2 ^ F.2
  let n : Nat := if e = 0 then m else (2 ^ F.2 + m) * 2 ^ (e - 1)
  if fneg F x then -n else n

/-- round_to (R78, R99): r is n / 2^k rounded under a mode (0 `rne`, 1 `rtz`, 2 `rdn`, 3 `rup`, 4 `rna`); an exact zero takes the
sign `zeroNeg`. To nearest, a magnitude of (2 − 2^(−wF − 1)) × 2^emax or more gives infinity; a directed mode gives the nearest
number on its side, and infinity where there is none. -/
def RoundsTo (F : Nat × Nat) (mode : Nat) (n : Int) (k : Nat) (zeroNeg : Bool) (r : Nat) : Prop :=
  r < 2 ^ (1 + F.1 + F.2) ∧
  if n = 0 then r = fsign F zeroNeg 0
  else
    let top : Nat := (2 ^ (F.2 + 1) - 1) * 2 ^ (2 ^ F.1 - 3) * 2 ^ k
    let far (y : Nat) : Nat := (fint F y * 2 ^ k - n).natAbs
    fneg F r = decide (n < 0) ∧
    if mode = 0 ∨ mode = 4 then
      if (2 ^ (F.2 + 2) - 1) * 2 ^ (2 ^ F.1 - 4) * 2 ^ k ≤ n.natAbs then fisInf F r = true
      else ffin F r = true ∧ ∀ y, ffin F y = true → far r ≤ far y ∧
        (far y = far r → fint F y ≠ fint F r → if mode = 0 then r % 2 = 0 else (fint F y).natAbs < (fint F r).natAbs)
    else if mode = 2 ∨ (mode = 1 ∧ 0 < n) then
      if n < -(top : Int) then fisInf F r = true
      else ffin F r = true ∧ fint F r * 2 ^ k ≤ n ∧ ∀ y, ffin F y = true → fint F y * 2 ^ k ≤ n → fint F y ≤ fint F r
    else
      if (top : Int) < n then fisInf F r = true
      else ffin F r = true ∧ n ≤ fint F r * 2 ^ k ∧ ∀ y, ffin F y = true → n ≤ fint F y * 2 ^ k → fint F r ≤ fint F y

/-- The integer that a mode rounds n / 2^k to (R78). -/
def IntRounds (mode : Nat) (n : Int) (k : Nat) (i : Int) : Prop :=
  let down := i * 2 ^ k ≤ n ∧ n < (i + 1) * 2 ^ k
  let up := (i - 1) * 2 ^ k < n ∧ n ≤ i * 2 ^ k
  match mode with
  | 1 => if 0 ≤ n then down else up
  | 2 => down
  | 3 => up
  | _ => 2 * (i * 2 ^ k - n).natAbs ≤ 2 ^ k ∧
      (2 * (i * 2 ^ k - n).natAbs = 2 ^ k → if mode = 0 then i % 2 = 0 else n.natAbs < i.natAbs * 2 ^ k)

/-- a + b (R79, R81). -/
def SumIs (F : Nat × Nat) (a b r : Nat) : Prop :=
  if fisNan F a then r = fquiet F a
  else if fisNan F b then r = fquiet F b
  else if fisInf F a then r = if fisInf F b = true ∧ fneg F a ≠ fneg F b then fnan F else a
  else if fisInf F b then r = b
  else RoundsTo F 0 (fint F a + fint F b) 0 (fneg F a && fneg F b) r

/-- a − b: of a NaN the sign stays (R79, R81). -/
def DifferenceIs (F : Nat × Nat) (a b r : Nat) : Prop :=
  if fisNan F b then SumIs F a b r else SumIs F a (b ^^^ 2 ^ (F.1 + F.2)) r

/-- a × b (R79, R81). -/
def ProductIs (F : Nat × Nat) (a b r : Nat) : Prop :=
  let s := fneg F a != fneg F b
  if fisNan F a then r = fquiet F a
  else if fisNan F b then r = fquiet F b
  else if fisInf F a || fisInf F b then r = if fmag F a = 0 ∨ fmag F b = 0 then fnan F else fsign F s (finf F)
  else RoundsTo F 0 (fint F a * fint F b) (unitExp F) s r

/-- a × b + c with one rounding (R79, R81). -/
def FusedIs (F : Nat × Nat) (a b c r : Nat) : Prop :=
  let s := fneg F a != fneg F b
  if fisNan F a then r = fquiet F a
  else if fisNan F b then r = fquiet F b
  else if fisNan F c then r = fquiet F c
  else if fisInf F a || fisInf F b then
    r = if fmag F a = 0 ∨ fmag F b = 0 ∨ (fisInf F c = true ∧ fneg F c ≠ s) then fnan F else fsign F s (finf F)
  else if fisInf F c then r = c
  else RoundsTo F 0 (fint F a * fint F b + fint F c * 2 ^ unitExp F) (unitExp F) (s && fneg F c) r

/-- The order of numbers, with −0 below +0: patterns of one sign are ordered as their magnitudes (R82). -/
def forder (F : Nat × Nat) (x : Nat) : Int := if fneg F x then -(fmag F x : Int) - 1 else fmag F x

/-- `fmin`, and `fmax` (R82). -/
def pick (F : Nat × Nat) (isMax : Bool) (a b : Nat) : Nat :=
  if fisNan F a then (if fisNan F b then fquiet F a else b)
  else if fisNan F b then a
  else if isMax then (if forder F a < forder F b then b else a)
  else (if forder F b < forder F a then b else a)

/-- The condition of `fcmp` and of `hcmp2` for floats (R83), +0 being equal to −0: eq, lt, le, un. -/
def fcond (F : Nat × Nat) (cond a b : Nat) : Bool :=
  let u := fisNan F a || fisNan F b
  let x : Int := if fneg F a then -(fmag F a : Int) else fmag F a
  let y : Int := if fneg F b then -(fmag F b : Int) else fmag F b
  match cond with
  | 0 => !u && decide (x = y)
  | 1 => !u && decide (x < y)
  | 2 => !u && decide (x ≤ y)
  | _ => u

/-- `frnd` (R85). -/
def RoundedIs (F : Nat × Nat) (mode a r : Nat) : Prop :=
  if fisNan F a then r = fquiet F a
  else if fisInf F a then r = a
  else r < 2 ^ (1 + F.1 + F.2) ∧ ffin F r = true ∧ fneg F r = fneg F a ∧
    ∃ i, IntRounds mode (fint F a) (unitExp F) i ∧ fint F r = i * 2 ^ unitExp F

/-- `fsqrt` (R86): the root lies strictly between the middles of r and its neighbours. -/
def RootIs (a r : Nat) : Prop :=
  let F := (8, 23)
  if fisNan F a then r = fquiet F a
  else if fmag F a = 0 then r = a
  else if fneg F a then r = fnan F
  else if fisInf F a then r = a
  else 1 ≤ r ∧ r + 1 < finf F ∧ (fint F (r - 1) + fint F r) ^ 2 < 4 * fint F a * 2 ^ unitExp F ∧
    4 * fint F a * 2 ^ unitExp F < (fint F r + fint F (r + 1)) ^ 2

/-- `fscl` (R87): a × 2^n, rounded once. -/
def ScaledIs (a : Nat) (n : Int) (r : Nat) : Prop :=
  let F := (8, 23)
  if fisNan F a then r = fquiet F a
  else if fisInf F a = true ∨ fmag F a = 0 then r = a
  else RoundsTo F 0 (fint F a * 2 ^ n.toNat) (-n).toNat false r

/-- The class of R84, as its bit. -/
def classOf (F : Nat × Nat) (x : Nat) : Nat :=
  if fisNan F x then (if x.testBit (F.2 - 1) then 1 else 0)
  else if fisInf F x then (if fneg F x then 2 else 9)
  else if fmag F x = 0 then (if fneg F x then 5 else 6)
  else if fmag F x < 2 ^ F.2 then (if fneg F x then 4 else 7)
  else if fneg F x then 3 else 8

/-- A float converted to another format (R90). -/
def ConvertedIs (S D : Nat × Nat) (mode a r : Nat) : Prop :=
  if fisNan S a then
    let m := fmag S a % 2 ^ S.2
    r = fquiet D (fsign D (fneg S a) (finf D + if S.2 ≤ D.2 then m * 2 ^ (D.2 - S.2) else m / 2 ^ (S.2 - D.2)))
  else if fisInf S a then r = fsign D (fneg S a) (finf D)
  else RoundsTo D mode (fint S a * 2 ^ unitExp D) (unitExp S) (fneg S a) r

/-- The integer that a float becomes, clamped to a range (R90). -/
def TruncatedIs (S : Nat × Nat) (mode : Nat) (lo hi : Int) (a : Nat) (i : Int) : Prop :=
  if fisNan S a then i = 0
  else if fisInf S a then i = if fneg S a then lo else hi
  else ∃ j, IntRounds mode (fint S a) (unitExp S) j ∧ i = max lo (min hi j)

/-- The pairings of `cvt` between formats: mod, destination, source (R89). -/
def floatPairs : List (Nat × Nat × Nat) := [(0, 8, 9), (1, 8, 10), (2, 9, 8), (3, 10, 8), (4, 9, 10), (5, 10, 9)]

/-- Those from an integer: mod, destination, width of the source, signed or not, its type for an immediate. -/
def fromPairs : List (Nat × Nat × Nat × Bool × Nat) :=
  [(8, 8, 32, true, 1), (9, 8, 32, false, 0), (0x0A, 8, 64, true, 3), (0x0B, 8, 64, false, 2), (0x0C, 9, 32, true, 1),
    (0x0D, 9, 32, false, 0), (0x0E, 10, 32, true, 1), (0x0F, 10, 32, false, 0)]

/-- Those to an integer: mod, width of the destination, signed or not, source. -/
def intoPairs : List (Nat × Nat × Bool × Nat) :=
  [(0x10, 32, true, 8), (0x11, 32, false, 8), (0x12, 64, true, 8), (0x13, 64, false, 8), (0x14, 16, true, 8), (0x15, 16, false, 8),
    (0x16, 8, true, 8), (0x17, 8, false, 8), (0x18, 32, true, 9), (0x19, 32, false, 9), (0x1A, 32, true, 10), (0x1B, 32, false, 10)]

/-- The bits of a float operand in a lane, and of a uniform one (R76). -/
def fbitsAt (c : Crew) (f : Form) (ty : Nat) (o : Operand) (l : Nat) : Nat :=
  (c.src32 f ty o l).toNat % 2 ^ (1 + (fieldsOf ty).1 + (fieldsOf ty).2)
def fbitsUni (c : Crew) (f : Form) (o : Operand) : Nat :=
  (lowWord (c.uni f f.ty o)).toNat % 2 ^ (1 + (fieldsOf f.ty).1 + (fieldsOf f.ty).2)

/-- A word of R81 in both its forms. -/
def FloatWord (mk : Form → Instr) (is : Nat × Nat → Nat → Nat → Nat → Nat → Prop) : Prop :=
  ∀ f : Form, (f.ty = 8 ∨ f.ty = 9 ∨ f.ty = 10) →
    (f.m5 = false → LanesHave (mk f) f 1 (fun c l v => v.toNat < 2 ^ 32 ∧
      is (fieldsOf f.ty) (fbitsAt c f f.ty f.a l) (fbitsAt c f f.ty f.b l) (fbitsAt c f f.ty f.c l) v.toNat)) ∧
    (f.m5 = true → UniformHas (mk f) f (fun c v => v.toNat < 2 ^ 32 ∧
      is (fieldsOf f.ty) (fbitsUni c f f.a) (fbitsUni c f f.b) (fbitsUni c f f.c) v.toNat))

/-! ### Exception flags (R79, R80, R82 to R90) -/

/-- What a word adds to the sticky flags: those of its active lanes together. -/
def FlagsAre (c d : Crew) (g : Nat → FFlags) : Prop :=
  ∀ n < 64, d.fxs.getLsbD n = (c.fxs.getLsbD n || (List.range 32).any (fun l => c.isActive l && (g l).getLsbD n))

/-- A per-lane word completes, and each active lane raises flags that a relation allows of its lane and its result. -/
def LanesRaise (i : Instr) (f : Form) (allows : Crew → Nat → Nat → FFlags → Prop) : Prop :=
  ∀ (s : State) (id : Nat) (c : Crew), Runs s id c → Ready c i f →
    ∃ d g, exec i s = .next (After s id d) ∧ FlagsAre c d g ∧
      ∀ l < 32, c.isActive l = true → allows c l (pushed d l).toNat (g l)

/-- A uniform word completes, and raises its flags once. -/
def UniformRaises (i : Instr) (f : Form) (fl : Crew → Nat → FFlags) : Prop :=
  ∀ (s : State) (id : Nat) (c : Crew), Runs s id c → Ready c i f →
    ∃ d, exec i s = .next (After s id d) ∧ d.fxs = c.fxs ||| (fl c (pushed d 0).toNat).setWidth 64

/-- A signalling NaN (R97), and the invalid flag where a condition holds. -/
def signals (F : Nat × Nat) (x : Nat) : Bool := fisNan F x && !x.testBit (F.2 - 1)
def invalidIf (b : Bool) : FFlags := if b then flagNv else 0

/-- The flags of rounding n / 2^k to r (R80, R99): overflow where the value rounded with an unbounded exponent lies beyond the
greatest finite number, underflow where so rounded it lies below the least normal one and r is inexact. -/
def roundFlags (F : Nat × Nat) (mode : Nat) (n : Int) (k r : Nat) : FFlags :=
  let near := mode = 0 ∨ mode = 4
  let away := (mode = 2 ∧ n < 0) ∨ (mode = 3 ∧ 0 < n)
  let beyond : Bool := decide (
    if near then (2 ^ (F.2 + 2) - 1) * 2 ^ (2 ^ F.1 - 4) * 2 ^ k ≤ n.natAbs
    else if away then (2 ^ (F.2 + 1) - 1) * 2 ^ (2 ^ F.1 - 3) * 2 ^ k < n.natAbs
    else 2 ^ (F.2 + 1) * 2 ^ (2 ^ F.1 - 3) * 2 ^ k ≤ n.natAbs)
  let tiny : Bool := decide (
    if near then 4 * n.natAbs < (2 ^ (F.2 + 2) - 1) * 2 ^ k
    else if away then 2 * n.natAbs ≤ (2 ^ (F.2 + 1) - 1) * 2 ^ k
    else n.natAbs < 2 ^ F.2 * 2 ^ k)
  if beyond then flagOf ||| flagNx
  else if fint F r * 2 ^ k = n then 0
  else if tiny then flagUf ||| flagNx
  else flagNx

/-- The flags of a + b, a − b, a × b and a × b + c with the result r (R79 to R81). -/
def sumFlags (F : Nat × Nat) (a b r : Nat) : FFlags :=
  if fisNan F a || fisNan F b then invalidIf (signals F a || signals F b)
  else if fisInf F a || fisInf F b then invalidIf (fisInf F a && fisInf F b && fneg F a != fneg F b)
  else roundFlags F 0 (fint F a + fint F b) 0 r
def differenceFlags (F : Nat × Nat) (a b r : Nat) : FFlags := sumFlags F a (b ^^^ 2 ^ (F.1 + F.2)) r
def productFlags (F : Nat × Nat) (a b r : Nat) : FFlags :=
  if fisNan F a || fisNan F b then invalidIf (signals F a || signals F b)
  else if fisInf F a || fisInf F b then invalidIf (fmag F a == 0 || fmag F b == 0)
  else roundFlags F 0 (fint F a * fint F b) (unitExp F) r
def fusedFlags (F : Nat × Nat) (a b c r : Nat) : FFlags :=
  let zi := (fisInf F a && fmag F b == 0) || (fmag F a == 0 && fisInf F b)
  if fisNan F a || fisNan F b || fisNan F c then invalidIf (signals F a || signals F b || signals F c || zi)
  else if fisInf F a || fisInf F b then invalidIf (zi || (fisInf F c && fneg F c != (fneg F a != fneg F b)))
  else if fisInf F c then 0
  else roundFlags F 0 (fint F a * fint F b + fint F c * 2 ^ unitExp F) (unitExp F) r

/-- The flags of a compare by its condition (R83). -/
def compareFlags (F : Nat × Nat) (cond a b : Nat) : FFlags :=
  invalidIf (if cond = 1 ∨ cond = 2 then fisNan F a || fisNan F b else signals F a || signals F b)

/-- The flags of a conversion to another format, and to an integer whose range is lo to hi (R90). -/
def convertFlags (S D : Nat × Nat) (mode a r : Nat) : FFlags :=
  if fisNan S a then invalidIf (signals S a)
  else if fisInf S a then 0
  else roundFlags D mode (fint S a * 2 ^ unitExp D) (unitExp S) r
def TruncateFlags (S : Nat × Nat) (mode : Nat) (lo hi : Int) (a : Nat) (x : FFlags) : Prop :=
  if fisNan S a || fisInf S a then x = flagNv
  else ∃ j, IntRounds mode (fint S a) (unitExp S) j ∧
    x = if j < lo ∨ hi < j then flagNv else if j * 2 ^ unitExp S = fint S a then 0 else flagNx

/-- A word of R81 in both its forms raises these flags. -/
def FloatRaises (mk : Form → Instr) (fl : Form → Nat × Nat → Nat → Nat → Nat → Nat → FFlags) : Prop :=
  ∀ f : Form, (f.ty = 8 ∨ f.ty = 9 ∨ f.ty = 10) →
    (f.m5 = false → LanesRaise (mk f) f (fun c l r x =>
      x = fl f (fieldsOf f.ty) (fbitsAt c f f.ty f.a l) (fbitsAt c f f.ty f.b l) (fbitsAt c f f.ty f.c l) r)) ∧
    (f.m5 = true → UniformRaises (mk f) f (fun c r =>
      fl f (fieldsOf f.ty) (fbitsUni c f f.a) (fbitsUni c f f.b) (fbitsUni c f f.c) r))

/-- The parts of `fxtr` (R88): the exponent, or with mod[4] the significand, with its flags. -/
def ExtractedIs (sig : Bool) (a r : Nat) (x : FFlags) : Prop :=
  let F := (8, 23)
  let e := (fint F a).natAbs.log2
  if sig then
    x = invalidIf (signals F a) ∧
    if fisNan F a then r = fquiet F a
    else if fisInf F a = true ∨ fmag F a = 0 then r = a
    else r < 2 ^ 32 ∧ ffin F r = true ∧ fint F r * 2 ^ e = fint F a * 2 ^ unitExp F
  else if ffin F a = false then r = 0x7FFFFFFF ∧ x = flagNv
  else if fmag F a = 0 then r = 0x80000000 ∧ x = flagNv
  else r = (BitVec.ofInt 32 ((e : Int) - unitExp F)).toNat ∧ x = 0

/-! ### The approximate units (R86) -/

/-- A unit completes, and each active lane's result and flags are those that a relation allows of its argument. -/
def UnitLanes (i : Instr) (f : Form) (allows : Nat → Nat → FFlags → Prop) : Prop :=
  ∀ (s : State) (id : Nat) (c : Crew), Runs s id c → Ready c i f →
    ∃ d r g, exec i s = .next { After s id d with free := s.free + 32 } ∧ Passed c d f ∧ LaneResult c d f 1 r ∧ FlagsAre c d g ∧
      ∀ l < 32, c.isActive l = true → allows (c.src32 f 8 f.a l).toNat (r l).toNat (g l)

/-- `frcp`: with r one of the two numbers that bracket 1 / a (R86). -/
def ReciprocalIs (a r : Nat) (x : FFlags) : Prop :=
  let F := (8, 23)
  let n := (fint F a).natAbs
  if fisNan F a then r = fquiet F a ∧ x = invalidIf (signals F a)
  else if fisInf F a then r = fsign F (fneg F a) 0 ∧ x = 0
  else if fmag F a = 0 then r = fsign F (fneg F a) (finf F) ∧ x = flagDz
  else if fmag F a ≤ 0x00200000 then r = fsign F (fneg F a) (finf F) ∧ x = flagOf
  else x = 0 ∧ r < 2 ^ 32 ∧ fneg F r = fneg F a ∧ 1 ≤ fmag F r ∧ fmag F r < finf F ∧
    fint F (fmag F r - 1) * n < 2 ^ (2 * unitExp F) ∧ 2 ^ (2 * unitExp F) < fint F (fmag F r + 1) * n

/-- `frsq`: with r one of the two numbers that bracket 1 / √a (R86). -/
def InverseRootIs (a r : Nat) (x : FFlags) : Prop :=
  let F := (8, 23)
  if fisNan F a then r = fquiet F a ∧ x = invalidIf (signals F a)
  else if fmag F a = 0 then r = fsign F (fneg F a) (finf F) ∧ x = flagDz
  else if fneg F a then r = fnan F ∧ x = flagNv
  else if fisInf F a then r = 0 ∧ x = 0
  else x = 0 ∧ 1 ≤ r ∧ r < finf F ∧
    fint F (r - 1) ^ 2 * fint F a < 2 ^ (3 * unitExp F) ∧ 2 ^ (3 * unitExp F) < fint F (r + 1) ^ 2 * fint F a

/-- The real number that a finite pattern of f32 stands for. -/
noncomputable def realOf (x : Nat) : ℝ := ((fint (8, 23) x : Int) : ℝ) / 2 ^ 149

/-- `fexpf`: 2^a, less than 1 ulp off up to 1/2 and less than 2 ulp off above, up to the 2^−150 to which the model knows 2^a. -/
def PowerIs (a r : Nat) (x : FFlags) : Prop :=
  let F := (8, 23)
  let ulp : ℝ := if fneg F a then 1 / 2 ^ 24 else if fmag F a = 0x3F800000 then 1 / 2 ^ 22 else 1 / 2 ^ 23
  if fisNan F a then r = fquiet F a ∧ x = invalidIf (signals F a)
  else if 0x3F800000 < fmag F a then r = fnan F ∧ x = flagNv
  else if fmag F a = 0 then r = 0x3F800000 ∧ x = 0
  else x = 0 ∧ r < finf F ∧
    |realOf r - (2 : ℝ) ^ realOf a| < (if fmag F a ≤ 0x3F000000 then ulp else 2 * ulp) + 1 / 2 ^ 150

/-- `flog2`: exact at the powers of two (+0 at 1: the model's choice, log entry 70), else at most max(1 ulp, 2^−24) off, up to the
2^−90 to which the model knows log2(a). -/
def LogarithmIs (a r : Nat) (x : FFlags) : Prop :=
  let F := (8, 23)
  let n := (fint F a).natAbs
  let e : Int := (n.log2 : Int) - 149
  let j : Int := if 1 ≤ e then e.natAbs.log2 else if e ≤ -2 then (-e - 1).natAbs.log2 else -1
  if fisNan F a then r = fquiet F a ∧ x = invalidIf (signals F a)
  else if fmag F a = 0 then r = fsign F true (finf F) ∧ x = flagDz
  else if fneg F a then r = fnan F ∧ x = flagNv
  else if fisInf F a then r = a ∧ x = 0
  else if n = 2 ^ n.log2 then x = 0 ∧ r < 2 ^ 32 ∧ ffin F r = true ∧ fint F r = e * 2 ^ 149 ∧ (e = 0 → r = 0)
  else x = 0 ∧ r < 2 ^ 32 ∧ ffin F r = true ∧
    |realOf r - Real.logb 2 (realOf a)| ≤ 2 ^ j / 2 ^ 23 + 1 / 2 ^ 90

/-! ### Reductions (R133, R134) -/

/-- One combination on words (R133). -/
def combAt (ty op w : Nat) (a b : BitVec w) : BitVec w :=
  if bitTys ty then
    match op with
    | 0 => a &&& b
    | 1 => a ||| b
    | _ => a ^^^ b
  else
    match op with
    | 0 => a + b
    | 1 => if lessAt ty w b a then b else a
    | _ => if lessAt ty w a b then b else a

/-- One combination of a type (R133). -/
def Combines (ty op : Nat) (a b r : DWord) : Prop :=
  if ty = 8 then (if op = 0 then SumIs (8, 23) a.toNat b.toNat r.toNat else r.toNat = pick (8, 23) (op == 2) a.toNat b.toNat)
  else r = atType (fun w x y _ => combAt ty op w x y) ty a b 0

/-- The flags of one combination, its result given. -/
def combineFlags (ty op : Nat) (a b r : DWord) : FFlags :=
  if ty = 8 then (if op = 0 then sumFlags (8, 23) a.toNat b.toNat r.toNat else invalidIf (signals (8, 23) a.toNat || signals (8, 23) b.toNat))
  else 0

/-- What an inactive lane contributes (R133). -/
def neutral (ty op : Nat) : DWord :=
  if ty = 8 then (match op with
    | 0 => 0x80000000
    | 1 => 0x7F800000
    | _ => 0xFF800000)
  else if bitTys ty then (if op ≠ 0 then 0 else if regsOf ty = 2 then BitVec.allOnes 64 else 0xFFFFFFFF)
  else
    match op with
    | 0 => 0
    | 1 => clampedTo ty (2 ^ 64)
    | _ => clampedTo ty (-2 ^ 64)

/-- The values at the five steps of a reduction or of a scan: `take s l` says whether lane l combines at distance s, and with which
lanes. -/
def Steps (c : Crew) (f : Form) (take : Nat → Nat → Option (Nat × Nat)) (p : Nat → Nat → DWord) : Prop :=
  (∀ l < 32, p 0 l = if c.isActive l then c.srcTy f f.ty f.a l else neutral f.ty f.hi) ∧
  ∀ k < 5, ∀ l < 32, match take (2 ^ k) l with
    | some (x, y) => Combines f.ty f.hi (p k x) (p k y) (p (k + 1) l)
    | none => p (k + 1) l = p k l

/-- The sticky flags after the steps: those of every combination (R133, R134). -/
def StepFlags (c d : Crew) (f : Form) (take : Nat → Nat → Option (Nat × Nat)) (p : Nat → Nat → DWord) : Prop :=
  ∀ n < 64, d.fxs.getLsbD n = (c.fxs.getLsbD n || (List.range 5).any (fun k => (List.range 32).any (fun l =>
    match take (2 ^ k) l with
    | some (x, y) => (combineFlags f.ty f.hi (p k x) (p k y) (p (k + 1) l)).getLsbD n
    | none => false)))

/-- A scanned value as it comes out: a NaN is quiet (R97). -/
def scanned (ty : Nat) (v : DWord) : DWord := if ty = 8 ∧ fisNan (8, 23) v.toNat = true then v ||| 0x00400000 else v

/-- The lanes that combine at a distance in `lred`, and in `lscan`, where the lower lane is the first source. -/
def treePairs (s l : Nat) : Option (Nat × Nat) := if l % (2 * s) = 0 then some (l, l + s) else none
def scanPairs (s l : Nat) : Option (Nat × Nat) := if s ≤ l then some (l - s, l) else none

/-- The types and operations of `lred` and `lscan`. -/
def Reduces (f : Form) : Prop := (intTys f.ty = true ∨ f.ty = 8 ∨ bitTys f.ty = true) ∧ f.hi < 3

/-! ### Packed pairs (R127 to R129) -/

/-- Half h of a lane's packed operand. -/
def halfOf (c : Crew) (f : Form) (o : Operand) (l h : Nat) : BitVec 16 := (c.packSrc f o l).extractLsb' (16 * h) 16

/-- A half as a number of u16 (4) or s16 (5), and a number clamped to the type's range. -/
def halfNum (ty : Nat) (x : BitVec 16) : Int := if ty = 5 then x.toInt else x.toNat
def halfClamp (ty : Nat) (n : Int) : BitVec 16 :=
  BitVec.ofInt 16 (if ty = 5 then max (-2 ^ 15) (min (2 ^ 15 - 1) n) else max 0 (min (2 ^ 16 - 1) n))

/-- A packed word: each half of the result by a relation on the halves. -/
def PackedWord (mk : Form → Instr) (tys : Nat → Prop) (is : Form → BitVec 16 → BitVec 16 → BitVec 16 → BitVec 16 → Prop) : Prop :=
  ∀ f : Form, tys f.ty → LanesHave (mk f) f 1 (fun c l v => ∃ x y : BitVec 16, v = ((y ++ x : BitVec 32)).setWidth 64 ∧
    is f (halfOf c f f.a l 0) (halfOf c f f.b l 0) (halfOf c f f.c l 0) x ∧
    is f (halfOf c f f.a l 1) (halfOf c f f.b l 1) (halfOf c f f.c l 1) y)

/-- A packed word of an integer operation: clamped with `.sat`, else modulo 2^16. -/
def PackedInts (mk : Form → Instr) (op : Int → Int → Int) : Prop :=
  PackedWord mk (fun ty => ty = 4 ∨ ty = 5) (fun f a b _ r =>
    r = if f.m4 then halfClamp f.ty (op (halfNum f.ty a) (halfNum f.ty b)) else BitVec.ofInt 16 (op (halfNum f.ty a) (halfNum f.ty b)))

/-- A packed word of a float operation. -/
def PackedFloats (mk : Form → Instr) (is : Nat × Nat → Nat → Nat → Nat → Nat → Prop) : Prop :=
  PackedWord mk (fun ty => ty = 9 ∨ ty = 10) (fun f a b c r => is (fieldsOf f.ty) a.toNat b.toNat c.toNat r.toNat)

/-- One half of `acs2`, and its decision (R128). -/
def selected (f : Form) (a b x y : BitVec 16) : BitVec 16 × Bool :=
  let p := halfClamp f.ty (halfNum f.ty a + halfNum f.ty x)
  let q := halfClamp f.ty (halfNum f.ty b + halfNum f.ty y)
  let d := if f.m5 then decide (halfNum f.ty p < halfNum f.ty q) else decide (halfNum f.ty q < halfNum f.ty p)
  (if d then q else p, d)

/-! ### Strings (R138 to R142) -/

/-- Byte k of the segment that begins at a named register (R138). -/
def segByte (c : Crew) (q : BitVec 8) (l k : Nat) : Byte := (laneOf (c.vget (q.toNat + k / 4)) l).extractLsb' (8 * (k % 4)) 8

/-- A length operand (R138). -/
def lengthOf (x : Nat) : Nat := min (x % 256) 16

/-- The result of `scmp` (R140). -/
def compared (A B : Nat → Byte) (la lb : Nat) : Nat :=
  let m := min la lb
  match (List.range m).find? (fun k => A k != B k) with
  | some i => i + 2 ^ 8 * (if A i < B i then 1 else 2)
  | none => m + 2 ^ 8 * (if la = lb then 0 else if la < lb then 1 else 2) + (if la = 16 ∧ lb = 16 then 2 ^ 10 else 0)

/-- The result of `shash` (R142). -/
def hashed (A : Nat → Byte) (len : Nat) (seed : Word) : Word :=
  let w (i : Nat) : Word := BitVec.ofNat 32 (((List.range 4).map (fun j =>
    if 4 * i + j < len then (A (4 * i + j)).toNat * 256 ^ j else 0)).sum)
  (List.range ((len + 3) / 4)).foldl (fun h i => ((h ^^^ w i).rotateLeft 13) * 0x8F1BBCDD) seed ^^^ BitVec.ofNat 32 len

/-- The steps of `hmix` (R143). -/
def mixed (a : Word) : Word :=
  let h1 := (a ^^^ a >>> 16) * 0xD2B74407
  let h2 := (h1 ^^^ h1 >>> 15) * 0x5F356495
  h2 ^^^ h2 >>> 16

end Sys2Proof.Stated

/-! ## Values of the cross-lane words, and rounding -/

/-- R130 to R132: `perm` gathers across lanes, active or not; the votes and the ballot, of which the ballot may go to a mask
register. -/
def Sys2Proof.Stated.PermAndVotes : Prop :=
  ∀ f : Form,
    LanesHave (.perm f) f (regsOf f.ty) (fun c l v =>
      let i := (c.src32 f 0 f.b l).toNat
      v = if f.m4 = true ∧ 32 ≤ i then 0 else c.srcTy f f.ty f.a (i % 32)) ∧
    UniformHas (.voteAny f) f (fun c v =>
      ((∃ l < 32, c.isActive l = true ∧ c.src32 f 0 f.a l ≠ 0) → v = 1) ∧
      ((∀ l < 32, c.isActive l = true → c.src32 f 0 f.a l = 0) → v = 0)) ∧
    UniformHas (.voteAll f) f (fun c v =>
      ((∀ l < 32, c.isActive l = true → c.src32 f 0 f.a l ≠ 0) → v = 1) ∧
      ((∃ l < 32, c.isActive l = true ∧ c.src32 f 0 f.a l = 0) → v = 0)) ∧
    (f.m4 = false → UniformHas (.voteBallot f) f (fun c v => v = (bitsWhere (fun l => c.isActive l && ballotBit c f l)).setWidth 64)) ∧
    (f.m4 = true → f.nd = true → f.dst.toNat ≤ 7 → ∀ (s : State) (id : Nat) (c : Crew), Runs s id c → Ready c (.voteBallot f) f →
      ∃ d, exec (.voteBallot f) s = .next (After s id d) ∧ Passed c d f ∧
        d.mget f.dst.toNat = bitsWhere (fun l => c.isActive l && ballotBit c f l) ∧ d.k = c.k ∧
        ∀ l < 32, pushed d l = (bitsWhere (fun l => c.isActive l && ballotBit c f l)).setWidth 64)

/-- R133, R134: `lred` combines the lanes pair by pair in its fixed order, `lscan` gives the sums up to each lane, or with x[0]
those below it, a NaN quieted (R97); inactive lanes contribute the identity, and the flags are those of every combination. -/
def Sys2Proof.Stated.Reductions : Prop :=
  ∀ f : Form, Reduces f →
    (∀ (s : State) (id : Nat) (c : Crew), Runs s id c → Ready c (.lred f) f →
      ∃ d p, exec (.lred f) s = .next (After s id d) ∧ Passed c d f ∧ Steps c f treePairs p ∧ StepFlags c d f treePairs p ∧
        d.kget f.dst.toNat = (if f.nd then p 5 0 else c.kget f.dst.toNat) ∧ ∀ l < 32, pushed d l = p 5 0) ∧
    ∀ (s : State) (id : Nat) (c : Crew), Runs s id c → Ready c (.lscan f) f →
      ∃ d r p, exec (.lscan f) s = .next (After s id d) ∧ Passed c d f ∧ LaneResult c d f (regsOf f.ty) r ∧
        Steps c f scanPairs p ∧ StepFlags c d f scanPairs p ∧
        ∀ l < 32, c.isActive l = true →
          r l = if f.xBit 0 then (if l = 0 then neutral f.ty f.hi else scanned f.ty (p 5 (l - 1))) else scanned f.ty (p 5 l)

/-- R135: `mspl` gives the lowest active lane with the same key, their number, and the lane's rank among them. -/
def Sys2Proof.Stated.KeyRanks : Prop :=
  ∀ f : Form, LanesHave (.mspl f) f 1 (fun c l v =>
    let same (j : Nat) : Bool := c.isActive j && c.src32 f 0 f.a j == c.src32 f 0 f.a l
    ∃ lead, lead ≤ l ∧ same lead = true ∧ (∀ j < lead, same j = false) ∧
      v = BitVec.ofNat 64 (2 ^ 16 * lead + 2 ^ 8 * (List.range 32).countP same + (List.range l).countP same))

/-- R136, R137: the words that work on masks. -/
def Sys2Proof.Stated.MaskWords : Prop :=
  ∀ f : Form,
    (f.dst.toNat ≤ 7 →
      MasksAre (.mskIf f) f (fun c => bitsWhere (fun l => c.isActive l && decide (c.src32 f 0 f.a l ≠ 0)))
        (fun c r => if r = f.dst.toNat then c.em else c.mget r) ∧
      MasksAre (.mskIfM f) f (fun c => c.em &&& c.maskSrc f.a) (fun c r => if r = f.dst.toNat then c.em else c.mget r)) ∧
    MasksAre (.mskElse f) f (fun c => c.maskSrc f.a &&& ~~~c.em) (fun c r => c.mget r) ∧
    MasksAre (.mskEnd f) f (fun c => c.maskSrc f.a) (fun c r => c.mget r) ∧
    (∀ p ∈ ([(.mand, fun c => c.maskSrc f.a &&& c.maskSrc f.b), (.mor, fun c => c.maskSrc f.a ||| c.maskSrc f.b),
        (.mxor, fun c => c.maskSrc f.a ^^^ c.maskSrc f.b), (.mnot, fun c => ~~~c.maskSrc f.a), (.mmovMask, fun c => c.maskSrc f.a),
        (.mmovFromUniform, fun c => lowWord (c.uni f 0 f.a))] : List ((Form → Instr) × (Crew → Word))),
      f.nd = true → f.dst.toNat ≤ 8 →
      MasksAre (p.1 f) f (fun c => if f.dst.toNat = 8 then p.2 c else c.em) (fun c r => if r = f.dst.toNat then p.2 c else c.mget r)) ∧
    UniformWord (.mcnt f) f (fun c => BitVec.ofNat 64 ((List.range 32).countP (c.maskSrc f.a).getLsbD)) ∧
    ∀ (s : State) (id : Nat) (c : Crew), Runs s id c → Ready c (.mmovToUniform f) f →
      ∃ d, exec (.mmovToUniform f) s = .next (After s id d) ∧ Passed c d f ∧ d.hist = c.hist ∧ d.em = c.em ∧ d.m = c.m ∧
        d.kget f.dst.toNat = if f.nd then (c.maskSrc f.a).setWidth 64 else c.kget f.dst.toNat

/-- R80, R127, R129: the flags that the packed words of floats raise, those of both halves; the integer ones raise none. -/
def Sys2Proof.Stated.PackedFlags : Prop :=
  ∀ p ∈ ([(.hadd2, fun _ F a b _ r => sumFlags F a b r), (.hsub2, fun _ F a b _ r => differenceFlags F a b r),
      (.hmul2, fun _ F a b _ r => productFlags F a b r), (.hmin2, fun _ F a b _ _ => invalidIf (signals F a || signals F b)),
      (.hmax2, fun _ F a b _ _ => invalidIf (signals F a || signals F b)), (.hfma2, fun _ F a b c r => fusedFlags F a b c r),
      (.bfma2, fun _ F a b c r => fusedFlags F a b c r), (.hcmp2, fun f F a b _ _ => compareFlags F f.hi a b)] :
        List ((Form → Instr) × (Form → Nat × Nat → Nat → Nat → Nat → Nat → FFlags))), ∀ f : Form,
    ((f.ty = 9 ∨ f.ty = 10) → LanesRaise (p.1 f) f (fun c l r x =>
      let g (h : Nat) : FFlags := p.2 f (fieldsOf f.ty) (halfOf c f f.a l h).toNat (halfOf c f f.b l h).toNat
        (halfOf c f f.c l h).toNat (r / 2 ^ (16 * h) % 2 ^ 16)
      x = g 0 ||| g 1)) ∧
    ((f.ty = 4 ∨ f.ty = 5) → LanesRaise (p.1 f) f (fun _ _ _ x => x = 0))

/-- R127 to R129: the packed words, half by half. -/
def Sys2Proof.Stated.PackedWords : Prop :=
  PackedInts .hadd2 (fun a b => a + b) ∧ PackedInts .hsub2 (fun a b => a - b) ∧ PackedInts .hmul2 (fun a b => a * b) ∧
  PackedInts .hmin2 min ∧ PackedInts .hmax2 max ∧
  PackedFloats .hadd2 (fun F a b _ => SumIs F a b) ∧ PackedFloats .hsub2 (fun F a b _ => DifferenceIs F a b) ∧
  PackedFloats .hmul2 (fun F a b _ => ProductIs F a b) ∧ PackedFloats .hmin2 (fun F a b _ r => r = pick F false a b) ∧
  PackedFloats .hmax2 (fun F a b _ r => r = pick F true a b) ∧ PackedFloats .hfma2 FusedIs ∧ PackedFloats .bfma2 FusedIs ∧
  PackedWord .hcmp2 (fun ty => ty = 4 ∨ ty = 5 ∨ ty = 9 ∨ ty = 10) (fun f a b _ r =>
    (4 ≤ f.ty → f.ty ≤ 5 → f.hi < 3 → r = if (match f.hi with
        | 0 => decide (halfNum f.ty a = halfNum f.ty b)
        | 1 => decide (halfNum f.ty a < halfNum f.ty b)
        | _ => decide (halfNum f.ty a ≤ halfNum f.ty b)) != f.xBit 0 then 0xFFFF else 0) ∧
    (9 ≤ f.ty → r = if fcond (fieldsOf f.ty) f.hi a.toNat b.toNat != f.xBit 0 then 0xFFFF else 0)) ∧
  ∀ f : Form, f.ty = 4 ∨ f.ty = 5 → LanesHave (.acs2 f) f 1 (fun c l v =>
    let lo := selected f (halfOf c f f.a l 0) (halfOf c f f.b l 0) (halfOf c f f.c l 0) (halfOf c f f.c l 1)
    let hi := selected f (halfOf c f f.a l 1) (halfOf c f f.b l 1) (halfOf c f f.c l 1) (halfOf c f f.c l 0)
    v = BitVec.ofNat 64 (lo.1.toNat + 2 ^ 16 * hi.1.toNat + (if lo.2 then 2 ^ 32 else 0) + (if hi.2 then 2 ^ 33 else 0)))

/-- R138, R140 to R142: compares, searches and hashes of segments. That `scmp`, `sfnd` and `shash` widen an immediate without a
sign is the model's choice (log entry 84). -/
def Sys2Proof.Stated.StringsAndHashes : Prop :=
  ∀ f : Form,
    (∀ q r : BitVec 8, f.a.src = .v q → f.b.src = .v r → LanesHave (.scmp f) f 1 (fun c l v =>
      let fold (x : Byte) : Byte := if f.m4 = true ∧ 0x41 ≤ x.toNat ∧ x.toNat ≤ 0x5A then x + 0x20 else x
      let n := (c.src32 f 0 f.c l).toNat
      v = BitVec.ofNat 64 (compared (fun k => fold (segByte c q l k)) (fun k => fold (segByte c r l k)) (lengthOf n)
        (lengthOf (n / 256))))) ∧
    (∀ q : BitVec 8, f.a.src = .v q → LanesHave (.sfnd f) f 1 (fun c l v =>
      let len := lengthOf (c.src32 f 0 f.c l).toNat
      let hit (k : Nat) : Bool := (List.range (f.hi + 1)).any (fun j => segByte c q l k == (c.src32 f 0 f.b l).extractLsb' (8 * j) 8)
      v = match (List.range len).find? hit with
        | some k => BitVec.ofNat 64 (k + 2 ^ 8)
        | none => BitVec.ofNat 64 len)) ∧
    (∀ q : BitVec 8, f.a.src = .v q → LanesHave (.shash f) f 1 (fun c l v =>
      v = (hashed (segByte c q l) (lengthOf (c.src32 f 0 f.c l).toNat) (c.src32 f 0 f.b l)).setWidth 64))

/-- R143, R144: `hmix` gives each active lane its mixed value, and `part` the bucket floor(a × b / 2^32), which lies below b for
b ≥ 1, is 0 for b = 0, and for b = 2^k is the top k bits of a. -/
def Obligations.HashesAndBuckets : Prop :=
  ∀ f : Form,
    LanesHave (.hmix f) f 1 (fun c l v => v = (mixed (c.src32 f 0 f.a l)).setWidth 64) ∧
    LanesHave (.part f) f 1 (fun c l v =>
      let a := (c.src32 f 0 f.a l).toNat
      let b := (c.src32 f 0 f.b l).toNat
      v.toNat = a * b / 2 ^ 32 ∧ (1 ≤ b → v.toNat ≤ b - 1) ∧ (b = 0 → v = 0) ∧ ∀ k < 32, b = 2 ^ k → v.toNat = a / 2 ^ (32 - k))

/-- R78, R79, R81, R82, R83 to R87, R89, R90, R99: the values of the float words: sums, products and fused products rounded to
nearest, smallest and largest, clamping, rounding to integers, roots, scaling, classes, compares and conversions, special values
included. -/
def Sys2Proof.Stated.FloatRounding : Prop :=
  FloatWord .fadd (fun F a b _ => SumIs F a b) ∧ FloatWord .fsub (fun F a b _ => DifferenceIs F a b) ∧
  FloatWord .fmul (fun F a b _ => ProductIs F a b) ∧ FloatWord .ffma FusedIs ∧
  FloatWord .fmin (fun F a b _ r => r = pick F false a b) ∧ FloatWord .fmax (fun F a b _ r => r = pick F true a b) ∧
  (∀ f : Form, (f.ty = 8 ∨ f.ty = 9 ∨ f.ty = 10) → f.m5 = false →
    LanesHave (.fclamp f) f 1 (fun c l v =>
      let F := fieldsOf f.ty
      let a := fbitsAt c f f.ty f.a l
      v.toNat = if fisNan F a then fquiet F a else pick F false (pick F true a (fbitsAt c f f.ty f.b l)) (fbitsAt c f f.ty f.c l)) ∧
    (f.x.toNat % 8 < 5 → LanesHave (.frnd f) f 1 (fun c l v =>
      RoundedIs (fieldsOf f.ty) (f.x.toNat % 8) (fbitsAt c f f.ty f.a l) v.toNat)) ∧
    LanesHave (.fcls f) f 1 (fun c l v => v.toNat = 2 ^ classOf (fieldsOf f.ty) (fbitsAt c f f.ty f.a l))) ∧
  (∀ f : Form, (f.ty = 8 ∨ f.ty = 9 ∨ f.ty = 10) → MaskWord (.fcmp f) f (fun c l =>
    fcond (fieldsOf f.ty) f.hi (fbitsAt c f f.ty f.a l) (fbitsAt c f f.ty f.b l) != f.xBit 0)) ∧
  (∀ f : Form, LanesHave (.fsqrt f) f 1 (fun c l v => RootIs (fbitsAt c f 8 f.a l) v.toNat) ∧
    LanesHave (.fscl f) f 1 (fun c l v => ScaledIs (fbitsAt c f 8 f.a l) (c.src32 f 1 f.b l).toInt v.toNat)) ∧
  ∀ f : Form, f.x.toNat % 8 < 5 →
    (∀ p ∈ floatPairs, f.modN = p.1 → LanesHave (.cvt f) f 1 (fun c l v =>
      ConvertedIs (fieldsOf p.2.2) (fieldsOf p.2.1) (f.x.toNat % 8) (fbitsAt c f p.2.2 f.a l) v.toNat)) ∧
    (∀ p ∈ fromPairs, f.modN = p.1 → LanesHave (.cvt f) f 1 (fun c l v =>
      let x : DWord := if p.2.2.1 = 64 then c.src64 f p.2.2.2.2 f.a l else (c.src32 f p.2.2.2.2 f.a l).setWidth 64
      let n : Int := if p.2.2.2.1 then (x.setWidth p.2.2.1).toInt else x.toNat
      RoundsTo (fieldsOf p.2.1) (f.x.toNat % 8) (n * 2 ^ unitExp (fieldsOf p.2.1)) 0 false v.toNat)) ∧
    ∀ p ∈ intoPairs, f.modN = p.1 → LanesHave (.cvt f) f (if p.2.1 = 64 then 2 else 1) (fun c l v =>
      let lo : Int := if p.2.2.1 then -2 ^ (p.2.1 - 1) else 0
      let hi : Int := if p.2.2.1 then 2 ^ (p.2.1 - 1) - 1 else 2 ^ p.2.1 - 1
      ∃ i, TruncatedIs (fieldsOf p.2.2.2) (f.x.toNat % 8) lo hi (fbitsAt c f p.2.2.2 f.a l) i ∧
        v = if p.2.1 = 64 then BitVec.ofInt 64 i else (BitVec.ofInt 32 i).setWidth 64)

/-- The values of the words that work across lanes, on masks, on packed pairs and on strings (R127 to R137, R140 to R142), and those of
the floating-point words, rounding included (R78, R79, R81 to R87, R89, R90, R97, R99), with the flags of the reductions and the packed words (R80). That the immediates of `scmp`, `sfnd`, `shash` and
`mmov` have zeros above them is the model's choice (log entry 84). -/
def Obligations.LaneValues : Prop := PermAndVotes ∧ Reductions ∧ KeyRanks ∧ MaskWords ∧ PackedWords ∧ PackedFlags ∧ StringsAndHashes ∧ FloatRounding

/-- R88: both parts that `fxtr` extracts, with their flags. -/
def Sys2Proof.Stated.FloatParts : Prop :=
  ∀ f : Form,
    LanesHave (.fxtr f) f 1 (fun c l v => v.toNat < 2 ^ 32 ∧ ∃ x, ExtractedIs f.m4 (c.src32 f 8 f.a l).toNat v.toNat x) ∧
    LanesRaise (.fxtr f) f (fun c l r x => ExtractedIs f.m4 (c.src32 f 8 f.a l).toNat r x)

/-- R79, R80, R82, R83, R85 to R87, R90: the flags that each float word raises, per-lane and uniform: the invalid cases, and those of
rounding. Underflow looks at the value rounded with an unbounded exponent. -/
def Sys2Proof.Stated.FloatFlags : Prop :=
  FloatRaises .fadd (fun _ F a b _ r => sumFlags F a b r) ∧ FloatRaises .fsub (fun _ F a b _ r => differenceFlags F a b r) ∧
  FloatRaises .fmul (fun _ F a b _ r => productFlags F a b r) ∧ FloatRaises .ffma (fun _ F a b c r => fusedFlags F a b c r) ∧
  FloatRaises .fmin (fun _ F a b _ _ => invalidIf (signals F a || signals F b)) ∧
  FloatRaises .fmax (fun _ F a b _ _ => invalidIf (signals F a || signals F b)) ∧
  FloatRaises .fneg (fun _ _ _ _ _ _ => 0) ∧ FloatRaises .fabs (fun _ _ _ _ _ _ => 0) ∧
  FloatRaises .fclamp (fun _ F a b c _ => invalidIf (signals F a || signals F b || signals F c)) ∧
  FloatRaises .frnd (fun _ F a _ _ _ => invalidIf (signals F a)) ∧
  (∀ f : Form, (f.ty = 8 ∨ f.ty = 9 ∨ f.ty = 10) → LanesRaise (.fcmp f) f (fun c l _ x =>
    x = compareFlags (fieldsOf f.ty) f.hi (fbitsAt c f f.ty f.a l) (fbitsAt c f f.ty f.b l))) ∧
  (∀ f : Form,
    LanesRaise (.fsqrt f) f (fun c l r x =>
      let F := (8, 23)
      let a := fbitsAt c f 8 f.a l
      x = if fisNan F a then invalidIf (signals F a)
        else if fmag F a = 0 then 0
        else if fneg F a then flagNv
        else if fisInf F a = true ∨ fint F r ^ 2 = fint F a * 2 ^ unitExp F then 0
        else flagNx) ∧
    LanesRaise (.fscl f) f (fun c l r x =>
      let F := (8, 23)
      let a := fbitsAt c f 8 f.a l
      let n := (c.src32 f 1 f.b l).toInt
      x = if fisNan F a then invalidIf (signals F a)
        else if fisInf F a = true ∨ fmag F a = 0 then 0
        else roundFlags F 0 (fint F a * 2 ^ n.toNat) (-n).toNat r)) ∧
  ∀ f : Form, f.x.toNat % 8 < 5 →
    (∀ p ∈ floatPairs, f.modN = p.1 → LanesRaise (.cvt f) f (fun c l r x =>
      x = convertFlags (fieldsOf p.2.2) (fieldsOf p.2.1) (f.x.toNat % 8) (fbitsAt c f p.2.2 f.a l) r)) ∧
    (∀ p ∈ fromPairs, f.modN = p.1 → LanesRaise (.cvt f) f (fun c l r x =>
      let w : DWord := if p.2.2.1 = 64 then c.src64 f p.2.2.2.2 f.a l else (c.src32 f p.2.2.2.2 f.a l).setWidth 64
      let n : Int := if p.2.2.2.1 then (w.setWidth p.2.2.1).toInt else w.toNat
      x = roundFlags (fieldsOf p.2.1) (f.x.toNat % 8) (n * 2 ^ unitExp (fieldsOf p.2.1)) 0 r)) ∧
    ∀ p ∈ intoPairs, f.modN = p.1 → LanesRaise (.cvt f) f (fun c l _ x =>
      let lo : Int := if p.2.2.1 then -2 ^ (p.2.1 - 1) else 0
      let hi : Int := if p.2.2.1 then 2 ^ (p.2.1 - 1) - 1 else 2 ^ p.2.1 - 1
      TruncateFlags (fieldsOf p.2.2.2) (f.x.toNat % 8) lo hi (fbitsAt c f p.2.2.2 f.a l) x)

/-- R79 to R83, R85 to R88, R90: sign operations, the first NaN, the special arguments of the approximate units, the parts that `fxtr`
extracts, and the flags that every float word raises. -/
def Obligations.FloatValues : Prop := FloatSign ∧ FloatFirstNan ∧ UnitSpecialCases ∧ FloatParts ∧ FloatFlags

/-- R79, R86: the approximate units, at every argument and for every value of the free values: the results, in the named destination
and in the history, with their bounds, and exactly the flags that R86 lists. Of `fexpf` and `flog2` the bounds are stated up to
the accuracy, 2^−150 and 2^−90, to which the model computes the exact value (its own figure, log entry 2). -/
def Obligations.UnitBounds : Prop :=
  ∀ f : Form, UnitLanes (.frcp f) f ReciprocalIs ∧ UnitLanes (.frsq f) f InverseRootIs ∧ UnitLanes (.fexpf f) f PowerIs ∧
    UnitLanes (.flog2 f) f LogarithmIs

namespace Sys2Proof.Stated

open Sys2Proof Sys2Proof.Machine

/-! ### The matrix array (R170, R171, R173, R192 to R206)

An exact value is a kind (0 a number, 1 an infinity, 2 a NaN), a sign and a magnitude m / 2^u. -/

abbrev Exact : Type := Nat × Bool × Nat × Nat

/-- The exact product of two values (R199): 0 × ∞ is a NaN. -/
def times (a b : Exact) : Exact :=
  if a.1 = 2 ∨ b.1 = 2 then (2, false, 0, 0)
  else if a.1 = 1 ∨ b.1 = 1 then
    if (a.1 = 0 ∧ a.2.2.1 = 0) ∨ (b.1 = 0 ∧ b.2.2.1 = 0) then (2, false, 0, 0) else (1, a.2.1 != b.2.1, 0, 0)
  else (0, a.2.1 != b.2.1, a.2.2.1 * b.2.2.1, a.2.2.2 + b.2.2.2)

def minus (a : Exact) : Exact := (a.1, !a.2.1, a.2.2)

/-- Exponent and fraction bits of the floating-point elements (R95, R192). -/
def elementFields : Nat → Nat × Nat
  | 0 => (8, 23)
  | 1 => (8, 7)
  | 2 => (5, 10)
  | 3 => (4, 3)
  | 4 => (5, 2)
  | 5 => (3, 2)
  | 6 => (2, 3)
  | 9 => (4, 3)
  | _ => (2, 1)

/-- The value of an element code of a real format (R192 to R194): E5M2 reads its subnormal codes as zeros. -/
def element (fmt c : Nat) : Exact :=
  let whole (i : Int) : Exact := (0, decide (i < 0), i.natAbs, 0)
  let F := elementFields fmt
  if fmt = 10 then whole (BitVec.ofNat 8 c).toInt
  else if fmt = 11 then whole c
  else if fmt = 12 then whole (BitVec.ofNat 4 c).toInt
  else if (fmt ≤ 2 ∨ fmt = 4) ∧ fisNan F c = true then (2, false, 0, 0)
  else if (fmt ≤ 2 ∨ fmt = 4) ∧ fisInf F c = true then (1, fneg F c, 0, 0)
  else if (fmt = 3 ∨ fmt = 9) ∧ fmag F c = 127 then (2, false, 0, 0)
  else if fmt = 4 ∧ fmag F c < 4 then (0, fneg F c, 0, 0)
  else (0, fneg F c, (fint F c).natAbs, unitExp F)

/-- Scales (R195): E3M5, E8M0 and the band. -/
def scaleE3m5 (c : Nat) : Exact := (0, false, if c / 32 = 0 then 0 else (32 + c % 32) * 2 ^ (c / 32), 8)
def scaleE8m0 (c : Nat) : Exact := if c = 255 then (2, false, 0, 0) else (0, false, 2 ^ c, 127)
def scaleBand (w : Nat) : Exact :=
  (0, w.testBit 19, if w / 2 ^ 11 % 256 = 0 then 0 else (2048 + w % 2048) * 2 ^ (w / 2 ^ 11 % 256), 138)
def blockScale (fmt c : Nat) : Exact := if fmt = 8 then scaleE8m0 c else scaleE3m5 c
def oneExact : Exact := (0, false, 1, 0)

/-- group_sum (R197 to R199, R201): the terms are aligned below the greatest, each cut toward −∞ at 48 places, with a sticky part
two places below, and the sum is rounded once. -/
def GroupIs (c : Nat) (terms : List Exact) (r : Nat) : Prop :=
  let F := (8, 23)
  let all := element 0 c :: terms
  let U := all.foldl (fun n t => max n t.2.2.2) 0
  let size (t : Exact) : Nat := t.2.2.1 * 2 ^ (U - t.2.2.2)
  let top := all.foldl (fun n t => max n (size t).log2) 0
  let wide (t : Exact) : Int := (if t.2.1 then -(size t : Int) else size t) * 2 ^ 48
  let sum := (all.map (fun t => wide t / 2 ^ top)).sum
  let sticky : Int := if all.any (fun t => decide (wide t % 2 ^ top ≠ 0)) then 1 else 0
  if fisNan F c then r = fquiet F c
  else if terms.any (fun t => t.1 == 2) then r = fnan F
  else if all.any (fun t => t.1 == 1 && t.2.1) then
    r = if all.any (fun t => t.1 == 1 && !t.2.1) then fnan F else fsign F true (finf F)
  else if all.any (fun t => t.1 == 1) then r = finf F
  else if all.all (fun t => t.2.2.1 == 0) then r = fsign F (all.all (fun t => t.2.1)) 0
  else RoundsTo F 0 ((4 * sum + sticky) * 2 ^ (top + 149)) (U + 50) false r

/-- Width of an element, block size, elements of a dense row and present elements of 64 (R170, R171, R173). -/
def elementBits : Nat → Nat
  | 0 => 32 | 1 => 16 | 2 => 16 | 5 => 6 | 6 => 6 | 7 => 4 | 8 => 4 | 12 => 4 | 13 => 32 | 14 => 32 | 15 => 16 | _ => 8
def blockOf : Nat → Nat
  | 7 => 8 | 8 => 32 | 9 => 16 | _ => 0
def denseRow : Nat → Nat
  | 0 => 32 | 1 => 64 | 2 => 64 | 5 => 256 | 6 => 256 | 7 => 256 | 8 => 256 | 12 => 256 | 13 => 32 | 14 => 32 | 15 => 64 | _ => 128
def presentOf (spars : Nat) : Nat := if spars = 1 then 32 else if spars = 2 then 16 else 64
def up64 (n : Nat) : Nat := (n + 63) / 64 * 64

/-- Where the bands, the scales and the elements of a weight image begin, and its present elements a column (R171). -/
def presentWeights (p : Plane) : Nat := p.kl * presentOf p.spars / 64
def bandsAt (p : Plane) : Nat := up64 (if p.spars = 0 then 0 else 8 * (64 * (p.kl / 64)))
def scalesAt (p : Plane) : Nat := up64 (bandsAt p + if p.fmt = 7 then 4 * ((p.kl + 63) / 64) else 0)
def elementsAt (p : Plane) : Nat := up64 (scalesAt p + if blockOf p.fmt = 0 then 0 else 64 * (presentWeights p / blockOf p.fmt))

/-- A logical K of a column is present: its bit of the mask of its group (R171). -/
def isPresent (p : Plane) (n k : Nat) : Bool :=
  p.spars == 0 || (p.image.getD (8 * (n * (p.kl / 64) + k / 64) + k % 64 / 8) 0).getLsbD (k % 8)

/-- How many are present below it. -/
def rankOf (p : Plane) (n k : Nat) : Nat := ((List.range k).filter (isPresent p n)).length

/-- The code of a column's e-th element. -/
def weightCode (p : Plane) (n e : Nat) : Nat :=
  let w := elementBits p.fmt
  leNat ((p.image.drop (elementsAt p + n * (presentWeights p * w / 8))).take (presentWeights p * w / 8)) / 2 ^ (w * e) % 2 ^ w

/-- The exact weight at a present K of a column: element × block scale × band (R196). -/
def weight (p : Plane) (n k : Nat) : Exact :=
  let e := rankOf p n k
  let b := blockOf p.fmt
  times (times (element p.fmt (weightCode p n e))
    (if b = 0 then oneExact else blockScale p.fmt (p.image.getD (scalesAt p + n * (presentWeights p / b) + e / b) 0).toNat))
    (if p.fmt = 7 then scaleBand (leNat ((p.image.drop (bandsAt p + 4 * (k / 64))).take 4)) else oneExact)

/-- The exact activation at a K of a row: its code in the row, and its scales in the scale row (R173, R196). -/
def activation (fmt kg : Nat) (row scales : List Byte) (k : Nat) : Exact :=
  let w := elementBits fmt
  let b := blockOf fmt
  let first := if fmt = 7 then 4 * (kg / 64) else 0
  times (element fmt (leNat row / 2 ^ (w * k) % 2 ^ w))
    (times (if b = 0 then oneExact else blockScale fmt (scales.getD (first + k / b) 0).toNat)
      (if fmt = 7 then scaleBand (leNat ((scales.drop (4 * (k / 64))).take 4)) else oneExact))

/-- Bytes of a scale row (R173). -/
def scaleRow (fmt kg : Nat) : Nat :=
  ((if fmt = 7 then 4 * (kg / 64) else 0) + (if blockOf fmt = 0 then 0 else kg / blockOf fmt) + 15) / 16 * 16

/-- A row's terms in a column of a real plane. -/
def realTerms (p : Plane) (af kg : Nat) (row scales : List Byte) (n : Nat) : List Exact :=
  ((List.range kg).filter (isPresent p n)).map (fun k => times (weight p n k) (activation af kg row scales k))

/-- The real and the imaginary part of a complex element: its low and its high half (R194). -/
def partsOf (fmt c : Nat) : Exact × Exact :=
  let w := elementBits fmt / 2
  let part := if fmt = 13 then 2 else if fmt = 14 then 1 else 3
  (element part (c % 2 ^ w), element part (c / 2 ^ w))

/-- A row's terms for the real and for the imaginary component in a column of a complex plane (R202). -/
def complexTerms (p : Plane) (kg : Nat) (row : List Byte) (n : Nat) (imag : Bool) : List Exact :=
  let w := elementBits p.fmt
  ((List.range kg).map (fun k =>
    let a := partsOf p.fmt (weightCode p n k)
    let b := partsOf p.fmt (leNat row / 2 ^ (w * k) % 2 ^ w)
    if imag then [times a.1 b.2, times a.2 b.1] else [times a.1 b.1, minus (times a.2 b.2)])).flatten

/-- The pairings of R174 for `mma`. -/
def Pairs (wf af : Nat) : Prop :=
  (wf ≤ 2 ∧ wf = af) ∨ (3 ≤ wf ∧ wf ≤ 9 ∧ 3 ≤ af ∧ af ≤ 9) ∨ (10 ≤ wf ∧ wf ≤ 12 ∧ 10 ≤ af ∧ af ≤ 12)

/-- The active plane fits a stream of a format (R174, R175): it is loaded as `ldw` loads one, with whole blocks and as many
elements a column as its sparsity says. -/
def PlaneFits (p : Plane) (af kg : Nat) : Prop :=
  p.loaded = true ∧ kg = denseRow af * 64 / presentOf p.spars ∧ kg = p.kl ∧
  (blockOf p.fmt ≠ 0 → presentWeights p % blockOf p.fmt = 0) ∧ ∀ n < 64, rankOf p n kg ≤ presentWeights p

/-- A started job, one way or the other: of the crews nothing has changed but that a crew's job has its entry of the table
(R220, log entry 106). -/
def JobRan (s t : State) (ck id : Nat) (x : Option Cause) : Prop :=
  (jobAt t ck id).started = true ∧ (jobAt t ck id).fault = x ∧ t.crews = (s.enterTable (jobAt s ck id)).crews ∧
  (t.core ck).active = (s.core ck).active

/-! ### The quantiser (R203 to R206) -/

/-- The greatest positive code of an element, its sign bit, and the magnitude of a code in units of 2^−u. -/
def topCode (fmt : Nat) : Nat := if fmt = 9 then 0x7E else 7
def codeSize (fmt c : Nat) : Nat := (element fmt c).2.2.1
def codeUnit (fmt : Nat) : Nat := if fmt = 9 then 9 else 1

/-- The code of a value at a total scale (R204, R206): nearest, a tie to the even code, or by the draw; the value is in f32 bits,
`draw` is r[31:16]. -/
def CodeIs (fmt : Nat) (total : Exact) (bits : Nat) (draw : Option Nat) (code : Nat) : Prop :=
  let F := (8, 23)
  let x := (fint F bits).natAbs * 2 ^ (codeUnit fmt + total.2.2.2)
  let at_ (c : Nat) : Nat := codeSize fmt c * total.2.2.1 * 2 ^ 149
  let signed (neg : Bool) (c : Nat) : Nat := if neg then (if fmt = 9 then 0x80 else 8) + c else c
  if fisNan F bits then code = if fmt = 9 then signed (fneg F bits) 0x7F else 0
  else if fisInf F bits then code = signed (fneg F bits) (topCode fmt)
  else ∃ c ≤ topCode fmt,
    code = signed (if c = 0 then fneg F bits else fneg F bits != total.2.1) c ∧
    match draw with
    | none => ∀ d ≤ topCode fmt, ((x : Int) - at_ c).natAbs ≤ ((x : Int) - at_ d).natAbs ∧
        (((x : Int) - at_ c).natAbs = ((x : Int) - at_ d).natAbs → d ≠ c → c % 2 = 0)
    | some r =>
      if at_ (topCode fmt) ≤ x then c = topCode fmt
      else ∃ i < topCode fmt, at_ i ≤ x ∧ x < at_ (i + 1) ∧
        c = if 2 ^ 16 ≤ (x - at_ i) * 2 ^ 16 / (at_ (i + 1) - at_ i) + r then i + 1 else i

/-- The error of a candidate over the finite values of a block, in units that all its candidates share (R203). -/
def blockError (fmt : Nat) (total : Exact) (cols : List Nat) (v code : Nat → Nat) : Nat :=
  (cols.map (fun n =>
    if ffin (8, 23) (v n) then
      let q := element fmt (code n)
      let y : Int := (q.2.2.1 * total.2.2.1 * 2 ^ 149 : Nat)
      (fint (8, 23) (v n) * 2 ^ (codeUnit fmt + total.2.2.2) - if q.2.1 != total.2.1 then -y else y).natAbs ^ 2
    else 0)).sum

/-- The reference scale of a block whose greatest finite magnitude is amax / 2^149 (R203). -/
def RefIs (fmt : Nat) (band : Exact) (amax ref : Nat) : Prop :=
  if fmt = 8 then (ref : Int) = max 0 (min 0xFE (127 + ((amax.log2 : Int) - 149) - 2))
  else
    let reaches (c : Nat) : Prop :=
      amax * 2 ^ (codeUnit fmt + 8 + band.2.2.2) ≤ codeSize fmt (topCode fmt) * (scaleE3m5 c).2.2.1 * band.2.2.1 * 2 ^ 149
    0x20 ≤ ref ∧ ref ≤ 0xFF ∧ (reaches ref ∨ ref = 0xFF) ∧ ∀ c, 0x20 ≤ c → c < ref → ¬ reaches c

/-- One block of a row of `qnt` (R203, R204): its scale and its codes. Of the candidates around the reference the one of least error
is kept, of two that tie the larger, of three the middle one. -/
def BlockIs (fmt : Nat) (band : Exact) (cols : List Nat) (v : Nat → Nat) (draw : Nat → Option Nat) (scale : Nat) (code : Nat → Nat) :
    Prop :=
  let F := (8, 23)
  let amax := cols.foldl (fun m n => if ffin F (v n) then max m (fint F (v n)).natAbs else m) 0
  if fmt = 8 ∧ cols.any (fun n => !ffin F (v n)) = true then scale = 0xFF ∧ ∀ n ∈ cols, code n = 0
  else if amax = 0 then scale = 0 ∧ ∀ n ∈ cols, CodeIs fmt oneExact (v n) none (code n)
  else ∃ (ref : Nat) (k : Nat → Nat → Nat), RefIs fmt band amax ref ∧
    let cands := (List.range 256).filter (fun S =>
      decide (ref ≤ S + 1 ∧ S ≤ ref + 1) && (if fmt = 8 then decide (S ≤ 0xFE) else decide (0x20 ≤ S)))
    let total (S : Nat) : Exact := times (blockScale fmt S) band
    let err (S : Nat) : Nat := blockError fmt (total S) cols v (k S)
    (∀ S ∈ cands, ∀ n ∈ cols, CodeIs fmt (total S) (v n) (draw n) (k S n)) ∧ scale ∈ cands ∧ (∀ n ∈ cols, code n = k scale n) ∧
    (∀ S ∈ cands, err scale ≤ err S) ∧
    ∀ S ∈ cands, S ≠ scale → err S = err scale →
      if cands.length = 3 ∧ (∀ T ∈ cands, err T = err scale) then scale = ref else S < scale

/-- The generator's step (R205), and after it the draw of a column (R206). -/
def stepped (g : Word) : Word :=
  let a := g ^^^ (g <<< 13)
  let b := a ^^^ (a >>> 17)
  b ^^^ (b <<< 5)
def drawOf (g : Word) (n : Nat) : Nat := (g.rotateLeft (5 * (n % 32) % 32)).toNat / 2 ^ 16

/-- The generator after some rows. -/
def steppedBy (g : Word) : Nat → Word
  | 0 => g
  | m + 1 => stepped (steppedBy g m)

end Sys2Proof.Stated

/-- R173 to R175, R192 to R202: what a stream writes as it starts, over a plane that fits it: each row's columns take the sum of
their group, with the accumulator's value or, with zc, with +0; of complex streams a row takes two rows of the accumulator. Before
a `.bfp4` scale row with a reserved band bit the stream stops: that row and those after it are not written. No other row is. -/
def Sys2Proof.Stated.StreamRows : Prop :=
  (∀ (s : State) (ck id kg g : Nat) (j : Job), s.findJob ck id = some j → j.started = false → s.jobReady ck j = true →
    s.stopping j.team = false → s.dark ck = false → j.kind = .mma →
    let p := (s.core ck).active
    let af := j.mod % 16
    let rows := j.c.toNat / 2 ^ 8 % 2 ^ 9
    let arow := j.c.toNat % 2 ^ 8
    let row (m : Nat) := (s.team j.team).win.readBytes (j.a.toNat % 2 ^ 19 + m * (kg * elementBits af / 8)) (kg * elementBits af / 8)
    let scales (m : Nat) := (s.team j.team).win.readBytes (j.b.toNat % 2 ^ 19 + m * scaleRow af kg) (scaleRow af kg)
    let good (m : Nat) : Prop := af = 7 → ∀ b < kg / 64, leNat (((scales m).drop (4 * b)).take 4) < 2 ^ 20
    PlaneFits p af kg → Pairs p.fmt af → g ≤ rows → (∀ m < g, good m) → (g = rows ∨ ¬ good g) →
    ∃ t, exec (.jobStart ck id) s = .next t ∧ JobRan s t ck id (if g = rows then none else some { mkCause 0x0C 0 j.addr with org := 1 }) ∧
      (∀ m < g, ∀ n < 64, GroupIs (if j.c.toNat.testBit 17 then 0 else accGet (s.core ck).acc (arow + m) n)
        (realTerms p af kg (row m) (scales m) n) (accGet (t.core ck).acc (arow + m) n)) ∧
      ∀ r, ∀ n < 64, r < arow ∨ arow + g ≤ r → accGet (t.core ck).acc r n = accGet (s.core ck).acc r n) ∧
  ∀ (s : State) (ck id kg : Nat) (j : Job), s.findJob ck id = some j → j.started = false → s.jobReady ck j = true →
    s.stopping j.team = false → s.dark ck = false → j.kind = .mmaC →
    let p := (s.core ck).active
    let rows := j.c.toNat / 2 ^ 8 % 2 ^ 9
    let arow := j.c.toNat % 2 ^ 8
    let row (m : Nat) := (s.team j.team).win.readBytes (j.a.toNat % 2 ^ 19 + m * (kg * elementBits p.fmt / 8)) (kg * elementBits p.fmt / 8)
    PlaneFits p p.fmt kg → p.spars = 0 → 13 ≤ p.fmt → p.fmt ≤ 15 → j.mod % 16 = p.fmt →
    ∃ t, exec (.jobStart ck id) s = .next t ∧ JobRan s t ck id none ∧
      (∀ m < rows, ∀ n < 64, ∀ imag : Bool,
        let r := arow + 2 * m + if imag then 1 else 0
        GroupIs (if j.c.toNat.testBit 17 then 0 else accGet (s.core ck).acc r n) (complexTerms p kg (row m) n imag)
          (accGet (t.core ck).acc r n)) ∧
      ∀ r, ∀ n < 64, r < arow ∨ arow + 2 * rows ≤ r → accGet (t.core ck).acc r n = accGet (s.core ck).acc r n

/-- R178, R203 to R206: what a `qnt` writes as it starts: each row's record in the window, with its elements, the scales of its
blocks and zeros, as the generator's draws round them; the generator has stepped once a row, from the seed where one is given;
with `.clr` the rows are zero afterwards. -/
def Sys2Proof.Stated.QuantisedRows : Prop :=
  ∀ (s : State) (ck id : Nat) (j : Job), s.findJob ck id = some j → j.started = false → s.jobReady ck j = true →
    s.stopping j.team = false → s.dark ck = false → j.kind = .qnt → (pfind s.teams j.team).isSome = true →
    let fmt := j.mod % 16
    let rows := j.c.toNat / 2 ^ 8 % 2 ^ 9
    let arow := j.c.toNat % 2 ^ 8
    let size := if fmt = 9 then 72 else 40
    let band := if fmt = 7 then scaleBand (j.b.toNat % 2 ^ 20) else oneExact
    let g0 : Word := if j.seed then (j.b >>> 32).setWidth 32 else (s.core ck).gen
    fmt = 7 ∨ fmt = 8 ∨ fmt = 9 → band.2.2.1 ≠ 0 →
    ∃ t, exec (.jobStart ck id) s = .next t ∧ JobRan s t ck id none ∧ (t.core ck).gen = steppedBy g0 rows ∧
      (∀ m < rows, ∃ code : Nat → Nat,
        let base := j.a.toNat % 2 ^ 19 + m * size
        (∀ n < 64, code n = if fmt = 9 then (winByte t j.team (base + n)).toNat
          else (winByte t j.team (base + n / 2)).toNat / 16 ^ (n % 2) % 16) ∧
        (∀ b < 64 / blockOf fmt, BlockIs fmt band ((List.range (blockOf fmt)).map (b * blockOf fmt + ·))
          (accGet (s.core ck).acc (arow + m)) (fun n => if j.mod.testBit 4 then some (drawOf (steppedBy g0 (m + 1)) n) else none)
          (winByte t j.team (base + (if fmt = 9 then 64 else 32) + b)).toNat code) ∧
        ∀ i, (if fmt = 9 then 64 else 32) + 64 / blockOf fmt ≤ i → i < size → winByte t j.team (base + i) = 0) ∧
      (∀ a, ¬(j.a.toNat % 2 ^ 19 ≤ a ∧ a < j.a.toNat % 2 ^ 19 + rows * size) → winByte t j.team a = winByte s j.team a) ∧
      ∀ r, ∀ n < 64, accGet (t.core ck).acc r n =
        if j.mod.testBit 5 ∧ arow ≤ r ∧ r < arow + rows then 0 else accGet (s.core ck).acc r n

/-- R173 to R175, R178, R192 to R206: the values that `mma`, `mma.c` and `qnt` write. That a job does all of it at its start is the
model's choice (log entry 85). -/
def Obligations.EngineRows : Prop := StreamRows ∧ QuantisedRows

namespace Sys2Proof.Stated

/-- A job that starts. -/
def Starts (s : State) (ck id : Nat) (j : Job) : Prop :=
  s.findJob ck id = some j ∧ j.started = false ∧ s.jobReady ck j = true ∧ s.stopping j.team = false ∧ s.dark ck = false ∧
  (pfind s.teams j.team).isSome = true

/-- Where a row of a card's block begins: word 1 and stride 4 of the source, word 2 and stride 5 of the destination (R179, R180). -/
def rowStart (j : Job) (w i : Nat) : Int := cardWord j.card w + cardStride j.card (w + 3) * i

/-- Every row of a block, n bytes each, lies in the own window. -/
def RowsInWindow (s : State) (j : Job) (w n : Nat) : Prop :=
  1 ≤ n ∧ (s.team j.team).slab ≤ 128 ∧
  ∀ i < cardRows j.card, 0 ≤ rowStart j w i ∧ rowStart j w i + n ≤ ((s.team j.team).slab * 4096 : Nat)

/-- A byte lies in a row of the destination, of n bytes each. -/
def InRow (j : Job) (n i a : Nat) : Prop := rowStart j 2 i ≤ a ∧ (a : Int) < rowStart j 2 i + n

/-- No byte lies in two rows of the destination. -/
def RowsApart (j : Job) (n : Nat) : Prop :=
  ∀ a, ∀ i < cardRows j.card, ∀ k < cardRows j.card, InRow j n i a → InRow j n k a → i = k

/-- Of a team's window nothing has changed outside the rows of the destination. -/
def RowsOnly (s t : State) (j : Job) (n : Nat) : Prop :=
  ∀ a, (∀ i < cardRows j.card, ¬InRow j n i a) → winByte t j.team a = winByte s j.team a

/-- n bytes at an address of memory lie in one line, and a team's job may access each of them, at a place of its own (R72, R305). -/
def LineReached (s : State) (j : Job) (k : Acc) (va n : Nat) (p : Loc) : Prop :=
  1 ≤ n ∧ va % 64 + n ≤ 64 ∧ p.la % 64 = va % 64 ∧ p.la + n ≤ 2 ^ 64 ∧
  let l := s.launch (s.team j.team).launch
  ∀ i < n, s.checkPlain l (s.isl l.isl).ttlb k (va + i) 1 = .ok ⟨p.la + i, p.ah⟩

/-- Element g of a bitmap in the own window is present (R180); how many are before it. -/
def bitmapHas (s : State) (j : Job) (g : Nat) : Bool := (winByte s j.team (cardWord j.card 1 + g / 8)).getLsbD (g % 8)
def presentBefore (s : State) (j : Job) (g : Nat) : Nat := ((List.range g).filter (bitmapHas s j)).length

end Sys2Proof.Stated

/-- R177: what an `amov` writes as it starts: its rows in the window, one after another, each value as it is for f32, or converted
to bf16 or f16; with `.clr` the rows are zero afterwards. -/
def Sys2Proof.Stated.AmovRows : Prop :=
  ∀ (s : State) (ck id : Nat) (j : Job), Starts s ck id j → j.kind = .amov → j.mod % 16 < 3 →
    let fmt := j.mod % 16
    let rows := j.c.toNat / 2 ^ 8 % 2 ^ 9
    let arow := j.c.toNat % 2 ^ 8
    let size := if fmt = 0 then 4 else 2
    let base := j.a.toNat % 2 ^ 19
    ∃ t, exec (.jobStart ck id) s = .next t ∧ JobRan s t ck id none ∧ (j.gate = none → t.mem = s.mem) ∧
      (∀ m < rows, ∀ n < 64,
        let x := leNat ((t.team j.team).win.readBytes (base + m * 64 * size + n * size) size)
        let v := accGet (s.core ck).acc (arow + m) n
        if fmt = 0 then x = v else ConvertedIs (8, 23) (fieldsOf (if fmt = 1 then 10 else 9)) 0 v x) ∧
      (∀ a, ¬(base ≤ a ∧ a < base + rows * 64 * size) → winByte t j.team a = winByte s j.team a) ∧
      ∀ r, ∀ n < 64, accGet (t.core ck).acc r n =
        if j.mod.testBit 4 ∧ arow ≤ r ∧ r < arow + rows then 0 else accGet (s.core ck).acc r n

/-- R180: what a `cpy` copies as it starts: within the window row by row, at any strides, where the rows of the destination meet
neither each other nor those of the source; and from one line of memory to the window or back, read and written as the core does.
Rows of memory beyond one line are not in this statement, nor are rows through handles. -/
def Sys2Proof.Stated.CopiedRows : Prop :=
  (∀ (s : State) (ck id n : Nat) (j : Job), Starts s ck id j → j.kind = .cpy → cardSk j.card = 1 → cardDk j.card = 1 →
    cardRow j.card = n → RowsInWindow s j 1 n → RowsInWindow s j 2 n → RowsApart j n →
    (∀ i < cardRows j.card, ∀ k < n, ∀ m < cardRows j.card, ¬InRow j n m ((rowStart j 1 i).toNat + k)) →
    ∃ t, exec (.jobStart ck id) s = .next t ∧ JobRan s t ck id none ∧ (j.gate = none → t.mem = s.mem) ∧
      (∀ i < cardRows j.card, ∀ k < n, winByte t j.team ((rowStart j 2 i).toNat + k) = winByte s j.team ((rowStart j 1 i).toNat + k)) ∧
      RowsOnly s t j n) ∧
  (∀ (s : State) (ck id n : Nat) (j : Job) (p : Loc), Starts s ck id j → j.kind = .cpy → cardSk j.card = 0 → cardDk j.card = 1 →
    cardRows j.card = 1 → cardRow j.card = n → j.gate = none → RowsInWindow s j 2 n → LineReached s j .read (cardWord j.card 1) n p →
    Room s ck 1 →
    ∃ t, exec (.jobStart ck id) s = .next t ∧ JobRan s t ck id none ∧ t.mem = s.mem ∧
      (∀ k < n, winByte t j.team (cardWord j.card 2 + k) = seenByte s ck ⟨p.la + k, p.ah⟩) ∧ RowsOnly s t j n) ∧
  ∀ (s : State) (ck id n : Nat) (j : Job) (p : Loc), Starts s ck id j → j.kind = .cpy → cardSk j.card = 1 → cardDk j.card = 0 →
    cardRows j.card = 1 → cardRow j.card = n → j.gate = none → RowsInWindow s j 1 n → LineReached s j .write (cardWord j.card 2) n p →
    Room s ck 2 → coreIsl ck < 36 →
    ∃ t, exec (.jobStart ck id) s = .next t ∧ JobRan s t ck id none ∧ (p.ah = false → t.mem = s.mem) ∧
      (∀ k < n, seenByte t ck ⟨p.la + k, p.ah⟩ = winByte s j.team (cardWord j.card 1 + k)) ∧
      (∀ q : Loc, q.la < 2 ^ 64 → ¬Inside p n q.la → seenByte t ck q = seenByte s ck q) ∧
      ∀ a, winByte t j.team a = winByte s j.team a

/-- R180: what a `cpyx` within the window writes as it starts: element e of row i is the next of the packed values where its bit of
the bitmap is set, and zeros elsewhere; the rows of the destination meet neither each other nor the bitmap nor the values. -/
def Sys2Proof.Stated.ExpandedRows : Prop :=
  ∀ (s : State) (ck id n : Nat) (j : Job), Starts s ck id j → j.kind = .cpyx → cardSk j.card = 1 → cardDk j.card = 1 →
    cardRow j.card = n → n % 64 = 0 → 1 ≤ n →
    let rows := cardRows j.card
    let es := cardEsize j.card
    let total := presentBefore s j (rows * n)
    let size := (s.team j.team).slab * 4096
    RowsInWindow s j 2 (n * es) → RowsApart j (n * es) → cardWord j.card 1 + rows * n / 8 ≤ size →
    (total = 0 ∨ cardWord j.card 6 + total * es ≤ size) →
    (∀ m < rows, ∀ a, InRow j (n * es) m a → ¬(cardWord j.card 1 ≤ a ∧ a < cardWord j.card 1 + rows * n / 8) ∧
      ¬(cardWord j.card 6 ≤ a ∧ a < cardWord j.card 6 + total * es)) →
    ∃ t, exec (.jobStart ck id) s = .next t ∧ JobRan s t ck id none ∧ (j.gate = none → t.mem = s.mem) ∧
      (∀ i < rows, ∀ e < n, ∀ b < es, winByte t j.team ((rowStart j 2 i).toNat + e * es + b) =
        if bitmapHas s j (i * n + e) then winByte s j.team (cardWord j.card 6 + presentBefore s j (i * n + e) * es + b) else 0) ∧
      RowsOnly s t j (n * es)

/-- R175, R177, R180, R184, R212, R218: jobs start, with the rows that `amov`, `cpy` and `cpyx` write, deliver their beats and complete.
That a job reads and writes all its bytes at its start is
the model's choice (log entry 85). -/
def Obligations.JobsRun : Prop := JobsStart ∧ AmovRows ∧ CopiedRows ∧ ExpandedRows ∧ JobsComplete
end

