-- ==== Sys2Proof/Laws/Sparse.lean ====
section
/-! SUPPORT. Sparse maps and memory: an entry after an update, and the canonical form that every memory operation keeps. -/

namespace Sys2Proof.Machine

variable {β : Type}

/-! ### Looking up after an update -/

@[simp] theorem pfind_nil (k : Nat) : pfind ([] : PMap β) k = none := rfl

@[simp] theorem pfind_pput_same (m : PMap β) (k : Nat) (v : β) : pfind (pput m k v) k = some v := by
  induction m with
  | nil => simp [pput, pfind]
  | cons e m ih =>
    obtain ⟨a, b⟩ := e
    simp only [pput]
    split
    · simp [pfind]
    · split
      · simp [pfind]
      · simp [pfind, *]

theorem pfind_pput_other (m : PMap β) {k j : Nat} (v : β) (h : j ≠ k) : pfind (pput m k v) j = pfind m j := by
  induction m with
  | nil => simp [pput, pfind, h]
  | cons e m ih =>
    obtain ⟨a, b⟩ := e
    simp only [pput]
    split
    · simp [pfind, h]
    · split
      · rename_i _ hk
        subst hk
        simp [pfind, h]
      · simp only [pfind, ih]

@[simp] theorem pget_pput_same (d : β) (m : PMap β) (k : Nat) (v : β) : pget d (pput m k v) k = v := by simp [pget]

theorem pget_pput_other (d : β) (m : PMap β) {k j : Nat} (v : β) (h : j ≠ k) : pget d (pput m k v) j = pget d m j := by
  simp [pget, pfind_pput_other m v h]

theorem pfind_filter (m : PMap β) (k j : Nat) :
    pfind (m.filter (fun e => decide (e.1 ≠ k))) j = if j = k then none else pfind m j := by
  induction m with
  | nil => simp
  | cons e m ih =>
    obtain ⟨a, b⟩ := e
    by_cases ha : a = k
    · subst ha
      simp only [ne_eq, not_true_eq_false, decide_false, Bool.false_eq_true, not_false_eq_true, List.filter_cons_of_neg, ih, pfind]
      split <;> simp_all
    · simp only [ne_eq, ha, not_false_eq_true, decide_true, List.filter_cons_of_pos, pfind, ih]
      split
      · subst_vars
        simp [ha]
      · rfl

theorem pfind_pdel (m : PMap β) (k j : Nat) : pfind (pdel m k) j = if j = k then none else pfind m j := pfind_filter m k j

@[simp] theorem pget_pset_same [DecidableEq β] (d : β) (m : PMap β) (k : Nat) (v : β) : pget d (pset d m k v) k = v := by
  by_cases h : v = d <;> simp [pget, pset, h, pfind_pdel]

theorem pget_pset_other [DecidableEq β] (d : β) (m : PMap β) {k j : Nat} (v : β) (h : j ≠ k) :
    pget d (pset d m k v) j = pget d m j := by
  by_cases hv : v = d
  · simp [pget, pset, hv, pfind_pdel, h]
  · simp [pget, pset, hv, pfind_pput_other m v h]

theorem pfind_pmod_same {m : PMap β} {k : Nat} {v : β} (g : β → β) (h : pfind m k = some v) :
    pfind (pmod m k g) k = some (g v) := by simp [pmod, h]

theorem pfind_pmod_other (m : PMap β) {k j : Nat} (g : β → β) (h : j ≠ k) : pfind (pmod m k g) j = pfind m j := by
  unfold pmod
  split
  · exact pfind_pput_other m _ h
  · rfl

theorem pput_pput (m : PMap β) (k : Nat) (v w : β) : pput (pput m k v) k w = pput m k w := by
  induction m with
  | nil => simp [pput]
  | cons e m ih =>
    obtain ⟨a, b⟩ := e
    simp only [pput]
    split
    · simp [pput]
    · split
      · simp [pput]
      · simp_all [pput]

/-! ### Rising keys -/

/-- Every key lies above a bound. -/
def pAbove (n : Nat) (m : PMap β) : Prop := ∀ e ∈ m, n < e.1

theorem pRising_cons {a : Nat} {b : β} {m : PMap β} : pRising ((a, b) :: m) = true ↔ pAbove a m ∧ pRising m = true := by
  induction m generalizing a b with
  | nil => simp [pRising, pAbove]
  | cons e m ih =>
    obtain ⟨x, y⟩ := e
    simp only [pRising, Bool.and_eq_true, decide_eq_true_eq, ih, pAbove, List.mem_cons, forall_eq_or_imp]
    constructor
    · rintro ⟨hax, hm, hr⟩
      exact ⟨⟨hax, fun e he => Nat.lt_trans hax (hm e he)⟩, hm, hr⟩
    · rintro ⟨⟨hax, _⟩, hm, hr⟩
      exact ⟨hax, hm, hr⟩

theorem mem_pput {m : PMap β} {k : Nat} {v : β} {e : Nat × β} (h : e ∈ pput m k v) : e = (k, v) ∨ e ∈ m := by
  induction m with
  | nil => simpa [pput] using h
  | cons x m ih =>
    obtain ⟨a, b⟩ := x
    simp only [pput] at h
    split at h
    · simpa using h
    · split at h
      · rcases List.mem_cons.1 h with h | h
        · exact .inl h
        · exact .inr (List.mem_cons_of_mem _ h)
      · rcases List.mem_cons.1 h with h | h
        · exact .inr (h ▸ List.mem_cons_self ..)
        · exact (ih h).imp id (List.mem_cons_of_mem _)

theorem pRising_pput {m : PMap β} (k : Nat) (v : β) (h : pRising m = true) : pRising (pput m k v) = true := by
  induction m with
  | nil => simp [pput, pRising]
  | cons e m ih =>
    obtain ⟨a, b⟩ := e
    simp only [pput]
    obtain ⟨h1, h2⟩ := pRising_cons.1 h
    split
    · rename_i hk
      refine pRising_cons.2 ⟨?_, h⟩
      intro e he
      rcases List.mem_cons.1 he with rfl | he
      · exact hk
      · exact Nat.lt_trans hk (h1 e he)
    · split
      · rename_i hk
        subst hk
        exact pRising_cons.2 ⟨h1, h2⟩
      · rename_i hk1 hk2
        refine pRising_cons.2 ⟨?_, ih h2⟩
        intro e he
        rcases mem_pput he with rfl | he
        · exact Nat.lt_of_le_of_ne (Nat.le_of_not_lt hk1) (Ne.symm hk2)
        · exact h1 e he

theorem pRising_filter {m : PMap β} (p : Nat × β → Bool) (h : pRising m = true) : pRising (m.filter p) = true := by
  induction m with
  | nil => simpa using h
  | cons e m ih =>
    obtain ⟨a, b⟩ := e
    obtain ⟨h1, h2⟩ := pRising_cons.1 h
    by_cases hp : p (a, b)
    · rw [List.filter_cons_of_pos hp]
      exact pRising_cons.2 ⟨fun e he => h1 e (List.mem_filter.1 he).1, ih h2⟩
    · rw [List.filter_cons_of_neg hp]
      exact ih h2

theorem pRising_append {m n : PMap β} {k : Nat} (hm : pRising m = true) (hn : pRising n = true)
    (h1 : ∀ e ∈ m, e.1 < k) (h2 : ∀ e ∈ n, k ≤ e.1) : pRising (m ++ n) = true := by
  induction m with
  | nil => simpa using hn
  | cons e m ih =>
    obtain ⟨a, b⟩ := e
    obtain ⟨g1, g2⟩ := pRising_cons.1 hm
    refine pRising_cons.2 ⟨?_, ih g2 (fun e he => h1 e (List.mem_cons_of_mem _ he))⟩
    intro e he
    rcases List.mem_append.1 he with he | he
    · exact g1 e he
    · exact Nat.lt_of_lt_of_le (h1 (a, b) (List.mem_cons_self ..)) (h2 e he)

/-! ### The canonical form of a map with a default -/

theorem pCanon_iff [DecidableEq β] {d : β} {m : PMap β} : pCanon d m = true ↔ pRising m = true ∧ ∀ e ∈ m, e.2 ≠ d := by
  simp [pCanon]

theorem pCanon_pset [DecidableEq β] {d : β} {m : PMap β} (k : Nat) (v : β) (h : pCanon d m = true) :
    pCanon d (pset d m k v) = true := by
  rw [pCanon_iff] at h ⊢
  unfold pset
  split
  · exact ⟨pRising_filter _ h.1, fun e he => h.2 e (List.mem_filter.1 he).1⟩
  · rename_i hv
    refine ⟨pRising_pput k v h.1, fun e he => ?_⟩
    rcases mem_pput he with rfl | he
    · exact hv
    · exact h.2 e he

theorem pCanon_filter [DecidableEq β] {d : β} {m : PMap β} (p : Nat × β → Bool) (h : pCanon d m = true) :
    pCanon d (m.filter p) = true := by
  rw [pCanon_iff] at h ⊢
  exact ⟨pRising_filter p h.1, fun e he => h.2 e (List.mem_filter.1 he).1⟩

/-! ### Memory -/

theorem Memory.wf_nil : Memory.wf [] = true := rfl

theorem Memory.wf_write {m : Memory} (a : Nat) (b : Byte) (h : m.wf = true) : (m.write a b).wf = true := pCanon_pset a b h

theorem Memory.wf_writeBytes {m : Memory} (a : Nat) (bs : List Byte) (h : m.wf = true) : (m.writeBytes a bs).wf = true := by
  induction bs generalizing m a with
  | nil => exact h
  | cons b bs ih => exact ih (a + 1) (Memory.wf_write a b h)

theorem Memory.wf_filter {m : Memory} (p : Nat × Byte → Bool) (h : m.wf = true) : Memory.wf (m.filter p) = true :=
  pCanon_filter p h

theorem byteCells_bounds (bs : List Byte) (a : Nat) : ∀ e ∈ byteCells a bs, a ≤ e.1 ∧ e.1 < a + bs.length ∧ e.2 ≠ 0 := by
  induction bs generalizing a with
  | nil => simp [byteCells]
  | cons b bs ih =>
    intro e he
    simp only [byteCells] at he
    split at he
    · have := ih (a + 1) e he
      simp only [List.length_cons]
      exact ⟨by omega, by omega, this.2.2⟩
    · rename_i hb
      rcases List.mem_cons.1 he with rfl | he
      · exact ⟨Nat.le_refl _, by simp, hb⟩
      · have := ih (a + 1) e he
        simp only [List.length_cons]
        exact ⟨by omega, by omega, this.2.2⟩

theorem pRising_byteCells (bs : List Byte) (a : Nat) : pRising (byteCells a bs) = true := by
  induction bs generalizing a with
  | nil => rfl
  | cons b bs ih =>
    simp only [byteCells]
    split
    · exact ih (a + 1)
    · exact pRising_cons.2 ⟨fun e he => (byteCells_bounds bs (a + 1) e he).1, ih (a + 1)⟩

theorem Memory.wf_splice {m : Memory} (a : Nat) (bs : List Byte) (h : m.wf = true) : (m.splice a bs).wf = true := by
  have h' := pCanon_iff.1 h
  refine pCanon_iff.2 ⟨?_, ?_⟩
  · unfold Memory.splice
    refine pRising_append (k := a + bs.length) ?_ (pRising_filter _ h'.1) ?_ ?_
    · refine pRising_append (k := a) (pRising_filter _ h'.1) (pRising_byteCells bs a) ?_ ?_
      · intro e he
        simpa using (List.mem_filter.1 he).2
      · intro e he
        exact (byteCells_bounds bs a e he).1
    · intro e he
      rcases List.mem_append.1 he with he | he
      · have := (List.mem_filter.1 he).2
        simp only [decide_eq_true_eq] at this
        omega
      · exact (byteCells_bounds bs a e he).2.1
    · intro e he
      simpa using (List.mem_filter.1 he).2
  · intro e he
    unfold Memory.splice at he
    simp only [List.mem_append, List.mem_filter] at he
    rcases he with (he | he) | he
    · exact h'.2 e he.1
    · exact (byteCells_bounds bs a e he).2.2
    · exact h'.2 e he.1

theorem Memory.mem_write {m : Memory} {a : Nat} {b : Byte} {e : Nat × Byte} (h : e ∈ m.write a b) : e = (a, b) ∨ e ∈ m := by
  unfold Memory.write pset at h
  split at h
  · exact .inr (List.mem_filter.1 h).1
  · exact mem_pput h

theorem Memory.shift_bounds (a n : Nat) (c : Memory) :
    (c.shift a n).wf = true ∧ ∀ e ∈ c.shift a n, a ≤ e.1 ∧ e.1 < a + n := by
  unfold Memory.shift
  have hc : ∀ e ∈ c.filter (fun e => decide (e.1 < n)), e.1 < n := fun e he => by simpa using (List.mem_filter.1 he).2
  revert hc
  generalize c.filter (fun e => decide (e.1 < n)) = l
  intro hc
  induction l with
  | nil => exact ⟨rfl, by simp⟩
  | cons x l ih =>
    have hx := hc x (by simp)
    have ih := ih (fun e he => hc e (List.mem_cons_of_mem _ he))
    refine ⟨Memory.wf_write _ _ ih.1, fun e he => ?_⟩
    rcases Memory.mem_write he with rfl | he
    · simp only; omega
    · exact ih.2 e he

theorem Memory.wf_place {m : Memory} (a n : Nat) (c : Memory) (h : m.wf = true) : (m.place a n c).wf = true := by
  have h' := pCanon_iff.1 h
  have hs := Memory.shift_bounds a n c
  have hw := pCanon_iff.1 hs.1
  refine pCanon_iff.2 ⟨?_, ?_⟩
  · unfold Memory.place
    refine pRising_append (k := a + n) ?_ (pRising_filter _ h'.1) ?_ ?_
    · refine pRising_append (k := a) (pRising_filter _ h'.1) hw.1 ?_ ?_
      · intro e he
        simpa using (List.mem_filter.1 he).2
      · intro e he
        exact (hs.2 e he).1
    · intro e he
      rcases List.mem_append.1 he with he | he
      · have := (List.mem_filter.1 he).2
        simp only [decide_eq_true_eq] at this
        omega
      · exact (hs.2 e he).2
    · intro e he
      simpa using (List.mem_filter.1 he).2
  · intro e he
    unfold Memory.place at he
    simp only [List.mem_append, List.mem_filter] at he
    rcases he with (he | he) | he
    · exact h'.2 e he.1
    · exact hw.2 e he
    · exact h'.2 e he.1

@[simp] theorem Memory.read_write_same (m : Memory) (a : Nat) (b : Byte) : (m.write a b).read a = b := pget_pset_same 0 m a b

theorem Memory.read_write_other (m : Memory) {a x : Nat} (b : Byte) (h : x ≠ a) : (m.write a b).read x = m.read x :=
  pget_pset_other 0 m b h

/-- A byte after a run of bytes was written: its own where it lies in the run, else the old one. -/
theorem Memory.read_writeBytes (m : Memory) (a : Nat) (bs : List Byte) (x : Nat) :
    (m.writeBytes a bs).read x = if a ≤ x ∧ x < a + bs.length then bs.getD (x - a) 0 else m.read x := by
  induction bs generalizing m a with
  | nil =>
    simp only [Memory.writeBytes, List.length_nil, Nat.add_zero]
    split
    · omega
    · rfl
  | cons b bs ih =>
    simp only [Memory.writeBytes, ih, List.length_cons]
    by_cases hx : x = a
    · subst hx
      simp [show ¬(x + 1 ≤ x ∧ x < x + 1 + bs.length) from by omega]
    · rw [Memory.read_write_other m b hx]
      by_cases hr : a + 1 ≤ x ∧ x < a + 1 + bs.length
      · obtain ⟨n, rfl⟩ : ∃ n, x = a + 1 + n := ⟨x - (a + 1), by omega⟩
        simp [show a + 1 + n - (a + 1) = n from by omega, show a + 1 + n - a = n + 1 from by omega,
          show a ≤ a + 1 + n ∧ a + 1 + n < a + (bs.length + 1) from by omega, show a + 1 + n < a + 1 + bs.length from by omega]
      · rw [if_neg hr, if_neg]
        omega

/-- What one read of n bytes gives, byte by byte. -/
@[simp] theorem Memory.length_readBytes (m : Memory) (a n : Nat) : (m.readBytes a n).length = n := by simp [Memory.readBytes]

/-- Bytes of a number, read back (R3). -/
theorem leNat_leBytes (n v : Nat) : leNat (leBytes n v) = v % 256 ^ n := by
  induction n generalizing v with
  | zero => simp [leBytes, leNat, Nat.mod_one]
  | succ n ih =>
    have h : v % 256 ^ (n + 1) = v % 256 + 256 * (v / 256 % 256 ^ n) := by rw [Nat.pow_succ', Nat.mod_mul]
    simp only [leBytes, leNat, ih, BitVec.toNat_ofNat, h, Nat.reducePow]

@[simp] theorem length_leBytes (n v : Nat) : (leBytes n v).length = n := by
  induction n generalizing v with
  | zero => rfl
  | succ n ih => simp [leBytes, ih]

end Sys2Proof.Machine
end

