-- ==== Sys2Proof/Laws/State.lean ====
section
/-! SUPPORT. What every update of State, and the updates of a crew that the words share, leave in each field: one lemma per
field per update. -/

namespace Sys2Proof.Machine

/-! ### `State.setCrew` -/

@[simp] theorem State.setCrew_script (s : State) (id : Nat) (c : Crew) : (s.setCrew id c).script = s.script := rfl
@[simp] theorem State.setCrew_cur (s : State) (id : Nat) (c : Crew) : (s.setCrew id c).cur = s.cur := rfl
@[simp] theorem State.setCrew_free (s : State) (id : Nat) (c : Crew) : (s.setCrew id c).free = s.free := rfl
@[simp] theorem State.setCrew_nextId (s : State) (id : Nat) (c : Crew) : (s.setCrew id c).nextId = s.nextId := rfl
@[simp] theorem State.setCrew_fuses (s : State) (id : Nat) (c : Crew) : (s.setCrew id c).fuses = s.fuses := rfl
@[simp] theorem State.setCrew_boot (s : State) (id : Nat) (c : Crew) : (s.setCrew id c).boot = s.boot := rfl
@[simp] theorem State.setCrew_spdm (s : State) (id : Nat) (c : Crew) : (s.setCrew id c).spdm = s.spdm := rfl
@[simp] theorem State.setCrew_time (s : State) (id : Nat) (c : Crew) : (s.setCrew id c).time = s.time := rfl
@[simp] theorem State.setCrew_cap (s : State) (id : Nat) (c : Crew) : (s.setCrew id c).cap = s.cap := rfl
@[simp] theorem State.setCrew_topo (s : State) (id : Nat) (c : Crew) : (s.setCrew id c).topo = s.topo := rfl
@[simp] theorem State.setCrew_panelNum (s : State) (id : Nat) (c : Crew) : (s.setCrew id c).panelNum = s.panelNum := rfl
@[simp] theorem State.setCrew_panels (s : State) (id : Nat) (c : Crew) : (s.setCrew id c).panels = s.panels := rfl
@[simp] theorem State.setCrew_deadPlanes (s : State) (id : Nat) (c : Crew) : (s.setCrew id c).deadPlanes = s.deadPlanes := rfl
@[simp] theorem State.setCrew_mem (s : State) (id : Nat) (c : Crew) : (s.setCrew id c).mem = s.mem := rfl
@[simp] theorem State.setCrew_crews (s : State) (id : Nat) (c : Crew) : (s.setCrew id c).crews = pput s.crews id c := rfl
@[simp] theorem State.setCrew_teams (s : State) (id : Nat) (c : Crew) : (s.setCrew id c).teams = s.teams := rfl
@[simp] theorem State.setCrew_cores (s : State) (id : Nat) (c : Crew) : (s.setCrew id c).cores = s.cores := rfl
@[simp] theorem State.setCrew_isls (s : State) (id : Nat) (c : Crew) : (s.setCrew id c).isls = s.isls := rfl
@[simp] theorem State.setCrew_launches (s : State) (id : Nat) (c : Crew) : (s.setCrew id c).launches = s.launches := rfl
@[simp] theorem State.setCrew_graphs (s : State) (id : Nat) (c : Crew) : (s.setCrew id c).graphs = s.graphs := rfl
@[simp] theorem State.setCrew_replays (s : State) (id : Nat) (c : Crew) : (s.setCrew id c).replays = s.replays := rfl
@[simp] theorem State.setCrew_units (s : State) (id : Nat) (c : Crew) : (s.setCrew id c).units = s.units := rfl
@[simp] theorem State.setCrew_leases (s : State) (id : Nat) (c : Crew) : (s.setCrew id c).leases = s.leases := rfl
@[simp] theorem State.setCrew_waiting (s : State) (id : Nat) (c : Crew) : (s.setCrew id c).waiting = s.waiting := rfl
@[simp] theorem State.setCrew_migrating (s : State) (id : Nat) (c : Crew) : (s.setCrew id c).migrating = s.migrating := rfl
@[simp] theorem State.setCrew_moved (s : State) (id : Nat) (c : Crew) : (s.setCrew id c).moved = s.moved := rfl
@[simp] theorem State.setCrew_nextSeq (s : State) (id : Nat) (c : Crew) : (s.setCrew id c).nextSeq = s.nextSeq := rfl
@[simp] theorem State.setCrew_journalBase (s : State) (id : Nat) (c : Crew) : (s.setCrew id c).journalBase = s.journalBase := rfl
@[simp] theorem State.setCrew_handlers (s : State) (id : Nat) (c : Crew) : (s.setCrew id c).handlers = s.handlers := rfl
@[simp] theorem State.setCrew_staging (s : State) (id : Nat) (c : Crew) : (s.setCrew id c).staging = s.staging := rfl
@[simp] theorem State.setCrew_queues (s : State) (id : Nat) (c : Crew) : (s.setCrew id c).queues = s.queues := rfl
@[simp] theorem State.setCrew_vfs (s : State) (id : Nat) (c : Crew) : (s.setCrew id c).vfs = s.vfs := rfl
@[simp] theorem State.setCrew_pfs (s : State) (id : Nat) (c : Crew) : (s.setCrew id c).pfs = s.pfs := rfl
@[simp] theorem State.setCrew_weights (s : State) (id : Nat) (c : Crew) : (s.setCrew id c).weights = s.weights := rfl
@[simp] theorem State.setCrew_deficits (s : State) (id : Nat) (c : Crew) : (s.setCrew id c).deficits = s.deficits := rfl
@[simp] theorem State.setCrew_cxl (s : State) (id : Nat) (c : Crew) : (s.setCrew id c).cxl = s.cxl := rfl
@[simp] theorem State.setCrew_last (s : State) (id : Nat) (c : Crew) : (s.setCrew id c).last = s.last := rfl
@[simp] theorem State.setCrew_hostRead (s : State) (id : Nat) (c : Crew) : (s.setCrew id c).hostRead = s.hostRead := rfl
@[simp] theorem State.setCrew_packets (s : State) (id : Nat) (c : Crew) : (s.setCrew id c).packets = s.packets := rfl
@[simp] theorem State.setCrew_rops (s : State) (id : Nat) (c : Crew) : (s.setCrew id c).rops = s.rops := rfl
@[simp] theorem State.setCrew_streams (s : State) (id : Nat) (c : Crew) : (s.setCrew id c).streams = s.streams := rfl
@[simp] theorem State.setCrew_colls (s : State) (id : Nat) (c : Crew) : (s.setCrew id c).colls = s.colls := rfl
@[simp] theorem State.setCrew_collsMet (s : State) (id : Nat) (c : Crew) : (s.setCrew id c).collsMet = s.collsMet := rfl
@[simp] theorem State.setCrew_arrivals (s : State) (id : Nat) (c : Crew) : (s.setCrew id c).arrivals = s.arrivals := rfl

/-! ### `State.modCrew` -/

@[simp] theorem State.modCrew_script (s : State) (id : Nat) (g : Crew → Crew) : (s.modCrew id g).script = s.script := rfl
@[simp] theorem State.modCrew_cur (s : State) (id : Nat) (g : Crew → Crew) : (s.modCrew id g).cur = s.cur := rfl
@[simp] theorem State.modCrew_free (s : State) (id : Nat) (g : Crew → Crew) : (s.modCrew id g).free = s.free := rfl
@[simp] theorem State.modCrew_nextId (s : State) (id : Nat) (g : Crew → Crew) : (s.modCrew id g).nextId = s.nextId := rfl
@[simp] theorem State.modCrew_fuses (s : State) (id : Nat) (g : Crew → Crew) : (s.modCrew id g).fuses = s.fuses := rfl
@[simp] theorem State.modCrew_boot (s : State) (id : Nat) (g : Crew → Crew) : (s.modCrew id g).boot = s.boot := rfl
@[simp] theorem State.modCrew_spdm (s : State) (id : Nat) (g : Crew → Crew) : (s.modCrew id g).spdm = s.spdm := rfl
@[simp] theorem State.modCrew_time (s : State) (id : Nat) (g : Crew → Crew) : (s.modCrew id g).time = s.time := rfl
@[simp] theorem State.modCrew_cap (s : State) (id : Nat) (g : Crew → Crew) : (s.modCrew id g).cap = s.cap := rfl
@[simp] theorem State.modCrew_topo (s : State) (id : Nat) (g : Crew → Crew) : (s.modCrew id g).topo = s.topo := rfl
@[simp] theorem State.modCrew_panelNum (s : State) (id : Nat) (g : Crew → Crew) : (s.modCrew id g).panelNum = s.panelNum := rfl
@[simp] theorem State.modCrew_panels (s : State) (id : Nat) (g : Crew → Crew) : (s.modCrew id g).panels = s.panels := rfl
@[simp] theorem State.modCrew_deadPlanes (s : State) (id : Nat) (g : Crew → Crew) : (s.modCrew id g).deadPlanes = s.deadPlanes := rfl
@[simp] theorem State.modCrew_mem (s : State) (id : Nat) (g : Crew → Crew) : (s.modCrew id g).mem = s.mem := rfl
@[simp] theorem State.modCrew_crews (s : State) (id : Nat) (g : Crew → Crew) : (s.modCrew id g).crews = pmod s.crews id g := rfl
@[simp] theorem State.modCrew_teams (s : State) (id : Nat) (g : Crew → Crew) : (s.modCrew id g).teams = s.teams := rfl
@[simp] theorem State.modCrew_cores (s : State) (id : Nat) (g : Crew → Crew) : (s.modCrew id g).cores = s.cores := rfl
@[simp] theorem State.modCrew_isls (s : State) (id : Nat) (g : Crew → Crew) : (s.modCrew id g).isls = s.isls := rfl
@[simp] theorem State.modCrew_launches (s : State) (id : Nat) (g : Crew → Crew) : (s.modCrew id g).launches = s.launches := rfl
@[simp] theorem State.modCrew_graphs (s : State) (id : Nat) (g : Crew → Crew) : (s.modCrew id g).graphs = s.graphs := rfl
@[simp] theorem State.modCrew_replays (s : State) (id : Nat) (g : Crew → Crew) : (s.modCrew id g).replays = s.replays := rfl
@[simp] theorem State.modCrew_units (s : State) (id : Nat) (g : Crew → Crew) : (s.modCrew id g).units = s.units := rfl
@[simp] theorem State.modCrew_leases (s : State) (id : Nat) (g : Crew → Crew) : (s.modCrew id g).leases = s.leases := rfl
@[simp] theorem State.modCrew_waiting (s : State) (id : Nat) (g : Crew → Crew) : (s.modCrew id g).waiting = s.waiting := rfl
@[simp] theorem State.modCrew_migrating (s : State) (id : Nat) (g : Crew → Crew) : (s.modCrew id g).migrating = s.migrating := rfl
@[simp] theorem State.modCrew_moved (s : State) (id : Nat) (g : Crew → Crew) : (s.modCrew id g).moved = s.moved := rfl
@[simp] theorem State.modCrew_nextSeq (s : State) (id : Nat) (g : Crew → Crew) : (s.modCrew id g).nextSeq = s.nextSeq := rfl
@[simp] theorem State.modCrew_journalBase (s : State) (id : Nat) (g : Crew → Crew) : (s.modCrew id g).journalBase = s.journalBase := rfl
@[simp] theorem State.modCrew_handlers (s : State) (id : Nat) (g : Crew → Crew) : (s.modCrew id g).handlers = s.handlers := rfl
@[simp] theorem State.modCrew_staging (s : State) (id : Nat) (g : Crew → Crew) : (s.modCrew id g).staging = s.staging := rfl
@[simp] theorem State.modCrew_queues (s : State) (id : Nat) (g : Crew → Crew) : (s.modCrew id g).queues = s.queues := rfl
@[simp] theorem State.modCrew_vfs (s : State) (id : Nat) (g : Crew → Crew) : (s.modCrew id g).vfs = s.vfs := rfl
@[simp] theorem State.modCrew_pfs (s : State) (id : Nat) (g : Crew → Crew) : (s.modCrew id g).pfs = s.pfs := rfl
@[simp] theorem State.modCrew_weights (s : State) (id : Nat) (g : Crew → Crew) : (s.modCrew id g).weights = s.weights := rfl
@[simp] theorem State.modCrew_deficits (s : State) (id : Nat) (g : Crew → Crew) : (s.modCrew id g).deficits = s.deficits := rfl
@[simp] theorem State.modCrew_cxl (s : State) (id : Nat) (g : Crew → Crew) : (s.modCrew id g).cxl = s.cxl := rfl
@[simp] theorem State.modCrew_last (s : State) (id : Nat) (g : Crew → Crew) : (s.modCrew id g).last = s.last := rfl
@[simp] theorem State.modCrew_hostRead (s : State) (id : Nat) (g : Crew → Crew) : (s.modCrew id g).hostRead = s.hostRead := rfl
@[simp] theorem State.modCrew_packets (s : State) (id : Nat) (g : Crew → Crew) : (s.modCrew id g).packets = s.packets := rfl
@[simp] theorem State.modCrew_rops (s : State) (id : Nat) (g : Crew → Crew) : (s.modCrew id g).rops = s.rops := rfl
@[simp] theorem State.modCrew_streams (s : State) (id : Nat) (g : Crew → Crew) : (s.modCrew id g).streams = s.streams := rfl
@[simp] theorem State.modCrew_colls (s : State) (id : Nat) (g : Crew → Crew) : (s.modCrew id g).colls = s.colls := rfl
@[simp] theorem State.modCrew_collsMet (s : State) (id : Nat) (g : Crew → Crew) : (s.modCrew id g).collsMet = s.collsMet := rfl
@[simp] theorem State.modCrew_arrivals (s : State) (id : Nat) (g : Crew → Crew) : (s.modCrew id g).arrivals = s.arrivals := rfl

/-! ### `State.setTeam` -/

@[simp] theorem State.setTeam_script (s : State) (id : Nat) (t : Team) : (s.setTeam id t).script = s.script := rfl
@[simp] theorem State.setTeam_cur (s : State) (id : Nat) (t : Team) : (s.setTeam id t).cur = s.cur := rfl
@[simp] theorem State.setTeam_free (s : State) (id : Nat) (t : Team) : (s.setTeam id t).free = s.free := rfl
@[simp] theorem State.setTeam_nextId (s : State) (id : Nat) (t : Team) : (s.setTeam id t).nextId = s.nextId := rfl
@[simp] theorem State.setTeam_fuses (s : State) (id : Nat) (t : Team) : (s.setTeam id t).fuses = s.fuses := rfl
@[simp] theorem State.setTeam_boot (s : State) (id : Nat) (t : Team) : (s.setTeam id t).boot = s.boot := rfl
@[simp] theorem State.setTeam_spdm (s : State) (id : Nat) (t : Team) : (s.setTeam id t).spdm = s.spdm := rfl
@[simp] theorem State.setTeam_time (s : State) (id : Nat) (t : Team) : (s.setTeam id t).time = s.time := rfl
@[simp] theorem State.setTeam_cap (s : State) (id : Nat) (t : Team) : (s.setTeam id t).cap = s.cap := rfl
@[simp] theorem State.setTeam_topo (s : State) (id : Nat) (t : Team) : (s.setTeam id t).topo = s.topo := rfl
@[simp] theorem State.setTeam_panelNum (s : State) (id : Nat) (t : Team) : (s.setTeam id t).panelNum = s.panelNum := rfl
@[simp] theorem State.setTeam_panels (s : State) (id : Nat) (t : Team) : (s.setTeam id t).panels = s.panels := rfl
@[simp] theorem State.setTeam_deadPlanes (s : State) (id : Nat) (t : Team) : (s.setTeam id t).deadPlanes = s.deadPlanes := rfl
@[simp] theorem State.setTeam_mem (s : State) (id : Nat) (t : Team) : (s.setTeam id t).mem = s.mem := rfl
@[simp] theorem State.setTeam_crews (s : State) (id : Nat) (t : Team) : (s.setTeam id t).crews = s.crews := rfl
@[simp] theorem State.setTeam_teams (s : State) (id : Nat) (t : Team) : (s.setTeam id t).teams = pput s.teams id t := rfl
@[simp] theorem State.setTeam_cores (s : State) (id : Nat) (t : Team) : (s.setTeam id t).cores = s.cores := rfl
@[simp] theorem State.setTeam_isls (s : State) (id : Nat) (t : Team) : (s.setTeam id t).isls = s.isls := rfl
@[simp] theorem State.setTeam_launches (s : State) (id : Nat) (t : Team) : (s.setTeam id t).launches = s.launches := rfl
@[simp] theorem State.setTeam_graphs (s : State) (id : Nat) (t : Team) : (s.setTeam id t).graphs = s.graphs := rfl
@[simp] theorem State.setTeam_replays (s : State) (id : Nat) (t : Team) : (s.setTeam id t).replays = s.replays := rfl
@[simp] theorem State.setTeam_units (s : State) (id : Nat) (t : Team) : (s.setTeam id t).units = s.units := rfl
@[simp] theorem State.setTeam_leases (s : State) (id : Nat) (t : Team) : (s.setTeam id t).leases = s.leases := rfl
@[simp] theorem State.setTeam_waiting (s : State) (id : Nat) (t : Team) : (s.setTeam id t).waiting = s.waiting := rfl
@[simp] theorem State.setTeam_migrating (s : State) (id : Nat) (t : Team) : (s.setTeam id t).migrating = s.migrating := rfl
@[simp] theorem State.setTeam_moved (s : State) (id : Nat) (t : Team) : (s.setTeam id t).moved = s.moved := rfl
@[simp] theorem State.setTeam_nextSeq (s : State) (id : Nat) (t : Team) : (s.setTeam id t).nextSeq = s.nextSeq := rfl
@[simp] theorem State.setTeam_journalBase (s : State) (id : Nat) (t : Team) : (s.setTeam id t).journalBase = s.journalBase := rfl
@[simp] theorem State.setTeam_handlers (s : State) (id : Nat) (t : Team) : (s.setTeam id t).handlers = s.handlers := rfl
@[simp] theorem State.setTeam_staging (s : State) (id : Nat) (t : Team) : (s.setTeam id t).staging = s.staging := rfl
@[simp] theorem State.setTeam_queues (s : State) (id : Nat) (t : Team) : (s.setTeam id t).queues = s.queues := rfl
@[simp] theorem State.setTeam_vfs (s : State) (id : Nat) (t : Team) : (s.setTeam id t).vfs = s.vfs := rfl
@[simp] theorem State.setTeam_pfs (s : State) (id : Nat) (t : Team) : (s.setTeam id t).pfs = s.pfs := rfl
@[simp] theorem State.setTeam_weights (s : State) (id : Nat) (t : Team) : (s.setTeam id t).weights = s.weights := rfl
@[simp] theorem State.setTeam_deficits (s : State) (id : Nat) (t : Team) : (s.setTeam id t).deficits = s.deficits := rfl
@[simp] theorem State.setTeam_cxl (s : State) (id : Nat) (t : Team) : (s.setTeam id t).cxl = s.cxl := rfl
@[simp] theorem State.setTeam_last (s : State) (id : Nat) (t : Team) : (s.setTeam id t).last = s.last := rfl
@[simp] theorem State.setTeam_hostRead (s : State) (id : Nat) (t : Team) : (s.setTeam id t).hostRead = s.hostRead := rfl
@[simp] theorem State.setTeam_packets (s : State) (id : Nat) (t : Team) : (s.setTeam id t).packets = s.packets := rfl
@[simp] theorem State.setTeam_rops (s : State) (id : Nat) (t : Team) : (s.setTeam id t).rops = s.rops := rfl
@[simp] theorem State.setTeam_streams (s : State) (id : Nat) (t : Team) : (s.setTeam id t).streams = s.streams := rfl
@[simp] theorem State.setTeam_colls (s : State) (id : Nat) (t : Team) : (s.setTeam id t).colls = s.colls := rfl
@[simp] theorem State.setTeam_collsMet (s : State) (id : Nat) (t : Team) : (s.setTeam id t).collsMet = s.collsMet := rfl
@[simp] theorem State.setTeam_arrivals (s : State) (id : Nat) (t : Team) : (s.setTeam id t).arrivals = s.arrivals := rfl

/-! ### `State.modTeam` -/

@[simp] theorem State.modTeam_script (s : State) (id : Nat) (g : Team → Team) : (s.modTeam id g).script = s.script := rfl
@[simp] theorem State.modTeam_cur (s : State) (id : Nat) (g : Team → Team) : (s.modTeam id g).cur = s.cur := rfl
@[simp] theorem State.modTeam_free (s : State) (id : Nat) (g : Team → Team) : (s.modTeam id g).free = s.free := rfl
@[simp] theorem State.modTeam_nextId (s : State) (id : Nat) (g : Team → Team) : (s.modTeam id g).nextId = s.nextId := rfl
@[simp] theorem State.modTeam_fuses (s : State) (id : Nat) (g : Team → Team) : (s.modTeam id g).fuses = s.fuses := rfl
@[simp] theorem State.modTeam_boot (s : State) (id : Nat) (g : Team → Team) : (s.modTeam id g).boot = s.boot := rfl
@[simp] theorem State.modTeam_spdm (s : State) (id : Nat) (g : Team → Team) : (s.modTeam id g).spdm = s.spdm := rfl
@[simp] theorem State.modTeam_time (s : State) (id : Nat) (g : Team → Team) : (s.modTeam id g).time = s.time := rfl
@[simp] theorem State.modTeam_cap (s : State) (id : Nat) (g : Team → Team) : (s.modTeam id g).cap = s.cap := rfl
@[simp] theorem State.modTeam_topo (s : State) (id : Nat) (g : Team → Team) : (s.modTeam id g).topo = s.topo := rfl
@[simp] theorem State.modTeam_panelNum (s : State) (id : Nat) (g : Team → Team) : (s.modTeam id g).panelNum = s.panelNum := rfl
@[simp] theorem State.modTeam_panels (s : State) (id : Nat) (g : Team → Team) : (s.modTeam id g).panels = s.panels := rfl
@[simp] theorem State.modTeam_deadPlanes (s : State) (id : Nat) (g : Team → Team) : (s.modTeam id g).deadPlanes = s.deadPlanes := rfl
@[simp] theorem State.modTeam_mem (s : State) (id : Nat) (g : Team → Team) : (s.modTeam id g).mem = s.mem := rfl
@[simp] theorem State.modTeam_crews (s : State) (id : Nat) (g : Team → Team) : (s.modTeam id g).crews = s.crews := rfl
@[simp] theorem State.modTeam_teams (s : State) (id : Nat) (g : Team → Team) : (s.modTeam id g).teams = pmod s.teams id g := rfl
@[simp] theorem State.modTeam_cores (s : State) (id : Nat) (g : Team → Team) : (s.modTeam id g).cores = s.cores := rfl
@[simp] theorem State.modTeam_isls (s : State) (id : Nat) (g : Team → Team) : (s.modTeam id g).isls = s.isls := rfl
@[simp] theorem State.modTeam_launches (s : State) (id : Nat) (g : Team → Team) : (s.modTeam id g).launches = s.launches := rfl
@[simp] theorem State.modTeam_graphs (s : State) (id : Nat) (g : Team → Team) : (s.modTeam id g).graphs = s.graphs := rfl
@[simp] theorem State.modTeam_replays (s : State) (id : Nat) (g : Team → Team) : (s.modTeam id g).replays = s.replays := rfl
@[simp] theorem State.modTeam_units (s : State) (id : Nat) (g : Team → Team) : (s.modTeam id g).units = s.units := rfl
@[simp] theorem State.modTeam_leases (s : State) (id : Nat) (g : Team → Team) : (s.modTeam id g).leases = s.leases := rfl
@[simp] theorem State.modTeam_waiting (s : State) (id : Nat) (g : Team → Team) : (s.modTeam id g).waiting = s.waiting := rfl
@[simp] theorem State.modTeam_migrating (s : State) (id : Nat) (g : Team → Team) : (s.modTeam id g).migrating = s.migrating := rfl
@[simp] theorem State.modTeam_moved (s : State) (id : Nat) (g : Team → Team) : (s.modTeam id g).moved = s.moved := rfl
@[simp] theorem State.modTeam_nextSeq (s : State) (id : Nat) (g : Team → Team) : (s.modTeam id g).nextSeq = s.nextSeq := rfl
@[simp] theorem State.modTeam_journalBase (s : State) (id : Nat) (g : Team → Team) : (s.modTeam id g).journalBase = s.journalBase := rfl
@[simp] theorem State.modTeam_handlers (s : State) (id : Nat) (g : Team → Team) : (s.modTeam id g).handlers = s.handlers := rfl
@[simp] theorem State.modTeam_staging (s : State) (id : Nat) (g : Team → Team) : (s.modTeam id g).staging = s.staging := rfl
@[simp] theorem State.modTeam_queues (s : State) (id : Nat) (g : Team → Team) : (s.modTeam id g).queues = s.queues := rfl
@[simp] theorem State.modTeam_vfs (s : State) (id : Nat) (g : Team → Team) : (s.modTeam id g).vfs = s.vfs := rfl
@[simp] theorem State.modTeam_pfs (s : State) (id : Nat) (g : Team → Team) : (s.modTeam id g).pfs = s.pfs := rfl
@[simp] theorem State.modTeam_weights (s : State) (id : Nat) (g : Team → Team) : (s.modTeam id g).weights = s.weights := rfl
@[simp] theorem State.modTeam_deficits (s : State) (id : Nat) (g : Team → Team) : (s.modTeam id g).deficits = s.deficits := rfl
@[simp] theorem State.modTeam_cxl (s : State) (id : Nat) (g : Team → Team) : (s.modTeam id g).cxl = s.cxl := rfl
@[simp] theorem State.modTeam_last (s : State) (id : Nat) (g : Team → Team) : (s.modTeam id g).last = s.last := rfl
@[simp] theorem State.modTeam_hostRead (s : State) (id : Nat) (g : Team → Team) : (s.modTeam id g).hostRead = s.hostRead := rfl
@[simp] theorem State.modTeam_packets (s : State) (id : Nat) (g : Team → Team) : (s.modTeam id g).packets = s.packets := rfl
@[simp] theorem State.modTeam_rops (s : State) (id : Nat) (g : Team → Team) : (s.modTeam id g).rops = s.rops := rfl
@[simp] theorem State.modTeam_streams (s : State) (id : Nat) (g : Team → Team) : (s.modTeam id g).streams = s.streams := rfl
@[simp] theorem State.modTeam_colls (s : State) (id : Nat) (g : Team → Team) : (s.modTeam id g).colls = s.colls := rfl
@[simp] theorem State.modTeam_collsMet (s : State) (id : Nat) (g : Team → Team) : (s.modTeam id g).collsMet = s.collsMet := rfl
@[simp] theorem State.modTeam_arrivals (s : State) (id : Nat) (g : Team → Team) : (s.modTeam id g).arrivals = s.arrivals := rfl

/-! ### `State.setCore` -/

@[simp] theorem State.setCore_script (s : State) (ck : Nat) (c : Core) : (s.setCore ck c).script = s.script := rfl
@[simp] theorem State.setCore_cur (s : State) (ck : Nat) (c : Core) : (s.setCore ck c).cur = s.cur := rfl
@[simp] theorem State.setCore_free (s : State) (ck : Nat) (c : Core) : (s.setCore ck c).free = s.free := rfl
@[simp] theorem State.setCore_nextId (s : State) (ck : Nat) (c : Core) : (s.setCore ck c).nextId = s.nextId := rfl
@[simp] theorem State.setCore_fuses (s : State) (ck : Nat) (c : Core) : (s.setCore ck c).fuses = s.fuses := rfl
@[simp] theorem State.setCore_boot (s : State) (ck : Nat) (c : Core) : (s.setCore ck c).boot = s.boot := rfl
@[simp] theorem State.setCore_spdm (s : State) (ck : Nat) (c : Core) : (s.setCore ck c).spdm = s.spdm := rfl
@[simp] theorem State.setCore_time (s : State) (ck : Nat) (c : Core) : (s.setCore ck c).time = s.time := rfl
@[simp] theorem State.setCore_cap (s : State) (ck : Nat) (c : Core) : (s.setCore ck c).cap = s.cap := rfl
@[simp] theorem State.setCore_topo (s : State) (ck : Nat) (c : Core) : (s.setCore ck c).topo = s.topo := rfl
@[simp] theorem State.setCore_panelNum (s : State) (ck : Nat) (c : Core) : (s.setCore ck c).panelNum = s.panelNum := rfl
@[simp] theorem State.setCore_panels (s : State) (ck : Nat) (c : Core) : (s.setCore ck c).panels = s.panels := rfl
@[simp] theorem State.setCore_deadPlanes (s : State) (ck : Nat) (c : Core) : (s.setCore ck c).deadPlanes = s.deadPlanes := rfl
@[simp] theorem State.setCore_mem (s : State) (ck : Nat) (c : Core) : (s.setCore ck c).mem = s.mem := rfl
@[simp] theorem State.setCore_crews (s : State) (ck : Nat) (c : Core) : (s.setCore ck c).crews = s.crews := rfl
@[simp] theorem State.setCore_teams (s : State) (ck : Nat) (c : Core) : (s.setCore ck c).teams = s.teams := rfl
@[simp] theorem State.setCore_cores (s : State) (ck : Nat) (c : Core) : (s.setCore ck c).cores = pput s.cores ck c := rfl
@[simp] theorem State.setCore_isls (s : State) (ck : Nat) (c : Core) : (s.setCore ck c).isls = s.isls := rfl
@[simp] theorem State.setCore_launches (s : State) (ck : Nat) (c : Core) : (s.setCore ck c).launches = s.launches := rfl
@[simp] theorem State.setCore_graphs (s : State) (ck : Nat) (c : Core) : (s.setCore ck c).graphs = s.graphs := rfl
@[simp] theorem State.setCore_replays (s : State) (ck : Nat) (c : Core) : (s.setCore ck c).replays = s.replays := rfl
@[simp] theorem State.setCore_units (s : State) (ck : Nat) (c : Core) : (s.setCore ck c).units = s.units := rfl
@[simp] theorem State.setCore_leases (s : State) (ck : Nat) (c : Core) : (s.setCore ck c).leases = s.leases := rfl
@[simp] theorem State.setCore_waiting (s : State) (ck : Nat) (c : Core) : (s.setCore ck c).waiting = s.waiting := rfl
@[simp] theorem State.setCore_migrating (s : State) (ck : Nat) (c : Core) : (s.setCore ck c).migrating = s.migrating := rfl
@[simp] theorem State.setCore_moved (s : State) (ck : Nat) (c : Core) : (s.setCore ck c).moved = s.moved := rfl
@[simp] theorem State.setCore_nextSeq (s : State) (ck : Nat) (c : Core) : (s.setCore ck c).nextSeq = s.nextSeq := rfl
@[simp] theorem State.setCore_journalBase (s : State) (ck : Nat) (c : Core) : (s.setCore ck c).journalBase = s.journalBase := rfl
@[simp] theorem State.setCore_handlers (s : State) (ck : Nat) (c : Core) : (s.setCore ck c).handlers = s.handlers := rfl
@[simp] theorem State.setCore_staging (s : State) (ck : Nat) (c : Core) : (s.setCore ck c).staging = s.staging := rfl
@[simp] theorem State.setCore_queues (s : State) (ck : Nat) (c : Core) : (s.setCore ck c).queues = s.queues := rfl
@[simp] theorem State.setCore_vfs (s : State) (ck : Nat) (c : Core) : (s.setCore ck c).vfs = s.vfs := rfl
@[simp] theorem State.setCore_pfs (s : State) (ck : Nat) (c : Core) : (s.setCore ck c).pfs = s.pfs := rfl
@[simp] theorem State.setCore_weights (s : State) (ck : Nat) (c : Core) : (s.setCore ck c).weights = s.weights := rfl
@[simp] theorem State.setCore_deficits (s : State) (ck : Nat) (c : Core) : (s.setCore ck c).deficits = s.deficits := rfl
@[simp] theorem State.setCore_cxl (s : State) (ck : Nat) (c : Core) : (s.setCore ck c).cxl = s.cxl := rfl
@[simp] theorem State.setCore_last (s : State) (ck : Nat) (c : Core) : (s.setCore ck c).last = s.last := rfl
@[simp] theorem State.setCore_hostRead (s : State) (ck : Nat) (c : Core) : (s.setCore ck c).hostRead = s.hostRead := rfl
@[simp] theorem State.setCore_packets (s : State) (ck : Nat) (c : Core) : (s.setCore ck c).packets = s.packets := rfl
@[simp] theorem State.setCore_rops (s : State) (ck : Nat) (c : Core) : (s.setCore ck c).rops = s.rops := rfl
@[simp] theorem State.setCore_streams (s : State) (ck : Nat) (c : Core) : (s.setCore ck c).streams = s.streams := rfl
@[simp] theorem State.setCore_colls (s : State) (ck : Nat) (c : Core) : (s.setCore ck c).colls = s.colls := rfl
@[simp] theorem State.setCore_collsMet (s : State) (ck : Nat) (c : Core) : (s.setCore ck c).collsMet = s.collsMet := rfl
@[simp] theorem State.setCore_arrivals (s : State) (ck : Nat) (c : Core) : (s.setCore ck c).arrivals = s.arrivals := rfl

/-! ### `State.modCore` -/

@[simp] theorem State.modCore_script (s : State) (ck : Nat) (g : Core → Core) : (s.modCore ck g).script = s.script := rfl
@[simp] theorem State.modCore_cur (s : State) (ck : Nat) (g : Core → Core) : (s.modCore ck g).cur = s.cur := rfl
@[simp] theorem State.modCore_free (s : State) (ck : Nat) (g : Core → Core) : (s.modCore ck g).free = s.free := rfl
@[simp] theorem State.modCore_nextId (s : State) (ck : Nat) (g : Core → Core) : (s.modCore ck g).nextId = s.nextId := rfl
@[simp] theorem State.modCore_fuses (s : State) (ck : Nat) (g : Core → Core) : (s.modCore ck g).fuses = s.fuses := rfl
@[simp] theorem State.modCore_boot (s : State) (ck : Nat) (g : Core → Core) : (s.modCore ck g).boot = s.boot := rfl
@[simp] theorem State.modCore_spdm (s : State) (ck : Nat) (g : Core → Core) : (s.modCore ck g).spdm = s.spdm := rfl
@[simp] theorem State.modCore_time (s : State) (ck : Nat) (g : Core → Core) : (s.modCore ck g).time = s.time := rfl
@[simp] theorem State.modCore_cap (s : State) (ck : Nat) (g : Core → Core) : (s.modCore ck g).cap = s.cap := rfl
@[simp] theorem State.modCore_topo (s : State) (ck : Nat) (g : Core → Core) : (s.modCore ck g).topo = s.topo := rfl
@[simp] theorem State.modCore_panelNum (s : State) (ck : Nat) (g : Core → Core) : (s.modCore ck g).panelNum = s.panelNum := rfl
@[simp] theorem State.modCore_panels (s : State) (ck : Nat) (g : Core → Core) : (s.modCore ck g).panels = s.panels := rfl
@[simp] theorem State.modCore_deadPlanes (s : State) (ck : Nat) (g : Core → Core) : (s.modCore ck g).deadPlanes = s.deadPlanes := rfl
@[simp] theorem State.modCore_mem (s : State) (ck : Nat) (g : Core → Core) : (s.modCore ck g).mem = s.mem := rfl
@[simp] theorem State.modCore_crews (s : State) (ck : Nat) (g : Core → Core) : (s.modCore ck g).crews = s.crews := rfl
@[simp] theorem State.modCore_teams (s : State) (ck : Nat) (g : Core → Core) : (s.modCore ck g).teams = s.teams := rfl
@[simp] theorem State.modCore_cores (s : State) (ck : Nat) (g : Core → Core) : (s.modCore ck g).cores = pput s.cores ck (g (s.core ck)) := rfl
@[simp] theorem State.modCore_isls (s : State) (ck : Nat) (g : Core → Core) : (s.modCore ck g).isls = s.isls := rfl
@[simp] theorem State.modCore_launches (s : State) (ck : Nat) (g : Core → Core) : (s.modCore ck g).launches = s.launches := rfl
@[simp] theorem State.modCore_graphs (s : State) (ck : Nat) (g : Core → Core) : (s.modCore ck g).graphs = s.graphs := rfl
@[simp] theorem State.modCore_replays (s : State) (ck : Nat) (g : Core → Core) : (s.modCore ck g).replays = s.replays := rfl
@[simp] theorem State.modCore_units (s : State) (ck : Nat) (g : Core → Core) : (s.modCore ck g).units = s.units := rfl
@[simp] theorem State.modCore_leases (s : State) (ck : Nat) (g : Core → Core) : (s.modCore ck g).leases = s.leases := rfl
@[simp] theorem State.modCore_waiting (s : State) (ck : Nat) (g : Core → Core) : (s.modCore ck g).waiting = s.waiting := rfl
@[simp] theorem State.modCore_migrating (s : State) (ck : Nat) (g : Core → Core) : (s.modCore ck g).migrating = s.migrating := rfl
@[simp] theorem State.modCore_moved (s : State) (ck : Nat) (g : Core → Core) : (s.modCore ck g).moved = s.moved := rfl
@[simp] theorem State.modCore_nextSeq (s : State) (ck : Nat) (g : Core → Core) : (s.modCore ck g).nextSeq = s.nextSeq := rfl
@[simp] theorem State.modCore_journalBase (s : State) (ck : Nat) (g : Core → Core) : (s.modCore ck g).journalBase = s.journalBase := rfl
@[simp] theorem State.modCore_handlers (s : State) (ck : Nat) (g : Core → Core) : (s.modCore ck g).handlers = s.handlers := rfl
@[simp] theorem State.modCore_staging (s : State) (ck : Nat) (g : Core → Core) : (s.modCore ck g).staging = s.staging := rfl
@[simp] theorem State.modCore_queues (s : State) (ck : Nat) (g : Core → Core) : (s.modCore ck g).queues = s.queues := rfl
@[simp] theorem State.modCore_vfs (s : State) (ck : Nat) (g : Core → Core) : (s.modCore ck g).vfs = s.vfs := rfl
@[simp] theorem State.modCore_pfs (s : State) (ck : Nat) (g : Core → Core) : (s.modCore ck g).pfs = s.pfs := rfl
@[simp] theorem State.modCore_weights (s : State) (ck : Nat) (g : Core → Core) : (s.modCore ck g).weights = s.weights := rfl
@[simp] theorem State.modCore_deficits (s : State) (ck : Nat) (g : Core → Core) : (s.modCore ck g).deficits = s.deficits := rfl
@[simp] theorem State.modCore_cxl (s : State) (ck : Nat) (g : Core → Core) : (s.modCore ck g).cxl = s.cxl := rfl
@[simp] theorem State.modCore_last (s : State) (ck : Nat) (g : Core → Core) : (s.modCore ck g).last = s.last := rfl
@[simp] theorem State.modCore_hostRead (s : State) (ck : Nat) (g : Core → Core) : (s.modCore ck g).hostRead = s.hostRead := rfl
@[simp] theorem State.modCore_packets (s : State) (ck : Nat) (g : Core → Core) : (s.modCore ck g).packets = s.packets := rfl
@[simp] theorem State.modCore_rops (s : State) (ck : Nat) (g : Core → Core) : (s.modCore ck g).rops = s.rops := rfl
@[simp] theorem State.modCore_streams (s : State) (ck : Nat) (g : Core → Core) : (s.modCore ck g).streams = s.streams := rfl
@[simp] theorem State.modCore_colls (s : State) (ck : Nat) (g : Core → Core) : (s.modCore ck g).colls = s.colls := rfl
@[simp] theorem State.modCore_collsMet (s : State) (ck : Nat) (g : Core → Core) : (s.modCore ck g).collsMet = s.collsMet := rfl
@[simp] theorem State.modCore_arrivals (s : State) (ck : Nat) (g : Core → Core) : (s.modCore ck g).arrivals = s.arrivals := rfl

/-! ### `State.setIsl` -/

@[simp] theorem State.setIsl_script (s : State) (i : Nat) (x : Island) : (s.setIsl i x).script = s.script := rfl
@[simp] theorem State.setIsl_cur (s : State) (i : Nat) (x : Island) : (s.setIsl i x).cur = s.cur := rfl
@[simp] theorem State.setIsl_free (s : State) (i : Nat) (x : Island) : (s.setIsl i x).free = s.free := rfl
@[simp] theorem State.setIsl_nextId (s : State) (i : Nat) (x : Island) : (s.setIsl i x).nextId = s.nextId := rfl
@[simp] theorem State.setIsl_fuses (s : State) (i : Nat) (x : Island) : (s.setIsl i x).fuses = s.fuses := rfl
@[simp] theorem State.setIsl_boot (s : State) (i : Nat) (x : Island) : (s.setIsl i x).boot = s.boot := rfl
@[simp] theorem State.setIsl_spdm (s : State) (i : Nat) (x : Island) : (s.setIsl i x).spdm = s.spdm := rfl
@[simp] theorem State.setIsl_time (s : State) (i : Nat) (x : Island) : (s.setIsl i x).time = s.time := rfl
@[simp] theorem State.setIsl_cap (s : State) (i : Nat) (x : Island) : (s.setIsl i x).cap = s.cap := rfl
@[simp] theorem State.setIsl_topo (s : State) (i : Nat) (x : Island) : (s.setIsl i x).topo = s.topo := rfl
@[simp] theorem State.setIsl_panelNum (s : State) (i : Nat) (x : Island) : (s.setIsl i x).panelNum = s.panelNum := rfl
@[simp] theorem State.setIsl_panels (s : State) (i : Nat) (x : Island) : (s.setIsl i x).panels = s.panels := rfl
@[simp] theorem State.setIsl_deadPlanes (s : State) (i : Nat) (x : Island) : (s.setIsl i x).deadPlanes = s.deadPlanes := rfl
@[simp] theorem State.setIsl_mem (s : State) (i : Nat) (x : Island) : (s.setIsl i x).mem = s.mem := rfl
@[simp] theorem State.setIsl_crews (s : State) (i : Nat) (x : Island) : (s.setIsl i x).crews = s.crews := rfl
@[simp] theorem State.setIsl_teams (s : State) (i : Nat) (x : Island) : (s.setIsl i x).teams = s.teams := rfl
@[simp] theorem State.setIsl_cores (s : State) (i : Nat) (x : Island) : (s.setIsl i x).cores = s.cores := rfl
@[simp] theorem State.setIsl_isls (s : State) (i : Nat) (x : Island) : (s.setIsl i x).isls = pput s.isls i x := rfl
@[simp] theorem State.setIsl_launches (s : State) (i : Nat) (x : Island) : (s.setIsl i x).launches = s.launches := rfl
@[simp] theorem State.setIsl_graphs (s : State) (i : Nat) (x : Island) : (s.setIsl i x).graphs = s.graphs := rfl
@[simp] theorem State.setIsl_replays (s : State) (i : Nat) (x : Island) : (s.setIsl i x).replays = s.replays := rfl
@[simp] theorem State.setIsl_units (s : State) (i : Nat) (x : Island) : (s.setIsl i x).units = s.units := rfl
@[simp] theorem State.setIsl_leases (s : State) (i : Nat) (x : Island) : (s.setIsl i x).leases = s.leases := rfl
@[simp] theorem State.setIsl_waiting (s : State) (i : Nat) (x : Island) : (s.setIsl i x).waiting = s.waiting := rfl
@[simp] theorem State.setIsl_migrating (s : State) (i : Nat) (x : Island) : (s.setIsl i x).migrating = s.migrating := rfl
@[simp] theorem State.setIsl_moved (s : State) (i : Nat) (x : Island) : (s.setIsl i x).moved = s.moved := rfl
@[simp] theorem State.setIsl_nextSeq (s : State) (i : Nat) (x : Island) : (s.setIsl i x).nextSeq = s.nextSeq := rfl
@[simp] theorem State.setIsl_journalBase (s : State) (i : Nat) (x : Island) : (s.setIsl i x).journalBase = s.journalBase := rfl
@[simp] theorem State.setIsl_handlers (s : State) (i : Nat) (x : Island) : (s.setIsl i x).handlers = s.handlers := rfl
@[simp] theorem State.setIsl_staging (s : State) (i : Nat) (x : Island) : (s.setIsl i x).staging = s.staging := rfl
@[simp] theorem State.setIsl_queues (s : State) (i : Nat) (x : Island) : (s.setIsl i x).queues = s.queues := rfl
@[simp] theorem State.setIsl_vfs (s : State) (i : Nat) (x : Island) : (s.setIsl i x).vfs = s.vfs := rfl
@[simp] theorem State.setIsl_pfs (s : State) (i : Nat) (x : Island) : (s.setIsl i x).pfs = s.pfs := rfl
@[simp] theorem State.setIsl_weights (s : State) (i : Nat) (x : Island) : (s.setIsl i x).weights = s.weights := rfl
@[simp] theorem State.setIsl_deficits (s : State) (i : Nat) (x : Island) : (s.setIsl i x).deficits = s.deficits := rfl
@[simp] theorem State.setIsl_cxl (s : State) (i : Nat) (x : Island) : (s.setIsl i x).cxl = s.cxl := rfl
@[simp] theorem State.setIsl_last (s : State) (i : Nat) (x : Island) : (s.setIsl i x).last = s.last := rfl
@[simp] theorem State.setIsl_hostRead (s : State) (i : Nat) (x : Island) : (s.setIsl i x).hostRead = s.hostRead := rfl
@[simp] theorem State.setIsl_packets (s : State) (i : Nat) (x : Island) : (s.setIsl i x).packets = s.packets := rfl
@[simp] theorem State.setIsl_rops (s : State) (i : Nat) (x : Island) : (s.setIsl i x).rops = s.rops := rfl
@[simp] theorem State.setIsl_streams (s : State) (i : Nat) (x : Island) : (s.setIsl i x).streams = s.streams := rfl
@[simp] theorem State.setIsl_colls (s : State) (i : Nat) (x : Island) : (s.setIsl i x).colls = s.colls := rfl
@[simp] theorem State.setIsl_collsMet (s : State) (i : Nat) (x : Island) : (s.setIsl i x).collsMet = s.collsMet := rfl
@[simp] theorem State.setIsl_arrivals (s : State) (i : Nat) (x : Island) : (s.setIsl i x).arrivals = s.arrivals := rfl

/-! ### `State.modIsl` -/

@[simp] theorem State.modIsl_script (s : State) (i : Nat) (g : Island → Island) : (s.modIsl i g).script = s.script := rfl
@[simp] theorem State.modIsl_cur (s : State) (i : Nat) (g : Island → Island) : (s.modIsl i g).cur = s.cur := rfl
@[simp] theorem State.modIsl_free (s : State) (i : Nat) (g : Island → Island) : (s.modIsl i g).free = s.free := rfl
@[simp] theorem State.modIsl_nextId (s : State) (i : Nat) (g : Island → Island) : (s.modIsl i g).nextId = s.nextId := rfl
@[simp] theorem State.modIsl_fuses (s : State) (i : Nat) (g : Island → Island) : (s.modIsl i g).fuses = s.fuses := rfl
@[simp] theorem State.modIsl_boot (s : State) (i : Nat) (g : Island → Island) : (s.modIsl i g).boot = s.boot := rfl
@[simp] theorem State.modIsl_spdm (s : State) (i : Nat) (g : Island → Island) : (s.modIsl i g).spdm = s.spdm := rfl
@[simp] theorem State.modIsl_time (s : State) (i : Nat) (g : Island → Island) : (s.modIsl i g).time = s.time := rfl
@[simp] theorem State.modIsl_cap (s : State) (i : Nat) (g : Island → Island) : (s.modIsl i g).cap = s.cap := rfl
@[simp] theorem State.modIsl_topo (s : State) (i : Nat) (g : Island → Island) : (s.modIsl i g).topo = s.topo := rfl
@[simp] theorem State.modIsl_panelNum (s : State) (i : Nat) (g : Island → Island) : (s.modIsl i g).panelNum = s.panelNum := rfl
@[simp] theorem State.modIsl_panels (s : State) (i : Nat) (g : Island → Island) : (s.modIsl i g).panels = s.panels := rfl
@[simp] theorem State.modIsl_deadPlanes (s : State) (i : Nat) (g : Island → Island) : (s.modIsl i g).deadPlanes = s.deadPlanes := rfl
@[simp] theorem State.modIsl_mem (s : State) (i : Nat) (g : Island → Island) : (s.modIsl i g).mem = s.mem := rfl
@[simp] theorem State.modIsl_crews (s : State) (i : Nat) (g : Island → Island) : (s.modIsl i g).crews = s.crews := rfl
@[simp] theorem State.modIsl_teams (s : State) (i : Nat) (g : Island → Island) : (s.modIsl i g).teams = s.teams := rfl
@[simp] theorem State.modIsl_cores (s : State) (i : Nat) (g : Island → Island) : (s.modIsl i g).cores = s.cores := rfl
@[simp] theorem State.modIsl_isls (s : State) (i : Nat) (g : Island → Island) : (s.modIsl i g).isls = pput s.isls i (g (s.isl i)) := rfl
@[simp] theorem State.modIsl_launches (s : State) (i : Nat) (g : Island → Island) : (s.modIsl i g).launches = s.launches := rfl
@[simp] theorem State.modIsl_graphs (s : State) (i : Nat) (g : Island → Island) : (s.modIsl i g).graphs = s.graphs := rfl
@[simp] theorem State.modIsl_replays (s : State) (i : Nat) (g : Island → Island) : (s.modIsl i g).replays = s.replays := rfl
@[simp] theorem State.modIsl_units (s : State) (i : Nat) (g : Island → Island) : (s.modIsl i g).units = s.units := rfl
@[simp] theorem State.modIsl_leases (s : State) (i : Nat) (g : Island → Island) : (s.modIsl i g).leases = s.leases := rfl
@[simp] theorem State.modIsl_waiting (s : State) (i : Nat) (g : Island → Island) : (s.modIsl i g).waiting = s.waiting := rfl
@[simp] theorem State.modIsl_migrating (s : State) (i : Nat) (g : Island → Island) : (s.modIsl i g).migrating = s.migrating := rfl
@[simp] theorem State.modIsl_moved (s : State) (i : Nat) (g : Island → Island) : (s.modIsl i g).moved = s.moved := rfl
@[simp] theorem State.modIsl_nextSeq (s : State) (i : Nat) (g : Island → Island) : (s.modIsl i g).nextSeq = s.nextSeq := rfl
@[simp] theorem State.modIsl_journalBase (s : State) (i : Nat) (g : Island → Island) : (s.modIsl i g).journalBase = s.journalBase := rfl
@[simp] theorem State.modIsl_handlers (s : State) (i : Nat) (g : Island → Island) : (s.modIsl i g).handlers = s.handlers := rfl
@[simp] theorem State.modIsl_staging (s : State) (i : Nat) (g : Island → Island) : (s.modIsl i g).staging = s.staging := rfl
@[simp] theorem State.modIsl_queues (s : State) (i : Nat) (g : Island → Island) : (s.modIsl i g).queues = s.queues := rfl
@[simp] theorem State.modIsl_vfs (s : State) (i : Nat) (g : Island → Island) : (s.modIsl i g).vfs = s.vfs := rfl
@[simp] theorem State.modIsl_pfs (s : State) (i : Nat) (g : Island → Island) : (s.modIsl i g).pfs = s.pfs := rfl
@[simp] theorem State.modIsl_weights (s : State) (i : Nat) (g : Island → Island) : (s.modIsl i g).weights = s.weights := rfl
@[simp] theorem State.modIsl_deficits (s : State) (i : Nat) (g : Island → Island) : (s.modIsl i g).deficits = s.deficits := rfl
@[simp] theorem State.modIsl_cxl (s : State) (i : Nat) (g : Island → Island) : (s.modIsl i g).cxl = s.cxl := rfl
@[simp] theorem State.modIsl_last (s : State) (i : Nat) (g : Island → Island) : (s.modIsl i g).last = s.last := rfl
@[simp] theorem State.modIsl_hostRead (s : State) (i : Nat) (g : Island → Island) : (s.modIsl i g).hostRead = s.hostRead := rfl
@[simp] theorem State.modIsl_packets (s : State) (i : Nat) (g : Island → Island) : (s.modIsl i g).packets = s.packets := rfl
@[simp] theorem State.modIsl_rops (s : State) (i : Nat) (g : Island → Island) : (s.modIsl i g).rops = s.rops := rfl
@[simp] theorem State.modIsl_streams (s : State) (i : Nat) (g : Island → Island) : (s.modIsl i g).streams = s.streams := rfl
@[simp] theorem State.modIsl_colls (s : State) (i : Nat) (g : Island → Island) : (s.modIsl i g).colls = s.colls := rfl
@[simp] theorem State.modIsl_collsMet (s : State) (i : Nat) (g : Island → Island) : (s.modIsl i g).collsMet = s.collsMet := rfl
@[simp] theorem State.modIsl_arrivals (s : State) (i : Nat) (g : Island → Island) : (s.modIsl i g).arrivals = s.arrivals := rfl

/-! ### `State.modLaunch` -/

@[simp] theorem State.modLaunch_script (s : State) (n : Nat) (g : Launch → Launch) : (s.modLaunch n g).script = s.script := rfl
@[simp] theorem State.modLaunch_cur (s : State) (n : Nat) (g : Launch → Launch) : (s.modLaunch n g).cur = s.cur := rfl
@[simp] theorem State.modLaunch_free (s : State) (n : Nat) (g : Launch → Launch) : (s.modLaunch n g).free = s.free := rfl
@[simp] theorem State.modLaunch_nextId (s : State) (n : Nat) (g : Launch → Launch) : (s.modLaunch n g).nextId = s.nextId := rfl
@[simp] theorem State.modLaunch_fuses (s : State) (n : Nat) (g : Launch → Launch) : (s.modLaunch n g).fuses = s.fuses := rfl
@[simp] theorem State.modLaunch_boot (s : State) (n : Nat) (g : Launch → Launch) : (s.modLaunch n g).boot = s.boot := rfl
@[simp] theorem State.modLaunch_spdm (s : State) (n : Nat) (g : Launch → Launch) : (s.modLaunch n g).spdm = s.spdm := rfl
@[simp] theorem State.modLaunch_time (s : State) (n : Nat) (g : Launch → Launch) : (s.modLaunch n g).time = s.time := rfl
@[simp] theorem State.modLaunch_cap (s : State) (n : Nat) (g : Launch → Launch) : (s.modLaunch n g).cap = s.cap := rfl
@[simp] theorem State.modLaunch_topo (s : State) (n : Nat) (g : Launch → Launch) : (s.modLaunch n g).topo = s.topo := rfl
@[simp] theorem State.modLaunch_panelNum (s : State) (n : Nat) (g : Launch → Launch) : (s.modLaunch n g).panelNum = s.panelNum := rfl
@[simp] theorem State.modLaunch_panels (s : State) (n : Nat) (g : Launch → Launch) : (s.modLaunch n g).panels = s.panels := rfl
@[simp] theorem State.modLaunch_deadPlanes (s : State) (n : Nat) (g : Launch → Launch) : (s.modLaunch n g).deadPlanes = s.deadPlanes := rfl
@[simp] theorem State.modLaunch_mem (s : State) (n : Nat) (g : Launch → Launch) : (s.modLaunch n g).mem = s.mem := rfl
@[simp] theorem State.modLaunch_crews (s : State) (n : Nat) (g : Launch → Launch) : (s.modLaunch n g).crews = s.crews := rfl
@[simp] theorem State.modLaunch_teams (s : State) (n : Nat) (g : Launch → Launch) : (s.modLaunch n g).teams = s.teams := rfl
@[simp] theorem State.modLaunch_cores (s : State) (n : Nat) (g : Launch → Launch) : (s.modLaunch n g).cores = s.cores := rfl
@[simp] theorem State.modLaunch_isls (s : State) (n : Nat) (g : Launch → Launch) : (s.modLaunch n g).isls = s.isls := rfl
@[simp] theorem State.modLaunch_launches (s : State) (n : Nat) (g : Launch → Launch) : (s.modLaunch n g).launches = pmod s.launches n g := rfl
@[simp] theorem State.modLaunch_graphs (s : State) (n : Nat) (g : Launch → Launch) : (s.modLaunch n g).graphs = s.graphs := rfl
@[simp] theorem State.modLaunch_replays (s : State) (n : Nat) (g : Launch → Launch) : (s.modLaunch n g).replays = s.replays := rfl
@[simp] theorem State.modLaunch_units (s : State) (n : Nat) (g : Launch → Launch) : (s.modLaunch n g).units = s.units := rfl
@[simp] theorem State.modLaunch_leases (s : State) (n : Nat) (g : Launch → Launch) : (s.modLaunch n g).leases = s.leases := rfl
@[simp] theorem State.modLaunch_waiting (s : State) (n : Nat) (g : Launch → Launch) : (s.modLaunch n g).waiting = s.waiting := rfl
@[simp] theorem State.modLaunch_migrating (s : State) (n : Nat) (g : Launch → Launch) : (s.modLaunch n g).migrating = s.migrating := rfl
@[simp] theorem State.modLaunch_moved (s : State) (n : Nat) (g : Launch → Launch) : (s.modLaunch n g).moved = s.moved := rfl
@[simp] theorem State.modLaunch_nextSeq (s : State) (n : Nat) (g : Launch → Launch) : (s.modLaunch n g).nextSeq = s.nextSeq := rfl
@[simp] theorem State.modLaunch_journalBase (s : State) (n : Nat) (g : Launch → Launch) : (s.modLaunch n g).journalBase = s.journalBase := rfl
@[simp] theorem State.modLaunch_handlers (s : State) (n : Nat) (g : Launch → Launch) : (s.modLaunch n g).handlers = s.handlers := rfl
@[simp] theorem State.modLaunch_staging (s : State) (n : Nat) (g : Launch → Launch) : (s.modLaunch n g).staging = s.staging := rfl
@[simp] theorem State.modLaunch_queues (s : State) (n : Nat) (g : Launch → Launch) : (s.modLaunch n g).queues = s.queues := rfl
@[simp] theorem State.modLaunch_vfs (s : State) (n : Nat) (g : Launch → Launch) : (s.modLaunch n g).vfs = s.vfs := rfl
@[simp] theorem State.modLaunch_pfs (s : State) (n : Nat) (g : Launch → Launch) : (s.modLaunch n g).pfs = s.pfs := rfl
@[simp] theorem State.modLaunch_weights (s : State) (n : Nat) (g : Launch → Launch) : (s.modLaunch n g).weights = s.weights := rfl
@[simp] theorem State.modLaunch_deficits (s : State) (n : Nat) (g : Launch → Launch) : (s.modLaunch n g).deficits = s.deficits := rfl
@[simp] theorem State.modLaunch_cxl (s : State) (n : Nat) (g : Launch → Launch) : (s.modLaunch n g).cxl = s.cxl := rfl
@[simp] theorem State.modLaunch_last (s : State) (n : Nat) (g : Launch → Launch) : (s.modLaunch n g).last = s.last := rfl
@[simp] theorem State.modLaunch_hostRead (s : State) (n : Nat) (g : Launch → Launch) : (s.modLaunch n g).hostRead = s.hostRead := rfl
@[simp] theorem State.modLaunch_packets (s : State) (n : Nat) (g : Launch → Launch) : (s.modLaunch n g).packets = s.packets := rfl
@[simp] theorem State.modLaunch_rops (s : State) (n : Nat) (g : Launch → Launch) : (s.modLaunch n g).rops = s.rops := rfl
@[simp] theorem State.modLaunch_streams (s : State) (n : Nat) (g : Launch → Launch) : (s.modLaunch n g).streams = s.streams := rfl
@[simp] theorem State.modLaunch_colls (s : State) (n : Nat) (g : Launch → Launch) : (s.modLaunch n g).colls = s.colls := rfl
@[simp] theorem State.modLaunch_collsMet (s : State) (n : Nat) (g : Launch → Launch) : (s.modLaunch n g).collsMet = s.collsMet := rfl
@[simp] theorem State.modLaunch_arrivals (s : State) (n : Nat) (g : Launch → Launch) : (s.modLaunch n g).arrivals = s.arrivals := rfl

/-! ### `State.homeWrite` -/

@[simp] theorem State.homeWrite_script (s : State) (i a : Nat) (bs : List Byte) : (s.homeWrite i a bs).script = s.script := rfl
@[simp] theorem State.homeWrite_cur (s : State) (i a : Nat) (bs : List Byte) : (s.homeWrite i a bs).cur = s.cur := rfl
@[simp] theorem State.homeWrite_free (s : State) (i a : Nat) (bs : List Byte) : (s.homeWrite i a bs).free = s.free := rfl
@[simp] theorem State.homeWrite_nextId (s : State) (i a : Nat) (bs : List Byte) : (s.homeWrite i a bs).nextId = s.nextId := rfl
@[simp] theorem State.homeWrite_fuses (s : State) (i a : Nat) (bs : List Byte) : (s.homeWrite i a bs).fuses = s.fuses := rfl
@[simp] theorem State.homeWrite_boot (s : State) (i a : Nat) (bs : List Byte) : (s.homeWrite i a bs).boot = s.boot := rfl
@[simp] theorem State.homeWrite_spdm (s : State) (i a : Nat) (bs : List Byte) : (s.homeWrite i a bs).spdm = s.spdm := rfl
@[simp] theorem State.homeWrite_time (s : State) (i a : Nat) (bs : List Byte) : (s.homeWrite i a bs).time = s.time := rfl
@[simp] theorem State.homeWrite_cap (s : State) (i a : Nat) (bs : List Byte) : (s.homeWrite i a bs).cap = s.cap := rfl
@[simp] theorem State.homeWrite_topo (s : State) (i a : Nat) (bs : List Byte) : (s.homeWrite i a bs).topo = s.topo := rfl
@[simp] theorem State.homeWrite_panelNum (s : State) (i a : Nat) (bs : List Byte) : (s.homeWrite i a bs).panelNum = s.panelNum := rfl
@[simp] theorem State.homeWrite_panels (s : State) (i a : Nat) (bs : List Byte) : (s.homeWrite i a bs).panels = s.panels := rfl
@[simp] theorem State.homeWrite_deadPlanes (s : State) (i a : Nat) (bs : List Byte) : (s.homeWrite i a bs).deadPlanes = s.deadPlanes := rfl
@[simp] theorem State.homeWrite_mem (s : State) (i a : Nat) (bs : List Byte) : (s.homeWrite i a bs).mem = s.mem.writeBytes (s.homeKey i a) bs := rfl
@[simp] theorem State.homeWrite_crews (s : State) (i a : Nat) (bs : List Byte) : (s.homeWrite i a bs).crews = s.crews := rfl
@[simp] theorem State.homeWrite_teams (s : State) (i a : Nat) (bs : List Byte) : (s.homeWrite i a bs).teams = s.teams := rfl
@[simp] theorem State.homeWrite_cores (s : State) (i a : Nat) (bs : List Byte) : (s.homeWrite i a bs).cores = s.cores := rfl
@[simp] theorem State.homeWrite_isls (s : State) (i a : Nat) (bs : List Byte) : (s.homeWrite i a bs).isls = s.isls := rfl
@[simp] theorem State.homeWrite_launches (s : State) (i a : Nat) (bs : List Byte) : (s.homeWrite i a bs).launches = s.launches := rfl
@[simp] theorem State.homeWrite_graphs (s : State) (i a : Nat) (bs : List Byte) : (s.homeWrite i a bs).graphs = s.graphs := rfl
@[simp] theorem State.homeWrite_replays (s : State) (i a : Nat) (bs : List Byte) : (s.homeWrite i a bs).replays = s.replays := rfl
@[simp] theorem State.homeWrite_units (s : State) (i a : Nat) (bs : List Byte) : (s.homeWrite i a bs).units = s.units := rfl
@[simp] theorem State.homeWrite_leases (s : State) (i a : Nat) (bs : List Byte) : (s.homeWrite i a bs).leases = s.leases := rfl
@[simp] theorem State.homeWrite_waiting (s : State) (i a : Nat) (bs : List Byte) : (s.homeWrite i a bs).waiting = s.waiting := rfl
@[simp] theorem State.homeWrite_migrating (s : State) (i a : Nat) (bs : List Byte) : (s.homeWrite i a bs).migrating = s.migrating := rfl
@[simp] theorem State.homeWrite_moved (s : State) (i a : Nat) (bs : List Byte) : (s.homeWrite i a bs).moved = s.moved := rfl
@[simp] theorem State.homeWrite_nextSeq (s : State) (i a : Nat) (bs : List Byte) : (s.homeWrite i a bs).nextSeq = s.nextSeq := rfl
@[simp] theorem State.homeWrite_journalBase (s : State) (i a : Nat) (bs : List Byte) : (s.homeWrite i a bs).journalBase = s.journalBase := rfl
@[simp] theorem State.homeWrite_handlers (s : State) (i a : Nat) (bs : List Byte) : (s.homeWrite i a bs).handlers = s.handlers := rfl
@[simp] theorem State.homeWrite_staging (s : State) (i a : Nat) (bs : List Byte) : (s.homeWrite i a bs).staging = s.staging := rfl
@[simp] theorem State.homeWrite_queues (s : State) (i a : Nat) (bs : List Byte) : (s.homeWrite i a bs).queues = s.queues := rfl
@[simp] theorem State.homeWrite_vfs (s : State) (i a : Nat) (bs : List Byte) : (s.homeWrite i a bs).vfs = s.vfs := rfl
@[simp] theorem State.homeWrite_pfs (s : State) (i a : Nat) (bs : List Byte) : (s.homeWrite i a bs).pfs = s.pfs := rfl
@[simp] theorem State.homeWrite_weights (s : State) (i a : Nat) (bs : List Byte) : (s.homeWrite i a bs).weights = s.weights := rfl
@[simp] theorem State.homeWrite_deficits (s : State) (i a : Nat) (bs : List Byte) : (s.homeWrite i a bs).deficits = s.deficits := rfl
@[simp] theorem State.homeWrite_cxl (s : State) (i a : Nat) (bs : List Byte) : (s.homeWrite i a bs).cxl = s.cxl := rfl
@[simp] theorem State.homeWrite_last (s : State) (i a : Nat) (bs : List Byte) : (s.homeWrite i a bs).last = s.last := rfl
@[simp] theorem State.homeWrite_hostRead (s : State) (i a : Nat) (bs : List Byte) : (s.homeWrite i a bs).hostRead = s.hostRead := rfl
@[simp] theorem State.homeWrite_packets (s : State) (i a : Nat) (bs : List Byte) : (s.homeWrite i a bs).packets = s.packets := rfl
@[simp] theorem State.homeWrite_rops (s : State) (i a : Nat) (bs : List Byte) : (s.homeWrite i a bs).rops = s.rops := rfl
@[simp] theorem State.homeWrite_streams (s : State) (i a : Nat) (bs : List Byte) : (s.homeWrite i a bs).streams = s.streams := rfl
@[simp] theorem State.homeWrite_colls (s : State) (i a : Nat) (bs : List Byte) : (s.homeWrite i a bs).colls = s.colls := rfl
@[simp] theorem State.homeWrite_collsMet (s : State) (i a : Nat) (bs : List Byte) : (s.homeWrite i a bs).collsMet = s.collsMet := rfl
@[simp] theorem State.homeWrite_arrivals (s : State) (i a : Nat) (bs : List Byte) : (s.homeWrite i a bs).arrivals = s.arrivals := rfl

/-! ### `State.issued` -/

@[simp] theorem State.issued_script (s : State) : (s.issued).script = s.script := rfl
@[simp] theorem State.issued_cur (s : State) : (s.issued).cur = none := rfl
@[simp] theorem State.issued_free (s : State) : (s.issued).free = s.free := rfl
@[simp] theorem State.issued_nextId (s : State) : (s.issued).nextId = s.nextId := rfl
@[simp] theorem State.issued_fuses (s : State) : (s.issued).fuses = s.fuses := rfl
@[simp] theorem State.issued_boot (s : State) : (s.issued).boot = s.boot := rfl
@[simp] theorem State.issued_spdm (s : State) : (s.issued).spdm = s.spdm := rfl
@[simp] theorem State.issued_time (s : State) : (s.issued).time = s.time := rfl
@[simp] theorem State.issued_cap (s : State) : (s.issued).cap = s.cap := rfl
@[simp] theorem State.issued_topo (s : State) : (s.issued).topo = s.topo := rfl
@[simp] theorem State.issued_panelNum (s : State) : (s.issued).panelNum = s.panelNum := rfl
@[simp] theorem State.issued_panels (s : State) : (s.issued).panels = s.panels := rfl
@[simp] theorem State.issued_deadPlanes (s : State) : (s.issued).deadPlanes = s.deadPlanes := rfl
@[simp] theorem State.issued_mem (s : State) : (s.issued).mem = s.mem := rfl
@[simp] theorem State.issued_crews (s : State) : (s.issued).crews = s.crews := rfl
@[simp] theorem State.issued_teams (s : State) : (s.issued).teams = s.teams := rfl
@[simp] theorem State.issued_cores (s : State) : (s.issued).cores = s.cores := rfl
@[simp] theorem State.issued_isls (s : State) : (s.issued).isls = s.isls := rfl
@[simp] theorem State.issued_launches (s : State) : (s.issued).launches = s.launches := rfl
@[simp] theorem State.issued_graphs (s : State) : (s.issued).graphs = s.graphs := rfl
@[simp] theorem State.issued_replays (s : State) : (s.issued).replays = s.replays := rfl
@[simp] theorem State.issued_units (s : State) : (s.issued).units = s.units := rfl
@[simp] theorem State.issued_leases (s : State) : (s.issued).leases = s.leases := rfl
@[simp] theorem State.issued_waiting (s : State) : (s.issued).waiting = s.waiting := rfl
@[simp] theorem State.issued_migrating (s : State) : (s.issued).migrating = s.migrating := rfl
@[simp] theorem State.issued_moved (s : State) : (s.issued).moved = s.moved := rfl
@[simp] theorem State.issued_nextSeq (s : State) : (s.issued).nextSeq = s.nextSeq := rfl
@[simp] theorem State.issued_journalBase (s : State) : (s.issued).journalBase = s.journalBase := rfl
@[simp] theorem State.issued_handlers (s : State) : (s.issued).handlers = s.handlers := rfl
@[simp] theorem State.issued_staging (s : State) : (s.issued).staging = s.staging := rfl
@[simp] theorem State.issued_queues (s : State) : (s.issued).queues = s.queues := rfl
@[simp] theorem State.issued_vfs (s : State) : (s.issued).vfs = s.vfs := rfl
@[simp] theorem State.issued_pfs (s : State) : (s.issued).pfs = s.pfs := rfl
@[simp] theorem State.issued_weights (s : State) : (s.issued).weights = s.weights := rfl
@[simp] theorem State.issued_deficits (s : State) : (s.issued).deficits = s.deficits := rfl
@[simp] theorem State.issued_cxl (s : State) : (s.issued).cxl = s.cxl := rfl
@[simp] theorem State.issued_last (s : State) : (s.issued).last = s.last := rfl
@[simp] theorem State.issued_hostRead (s : State) : (s.issued).hostRead = s.hostRead := rfl
@[simp] theorem State.issued_packets (s : State) : (s.issued).packets = s.packets := rfl
@[simp] theorem State.issued_rops (s : State) : (s.issued).rops = s.rops := rfl
@[simp] theorem State.issued_streams (s : State) : (s.issued).streams = s.streams := rfl
@[simp] theorem State.issued_colls (s : State) : (s.issued).colls = s.colls := rfl
@[simp] theorem State.issued_collsMet (s : State) : (s.issued).collsMet = s.collsMet := rfl
@[simp] theorem State.issued_arrivals (s : State) : (s.issued).arrivals = s.arrivals := rfl

/-! ### `Crew.kset` -/

@[simp] theorem Crew.kset_isl (c : Crew) (n : Nat) (x : DWord) : (c.kset n x).isl = c.isl := rfl
@[simp] theorem Crew.kset_core (c : Crew) (n : Nat) (x : DWord) : (c.kset n x).core = c.core := rfl
@[simp] theorem Crew.kset_quarter (c : Crew) (n : Nat) (x : DWord) : (c.kset n x).quarter = c.quarter := rfl
@[simp] theorem Crew.kset_team (c : Crew) (n : Nat) (x : DWord) : (c.kset n x).team = c.team := rfl
@[simp] theorem Crew.kset_num (c : Crew) (n : Nat) (x : DWord) : (c.kset n x).num = c.num := rfl
@[simp] theorem Crew.kset_nreg (c : Crew) (n : Nat) (x : DWord) : (c.kset n x).nreg = c.nreg := rfl
@[simp] theorem Crew.kset_pc (c : Crew) (n : Nat) (x : DWord) : (c.kset n x).pc = c.pc := rfl
@[simp] theorem Crew.kset_hdr (c : Crew) (n : Nat) (x : DWord) : (c.kset n x).hdr = c.hdr := rfl
@[simp] theorem Crew.kset_idx (c : Crew) (n : Nat) (x : DWord) : (c.kset n x).idx = c.idx := rfl
@[simp] theorem Crew.kset_left (c : Crew) (n : Nat) (x : DWord) : (c.kset n x).left = c.left := rfl
@[simp] theorem Crew.kset_fa (c : Crew) (n : Nat) (x : DWord) : (c.kset n x).fa = c.fa := rfl
@[simp] theorem Crew.kset_fb (c : Crew) (n : Nat) (x : DWord) : (c.kset n x).fb = c.fb := rfl
@[simp] theorem Crew.kset_wm (c : Crew) (n : Nat) (x : DWord) : (c.kset n x).wm = c.wm := rfl
@[simp] theorem Crew.kset_em (c : Crew) (n : Nat) (x : DWord) : (c.kset n x).em = c.em := rfl
@[simp] theorem Crew.kset_m (c : Crew) (n : Nat) (x : DWord) : (c.kset n x).m = c.m := rfl
@[simp] theorem Crew.kset_k (c : Crew) (n : Nat) (x : DWord) : (c.kset n x).k = pset 0 c.k n x := rfl
@[simp] theorem Crew.kset_v (c : Crew) (n : Nat) (x : DWord) : (c.kset n x).v = c.v := rfl
@[simp] theorem Crew.kset_hist (c : Crew) (n : Nat) (x : DWord) : (c.kset n x).hist = c.hist := rfl
@[simp] theorem Crew.kset_fxs (c : Crew) (n : Nat) (x : DWord) : (c.kset n x).fxs = c.fxs := rfl
@[simp] theorem Crew.kset_ops (c : Crew) (n : Nat) (x : DWord) : (c.kset n x).ops = c.ops := rfl
@[simp] theorem Crew.kset_slot (c : Crew) (n : Nat) (x : DWord) : (c.kset n x).slot = c.slot := rfl
@[simp] theorem Crew.kset_handler (c : Crew) (n : Nat) (x : DWord) : (c.kset n x).handler = c.handler := rfl
@[simp] theorem Crew.kset_queued (c : Crew) (n : Nat) (x : DWord) : (c.kset n x).queued = c.queued := rfl
@[simp] theorem Crew.kset_trap (c : Crew) (n : Nat) (x : DWord) : (c.kset n x).trap = c.trap := rfl
@[simp] theorem Crew.kset_sect (c : Crew) (n : Nat) (x : DWord) : (c.kset n x).sect = c.sect := rfl
@[simp] theorem Crew.kset_triggered (c : Crew) (n : Nat) (x : DWord) : (c.kset n x).triggered = c.triggered := rfl
@[simp] theorem Crew.kset_trigDone (c : Crew) (n : Nat) (x : DWord) : (c.kset n x).trigDone = c.trigDone := rfl
@[simp] theorem Crew.kset_trigWait (c : Crew) (n : Nat) (x : DWord) : (c.kset n x).trigWait = c.trigWait := rfl
@[simp] theorem Crew.kset_exiting (c : Crew) (n : Nat) (x : DWord) : (c.kset n x).exiting = c.exiting := rfl
@[simp] theorem Crew.kset_relScope (c : Crew) (n : Nat) (x : DWord) : (c.kset n x).relScope = c.relScope := rfl
@[simp] theorem Crew.kset_syncLines (c : Crew) (n : Nat) (x : DWord) : (c.kset n x).syncLines = c.syncLines := rfl
@[simp] theorem Crew.kset_syncOp (c : Crew) (n : Nat) (x : DWord) : (c.kset n x).syncOp = c.syncOp := rfl
@[simp] theorem Crew.kset_inRound (c : Crew) (n : Nat) (x : DWord) : (c.kset n x).inRound = c.inRound := rfl
@[simp] theorem Crew.kset_place (c : Crew) (n : Nat) (x : DWord) : (c.kset n x).place = c.place := rfl
@[simp] theorem Crew.kset_stall (c : Crew) (n : Nat) (x : DWord) : (c.kset n x).stall = c.stall := rfl
@[simp] theorem Crew.kset_stamp (c : Crew) (n : Nat) (x : DWord) : (c.kset n x).stamp = c.stamp := rfl
@[simp] theorem Crew.kset_wstamp (c : Crew) (n : Nat) (x : DWord) : (c.kset n x).wstamp = c.wstamp := rfl
@[simp] theorem Crew.kset_entered (c : Crew) (n : Nat) (x : DWord) : (c.kset n x).entered = c.entered := rfl
@[simp] theorem Crew.kset_run (c : Crew) (n : Nat) (x : DWord) : (c.kset n x).run = c.run := rfl
@[simp] theorem Crew.kset_yielded (c : Crew) (n : Nat) (x : DWord) : (c.kset n x).yielded = c.yielded := rfl
@[simp] theorem Crew.kset_waited (c : Crew) (n : Nat) (x : DWord) : (c.kset n x).waited = c.waited := rfl
@[simp] theorem Crew.kset_cw (c : Crew) (n : Nat) (x : DWord) : (c.kset n x).cw = c.cw := rfl
@[simp] theorem Crew.kset_lastTime (c : Crew) (n : Nat) (x : DWord) : (c.kset n x).lastTime = c.lastTime := rfl

/-! ### `Crew.vset` -/

@[simp] theorem Crew.vset_isl (c : Crew) (n : Nat) (x : Lanes 32) : (c.vset n x).isl = c.isl := rfl
@[simp] theorem Crew.vset_core (c : Crew) (n : Nat) (x : Lanes 32) : (c.vset n x).core = c.core := rfl
@[simp] theorem Crew.vset_quarter (c : Crew) (n : Nat) (x : Lanes 32) : (c.vset n x).quarter = c.quarter := rfl
@[simp] theorem Crew.vset_team (c : Crew) (n : Nat) (x : Lanes 32) : (c.vset n x).team = c.team := rfl
@[simp] theorem Crew.vset_num (c : Crew) (n : Nat) (x : Lanes 32) : (c.vset n x).num = c.num := rfl
@[simp] theorem Crew.vset_nreg (c : Crew) (n : Nat) (x : Lanes 32) : (c.vset n x).nreg = c.nreg := rfl
@[simp] theorem Crew.vset_pc (c : Crew) (n : Nat) (x : Lanes 32) : (c.vset n x).pc = c.pc := rfl
@[simp] theorem Crew.vset_hdr (c : Crew) (n : Nat) (x : Lanes 32) : (c.vset n x).hdr = c.hdr := rfl
@[simp] theorem Crew.vset_idx (c : Crew) (n : Nat) (x : Lanes 32) : (c.vset n x).idx = c.idx := rfl
@[simp] theorem Crew.vset_left (c : Crew) (n : Nat) (x : Lanes 32) : (c.vset n x).left = c.left := rfl
@[simp] theorem Crew.vset_fa (c : Crew) (n : Nat) (x : Lanes 32) : (c.vset n x).fa = c.fa := rfl
@[simp] theorem Crew.vset_fb (c : Crew) (n : Nat) (x : Lanes 32) : (c.vset n x).fb = c.fb := rfl
@[simp] theorem Crew.vset_wm (c : Crew) (n : Nat) (x : Lanes 32) : (c.vset n x).wm = c.wm := rfl
@[simp] theorem Crew.vset_em (c : Crew) (n : Nat) (x : Lanes 32) : (c.vset n x).em = c.em := rfl
@[simp] theorem Crew.vset_m (c : Crew) (n : Nat) (x : Lanes 32) : (c.vset n x).m = c.m := rfl
@[simp] theorem Crew.vset_k (c : Crew) (n : Nat) (x : Lanes 32) : (c.vset n x).k = c.k := rfl
@[simp] theorem Crew.vset_v (c : Crew) (n : Nat) (x : Lanes 32) : (c.vset n x).v = pset (lanesAll 0) c.v n x := rfl
@[simp] theorem Crew.vset_hist (c : Crew) (n : Nat) (x : Lanes 32) : (c.vset n x).hist = c.hist := rfl
@[simp] theorem Crew.vset_fxs (c : Crew) (n : Nat) (x : Lanes 32) : (c.vset n x).fxs = c.fxs := rfl
@[simp] theorem Crew.vset_ops (c : Crew) (n : Nat) (x : Lanes 32) : (c.vset n x).ops = c.ops := rfl
@[simp] theorem Crew.vset_slot (c : Crew) (n : Nat) (x : Lanes 32) : (c.vset n x).slot = c.slot := rfl
@[simp] theorem Crew.vset_handler (c : Crew) (n : Nat) (x : Lanes 32) : (c.vset n x).handler = c.handler := rfl
@[simp] theorem Crew.vset_queued (c : Crew) (n : Nat) (x : Lanes 32) : (c.vset n x).queued = c.queued := rfl
@[simp] theorem Crew.vset_trap (c : Crew) (n : Nat) (x : Lanes 32) : (c.vset n x).trap = c.trap := rfl
@[simp] theorem Crew.vset_sect (c : Crew) (n : Nat) (x : Lanes 32) : (c.vset n x).sect = c.sect := rfl
@[simp] theorem Crew.vset_triggered (c : Crew) (n : Nat) (x : Lanes 32) : (c.vset n x).triggered = c.triggered := rfl
@[simp] theorem Crew.vset_trigDone (c : Crew) (n : Nat) (x : Lanes 32) : (c.vset n x).trigDone = c.trigDone := rfl
@[simp] theorem Crew.vset_trigWait (c : Crew) (n : Nat) (x : Lanes 32) : (c.vset n x).trigWait = c.trigWait := rfl
@[simp] theorem Crew.vset_exiting (c : Crew) (n : Nat) (x : Lanes 32) : (c.vset n x).exiting = c.exiting := rfl
@[simp] theorem Crew.vset_relScope (c : Crew) (n : Nat) (x : Lanes 32) : (c.vset n x).relScope = c.relScope := rfl
@[simp] theorem Crew.vset_syncLines (c : Crew) (n : Nat) (x : Lanes 32) : (c.vset n x).syncLines = c.syncLines := rfl
@[simp] theorem Crew.vset_syncOp (c : Crew) (n : Nat) (x : Lanes 32) : (c.vset n x).syncOp = c.syncOp := rfl
@[simp] theorem Crew.vset_inRound (c : Crew) (n : Nat) (x : Lanes 32) : (c.vset n x).inRound = c.inRound := rfl
@[simp] theorem Crew.vset_place (c : Crew) (n : Nat) (x : Lanes 32) : (c.vset n x).place = c.place := rfl
@[simp] theorem Crew.vset_stall (c : Crew) (n : Nat) (x : Lanes 32) : (c.vset n x).stall = c.stall := rfl
@[simp] theorem Crew.vset_stamp (c : Crew) (n : Nat) (x : Lanes 32) : (c.vset n x).stamp = c.stamp := rfl
@[simp] theorem Crew.vset_wstamp (c : Crew) (n : Nat) (x : Lanes 32) : (c.vset n x).wstamp = c.wstamp := rfl
@[simp] theorem Crew.vset_entered (c : Crew) (n : Nat) (x : Lanes 32) : (c.vset n x).entered = c.entered := rfl
@[simp] theorem Crew.vset_run (c : Crew) (n : Nat) (x : Lanes 32) : (c.vset n x).run = c.run := rfl
@[simp] theorem Crew.vset_yielded (c : Crew) (n : Nat) (x : Lanes 32) : (c.vset n x).yielded = c.yielded := rfl
@[simp] theorem Crew.vset_waited (c : Crew) (n : Nat) (x : Lanes 32) : (c.vset n x).waited = c.waited := rfl
@[simp] theorem Crew.vset_cw (c : Crew) (n : Nat) (x : Lanes 32) : (c.vset n x).cw = c.cw := rfl
@[simp] theorem Crew.vset_lastTime (c : Crew) (n : Nat) (x : Lanes 32) : (c.vset n x).lastTime = c.lastTime := rfl

/-! ### `Crew.push` -/

@[simp] theorem Crew.push_isl (c : Crew) (h : Hist) : (c.push h).isl = c.isl := rfl
@[simp] theorem Crew.push_core (c : Crew) (h : Hist) : (c.push h).core = c.core := rfl
@[simp] theorem Crew.push_quarter (c : Crew) (h : Hist) : (c.push h).quarter = c.quarter := rfl
@[simp] theorem Crew.push_team (c : Crew) (h : Hist) : (c.push h).team = c.team := rfl
@[simp] theorem Crew.push_num (c : Crew) (h : Hist) : (c.push h).num = c.num := rfl
@[simp] theorem Crew.push_nreg (c : Crew) (h : Hist) : (c.push h).nreg = c.nreg := rfl
@[simp] theorem Crew.push_pc (c : Crew) (h : Hist) : (c.push h).pc = c.pc := rfl
@[simp] theorem Crew.push_hdr (c : Crew) (h : Hist) : (c.push h).hdr = c.hdr := rfl
@[simp] theorem Crew.push_idx (c : Crew) (h : Hist) : (c.push h).idx = c.idx := rfl
@[simp] theorem Crew.push_left (c : Crew) (h : Hist) : (c.push h).left = c.left := rfl
@[simp] theorem Crew.push_fa (c : Crew) (h : Hist) : (c.push h).fa = c.fa := rfl
@[simp] theorem Crew.push_fb (c : Crew) (h : Hist) : (c.push h).fb = c.fb := rfl
@[simp] theorem Crew.push_wm (c : Crew) (h : Hist) : (c.push h).wm = c.wm := rfl
@[simp] theorem Crew.push_em (c : Crew) (h : Hist) : (c.push h).em = c.em := rfl
@[simp] theorem Crew.push_m (c : Crew) (h : Hist) : (c.push h).m = c.m := rfl
@[simp] theorem Crew.push_k (c : Crew) (h : Hist) : (c.push h).k = c.k := rfl
@[simp] theorem Crew.push_v (c : Crew) (h : Hist) : (c.push h).v = c.v := rfl
@[simp] theorem Crew.push_hist (c : Crew) (h : Hist) : (c.push h).hist = h :: c.hist.take 15 := rfl
@[simp] theorem Crew.push_fxs (c : Crew) (h : Hist) : (c.push h).fxs = c.fxs := rfl
@[simp] theorem Crew.push_ops (c : Crew) (h : Hist) : (c.push h).ops = c.ops := rfl
@[simp] theorem Crew.push_slot (c : Crew) (h : Hist) : (c.push h).slot = c.slot := rfl
@[simp] theorem Crew.push_handler (c : Crew) (h : Hist) : (c.push h).handler = c.handler := rfl
@[simp] theorem Crew.push_queued (c : Crew) (h : Hist) : (c.push h).queued = c.queued := rfl
@[simp] theorem Crew.push_trap (c : Crew) (h : Hist) : (c.push h).trap = c.trap := rfl
@[simp] theorem Crew.push_sect (c : Crew) (h : Hist) : (c.push h).sect = c.sect := rfl
@[simp] theorem Crew.push_triggered (c : Crew) (h : Hist) : (c.push h).triggered = c.triggered := rfl
@[simp] theorem Crew.push_trigDone (c : Crew) (h : Hist) : (c.push h).trigDone = c.trigDone := rfl
@[simp] theorem Crew.push_trigWait (c : Crew) (h : Hist) : (c.push h).trigWait = c.trigWait := rfl
@[simp] theorem Crew.push_exiting (c : Crew) (h : Hist) : (c.push h).exiting = c.exiting := rfl
@[simp] theorem Crew.push_relScope (c : Crew) (h : Hist) : (c.push h).relScope = c.relScope := rfl
@[simp] theorem Crew.push_syncLines (c : Crew) (h : Hist) : (c.push h).syncLines = c.syncLines := rfl
@[simp] theorem Crew.push_syncOp (c : Crew) (h : Hist) : (c.push h).syncOp = c.syncOp := rfl
@[simp] theorem Crew.push_inRound (c : Crew) (h : Hist) : (c.push h).inRound = c.inRound := rfl
@[simp] theorem Crew.push_place (c : Crew) (h : Hist) : (c.push h).place = c.place := rfl
@[simp] theorem Crew.push_stall (c : Crew) (h : Hist) : (c.push h).stall = c.stall := rfl
@[simp] theorem Crew.push_stamp (c : Crew) (h : Hist) : (c.push h).stamp = c.stamp := rfl
@[simp] theorem Crew.push_wstamp (c : Crew) (h : Hist) : (c.push h).wstamp = c.wstamp := rfl
@[simp] theorem Crew.push_entered (c : Crew) (h : Hist) : (c.push h).entered = c.entered := rfl
@[simp] theorem Crew.push_run (c : Crew) (h : Hist) : (c.push h).run = c.run := rfl
@[simp] theorem Crew.push_yielded (c : Crew) (h : Hist) : (c.push h).yielded = c.yielded := rfl
@[simp] theorem Crew.push_waited (c : Crew) (h : Hist) : (c.push h).waited = c.waited := rfl
@[simp] theorem Crew.push_cw (c : Crew) (h : Hist) : (c.push h).cw = c.cw := rfl
@[simp] theorem Crew.push_lastTime (c : Crew) (h : Hist) : (c.push h).lastTime = c.lastTime := rfl

/-! ### `Crew.addOp` -/

@[simp] theorem Crew.addOp_isl (c : Crew) (o : Op) : (c.addOp o).isl = c.isl := rfl
@[simp] theorem Crew.addOp_core (c : Crew) (o : Op) : (c.addOp o).core = c.core := rfl
@[simp] theorem Crew.addOp_quarter (c : Crew) (o : Op) : (c.addOp o).quarter = c.quarter := rfl
@[simp] theorem Crew.addOp_team (c : Crew) (o : Op) : (c.addOp o).team = c.team := rfl
@[simp] theorem Crew.addOp_num (c : Crew) (o : Op) : (c.addOp o).num = c.num := rfl
@[simp] theorem Crew.addOp_nreg (c : Crew) (o : Op) : (c.addOp o).nreg = c.nreg := rfl
@[simp] theorem Crew.addOp_pc (c : Crew) (o : Op) : (c.addOp o).pc = c.pc := rfl
@[simp] theorem Crew.addOp_hdr (c : Crew) (o : Op) : (c.addOp o).hdr = c.hdr := rfl
@[simp] theorem Crew.addOp_idx (c : Crew) (o : Op) : (c.addOp o).idx = c.idx := rfl
@[simp] theorem Crew.addOp_left (c : Crew) (o : Op) : (c.addOp o).left = c.left := rfl
@[simp] theorem Crew.addOp_fa (c : Crew) (o : Op) : (c.addOp o).fa = c.fa := rfl
@[simp] theorem Crew.addOp_fb (c : Crew) (o : Op) : (c.addOp o).fb = c.fb := rfl
@[simp] theorem Crew.addOp_wm (c : Crew) (o : Op) : (c.addOp o).wm = c.wm := rfl
@[simp] theorem Crew.addOp_em (c : Crew) (o : Op) : (c.addOp o).em = c.em := rfl
@[simp] theorem Crew.addOp_m (c : Crew) (o : Op) : (c.addOp o).m = c.m := rfl
@[simp] theorem Crew.addOp_k (c : Crew) (o : Op) : (c.addOp o).k = c.k := rfl
@[simp] theorem Crew.addOp_v (c : Crew) (o : Op) : (c.addOp o).v = c.v := rfl
@[simp] theorem Crew.addOp_hist (c : Crew) (o : Op) : (c.addOp o).hist = c.hist := rfl
@[simp] theorem Crew.addOp_fxs (c : Crew) (o : Op) : (c.addOp o).fxs = c.fxs := rfl
@[simp] theorem Crew.addOp_ops (c : Crew) (o : Op) : (c.addOp o).ops = c.ops ++ [o] := rfl
@[simp] theorem Crew.addOp_slot (c : Crew) (o : Op) : (c.addOp o).slot = c.slot := rfl
@[simp] theorem Crew.addOp_handler (c : Crew) (o : Op) : (c.addOp o).handler = c.handler := rfl
@[simp] theorem Crew.addOp_queued (c : Crew) (o : Op) : (c.addOp o).queued = c.queued := rfl
@[simp] theorem Crew.addOp_trap (c : Crew) (o : Op) : (c.addOp o).trap = c.trap := rfl
@[simp] theorem Crew.addOp_sect (c : Crew) (o : Op) : (c.addOp o).sect = c.sect := rfl
@[simp] theorem Crew.addOp_triggered (c : Crew) (o : Op) : (c.addOp o).triggered = c.triggered := rfl
@[simp] theorem Crew.addOp_trigDone (c : Crew) (o : Op) : (c.addOp o).trigDone = c.trigDone := rfl
@[simp] theorem Crew.addOp_trigWait (c : Crew) (o : Op) : (c.addOp o).trigWait = c.trigWait := rfl
@[simp] theorem Crew.addOp_exiting (c : Crew) (o : Op) : (c.addOp o).exiting = c.exiting := rfl
@[simp] theorem Crew.addOp_relScope (c : Crew) (o : Op) : (c.addOp o).relScope = c.relScope := rfl
@[simp] theorem Crew.addOp_syncLines (c : Crew) (o : Op) : (c.addOp o).syncLines = c.syncLines := rfl
@[simp] theorem Crew.addOp_syncOp (c : Crew) (o : Op) : (c.addOp o).syncOp = c.syncOp := rfl
@[simp] theorem Crew.addOp_inRound (c : Crew) (o : Op) : (c.addOp o).inRound = c.inRound := rfl
@[simp] theorem Crew.addOp_place (c : Crew) (o : Op) : (c.addOp o).place = c.place := rfl
@[simp] theorem Crew.addOp_stall (c : Crew) (o : Op) : (c.addOp o).stall = c.stall := rfl
@[simp] theorem Crew.addOp_stamp (c : Crew) (o : Op) : (c.addOp o).stamp = c.stamp := rfl
@[simp] theorem Crew.addOp_wstamp (c : Crew) (o : Op) : (c.addOp o).wstamp = c.wstamp := rfl
@[simp] theorem Crew.addOp_entered (c : Crew) (o : Op) : (c.addOp o).entered = c.entered := rfl
@[simp] theorem Crew.addOp_run (c : Crew) (o : Op) : (c.addOp o).run = c.run := rfl
@[simp] theorem Crew.addOp_yielded (c : Crew) (o : Op) : (c.addOp o).yielded = c.yielded := rfl
@[simp] theorem Crew.addOp_waited (c : Crew) (o : Op) : (c.addOp o).waited = c.waited := rfl
@[simp] theorem Crew.addOp_cw (c : Crew) (o : Op) : (c.addOp o).cw = c.cw := rfl
@[simp] theorem Crew.addOp_lastTime (c : Crew) (o : Op) : (c.addOp o).lastTime = c.lastTime := rfl

/-! ### `Crew.raiseFlags` -/

@[simp] theorem Crew.raiseFlags_isl (c : Crew) (x : FFlags) : (c.raiseFlags x).isl = c.isl := rfl
@[simp] theorem Crew.raiseFlags_core (c : Crew) (x : FFlags) : (c.raiseFlags x).core = c.core := rfl
@[simp] theorem Crew.raiseFlags_quarter (c : Crew) (x : FFlags) : (c.raiseFlags x).quarter = c.quarter := rfl
@[simp] theorem Crew.raiseFlags_team (c : Crew) (x : FFlags) : (c.raiseFlags x).team = c.team := rfl
@[simp] theorem Crew.raiseFlags_num (c : Crew) (x : FFlags) : (c.raiseFlags x).num = c.num := rfl
@[simp] theorem Crew.raiseFlags_nreg (c : Crew) (x : FFlags) : (c.raiseFlags x).nreg = c.nreg := rfl
@[simp] theorem Crew.raiseFlags_pc (c : Crew) (x : FFlags) : (c.raiseFlags x).pc = c.pc := rfl
@[simp] theorem Crew.raiseFlags_hdr (c : Crew) (x : FFlags) : (c.raiseFlags x).hdr = c.hdr := rfl
@[simp] theorem Crew.raiseFlags_idx (c : Crew) (x : FFlags) : (c.raiseFlags x).idx = c.idx := rfl
@[simp] theorem Crew.raiseFlags_left (c : Crew) (x : FFlags) : (c.raiseFlags x).left = c.left := rfl
@[simp] theorem Crew.raiseFlags_fa (c : Crew) (x : FFlags) : (c.raiseFlags x).fa = c.fa := rfl
@[simp] theorem Crew.raiseFlags_fb (c : Crew) (x : FFlags) : (c.raiseFlags x).fb = c.fb := rfl
@[simp] theorem Crew.raiseFlags_wm (c : Crew) (x : FFlags) : (c.raiseFlags x).wm = c.wm := rfl
@[simp] theorem Crew.raiseFlags_em (c : Crew) (x : FFlags) : (c.raiseFlags x).em = c.em := rfl
@[simp] theorem Crew.raiseFlags_m (c : Crew) (x : FFlags) : (c.raiseFlags x).m = c.m := rfl
@[simp] theorem Crew.raiseFlags_k (c : Crew) (x : FFlags) : (c.raiseFlags x).k = c.k := rfl
@[simp] theorem Crew.raiseFlags_v (c : Crew) (x : FFlags) : (c.raiseFlags x).v = c.v := rfl
@[simp] theorem Crew.raiseFlags_hist (c : Crew) (x : FFlags) : (c.raiseFlags x).hist = c.hist := rfl
@[simp] theorem Crew.raiseFlags_fxs (c : Crew) (x : FFlags) : (c.raiseFlags x).fxs = c.fxs ||| x.setWidth 64 := rfl
@[simp] theorem Crew.raiseFlags_ops (c : Crew) (x : FFlags) : (c.raiseFlags x).ops = c.ops := rfl
@[simp] theorem Crew.raiseFlags_slot (c : Crew) (x : FFlags) : (c.raiseFlags x).slot = c.slot := rfl
@[simp] theorem Crew.raiseFlags_handler (c : Crew) (x : FFlags) : (c.raiseFlags x).handler = c.handler := rfl
@[simp] theorem Crew.raiseFlags_queued (c : Crew) (x : FFlags) : (c.raiseFlags x).queued = c.queued := rfl
@[simp] theorem Crew.raiseFlags_trap (c : Crew) (x : FFlags) : (c.raiseFlags x).trap = c.trap := rfl
@[simp] theorem Crew.raiseFlags_sect (c : Crew) (x : FFlags) : (c.raiseFlags x).sect = c.sect := rfl
@[simp] theorem Crew.raiseFlags_triggered (c : Crew) (x : FFlags) : (c.raiseFlags x).triggered = c.triggered := rfl
@[simp] theorem Crew.raiseFlags_trigDone (c : Crew) (x : FFlags) : (c.raiseFlags x).trigDone = c.trigDone := rfl
@[simp] theorem Crew.raiseFlags_trigWait (c : Crew) (x : FFlags) : (c.raiseFlags x).trigWait = c.trigWait := rfl
@[simp] theorem Crew.raiseFlags_exiting (c : Crew) (x : FFlags) : (c.raiseFlags x).exiting = c.exiting := rfl
@[simp] theorem Crew.raiseFlags_relScope (c : Crew) (x : FFlags) : (c.raiseFlags x).relScope = c.relScope := rfl
@[simp] theorem Crew.raiseFlags_syncLines (c : Crew) (x : FFlags) : (c.raiseFlags x).syncLines = c.syncLines := rfl
@[simp] theorem Crew.raiseFlags_syncOp (c : Crew) (x : FFlags) : (c.raiseFlags x).syncOp = c.syncOp := rfl
@[simp] theorem Crew.raiseFlags_inRound (c : Crew) (x : FFlags) : (c.raiseFlags x).inRound = c.inRound := rfl
@[simp] theorem Crew.raiseFlags_place (c : Crew) (x : FFlags) : (c.raiseFlags x).place = c.place := rfl
@[simp] theorem Crew.raiseFlags_stall (c : Crew) (x : FFlags) : (c.raiseFlags x).stall = c.stall := rfl
@[simp] theorem Crew.raiseFlags_stamp (c : Crew) (x : FFlags) : (c.raiseFlags x).stamp = c.stamp := rfl
@[simp] theorem Crew.raiseFlags_wstamp (c : Crew) (x : FFlags) : (c.raiseFlags x).wstamp = c.wstamp := rfl
@[simp] theorem Crew.raiseFlags_entered (c : Crew) (x : FFlags) : (c.raiseFlags x).entered = c.entered := rfl
@[simp] theorem Crew.raiseFlags_run (c : Crew) (x : FFlags) : (c.raiseFlags x).run = c.run := rfl
@[simp] theorem Crew.raiseFlags_yielded (c : Crew) (x : FFlags) : (c.raiseFlags x).yielded = c.yielded := rfl
@[simp] theorem Crew.raiseFlags_waited (c : Crew) (x : FFlags) : (c.raiseFlags x).waited = c.waited := rfl
@[simp] theorem Crew.raiseFlags_cw (c : Crew) (x : FFlags) : (c.raiseFlags x).cw = c.cw := rfl
@[simp] theorem Crew.raiseFlags_lastTime (c : Crew) (x : FFlags) : (c.raiseFlags x).lastTime = c.lastTime := rfl

/-! ### `Crew.advance` -/

@[simp] theorem Crew.advance_isl (c : Crew) (n : Nat) : (c.advance n).isl = c.isl := rfl
@[simp] theorem Crew.advance_core (c : Crew) (n : Nat) : (c.advance n).core = c.core := rfl
@[simp] theorem Crew.advance_quarter (c : Crew) (n : Nat) : (c.advance n).quarter = c.quarter := rfl
@[simp] theorem Crew.advance_team (c : Crew) (n : Nat) : (c.advance n).team = c.team := rfl
@[simp] theorem Crew.advance_num (c : Crew) (n : Nat) : (c.advance n).num = c.num := rfl
@[simp] theorem Crew.advance_nreg (c : Crew) (n : Nat) : (c.advance n).nreg = c.nreg := rfl
@[simp] theorem Crew.advance_pc (c : Crew) (n : Nat) : (c.advance n).pc = c.pc + BitVec.ofNat 64 n := rfl
@[simp] theorem Crew.advance_hdr (c : Crew) (n : Nat) : (c.advance n).hdr = c.hdr := rfl
@[simp] theorem Crew.advance_idx (c : Crew) (n : Nat) : (c.advance n).idx = c.idx + 1 := rfl
@[simp] theorem Crew.advance_left (c : Crew) (n : Nat) : (c.advance n).left = c.left - 1 := rfl
@[simp] theorem Crew.advance_fa (c : Crew) (n : Nat) : (c.advance n).fa = c.fa := rfl
@[simp] theorem Crew.advance_fb (c : Crew) (n : Nat) : (c.advance n).fb = c.fb := rfl
@[simp] theorem Crew.advance_wm (c : Crew) (n : Nat) : (c.advance n).wm = 0 := rfl
@[simp] theorem Crew.advance_em (c : Crew) (n : Nat) : (c.advance n).em = c.em := rfl
@[simp] theorem Crew.advance_m (c : Crew) (n : Nat) : (c.advance n).m = c.m := rfl
@[simp] theorem Crew.advance_k (c : Crew) (n : Nat) : (c.advance n).k = c.k := rfl
@[simp] theorem Crew.advance_v (c : Crew) (n : Nat) : (c.advance n).v = c.v := rfl
@[simp] theorem Crew.advance_hist (c : Crew) (n : Nat) : (c.advance n).hist = c.hist := rfl
@[simp] theorem Crew.advance_fxs (c : Crew) (n : Nat) : (c.advance n).fxs = c.fxs := rfl
@[simp] theorem Crew.advance_ops (c : Crew) (n : Nat) : (c.advance n).ops = c.ops := rfl
@[simp] theorem Crew.advance_slot (c : Crew) (n : Nat) : (c.advance n).slot = c.slot := rfl
@[simp] theorem Crew.advance_handler (c : Crew) (n : Nat) : (c.advance n).handler = c.handler := rfl
@[simp] theorem Crew.advance_queued (c : Crew) (n : Nat) : (c.advance n).queued = c.queued := rfl
@[simp] theorem Crew.advance_trap (c : Crew) (n : Nat) : (c.advance n).trap = c.trap := rfl
@[simp] theorem Crew.advance_sect (c : Crew) (n : Nat) : (c.advance n).sect = c.sect := rfl
@[simp] theorem Crew.advance_triggered (c : Crew) (n : Nat) : (c.advance n).triggered = c.triggered := rfl
@[simp] theorem Crew.advance_trigDone (c : Crew) (n : Nat) : (c.advance n).trigDone = c.trigDone := rfl
@[simp] theorem Crew.advance_trigWait (c : Crew) (n : Nat) : (c.advance n).trigWait = c.trigWait := rfl
@[simp] theorem Crew.advance_exiting (c : Crew) (n : Nat) : (c.advance n).exiting = c.exiting := rfl
@[simp] theorem Crew.advance_relScope (c : Crew) (n : Nat) : (c.advance n).relScope = c.relScope := rfl
@[simp] theorem Crew.advance_syncLines (c : Crew) (n : Nat) : (c.advance n).syncLines = c.syncLines := rfl
@[simp] theorem Crew.advance_syncOp (c : Crew) (n : Nat) : (c.advance n).syncOp = c.syncOp := rfl
@[simp] theorem Crew.advance_inRound (c : Crew) (n : Nat) : (c.advance n).inRound = c.inRound := rfl
@[simp] theorem Crew.advance_place (c : Crew) (n : Nat) : (c.advance n).place = c.place := rfl
@[simp] theorem Crew.advance_stall (c : Crew) (n : Nat) : (c.advance n).stall = .none := rfl
@[simp] theorem Crew.advance_stamp (c : Crew) (n : Nat) : (c.advance n).stamp = c.stamp := rfl
@[simp] theorem Crew.advance_wstamp (c : Crew) (n : Nat) : (c.advance n).wstamp = c.wstamp := rfl
@[simp] theorem Crew.advance_entered (c : Crew) (n : Nat) : (c.advance n).entered = c.entered := rfl
@[simp] theorem Crew.advance_run (c : Crew) (n : Nat) : (c.advance n).run = c.run := rfl
@[simp] theorem Crew.advance_yielded (c : Crew) (n : Nat) : (c.advance n).yielded = false := rfl
@[simp] theorem Crew.advance_waited (c : Crew) (n : Nat) : (c.advance n).waited = c.waited := rfl
@[simp] theorem Crew.advance_cw (c : Crew) (n : Nat) : (c.advance n).cw = none := rfl
@[simp] theorem Crew.advance_lastTime (c : Crew) (n : Nat) : (c.advance n).lastTime = c.lastTime := rfl

/-! ### `Crew.jump` -/

@[simp] theorem Crew.jump_isl (c : Crew) (a : DWord) : (c.jump a).isl = c.isl := rfl
@[simp] theorem Crew.jump_core (c : Crew) (a : DWord) : (c.jump a).core = c.core := rfl
@[simp] theorem Crew.jump_quarter (c : Crew) (a : DWord) : (c.jump a).quarter = c.quarter := rfl
@[simp] theorem Crew.jump_team (c : Crew) (a : DWord) : (c.jump a).team = c.team := rfl
@[simp] theorem Crew.jump_num (c : Crew) (a : DWord) : (c.jump a).num = c.num := rfl
@[simp] theorem Crew.jump_nreg (c : Crew) (a : DWord) : (c.jump a).nreg = c.nreg := rfl
@[simp] theorem Crew.jump_pc (c : Crew) (a : DWord) : (c.jump a).pc = a := rfl
@[simp] theorem Crew.jump_hdr (c : Crew) (a : DWord) : (c.jump a).hdr = a := rfl
@[simp] theorem Crew.jump_idx (c : Crew) (a : DWord) : (c.jump a).idx = 0 := rfl
@[simp] theorem Crew.jump_left (c : Crew) (a : DWord) : (c.jump a).left = 0 := rfl
@[simp] theorem Crew.jump_fa (c : Crew) (a : DWord) : (c.jump a).fa = c.fa := rfl
@[simp] theorem Crew.jump_fb (c : Crew) (a : DWord) : (c.jump a).fb = c.fb := rfl
@[simp] theorem Crew.jump_wm (c : Crew) (a : DWord) : (c.jump a).wm = 0 := rfl
@[simp] theorem Crew.jump_em (c : Crew) (a : DWord) : (c.jump a).em = c.em := rfl
@[simp] theorem Crew.jump_m (c : Crew) (a : DWord) : (c.jump a).m = c.m := rfl
@[simp] theorem Crew.jump_k (c : Crew) (a : DWord) : (c.jump a).k = c.k := rfl
@[simp] theorem Crew.jump_v (c : Crew) (a : DWord) : (c.jump a).v = c.v := rfl
@[simp] theorem Crew.jump_hist (c : Crew) (a : DWord) : (c.jump a).hist = c.hist := rfl
@[simp] theorem Crew.jump_fxs (c : Crew) (a : DWord) : (c.jump a).fxs = c.fxs := rfl
@[simp] theorem Crew.jump_ops (c : Crew) (a : DWord) : (c.jump a).ops = c.ops := rfl
@[simp] theorem Crew.jump_slot (c : Crew) (a : DWord) : (c.jump a).slot = c.slot := rfl
@[simp] theorem Crew.jump_handler (c : Crew) (a : DWord) : (c.jump a).handler = c.handler := rfl
@[simp] theorem Crew.jump_queued (c : Crew) (a : DWord) : (c.jump a).queued = c.queued := rfl
@[simp] theorem Crew.jump_trap (c : Crew) (a : DWord) : (c.jump a).trap = c.trap := rfl
@[simp] theorem Crew.jump_sect (c : Crew) (a : DWord) : (c.jump a).sect = c.sect := rfl
@[simp] theorem Crew.jump_triggered (c : Crew) (a : DWord) : (c.jump a).triggered = c.triggered := rfl
@[simp] theorem Crew.jump_trigDone (c : Crew) (a : DWord) : (c.jump a).trigDone = c.trigDone := rfl
@[simp] theorem Crew.jump_trigWait (c : Crew) (a : DWord) : (c.jump a).trigWait = c.trigWait := rfl
@[simp] theorem Crew.jump_exiting (c : Crew) (a : DWord) : (c.jump a).exiting = c.exiting := rfl
@[simp] theorem Crew.jump_relScope (c : Crew) (a : DWord) : (c.jump a).relScope = c.relScope := rfl
@[simp] theorem Crew.jump_syncLines (c : Crew) (a : DWord) : (c.jump a).syncLines = c.syncLines := rfl
@[simp] theorem Crew.jump_syncOp (c : Crew) (a : DWord) : (c.jump a).syncOp = c.syncOp := rfl
@[simp] theorem Crew.jump_inRound (c : Crew) (a : DWord) : (c.jump a).inRound = c.inRound := rfl
@[simp] theorem Crew.jump_place (c : Crew) (a : DWord) : (c.jump a).place = c.place := rfl
@[simp] theorem Crew.jump_stall (c : Crew) (a : DWord) : (c.jump a).stall = .none := rfl
@[simp] theorem Crew.jump_stamp (c : Crew) (a : DWord) : (c.jump a).stamp = c.stamp := rfl
@[simp] theorem Crew.jump_wstamp (c : Crew) (a : DWord) : (c.jump a).wstamp = c.wstamp := rfl
@[simp] theorem Crew.jump_entered (c : Crew) (a : DWord) : (c.jump a).entered = c.entered := rfl
@[simp] theorem Crew.jump_run (c : Crew) (a : DWord) : (c.jump a).run = c.run := rfl
@[simp] theorem Crew.jump_yielded (c : Crew) (a : DWord) : (c.jump a).yielded = false := rfl
@[simp] theorem Crew.jump_waited (c : Crew) (a : DWord) : (c.jump a).waited = c.waited := rfl
@[simp] theorem Crew.jump_cw (c : Crew) (a : DWord) : (c.jump a).cw = none := rfl
@[simp] theorem Crew.jump_lastTime (c : Crew) (a : DWord) : (c.jump a).lastTime = c.lastTime := rfl

end Sys2Proof.Machine
end

