-- ==== Sys2Proof/Laws/Frame.lean ====
section
/-! SUPPORT. What the frames of a word's meaning do: one lemma each for the frame of a crew, of a word that changes its crew
alone, of a sequencer, and for the step that runs a decoded word. -/

namespace Sys2Proof.Machine

theorem curCrew_of {s : State} {id : Nat} {c : Crew} (h1 : s.cur = some (.crew id)) (h2 : pfind s.crews id = some c) :
    s.curCrew = some (id, c) := by simp [State.curCrew, h1, h2]

theorem curCrew_some {s : State} {id : Nat} {c : Crew} (h : s.curCrew = some (id, c)) :
    s.cur = some (.crew id) ∧ pfind s.crews id = some c := by
  unfold State.curCrew at h
  split at h
  · rename_i n hn
    cases hp : pfind s.crews n with
    | none => simp [hp] at h
    | some d =>
      simp only [hp, Option.map_some, Option.some.injEq, Prod.mk.injEq] at h
      obtain ⟨rfl, rfl⟩ := h
      exact ⟨hn, hp⟩
  · simp at h

/-- A word whose operands are there has its effect. -/
theorem runCrew_next {i : Instr} {f : Form} {s : State} {id : Nat} {c : Crew} {body : State → Nat → Crew → Eff}
    (h : s.curCrew = some (id, c)) (hp : c.preFault i.desc f = none) :
    runCrew i f s body = .next ((body s id c).finish s id f.len.bytes) := by simp [runCrew, h, hp]

/-- A word whose operands are not there takes the trap of R31 or R120. -/
theorem runCrew_trap {i : Instr} {f : Form} {s : State} {id : Nat} {c : Crew} {body : State → Nat → Crew → Eff} {x : Cause}
    (h : s.curCrew = some (id, c)) (hp : c.preFault i.desc f = some x) :
    runCrew i f s body = .next (s.raiseTrap id x 0).issued := by simp [runCrew, h, hp, Eff.finish]

/-- A word that changes its crew alone: the crew, changed and past the word. -/
theorem runLocal_next {i : Instr} {f : Form} {s : State} {id : Nat} {c : Crew} {g : Crew → Crew}
    (h : s.curCrew = some (id, c)) (hp : c.preFault i.desc f = none) :
    runLocal i f s g = .next ((s.setCrew id ((g c).advance f.len.bytes)).issued) := by
  simp [runLocal, runCrew_next h hp, Eff.finish, State.modCrew, State.setCrew, pmod, pput_pput]

/-- A word of a sequencer has its effect on the sequencer selected. -/
theorem runSeq_next {f : Form} {s : State} {ck : Nat} {cp : Bool} {body : State → Nat → Bool → Sequencer → SeqEff}
    (h : s.cur = some (.seq ck cp)) :
    runSeq f s body
      = .next ((body s ck cp (if cp then (s.core ck).cs else (s.core ck).ms)).finish s ck cp f.len.bytes) := by
  simp [runSeq, h]

/-- A word never stops the machine but for want of an executor. -/
theorem runCrew_cases (i : Instr) (f : Form) (s : State) (body : State → Nat → Crew → Eff) :
    (s.curCrew = none ∧ runCrew i f s body = .fault .noExecutor) ∨ ∃ t, runCrew i f s body = .next t := by
  unfold runCrew
  split
  · exact .inl ⟨‹_›, rfl⟩
  · split <;> exact .inr ⟨_, rfl⟩

/-- The step of a selected executor runs the word that it fetches, once its core's TLB holds the translation (R304,
assumption 1). -/
theorem step_runs {s : State} {x : Exec} {i : Instr} (h1 : s.cur = some x) (h2 : s.clauseHolds x = false)
    (h3 : s.fetch x = .ok i) : step s = exec i (s.fetched x) := by simp [step, h1, runExec, h2, h3]

end Sys2Proof.Machine
end

