-- ==== Sys2Proof/Tests/Slice0.lean ====
section
/-! SUPPORT. Tests of the model on words and values written out from the spec, and for every statement of
Certificates/Slice0/Obligations.lean states and operands that meet its hypotheses together, clause by clause. -/

namespace Sys2Proof.Tests

set_option Elab.async false

open Sys2Proof Sys2Proof.Machine Sys2Proof.Stated

/-- Crew 1 of a team of one on core 0 of island 0, in the middle of a clause. -/
def crew : Crew :=
  { Crew.fresh with team := 1, nreg := 64, pc := 0x10008, hdr := 0x10000, left := 3, slot := 0x100000 }

/-- The machine with that crew's record as given, selected; the page at 0x10000 is mapped to itself. -/
def st (c : Crew) : State := (State.reset.withFetchWord 32 0x68).setCrew 1 c

/-- A word on vector registers, and one on uniform registers. -/
def fm (mod : BitVec 6) : Form :=
  { Form.zero with mod := mod, nd := true, dst := 4, a := ⟨.v 6, .none⟩, b := ⟨.v 8, .none⟩, c := ⟨.v 10, .none⟩ }
def fu (mod : BitVec 6) : Form :=
  { Form.zero with mod := mod, nd := true, dst := 4, a := ⟨.k 6, .none⟩, b := ⟨.k 8, .none⟩, c := ⟨.k 10, .none⟩ }

theorem ok_of {ε α : Type} {e : Except ε α} {a : α} (h : e.toOption = some a) : e = .ok a := by
  cases e <;> simp_all [Except.toOption]

/-! ### Words that work on their crew alone -/

theorem witness_int_lanes :
    ∀ p ∈ ([(.add, 0), (.sub, 3), (.mul, 1), (.mad, 2), (.and, 11), (.or, 12), (.xor, 11), (.not, 12), (.abs, 3), (.min, 1),
      (.max, 2), (.mulh, 3), (.shl, 12), (.shr, 11), (.sra, 3), (.rotl, 12), (.clz, 12), (.popc, 12), (.brev, 11), (.bfe, 3),
      (.bfi, 12), (.mov, 12)] : List ((Form → Instr) × BitVec 6)),
      Runs (st crew) 1 crew ∧ Ready crew (p.1 (fm p.2)) (fm p.2) ∧ (fm p.2).ty = p.2.toNat ∧ (fm p.2).m4 = false ∧
        (fm p.2).m5 = false := by
  delta Runs Ready; decide +kernel

theorem witness_int_uniform :
    ∀ p ∈ ([(.add, 0), (.sub, 3), (.mul, 1), (.mad, 2), (.and, 11), (.or, 12), (.xor, 11), (.not, 12), (.abs, 3), (.min, 1),
      (.max, 2), (.mulh, 3), (.shl, 12), (.shr, 11), (.sra, 3), (.rotl, 12), (.clz, 12), (.popc, 12), (.brev, 11), (.bfe, 3),
      (.bfi, 12), (.mov, 12)] : List ((Form → Instr) × BitVec 6)),
      Runs (st crew) 1 crew ∧ Ready crew (p.1 (fu (32 + p.2))) (fu (32 + p.2)) ∧ (fu (32 + p.2)).ty = p.2.toNat ∧
        (fu (32 + p.2)).m4 = false ∧ (fu (32 + p.2)).m5 = true := by
  delta Runs Ready; decide +kernel

theorem witness_saturation :
    Runs (st crew) 1 crew ∧
    ∀ p ∈ ([(.add, [0, 1, 2, 3]), (.sub, [0, 1, 2, 3]), (.mul, [0, 1, 2, 3]), (.mad, [0, 1, 2, 3]), (.abs, [1, 3])] :
        List ((Form → Instr) × List (BitVec 6))), ∀ ty ∈ p.2,
      Ready crew (p.1 (fm (16 + ty))) (fm (16 + ty)) ∧ (fm (16 + ty)).ty = ty.toNat ∧ (fm (16 + ty)).m4 = true ∧
        (fm (16 + ty)).m5 = false ∧
      Ready crew (p.1 (fu (48 + ty))) (fu (48 + ty)) ∧ (fu (48 + ty)).ty = ty.toNat ∧ (fu (48 + ty)).m4 = true ∧
        (fu (48 + ty)).m5 = true := by
  delta Runs Ready; decide +kernel

theorem witness_moves :
    (Ready crew (.lea (fm 0x20)) (fm 0x20) ∧ (fm 0x20).mod.getLsbD 0 = false) ∧
    (Ready crew (.lea (fu 1)) (fu 1) ∧ (fu 1).mod.getLsbD 0 = true) ∧
    (Ready crew (.sel (fm 12)) (fm 12) ∧ (fm 12).m5 = false ∧ (fm 12).m4 = false) ∧
    (Ready crew (.sel (fm 0x1B)) (fm 0x1B) ∧ (fm 0x1B).m5 = false ∧ (fm 0x1B).m4 = true) ∧
    (Ready crew (.sel (fu 0x2C)) (fu 0x2C) ∧ (fu 0x2C).m5 = true) ∧
    (Ready crew (.cmp (fm 0x33)) (fm 0x33) ∧ (intTys (fm 0x33).ty || (bitTys (fm 0x33).ty && decide ((fm 0x33).hi < 2))) = true ∧
      (fm 0x33).dst.toNat ≤ 7) := by
  delta Ready; decide +kernel

/-- A form of each word that works on its crew alone: its mod field, and whether its operands are masks or uniform. -/
def quietForms : List ((Form → Instr) × Form) :=
  [(.nop, Form.zero), (.add, fm 0), (.sub, fm 3), (.mul, fm 1), (.mulh, fm 3), (.mad, fm 2), (.abs, fm 1), (.min, fm 0),
    (.max, fm 3), (.and, fm 11), (.or, fm 12), (.xor, fm 11), (.not, fm 12), (.shl, fm 11), (.shr, fm 12), (.sra, fm 3),
    (.rotl, fm 11), (.clz, fm 12), (.popc, fm 12), (.brev, fm 12), (.bfe, fm 3), (.bfi, fm 12), (.mov, fm 12),
    (.lea, fm 0x20), (.sel, fm 12), (.cmp, fm 0x33), (.fneg, fm 8), (.fabs, fm 8), (.fcls, fm 8), (.acs2, fm 4), (.perm, fm 11),
    (.voteAny, fm 0), (.voteAll, fm 0), (.voteBallot, fm 0), (.mspl, fm 11), (.mskIf, fm 0), (.mskIfM, fm 16), (.mskElse, fm 0),
    (.mskEnd, fm 0), (.mand, fm 0), (.mor, fm 0), (.mxor, fm 0), (.mnot, fm 0), (.mcnt, fm 0), (.mmovMask, fm 0),
    (.mmovFromUniform, fm 1), (.mmovToUniform, fm 2), (.scmp, fm 0), (.sfnd, fm 0), (.shash, fm 0), (.hmix, fm 11),
    (.part, fm 0)]


def floatForms : List ((Form → Instr) × Form) :=
  [(.fadd, fm 8), (.fsub, fm 8), (.fmul, fm 8), (.ffma, fm 8), (.fmin, fm 8), (.fmax, fm 8), (.frnd, fm 8), (.fsqrt, fm 8),
    (.fscl, fm 8), (.fxtr, fm 24), (.cvt, fm 18), (.fcmp, fm 8), (.fclamp, fm 8), (.hadd2, fm 9), (.hsub2, fm 10), (.hmul2, fm 4),
    (.hmin2, fm 5), (.hmax2, fm 9), (.hfma2, fm 9), (.bfma2, fm 10), (.hcmp2, fm 9), (.lred, fu 3), (.lscan, fm 8)]

def unitForms : List ((Form → Instr) × Form) := [(.fexpf, fm 8), (.flog2, fm 8), (.frcp, fm 8), (.frsq, fm 8)]

theorem witness_forms_cover :
    quietForms.map Prod.fst = quietWords ∧ floatForms.map Prod.fst = floatWords ∧ unitForms.map Prod.fst = unitWords :=
  ⟨rfl, rfl, rfl⟩

theorem accepts_of {i : Instr} {f : Form} (h : i.desc.modOk = true)
    (hd : (match i.desc.dst with | .m _ top => decide (f.dst.toNat ≤ top) | _ => true) = true) : Accepts i f := by
  refine ⟨h, fun req top e => ?_⟩
  rw [e] at hd
  simpa using hd

theorem witness_frames :
    ∀ p ∈ quietForms ++ floatForms ++ unitForms,
      Runs (st crew) 1 crew ∧ Ready crew (p.1 p.2) p.2 ∧ Accepts (p.1 p.2) p.2 := by
  have h : ∀ p ∈ quietForms ++ floatForms ++ unitForms,
      (p.1 p.2).desc.modOk = true ∧
        (match (p.1 p.2).desc.dst with | .m _ top => decide (p.2.dst.toNat ≤ top) | _ => true) = true := by
    decide +kernel
  have g : ∀ p ∈ quietForms ++ floatForms ++ unitForms, Runs (st crew) 1 crew ∧ Ready crew (p.1 p.2) p.2 := by
    delta Runs Ready; decide +kernel
  exact fun p hp => ⟨(g p hp).1, (g p hp).2, accepts_of (h p hp).1 (h p hp).2⟩

/-- In lanes 0 to 9 of `v6` a signalling NaN, the two zeros, −1, the two infinities, the least f32 above 1, ±2^−128 and the
least subnormal; in the others a NaN; in `v8` a NaN. -/
def floatCrew : Crew :=
  { crew with
    v := [(6, lanesBy (fun l => if l = 0 then 0x7F800001 else if l = 1 then 0 else if l = 2 then 0x80000000
        else if l = 3 then 0xBF800000 else if l = 4 then 0x7F800000 else if l = 5 then 0xFF800000
        else if l = 6 then 0x3F800001 else if l = 7 then 0x00200000 else if l = 8 then 0x80200000 else if l = 9 then 1
        else 0xFFC00000)), (8, lanesAll 0x7FC00001)] }

theorem witness_float_values :
    (Runs (st floatCrew) 1 floatCrew ∧ (fm 8).ty = 8 ∧ (fm 8).m5 = false) ∧
    (∀ mk ∈ ([.fadd, .fsub, .fmul, .fneg, .fabs, .fexpf, .flog2, .frcp, .frsq] : List (Form → Instr)),
      Ready floatCrew (mk (fm 8)) (fm 8)) ∧
    nan32 (floatCrew.src32 (fm 8) 8 (fm 8).a 0) = true ∧
    (nan32 (floatCrew.src32 (fm 8) 8 (fm 8).a 1) = false ∧ nan32 (floatCrew.src32 (fm 8) 8 (fm 8).b 1) = true) ∧
    let a (l : Nat) : Word := floatCrew.src32 (fm 8) 8 (fm 8).a l
    (mag (a 1) = 0 ∧ mag (a 2) = 0) ∧
    (0x3F800000 < mag (a 6) ∧ mag (a 6) ≤ 0x7F800000 ∧ 0x3F800000 < mag (a 5) ∧ mag (a 5) ≤ 0x7F800000) ∧
    (a 4 = 0x7F800000 ∧ mag (a 4) = 0x7F800000 ∧ mag (a 5) = 0x7F800000) ∧
    (0x80000000 < (a 3).toNat ∧ (a 3).toNat ≤ 0xFF800000 ∧ 0x80000000 < (a 5).toNat ∧ (a 5).toNat ≤ 0xFF800000) ∧
    (0 < mag (a 7) ∧ mag (a 7) ≤ 0x00200000 ∧ 0 < mag (a 8) ∧ mag (a 8) ≤ 0x00200000 ∧ 0 < mag (a 9) ∧ mag (a 9) ≤ 0x00200000) := by
  delta Runs Ready; decide +kernel

/-! ### Steps, words, clauses -/

/-- The machine with `exit` (opcode 0x026) placed for a crew. -/
def exitPlaced : State := State.reset.withFetchWord 64 0x98

/-- The machine with `seq.end` (opcode 0x0A2) placed for the matrix sequencer. -/
def endPlaced : State := State.reset.withFetchWord 64 0x288

theorem witness_word_at :
    WordAt exitPlaced .crew 0 (exitPlaced.launchOf (crewAt exitPlaced 1)) 0x10008 1 (.exit Form.zero) := by
  refine ⟨⟨0x10008, false⟩, ⟨0x10008, false⟩, ok_of (by decide +kernel), by decide +kernel, ok_of (by decide +kernel),
    ok_of (by decide +kernel), by decide +kernel⟩

theorem witness_step_crew : Runs exitPlaced 1 (crewAt exitPlaced 1) ∧ (crewAt exitPlaced 1).clauseWaits = false := by
  delta Runs; decide +kernel

theorem witness_step_sequencer :
    SeqRuns endPlaced 0 false ∧ ((endPlaced.core 0).seq false).pc = 0x10008 ∧ ((endPlaced.core 0).seq false).left = 1 ∧
      WordAt endPlaced .matrix 0 (seqLaunch endPlaced 0) 0x10008 1 (.seqEnd Form.zero) := by
  refine ⟨by delta SeqRuns; decide +kernel, by decide +kernel, by decide +kernel, ⟨0x10008, false⟩, ⟨0x10008, false⟩,
    ok_of (by decide +kernel), by decide +kernel, ok_of (by decide +kernel), ok_of (by decide +kernel), by decide +kernel⟩

theorem witness_step_event :
    ({ State.reset with script := [.panelReset] } : State).cur = none ∧ Instr.isWord .panelReset = false := by decide +kernel

/-- The state that an outcome gives. -/
def after (o : Host.Outcome State Fault Refusal) : Option State := match o with | .next t => some t | _ => none

/-- What holds of the next state. -/
def thenHolds (o : Host.Outcome State Fault Refusal) (p : State → Bool) : Bool := match o with | .next t => p t | _ => false

/-- R63, R168: `exit` frees the context of a crew with nothing outstanding; `seq.end` leaves its sequencer ending. -/
theorem test_placed_words_run :
    thenHolds (step exitPlaced) (fun t => t.cur == none && t.crews == []) = true ∧
    thenHolds (step endPlaced) (fun t => (t.core 0).ms.st == .ending) = true := by decide +kernel

/-- The three worked words of R41, and words of each family written out from the fields of R32 to R36 and the opcodes of R50. -/
theorem test_decode_examples :
    (decodeWord .crew 0x0064C00070C80004#128).toOption = some (.add { Form.zero with
      nd := true, dst := 12, a := ⟨.v 7, .none⟩, b := ⟨.imm false, .none⟩, imm0 := 100 }) ∧
    (decodeWord .crew 0x00006400020200D00148810D#128).toOption = some (.ffma { Form.zero with
      len := .medium, mod := 8, nd := true, dst := 20, a := ⟨.h 0, .none⟩, b := ⟨.v 3, .bf 4⟩, c := ⟨.k 2, .none⟩ }) ∧
    (decodeWord .crew 0x0F100917#128).toOption = some (.clauseHeader ⟨5, 9, 1, 15⟩) := by decide +kernel

theorem test_decode_families :
    (decodeWord .crew 0x0#128).toOption = some (.nop Form.zero) ∧
    (decodeWord .crew 0x1001E0408AB0C0#128).toOption = some (.ld { Form.zero with
      mod := 43, nd := true, dst := 8, a := ⟨.k 4, .none⟩, b := ⟨.v 7, .none⟩, imm0 := 16 }) ∧
    (decodeWord .crew 0x0010000000000080#128).toOption = some (.bra { Form.zero with imm0 := 16 }) ∧
    (decodeWord .crew 0x0000020060488100#128).toOption = some (.fadd { Form.zero with
      mod := 8, nd := true, dst := 4, a := ⟨.v 6, .none⟩, b := ⟨.v 8, .none⟩ }) ∧
    (decodeWord .crew 0x0000020060489180#128).toOption = some (.hadd2 { Form.zero with
      mod := 9, nd := true, dst := 4, a := ⟨.v 6, .none⟩, b := ⟨.v 8, .none⟩ }) ∧
    (decodeWord .crew 0x603801CC#128).toOption = some (.voteBallot { Form.zero with
      nd := true, dst := 3, a := ⟨.v 6, .none⟩ }) ∧
    (decodeWord .crew 0x000000C02018020C#128).toOption = some (.mand { Form.zero with
      nd := true, dst := 1, a := ⟨.v 2, .none⟩, b := ⟨.v 3, .none⟩ }) ∧
    (decodeWord .crew 0x0006030080480244#128).toOption = some (.scmp { Form.zero with
      nd := true, dst := 4, a := ⟨.v 8, .none⟩, b := ⟨.v 12, .none⟩, c := ⟨.v 6, .none⟩ }) ∧
    (decodeWord .matrix 0x294#128).toOption = some (.flip Form.zero) ∧
    (decodeWord .crew 0x20500032CC#128).toOption = some (.barWait { Form.zero with mod := 3, a := ⟨.k 5, .none⟩ }) ∧
    (decodeWord .crew 0x314#128).toOption = some (.fenceRel Form.zero) ∧
    (decodeWord .crew 0x328#128).toOption = some (.eret Form.zero) ∧
    (decodeWord .crew 0x40A8138C#128).toOption = some (.tld { Form.zero with
      mod := 1, nd := true, dst := 10, a := ⟨.v 4, .none⟩ }) ∧
    (decodeWord .crew 0x020781A050001394#128).toOption = some (.relay { Form.zero with
      mod := 1, a := ⟨.k 5, .none⟩, b := ⟨.k 6, .none⟩, c := ⟨.k 7, .none⟩ }) ∧
    (decodeWord .crew 0x020781A0500003C0#128).toOption = some (.put { Form.zero with
      a := ⟨.k 5, .none⟩, b := ⟨.k 6, .none⟩, c := ⟨.k 7, .none⟩ }) := by decide +kernel

/-- Ill-formed instructions, one for each check: a reserved mod, a reserved x bit, an unused source, fs without a flag, a
destination without nd, an odd pair, a k number with its top bits, a field too wide for the length, a header without
instructions, a word of the other executor, a step that no word encodes. -/
theorem test_ill_formed_refused :
    ∀ i ∈ ([.add (fm 8), .add { fm 0 with x := 1 }, .not (fm 11), .add { fm 0 with c := .zero, fs := true },
      .add { fm 0 with c := .zero, nd := false }, .add { fm 2 with c := .zero, a := ⟨.v 7, .none⟩ },
      .bri { Form.zero with a := ⟨.v 6, .none⟩ }, .add { fm 0 with c := .zero, imm1 := 1 }, .clauseHeader ⟨0, 0, 15, 15⟩,
      .seqEnd Form.zero, .panelReset] : List Instr), i.wellFormed .crew = false := by decide +kernel

theorem test_well_formed_accepted :
    ∀ i ∈ ([.add { fm 0 with c := .zero }, .bri { Form.zero with a := ⟨.k 6, .none⟩ }, .clauseHeader ⟨1, 0, 15, 15⟩] : List Instr),
      i.wellFormed .crew = true := by decide +kernel

theorem witness_decode :
    (Instr.exit Form.zero).wellFormed .crew = true ∧ (decodeWord .crew 0x98#128).toOption = some (.exit Form.zero) ∧
    ((0x98#128).extractLsb' 0 2).toNat ≠ 3 ∧ ((0xFF00007#128).extractLsb' 0 2).toNat = 3 ∧ isControl (opcOf 0x98#128) = true := by
  decide +kernel

/-! ### Control -/

/-- Code at 0x10000: a header and `exit`; at 0x10020 a header again. -/
def code (s : State) : State :=
  let m := (s.mem.writeBytes 0x10000 (leBytes 8 0xFF00007)).writeBytes 0x10008 (leBytes 8 0x98)
  { s with mem := m.writeBytes 0x10020 (leBytes 8 0xFF00007) }

/-- A crew whose `k6` is the header at 0x10020 and whose `k4` is 1. -/
def jumper : Crew := { crew with k := [(4, 1), (6, 0x10020), (7, 0x10022)] }
def js : State := code (st jumper)

/-- From 0x10008 to 0x10020 and to 0x10000. -/
def fwd : Form := { Form.zero with dst := 4, nd := true, imm0 := 6 }
def back : Form := { Form.zero with dst := 5, nd := true, imm0 := 0xFFFE }
def ind : Form := { Form.zero with dst := 4, nd := true, mod := 16, a := ⟨.k 6, .none⟩ }

theorem witness_transfers :
    Runs js 1 jumper ∧ Ready jumper (.bra fwd) fwd ∧ HeaderAt js jumper (jumper.pc + fwd.offset * 4) ∧
    Ready jumper (.brc { ind with mod := 0 }) { ind with mod := 0 } ∧
    Ready jumper (.bri ind) ind ∧ Ready jumper (.ret ind) ind ∧ Ready jumper (.call fwd) fwd ∧ Ready jumper (.callI ind) ind ∧
    HeaderAt js jumper (jumper.uni ind 2 ind.a) ∧
    (Ready jumper (.loop back) back ∧ jumper.kget back.dst.toNat ≠ 1 ∧ HeaderAt js jumper (jumper.pc + back.offset * 4)) ∧
    (Ready jumper (.loop fwd) fwd ∧ jumper.kget fwd.dst.toNat = 1) := by
  delta Runs Ready HeaderAt; decide +kernel

theorem witness_conditional :
    (brcHolds jumper { fwd with a := ⟨.k 6, .none⟩, mod := 1 } = true ∧
      HeaderAt js jumper (jumper.pc + Form.offset { fwd with a := ⟨.k 6, .none⟩, mod := 1 } * 4)) ∧
    brcHolds jumper { fwd with a := ⟨.k 6, .none⟩ } = false := by
  delta HeaderAt; decide +kernel

/-- To 0x10008 itself, which is no header, and to 0x10022, which is not aligned. -/
def fzero : Form := { back with imm0 := 0 }
def fmid : Form := { ind with a := ⟨.k 7, .none⟩ }

theorem witness_target_trap :
    (Ready jumper (.bra fzero) fzero ∧ Ready jumper (.call fzero) fzero ∧
      (Ready jumper (.brc { fzero with a := ⟨.k 6, .none⟩, mod := 1 }) { fzero with a := ⟨.k 6, .none⟩, mod := 1 } ∧
        brcHolds jumper { fzero with a := ⟨.k 6, .none⟩, mod := 1 } = true) ∧
      (Ready jumper (.loop fzero) fzero ∧ jumper.kget fzero.dst.toNat ≠ 1)) ∧
    NoHeaderAt js jumper (jumper.pc + fzero.offset * 4) ∧
    (Ready jumper (.bri fmid) fmid ∧ Ready jumper (.ret fmid) fmid ∧ Ready jumper (.callI fmid) fmid) ∧
    NoHeaderAt js jumper (jumper.uni fmid 2 fmid.a) := by
  refine ⟨by delta Ready; decide +kernel, .inr ⟨0, by decide +kernel, by decide⟩, by delta Ready; decide +kernel,
    .inl (by decide +kernel)⟩

/-! ### Headers, waits and exits -/

theorem witness_header :
    Runs (st crew) 1 crew ∧ SeqRuns endPlaced 0 false ∧
    (∀ n < 12, (0xFFF : BitVec 12).getLsbD n = true → ∀ o ∈ crew.ops, o.done = false → o.flag ≠ n) := by
  delta Runs SeqRuns; decide +kernel

/-- An operation that counts on a path, and awaits nothing in a register. -/
def opOf (id : Nat) (p : Path) : Op := { blankOp with id := id, path := p, ott := 1 }

/-- A crew with one store outstanding. -/
def storing : Crew := { crew with ops := [opOf 7 .st], num := 1 }

/-- `wait st, k6`. -/
def wt (n : BitVec 64) (c : Crew) : Crew := { c with k := [(6, n)] }

theorem witness_wait :
    (Ready (wt 1 storing) (.wait (fu 1)) (fu 1) ∧ (wt 1 storing).count (pathOf (fu 1).modN) ≤ ((wt 1 storing).uni (fu 1) 2 (fu 1).a).toNat) ∧
    ((wt 0 storing).uni (fu 1) 2 (fu 1).a).toNat < (wt 0 storing).count (pathOf (fu 1).modN) ∧
    Ready crew (.yield Form.zero) Form.zero := by
  delta Ready; decide +kernel

theorem witness_exit :
    (∀ c ∈ ([{ crew with num := 1 }, storing] : List Crew), Runs (st c) 1 c ∧ Ready c (.exit Form.zero) Form.zero ∧
      c.trigWait = none ∧ ((st c).team c.team).prod ≠ c.num ∧ ((st c).team c.team).phase = 0 ∧
      ((st c).team c.team).trigged = false ∧ ((st c).team c.team).fatal = none) ∧
    ({ crew with num := 1 } : Crew).ops = [] ∧ storing.ops ≠ [] := by
  delta Runs Ready; decide +kernel

/-- A crew with a load tagged with flag 11 outstanding. -/
def flagged : Crew := { crew with ops := [{ opOf 7 .ld with flag := 11 }] }

theorem witness_header_waits :
    Runs (st flagged) 1 flagged ∧ (0x800 : BitVec 12).getLsbD 11 = true ∧
    ∃ o ∈ flagged.ops, o.done = false ∧ o.frozen = false ∧ o.flag = 11 := by
  delta Runs; decide +kernel

/-- `v6` awaits the value of a load. -/
def awaiting : Crew := { crew with ops := [{ opOf 7 .ld with vreg := some 6, vvals := [lanesAll 5] }] }
/-- Fewer registers than the words name. -/
def small : Crew := { crew with nreg := 6 }

theorem witness_operand_traps :
    (∀ p ∈ quietForms ++ floatForms ++ unitForms, Runs (st awaiting) 1 awaiting ∧ Runs (st small) 1 small) ∧
    awaiting.pendingFault (Instr.add (fm 0)).desc (fm 0) ≠ none ∧
    (small.pendingFault (Instr.add (fm 0)).desc (fm 0) = none ∧
      small.boundsFault (Instr.add (fm 0)).desc (fm 0) = some (mkCause 6 0 6)) := by
  delta Runs; decide +kernel

theorem test_pending_operand_traps :
    thenHolds (exec (.add (fm 0)) (st { awaiting with ops := [] , v := [(6, lanesAll 3)] })) (fun t =>
      laneOf ((crewAt t 1).vget 4) 31 == 3 && (crewAt t 1).pc == 0x10010) = true := by decide +kernel

/-! ### Loads and stores -/

/-- Lanes 0, 1 and 31 are active; `k6` is the mapped page, `v8` the lane numbers, `v10` segment lengths up to 31, `v12` data. -/
def mover : Crew :=
  { crew with
    em := 0x80000003, k := [(6, 0x10000), (7, 0x10001)]
    v := [(8, lanesBy (fun l => BitVec.ofNat 32 l)), (10, lanesBy (fun l => BitVec.ofNat 32 l)),
      (12, lanesBy (fun l => BitVec.ofNat 32 (256 + l)))] }

/-- u32 at `k6` + 4 × `v8`; b128 at `k6` + 16 × `v8`; u32 at `k6`. -/
def fld : Form := { fm 0x20 with a := ⟨.k 6, .none⟩, c := ⟨.v 12, .none⟩ }
def fwide : Form := { fm 0x3C with a := ⟨.k 6, .none⟩, c := ⟨.v 12, .none⟩, x := 3 }
def fone : Form := { fu 0 with b := .zero }

theorem lanes_reach {s : State} {c : Crew} {k : Acc} {ea : Nat → DWord} {n : Nat} {place : Nat → Loc}
    (h : ∀ l < 32, c.isActive l = true → (s.accessAt c k (ea l) n).toOption = some (place l)) : LanesReach s c k ea n place :=
  fun l hl ha => ok_of (h l hl ha)

/-- A translation of one of the four sizes, with a well-formed entry. -/
def leafOk (e : Nat × Tlb) : Bool := [16, 21, 30, 35].contains e.2.bits && !malformed e.2.entry.toNat

theorem pages_of {s : State} (h : s.cores.all (fun e => e.2.tlb.all leafOk) = true) : Pages s := by
  intro ck e he
  have all : (s.core ck).tlb.all leafOk = true := by
    unfold State.core
    split
    · rename_i c hc
      have : ∀ (m : PMap Core), pfind m ck = some c → m.all (fun e => e.2.tlb.all leafOk) = true → c.tlb.all leafOk = true := by
        intro m
        induction m with
        | nil => simp [pfind]
        | cons x m ih =>
          simp only [pfind, List.all_cons, Bool.and_eq_true]
          split
          · rintro h1 ⟨h2, -⟩; injection h1 with h1; subst h1; exact h2
          · exact fun h1 h2 => ih h1 h2.2
      exact this _ hc h
    · split <;> rfl
  have := List.all_eq_true.mp all e he
  simpa [leafOk] using this

theorem witness_load :
    Runs (st mover) 1 mover ∧ Pages (st mover) ∧ Room (st mover) mover.core 64 ∧ coreIsl mover.core < 36 ∧
    (Ready mover (.ld fld) fld ∧ MayIssue (st mover) mover .ld ∧
      LanesReach (st mover) mover .read (mover.ea fld) (memWidth fld.ty (wideMem fld)) (fun l => ⟨0x10000 + 4 * l, false⟩)) ∧
    (Ready mover (.ld fwide) fwide ∧
      LanesReach (st mover) mover .read (mover.ea fwide) (memWidth fwide.ty (wideMem fwide)) (fun l => ⟨0x10000 + 16 * l, false⟩)) ∧
    (Ready mover (.ldk fone) fone ∧ (st mover).accessAt mover .read (mover.eaUniform fone) (memWidth fone.ty false)
      = .ok ⟨0x10000, false⟩) := by
  refine ⟨by delta Runs; decide +kernel, pages_of (by decide +kernel), by delta Room; decide +kernel, by decide,
    ⟨by delta Ready; decide +kernel, by delta MayIssue; decide +kernel, lanes_reach (by decide +kernel)⟩,
    ⟨by delta Ready; decide +kernel, lanes_reach (by decide +kernel)⟩, by delta Ready; decide +kernel, ok_of (by decide +kernel)⟩

theorem witness_segment_load :
    let f := { fm 0x20 with a := ⟨.k 7, .none⟩ }
    Ready mover (.sseg f) f ∧ MayIssue (st mover) mover .ld ∧ Room (st mover) mover.core 64 ∧
    ∀ l < 32, mover.isActive l = true →
      (st mover).bytesAt mover .read (mover.ea f l) (min ((mover.src32 f 0 f.c l).toNat % 256) 16)
        = .ok ((List.range (min l 16)).map (fun j => ⟨0x10001 + 4 * l + j, false⟩)) := by
  refine ⟨by delta Ready; decide +kernel, by delta MayIssue; decide +kernel, by delta Room; decide +kernel, fun l hl ha => ?_⟩
  have h : ∀ l < 32, mover.isActive l = true → ((st mover).bytesAt mover .read (mover.ea { fm 0x20 with a := ⟨.k 7, .none⟩ } l)
      (min ((mover.src32 { fm 0x20 with a := ⟨.k 7, .none⟩ } 0 (fm 0x20).c l).toNat % 256) 16)).toOption
      = some ((List.range (min l 16)).map (fun j => ⟨0x10001 + 4 * l + j, false⟩)) := by decide +kernel
  exact ok_of (h l hl ha)

theorem witness_store :
    (Ready mover (.st fld) fld ∧ MayIssue (st mover) mover .st ∧
      LanesReach (st mover) mover .write (mover.ea fld) (memWidth fld.ty (wideMem fld)) (fun l => ⟨0x10000 + 4 * l, false⟩)) ∧
    (∀ l < 32, mover.isActive l = true → (Loc.mk (0x10000 + 4 * l) false).ah = false) ∧
    (Ready mover (.stk fone) fone ∧ (st mover).accessAt mover .write (mover.eaUniform fone) (memWidth fone.ty false)
      = .ok ⟨0x10000, false⟩) := by
  refine ⟨⟨by delta Ready; decide +kernel, by delta MayIssue; decide +kernel, lanes_reach (by decide +kernel)⟩,
    fun _ _ _ => rfl, by delta Ready; decide +kernel, ok_of (by decide +kernel)⟩

/-- Slab offsets from 0, in the team's one granule of 4 KiB. -/
def fslab : Form := { fm 0x20 with a := .zero, c := ⟨.v 12, .none⟩ }

theorem witness_slab :
    Ready mover (.sld fslab) fslab ∧ Ready mover (.sst fslab) fslab ∧ MayIssue (st mover) mover .sl ∧
    (∀ l < 32, mover.isActive l = true →
      (st mover).slabAt mover (mover.ea fslab l) (memWidth fslab.ty (wideMem fslab)) = .ok (1, 4 * l)) ∧
    (pfind (st mover).teams 1).isSome = true := by
  have h : ∀ l < 32, mover.isActive l = true →
      ((st mover).slabAt mover (mover.ea fslab l) (memWidth fslab.ty (wideMem fslab))).toOption = some (1, 4 * l) := by
    decide +kernel
  exact ⟨by delta Ready; decide +kernel, by delta Ready; decide +kernel, by delta MayIssue; decide +kernel,
    fun l hl ha => ok_of (h l hl ha), by decide +kernel⟩

/-- `v[k0 + v8]`, from register 0 on. -/
def find' : Form := { fm 0x0B with a := ⟨.k 4, .none⟩, c := ⟨.v 12, .none⟩ }

theorem witness_indirect :
    (Ready mover (.pref { fld with mod := 0x21 }) { fld with mod := 0x21 } ∧ (0x21 : BitVec 6).getLsbD 0 = true) ∧
    Ready mover (.pref fld) fld ∧ Ready mover (.vget find') find' ∧ Ready mover (.vput find') find' ∧ mover.ops = [] ∧
    ∀ l < 32, mover.isActive l = true → mover.indirectAt find' l = .ok (mover.indirect find' l) := by
  have h : ∀ l < 32, mover.isActive l = true → (mover.indirectAt find' l).toOption = some (mover.indirect find' l) := by
    decide +kernel
  exact ⟨by delta Ready; decide +kernel, by delta Ready; decide +kernel, by delta Ready; decide +kernel,
    by delta Ready; decide +kernel, rfl, fun l hl ha => ok_of (h l hl ha)⟩

/-- Addresses 2 × `v8` + 0x10000: lane 0 is aligned, lane 1 is not. And the one address 0x10001. -/
def fodd : Form := { fld with mod := 0x10 }
def fodd1 : Form := { fone with a := ⟨.k 7, .none⟩ }

theorem witness_misaligned :
    (∀ p ∈ ([(.ld, .read), (.st, .write)] : List ((Form → Instr) × Acc)), Ready mover (p.1 fodd) fodd ∧ mover.isActive 1 = true ∧
      (st mover).accessAt mover p.2 (mover.ea fodd 1) (memWidth fodd.ty (wideMem fodd))
        = .error (mkCause 4 0 (mover.ea fodd 1)) ∧
      ∃ q, (st mover).accessAt mover p.2 (mover.ea fodd 0) (memWidth fodd.ty (wideMem fodd)) = .ok q) ∧
    ∀ p ∈ ([(.ldk, .read), (.stk, .write)] : List ((Form → Instr) × Acc)), Ready mover (p.1 fodd1) fodd1 ∧
      (st mover).accessAt mover p.2 (mover.eaUniform fodd1) (memWidth fodd1.ty false)
        = .error (mkCause 4 0 (mover.eaUniform fodd1)) := by
  have h : ∀ k ∈ ([.read, .write] : List Acc), ((st mover).accessAt mover k (mover.ea fodd 0)
      (memWidth fodd.ty (wideMem fodd))).toOption = some ⟨0x10000, false⟩ := by decide +kernel
  simp only [List.mem_cons, List.not_mem_nil, or_false, forall_eq_or_imp, forall_eq]
  refine ⟨⟨⟨by delta Ready; decide +kernel, by decide, rfl, _, ok_of (h .read (by simp))⟩,
    by delta Ready; decide +kernel, by decide, rfl, _, ok_of (h .write (by simp))⟩,
    ⟨by delta Ready; decide +kernel, rfl⟩, by delta Ready; decide +kernel, rfl⟩

/-- A launch with one range of one page, read only. -/
def roLaunch : Launch := { placeLaunch with ranges := [⟨0x10000, 0x100, true, false⟩] }

theorem witness_access_checks :
    (∀ r ∈ roLaunch.ranges, r.has 0x100FF 2 = false) ∧ (∃ r ∈ roLaunch.ranges, r.has 0x100FF 1 = true) ∧
    (∀ r ∈ roLaunch.ranges, r.has 0x100FF 1 = true → Acc.write.inRange r = false) ∧
    (∃ r ∈ placeLaunch.ranges, r.has 0x20000 1 = true ∧ Acc.read.inRange r = true) ∧
    (st mover).leaf 0 [] 1 0x20000 = none ∧
    (∃ e, (st mover).leaf 0 [] 1 0x1FFFF = some e ∧ Acc.write.onPage e = true) ∧ (st mover).leaseVoid placeLaunch = false := by
  refine ⟨by decide +kernel, by decide +kernel, by decide +kernel, by decide +kernel, by decide +kernel,
    ⟨⟨16, 0x1000F⟩, by decide +kernel, by decide⟩, by decide +kernel⟩

/-! ### Synchronisation -/

/-- The page at 0x20000 is an atomic-home page (bit 5), mapped to itself. -/
def homePage (s : State) : State := { s with mem := s.mem.writeBytes 0x10C010 (leBytes 8 0x2002F) }

/-- Lane 3 alone is active; `k6` is the atomic-home page, and `v12` to `v15` hold data. -/
def homeCrew : Crew :=
  { crew with
    em := 8, k := [(6, 0x20000)], v := [(8, lanesBy (fun l => BitVec.ofNat 32 l)), (12, lanesAll 5), (13, lanesAll 6)] }
def hs : State := homePage (st homeCrew)
def place3 : Nat → Loc := fun l => ⟨0x20000 + 4 * l, true⟩

/-- u32 at core scope; add u32 with a result; compare and swap of b32. -/
def fsync : Form := { fm 0x20 with a := ⟨.k 6, .none⟩, c := ⟨.v 12, .none⟩, x := 1 }
def fadd' : Form := { fm 0x00 with a := ⟨.k 6, .none⟩, c := ⟨.v 12, .none⟩, x := 9 }
def fcas : Form := { fm 0x0B with a := ⟨.k 6, .none⟩, c := ⟨.v 12, .none⟩, x := 1 }

theorem home_reach (k : Acc) (n : Nat) (ea : Nat → DWord)
    (h : ∀ l < 32, homeCrew.isActive l = true → (hs.accessAt homeCrew k (ea l) n).toOption = some (place3 l)) :
    LanesReach hs homeCrew k ea n place3 := fun l hl ha => ok_of (h l hl ha)

theorem witness_acquire_release :
    Runs hs 1 homeCrew ∧ Ready homeCrew (.lda fsync) fsync ∧ Ready homeCrew (.stl fsync) fsync ∧ MayIssue hs homeCrew .ld ∧
    MayIssue hs homeCrew .st ∧ homeCrew.unperformed = false ∧ homeCrew.relScope = none ∧ fsync.scope = 1 ∧ NoneHeld hs 1 ∧
    LanesReach hs homeCrew .read (homeCrew.eaScaled fsync (2 ^ fsync.hi)) (memWidth fsync.ty false) place3 ∧
    LanesReach hs homeCrew .write (homeCrew.eaScaled fsync (2 ^ fsync.hi)) (memWidth fsync.ty false) place3 ∧
    OneLane hs homeCrew .read (homeCrew.eaScaled fsync (2 ^ fsync.hi)) (memWidth fsync.ty false) 3 (place3 3) ∧
    OneLane hs homeCrew .write (homeCrew.eaScaled fsync (2 ^ fsync.hi)) (memWidth fsync.ty false) 3 (place3 3) := by
  refine ⟨by delta Runs; decide +kernel, by delta Ready; decide +kernel, by delta Ready; decide +kernel,
    by delta MayIssue; decide +kernel, by delta MayIssue; decide +kernel, by decide +kernel, rfl, by decide,
    by delta NoneHeld; decide +kernel, home_reach _ _ _ (by decide +kernel), home_reach _ _ _ (by decide +kernel),
    ⟨by decide, by decide +kernel, ok_of (by decide +kernel), rfl, by decide⟩,
    ⟨by decide, by decide +kernel, ok_of (by decide +kernel), rfl, by decide⟩⟩

theorem witness_atomics :
    (Ready homeCrew (.atom fadd') fadd' ∧ (intTys fadd'.ty || bitTys fadd'.ty) = true ∧ (isS fadd'.ty = true → fadd'.hi < 3) ∧
      fadd'.xBit 3 = true ∧ fadd'.acquires = false ∧ fadd'.releases = false) ∧
    OneLane hs homeCrew .both (homeCrew.eaScaled fadd' (memWidth fadd'.ty false)) (memWidth fadd'.ty false) 3 (place3 3) ∧
    (Ready homeCrew (.atomCas fcas) fcas ∧ fcas.ty = 11 ∧ fcas.c.src = .v 12 ∧ fcas.acquires = false ∧ fcas.releases = false) ∧
    OneLane hs homeCrew .both (homeCrew.eaScaled fcas 4) 4 3 (place3 3) := by
  refine ⟨⟨by delta Ready; decide +kernel, by decide, by decide, by decide, by decide, by decide⟩,
    ⟨by decide, by decide +kernel, ok_of (by decide +kernel), rfl, by decide⟩,
    ⟨by delta Ready; decide +kernel, by decide, rfl, by decide, by decide⟩,
    ⟨by decide, by decide +kernel, ok_of (by decide +kernel), rfl, by decide⟩⟩

/-- Lanes 0 and 1 at one word. -/
def pairCrew : Crew := { homeCrew with em := 3, v := [(12, lanesAll 5)] }

theorem witness_lane_order :
    Runs (homePage (st pairCrew)) 1 pairCrew ∧ Ready pairCrew (.atom fadd') fadd' ∧ fadd'.ty = 0 ∧ fadd'.hi = 0 ∧
    MayIssue (homePage (st pairCrew)) pairCrew .ld ∧ NoneHeld (homePage (st pairCrew)) 1 ∧ (∀ h < 32, pairCrew.isActive h = decide (h < 2)) ∧ isCxl 0x20000 = false ∧
    ∀ h < 2, (homePage (st pairCrew)).accessAt pairCrew .both (pairCrew.eaScaled fadd' 4 h) 4 = .ok ⟨0x20000, true⟩ := by
  have g : ∀ h < 2, ((homePage (st pairCrew)).accessAt pairCrew .both (pairCrew.eaScaled fadd' 4 h) 4).toOption
      = some ⟨0x20000, true⟩ := by decide +kernel
  exact ⟨by delta Runs; decide +kernel, by delta Ready; decide +kernel, by decide, by decide, by delta MayIssue; decide +kernel,
    by delta NoneHeld; decide +kernel, by decide +kernel, by decide, fun h hh => ok_of (g h hh)⟩

/-- R230: lane 0 reads 0 and adds 5, lane 1 reads 5 and adds 5. -/
theorem test_atomic_lane_order :
    thenHolds (exec (.atom fadd') (homePage (st pairCrew))) (fun t =>
      homeVal t 0 ⟨0x20000, true⟩ 4 == 10 && (crewAt t 1).ops.map (fun o => o.vvals.map (fun x => [laneOf x 0, laneOf x 1]))
        == [[[0, 5]]]) = true := by decide +kernel

theorem test_release_stores :
    thenHolds (exec (.stl fsync) hs) (fun t => homeVal t 0 (place3 3) 4 == 5 && t.mem.read 0x20010 == 0) = true := by
  decide +kernel

/-- A core with a dirty line at 0x10000. -/
def dirtyLine : Line := ⟨List.replicate 64 0x5A, 5, false, some 0, some 1, false, false, none⟩
def dirtyAt (s : State) : State := s.modCore 0 (fun k => { k with lines := [(0x400, dirtyLine)] })

theorem witness_fences :
    (Ready crew (.fenceRel Form.zero) Form.zero ∧ Ready crew (.fenceAcq Form.zero) Form.zero ∧ crew.ops = [] ∧ crew.syncLines = [] ∧
      Form.zero.fenceScope = 0) ∧
    (Ready crew (.fenceSc (fm 1)) (fm 1) ∧ (fm 1).fenceScope = 1) ∧
    (Runs (dirtyAt (st crew)) 1 crew ∧ Ready crew (.fenceSc (fm 3)) (fm 3) ∧ (fm 3).fenceScope ≠ 1 ∧ (fm 3).fenceScope ≠ 4 ∧
      ((dirtyAt (st crew)).core 0).gI ≠ 15 ∧ ((dirtyAt (st crew)).core 0).gS ≠ 15 ∧
      pRising ((dirtyAt (st crew)).core 0).lines = true ∧ coreIsl crew.core < 36 ∧
      (∀ e ∈ ((dirtyAt (st crew)).core 0).lines, 64 * e.1 + 64 ≤ 2 ^ 64) ∧
      pfind ((dirtyAt (st crew)).core 0).lines 0x400 = some dirtyLine ∧ dirtyLine.dirty.getLsbD 2 = true) := by
  delta Runs Ready; decide +kernel

/-- R231: the dirty bytes 0 and 2 are written back, byte 1 is not. -/
theorem test_sequential_fence_writes_back :
    thenHolds (exec (.fenceSc (fm 3)) (dirtyAt (st crew))) (fun t =>
      t.mem.read 0x10000 == 0x5A && t.mem.read 0x10001 == 0 && t.mem.read 0x10002 == 0x5A
        && ((t.core 0).lines.all (fun e => e.2.dirty == 0)) && (t.core 0).gI == 1) = true := by decide +kernel

/-! ### Barriers -/

/-- Barrier 3 of team 1 expects 2 and has 1; team 2 is a mate with team index 1 on core 1. -/
def barred (c : Crew) : State :=
  ((st c).setTeam 1 { placeTeam with bars := [(3, ⟨7, 1, 2, false⟩)] }).setTeam 2
    { placeTeam with num := 1, tw := 1, core := 1, bars := [(3, ⟨65535, 1, 2, false⟩)] }
def gang2 (s : State) : State := s.modLaunch 1 (fun l => { l with gsz := 1 })
def arriver : Crew := { crew with k := [(6, 1023), (7, 1), (8, 7), (9, 0)] }
def fbar : Form := { Form.zero with mod := 3, a := ⟨.k 6, .none⟩, b := ⟨.k 7, .none⟩, dst := 4, nd := true }

theorem witness_barriers :
    Runs (gang2 (barred arriver)) 1 arriver ∧ (pfind (gang2 (barred arriver)).teams arriver.team).isSome = true ∧
    (Ready arriver (.barInit fbar) fbar ∧ Ready arriver (.barArr fbar) fbar ∧ Ready arriver (.barArrx fbar) fbar ∧
      (1023 : Nat) = (if fbar.a = .zero then 1 else (arriver.uni fbar 2 fbar.a).toNat)) ∧
    (fbar.a ≠ .zero ∧ ({ arriver with k := [] }.uni fbar 2 fbar.a).toNat = 0) ∧
    (((gang2 (barred arriver)).team 1).core = arriver.core ∧ ((gang2 (barred arriver)).bar 1 fbar.ty).exp ≠ 0) ∧
    ((arriver.uni fbar 2 fbar.b).toNat ≤ ((gang2 (barred arriver)).launchOf arriver).gsz ∧
      (gang2 (barred arriver)).mate arriver.team (arriver.uni fbar 2 fbar.b).toNat = some 2 ∧
      (pfind (gang2 (barred arriver)).teams 2).isSome = true ∧ ((gang2 (barred arriver)).bar 2 fbar.ty).exp ≠ 0) ∧
    (((st arriver).bar 1 fbar.ty).exp = 0 ∧ Ready arriver (.barArr { fbar with a := .zero }) { fbar with a := .zero }) := by
  delta Runs Ready; decide +kernel

theorem witness_barrier_waits :
    (Ready arriver (.barWait fbar) fbar ∧ ((barred arriver).bar 1 fbar.ty).exp ≠ 0 ∧
      ((barred arriver).bar 1 fbar.ty).ph ≠ (arriver.uni fbar 2 fbar.a).setWidth 16 ∧ ((barred arriver).bar 1 fbar.ty).bench = false) ∧
    ((barred arriver).bar 1 fbar.ty).ph = (arriver.uni { fbar with a := ⟨.k 8, .none⟩ } 2 ⟨.k 8, .none⟩).setWidth 16 ∧
    Ready arriver (.barTest fbar) fbar := by
  delta Ready; decide +kernel

/-- Counts of 0 and 1024, a team above the gang's last, and records that expect nothing: the own one, and the mate's. -/
def wrongCount (n : DWord) : Crew := { arriver with k := [(6, n), (7, 1)] }
def quiet2 : State := (gang2 (barred arriver)).setTeam 2 { placeTeam with num := 1, tw := 1, core := 1 }

theorem witness_barrier_counts (n : DWord) (h : n = 0 ∨ n = 1024) :
    fbar.a ≠ .zero ∧ ((wrongCount n).uni fbar 2 fbar.a).toNat = n.toNat ∧ Runs (barred (wrongCount n)) 1 (wrongCount n) ∧
      Ready (wrongCount n) (.barArr fbar) fbar ∧ Ready (wrongCount n) (.barArrx fbar) fbar := by
  rcases h with rfl | rfl <;> exact ⟨by decide, by decide +kernel, ⟨rfl, by decide +kernel⟩, by delta Ready; decide +kernel,
    by delta Ready; decide +kernel⟩

theorem witness_barrier_traps :
    ((barred arriver).launchOf arriver).gsz < (arriver.uni fbar 2 fbar.b).toNat ∧
    (quiet2.mate arriver.team (arriver.uni fbar 2 fbar.b).toNat = some 2 ∧ (quiet2.bar 2 fbar.ty).exp = 0 ∧
      (arriver.uni fbar 2 fbar.b).toNat ≤ (quiet2.launchOf arriver).gsz) ∧
    ((st arriver).bar arriver.team fbar.ty).exp = 0 := by
  decide +kernel

/-- R183: 1 + 1023 arrivals of 2 expected are 512 phases and none left; a mate's phase wraps. -/
theorem test_arrivals_wrap :
    thenHolds (exec (.barArr fbar) (barred arriver)) (fun t => t.bar 1 3 == ⟨519, 0, 2, false⟩) = true ∧
    thenHolds (exec (.barArrx { fbar with a := .zero }) (gang2 (barred arriver))) (fun t =>
      (t.bar 2 3).ph == 0 && (t.bar 2 3).arr == 0) = true := by decide +kernel

/-! ### Traps and system instructions -/

/-- The launch has a handler at 0x10020, where a clause header stands. -/
def handled (s : State) : State := code (s.modLaunch 1 (fun l => { l with handler := 0x10020 }))

/-- A crew with a value in each kind of register. -/
def trapper : Crew :=
  { crew with
    nreg := 32, idx := 2, left := 1, em := 0xFF, k := [(6, 9), (63, 11)], v := [(31, lanesAll 7)], m := [(2, 3)], fxs := 5 }

theorem witness_traps :
    (Runs (handled (st trapper)) 1 trapper ∧ Ready trapper (.trap fwd) fwd ∧ Ready trapper (.sys ind) ind ∧
      CanEnter (handled (st trapper)) trapper ∧ ((handled (st trapper)).core trapper.core).lines = []) ∧
    (Runs (handled (st small)) 1 small ∧ CanEnter (handled (st small)) small ∧
      small.boundsFault (Instr.add (fm 0)).desc (fm 0) = some (mkCause 6 0 (BitVec.ofNat 64 6)) ∧
      small.pendingFault (Instr.add (fm 0)).desc (fm 0) = none) := by
  delta Runs Ready CanEnter; decide +kernel

/-- A load of `v6` is outstanding, and `add v4, v6, v8` follows. -/
def loadOp : Op := { blankOp with id := 40, path := .ld, flag := 2, mask := 1, vreg := some 6, vvals := [lanesAll 9] }
def loading : Crew := { crew with ops := [loadOp] }

theorem witness_pending_operand :
    Runs (handled (st loading)) 1 loading ∧ loading.handler = false ∧ ((handled (st loading)).launchOf loading).handlerOk = true ∧
    loadOp.done = false ∧ loadOp.held = false ∧ loadOp.frozen = false ∧ loadOp.after = [] ∧ loadOp.path ≠ .rm ∧ loadOp.hn = none ∧
    loading.trigWait = none ∧ loading.pendingFault (Instr.add (fm 0)).desc (fm 0) ≠ none := by
  delta Runs; decide +kernel

/-- R31, R272: the trap waits for the load, whose value is in the slot, and enters with cause 3. -/
theorem test_pending_operand_enters :
    thenHolds (exec (.add (fm 0)) (handled (st loading))) (fun t =>
      slotWord t loading 0x10 == 3 && slotWord t loading (0x1300 + 128 * 6) == 9 && slotWord t loading 8 == 0x100
        && slotWord t loading 0x18 == 0x10008 && (crewAt t 1).pc == 0x10020 && (crewAt t 1).ops == []) = true := by decide +kernel

/-- R268, R270: `trap #6` in the instruction at index 2 saves the index 3 with bit 8, and the cause 0x6_0000_000E. -/
theorem test_trap_saves :
    thenHolds (exec (.trap fwd) (handled (st trapper))) (fun t =>
      slotWord t trapper 0 == 0x10000 && slotWord t trapper 8 == 0x103 && slotWord t trapper 0x10 == 0x60000000E
        && slotWord t trapper 0x18 == 0x10008 && slotWord t trapper 0x28 == 0xFF && slotWord t trapper 0x50 == 5
        && slotWord t trapper (0x100 + 8 * 63) == 11 && slotWord t trapper (0x1300 + 128 * 31) == 0x700000007
        && (crewAt t 1).pc == 0x10020) = true := by decide +kernel

/-- A crew in its handler. -/
def inHandler : Crew := { trapper with handler := true }

theorem witness_double_fault :
    Runs (handled (st inHandler)) 1 inHandler ∧ Ready inHandler (.trap fwd) fwd ∧ inHandler.handler = true ∧
    (pfind (handled (st inHandler)).teams inHandler.team).isSome = true ∧ (∃ e ∈ (handled (st inHandler)).crews, e.2.team = 1) := by
  delta Runs Ready; decide +kernel

/-- The slot names the header at 0x10000 of one instruction, and the index 1 behind it. -/
def savedSlot (s : State) : State :=
  { s with mem := (s.mem.writeBytes (slotKey s trapper) (leBytes 8 0x10000)).writeBytes (slotKey s trapper + 8) (leBytes 8 1) }

theorem witness_return :
    (Runs (st trapper) 1 trapper ∧ Ready trapper (.eret Form.zero) Form.zero ∧ trapper.handler = false) ∧
    (let s := savedSlot (handled (st inHandler))
     Runs s 1 inHandler ∧ Ready inHandler (.eret Form.zero) Form.zero ∧ inHandler.ops = [] ∧ s.slotQueue inHandler = [] ∧
      (s.core 0).lines = [] ∧ HeaderAt s inHandler (slotWord s inHandler 0) ∧
      s.fetchAt .crew 0 (s.launchOf inHandler) (slotWord s inHandler 0) 0 = .ok (.clauseHeader ⟨1, 0, 15, 15⟩) ∧
      (slotWord s inHandler 8).toNat % 64 ≤ (1 : BitVec 6).toNat ∧
      s.walkWords 0 (s.launchOf inHandler) ((slotWord s inHandler 8).toNat % 64) (slotWord s inHandler 0 + 8) = .ok 0x10010) := by
  refine ⟨by delta Runs Ready; decide +kernel, by delta Runs; decide +kernel, by delta Ready; decide +kernel, rfl,
    by decide +kernel, by decide +kernel, by delta HeaderAt; decide +kernel, ok_of (by decide +kernel), by decide +kernel,
    ok_of (by decide +kernel)⟩

/-- The same slot with two queued causes, with the index 2, above the count of the clause, and with an address within the clause. -/
def queuedSlot (s : State) : State :=
  { savedSlot s with mem := (savedSlot s).mem.writeBytes (slotKey s trapper + 0xA0) (leBytes 8 0x213 ++ leBytes 8 77 ++ leBytes 8 0x113) }
def farIndex (s : State) : State :=
  { savedSlot s with mem := (savedSlot s).mem.writeBytes (slotKey s trapper + 8) (leBytes 8 2) }
def noHeader (s : State) : State :=
  { savedSlot s with mem := (savedSlot s).mem.writeBytes (slotKey s trapper) (leBytes 8 0x10002) }

theorem witness_return_queued :
    let s := queuedSlot (handled (st inHandler))
    Runs s 1 inHandler ∧ (s.slotQueue inHandler).length = 2 ∧ (s.slotQueue inHandler).head? = some (mkCause 0x13 2 77) ∧
      (s.core 0).lines = [] := by
  delta Runs; decide +kernel

theorem witness_return_bad :
    (let s := noHeader (handled (st inHandler))
     Runs s 1 inHandler ∧ s.slotQueue inHandler = [] ∧ (pfind s.teams inHandler.team).isSome = true ∧
       (slotWord s inHandler 0).toNat % 4 ≠ 0) ∧
    (let s := farIndex (handled (st inHandler))
     Runs s 1 inHandler ∧ s.slotQueue inHandler = [] ∧ HeaderAt s inHandler (slotWord s inHandler 0) ∧
      s.fetchAt .crew 0 (s.launchOf inHandler) (slotWord s inHandler 0) 0 = .ok (.clauseHeader ⟨1, 0, 15, 15⟩) ∧
      (1 : BitVec 6).toNat < (slotWord s inHandler 8).toNat % 64) := by
  refine ⟨by delta Runs; decide +kernel, by delta Runs; decide +kernel, by decide +kernel, by delta HeaderAt; decide +kernel,
    ok_of (by decide +kernel), by decide +kernel⟩

/-- R275 step 2: the oldest queued cause 0x213 with its information 77 is taken, and the next one moves up. -/
theorem test_return_takes_queued :
    thenHolds (exec (.eret Form.zero) (queuedSlot (handled (st inHandler)))) (fun t =>
      slotWord t inHandler 0x10 == 0x213 && slotWord t inHandler 0x20 == 77 && slotWord t inHandler 0xA0 == 0x113
        && slotWord t inHandler 0xB0 == 0 && slotWord t inHandler 8 == 1 && (crewAt t 1).handler && (crewAt t 1).pc == 0x10020)
      = true := by decide +kernel

/-- R275, R215: an index above the count is a double fault. -/
theorem test_return_bad_index :
    thenHolds (exec (.eret Form.zero) (farIndex (handled (st inHandler)))) (fun t => (t.team 1).fatal == some 0x80000117) = true := by
  decide +kernel

theorem test_return_restores :
    thenHolds (exec (.eret Form.zero) (savedSlot (handled (st inHandler)))) (fun t =>
      let d := crewAt t 1
      d.pc == 0x10010 && d.left == 0 && d.idx == 1 && !d.handler && d.kget 6 == 0 && d.em == 0) = true := by decide +kernel

/-- A guarded launch; another crew of the team has contributed. -/
def guarded (c : Crew) : State :=
  ((code (st c)).modLaunch 1 (fun l => { l with grd := true })).setCrew 2 { crew with num := 1, inRound := some 8 }

/-- `round` to 0x10020, with one register listed in `k6`. -/
def fround : Form := { fwd with mod := 1, a := ⟨.k 6, .none⟩ }
def rounder : Crew := { crew with k := [(6, 63)] }

theorem witness_round :
    (Runs (guarded rounder) 1 rounder ∧ Ready rounder (.round fround) fround ∧
      HeaderAt (guarded rounder) rounder (rounder.pc + fround.offset * 4) ∧
      (∀ r ∈ roundRegs fround.modN (rounder.uni fround 2 fround.a), r < rounder.nreg) ∧
      ((guarded rounder).launchOf rounder).grd = true ∧ (guarded rounder).engineBusy rounder.core rounder.team = false ∧
      rounder.ops = [] ∧ rounder.exiting = false ∧ (pfind (guarded rounder).teams rounder.team).isSome = true ∧
      (∀ e ∈ pput (guarded rounder).crews 1 { rounder with inRound := some fround.len.bytes, stall := .round },
        e.2.team = rounder.team → e.2.exiting = true ∨ e.2.inRound.isSome = true)) ∧
    (HeaderAt (code (st rounder)) rounder (rounder.pc + fround.offset * 4) ∧ ((code (st rounder)).launchOf rounder).grd = false ∧
      (∀ r ∈ roundRegs fround.modN (rounder.uni fround 2 fround.a), r < rounder.nreg ∧ rounder.vAwaits r = false) ∧
      ∀ n < 16, rounder.kAwaits n = false) := by
  delta Runs Ready HeaderAt; decide +kernel

/-- The listed register `v63` awaits a load, or `k15` does. -/
def listed : Crew := { rounder with ops := [{ opOf 7 .ld with vreg := some 63, vvals := [lanesAll 5] }] }
def listedK : Crew := { rounder with ops := [{ opOf 7 .ld with kreg := some 15 }] }

theorem witness_round_pending :
    (Runs (guarded listed) 1 listed ∧ Ready listed (.round fround) fround ∧
      ∃ r ∈ roundRegs fround.modN (listed.uni fround 2 fround.a), listed.vAwaits r = true) ∧
    (Runs (guarded listedK) 1 listedK ∧ Ready listedK (.round fround) fround ∧ ∃ n < 16, listedK.kAwaits n = true) := by
  delta Runs Ready; decide +kernel

theorem test_round_stores_record :
    thenHolds (exec (.round fround) (guarded rounder)) (fun t =>
      (t.team 1).phase == 2 && ((t.isl 0).stored 0 1 0 false false).map (fun r => (r.no, r.parts.map (fun p => (p.num, p.target))))
        == some (1, [(0, 0x10020)])) = true := by decide +kernel

theorem witness_sections_and_triggers :
    (Ready crew (.npsBegin Form.zero) Form.zero ∧ crew.sect = none ∧ Ready crew (.npsEnd Form.zero) Form.zero) ∧
    (({ crew with sect := some 5 } : Crew).sect.isSome = true ∧ Runs (st { crew with sect := some 5 }) 1 { crew with sect := some 5 }) ∧
    (Ready crew (.trig Form.zero) Form.zero ∧ crew.ops = [] ∧ crew.trigDone = false ∧ crew.trigWait = none) ∧
    Runs (st { crew with trigDone := true }) 1 { crew with trigDone := true } := by
  delta Runs Ready; decide +kernel

/-- A launch that depends early on the crew's, which the core's dirty line belongs to. -/
def depended (s : State) : State :=
  dirtyAt { s with launches := s.launches ++ [(2, { blankLaunch with deps := [(1, true)] })] }

theorem witness_triggers :
    (∀ s ∈ ([depended (st crew), dirtyAt (st crew)] : List State), Runs s 1 crew ∧ pRising (s.core crew.core).lines = true ∧
      coreIsl crew.core < 36 ∧ (∀ e ∈ (s.core crew.core).lines, 64 * e.1 + 64 ≤ 2 ^ 64)) ∧
    ((depended (st crew)).hasDependent ((depended (st crew)).team crew.team).launch = true ∧
      (pfind (depended (st crew)).teams crew.team).isSome = true ∧
      (pfind (depended (st crew)).launches ((depended (st crew)).team crew.team).launch).isSome = true) ∧
    ((dirtyAt (st crew)).hasDependent ((dirtyAt (st crew)).team crew.team).launch = false ∧
      (pfind (dirtyAt (st crew)).teams crew.team).isSome = true) ∧
    (Runs (st storing) 1 storing ∧ Ready storing (.trig Form.zero) Form.zero ∧ storing.trigDone = false ∧
      storing.trigWait = none ∧ ∃ o ∈ storing.ops, o.done = false ∧ o.frozen = false ∧ o.path ≠ .rm ∧ o.path ≠ .none) := by
  delta Runs Ready; decide +kernel

/-- R238: the dirty byte 0x10000 reaches its home either way, and the launch knows the team; the crew shows a mark only where a launch depends on it. -/
theorem test_trigger_releases :
    thenHolds (exec (.trig Form.zero) (depended (st crew))) (fun t =>
      t.mem.read 0x10000 == 0x5A && (t.launch 1).trigTeams == [0] && (crewAt t 1).triggered) = true ∧
    thenHolds (exec (.trig Form.zero) (dirtyAt (st crew))) (fun t =>
      t.mem.read 0x10000 == 0x5A && (t.launch 1).trigTeams == [0] && !(crewAt t 1).triggered) = true := by decide +kernel

/-- `spawn` to 0x10020, handing on `v8` to `v15`. -/
def fspawn : Form := { fwd with a := ⟨.v 8, .none⟩ }

/-- A core with 16 crews in each quarter, this one among them. -/
def crowd (c : Crew) : State :=
  { code (st c) with crews := (1, c) :: (List.range 63).map (fun i => (i + 2, { crew with quarter := (i + 1) % 4, team := 9 })) }

theorem witness_spawn :
    (Runs (code (st crew)) 1 crew ∧ Ready crew (.spawn fspawn) fspawn ∧
      HeaderAt (code (st crew)) crew (crew.pc + fspawn.offset * 4) ∧ (code (st crew)).spawnFails crew = none ∧
      fspawn.a.src = .v 8 ∧ (1 : Nat) ≠ (code (st crew)).nextId) ∧
    (Runs (crowd crew) 1 crew ∧ HeaderAt (crowd crew) crew (crew.pc + fspawn.offset * 4) ∧
      ∀ q < 4, 16 ≤ (crowd crew).quarterLoad crew.core q) := by
  delta Runs Ready HeaderAt; decide +kernel

/-- R239: `v8` of the spawning crew is `v1` of the new one, whose number is the lowest free one. -/
theorem test_spawn_hands_on :
    thenHolds (exec (.spawn fspawn) (code (st { crew with v := [(8, lanesAll 42)] }))) (fun t =>
      laneOf ((crewAt t 2).vget 1) 5 == 42 && (crewAt t 2).num == 1 && (crewAt t 2).pc == 0x10020
        && (crewAt t 1).kget 4 == 1) = true := by decide +kernel

/-- A special-register word by number. -/
def fsr (n : Nat) : Form := ⟨.short, 0, false, true, 4, ⟨.k 6, .none⟩, .zero, .zero, 0, BitVec.ofNat 32 n, 0⟩

theorem witness_special_registers :
    (∀ n ∈ [0, 1, 2, 3, 4, 0x10, 0x11, 0x12, 0x13], (fsr n).number.toNat = n ∧
      Ready crew (.srd (fsr n)) (fsr n) ∧ Ready crew (.swr (fsr n)) (fsr n)) ∧
    (∀ n ∈ [5, 0x14, 0x3F, 0x47],
      (fsr n).number.toNat ∉ [0, 1, 2, 3, 4, 0x10, 0x11, 0x12, 0x13, 0x40, 0x41, 0x42, 0x43, 0x44, 0x45, 0x46]) ∧
    (∀ n ∈ [0x40, 0x46], (fsr n).number.toNat ∈ [0x40, 0x41, 0x42, 0x43, 0x44, 0x45, 0x46]) ∧
    crew.handler = false ∧ (Ready crew (.gtime (fu 0)) (fu 0) ∧ crew.count .ld < 64) := by
  delta Ready; decide +kernel

theorem witness_trap_state :
    let s := savedSlot (handled (st inHandler))
    Runs s 1 inHandler ∧ Pages s ∧ Room s 0 2 ∧ coreIsl inHandler.core < 36 ∧ inHandler.handler = true ∧ inHandler.slot % 64 = 0 ∧
      ∀ n ∈ [0x40, 0x41, 0x42, 0x43, 0x44, 0x45, 0x46],
        (fsr n).number.toNat = n ∧ Ready inHandler (.srd (fsr n)) (fsr n) ∧ Ready inHandler (.swr (fsr n)) (fsr n) := by
  refine ⟨by delta Runs; decide +kernel, pages_of (by decide +kernel), by delta Room; decide +kernel, by decide, rfl, by decide,
    by delta Ready; decide +kernel⟩

/-- R271: `tidx` reads the index 1 of the slot, and a write of 9 gives 9. -/
theorem test_tidx :
    thenHolds (exec (.srd (fsr 0x42)) (savedSlot (handled (st inHandler)))) (fun t => (crewAt t 1).kget 4 == 1) = true ∧
    thenHolds (exec (.swr (fsr 0x42)) (savedSlot (handled (st inHandler)))) (fun t => trapWord t inHandler 8 == 9) = true := by
  decide +kernel

/-! ### Engines -/

/-- `k6` is the header at 0x10020, `k8` zero. -/
def forker : Crew := { crew with k := [(6, 0x10020)] }
def ffork : Form := { Form.zero with a := ⟨.k 6, .none⟩, b := ⟨.k 8, .none⟩ }

/-- The machine with a sequencer of core 0 running, its registers as given. -/
def seqAt' (cp : Bool) (k : PMap DWord) : State :=
  let q : Sequencer := ⟨.running, 0x10008, 0x10000, 0, 1, k⟩
  let s := (code (st crew)).modCore 0 (fun c => if cp then { c with cs := q } else { c with ms := q })
  { s with cur := some (.seq 0 cp) }

theorem entries_good {s : State} {c : Crew} {f : Form}
    (ha : (s.targetFault c.core (s.launchOf c) (c.uni f 2 f.a)).isNone = true) (hb : c.uni f 2 f.b = 0) : EntriesGood s c f := by
  intro e he h0 _
  rcases List.mem_cons.mp he with rfl | he
  · simpa using ha
  · exact absurd ((List.mem_singleton.mp he).trans hb) h0

theorem witness_entries :
    EntriesGood (code (st forker)) forker ffork ∧ EntriesGood (code (st { forker with num := 1 })) { forker with num := 1 } ffork :=
  ⟨entries_good (by decide +kernel) (by decide +kernel), entries_good (by decide +kernel) (by decide +kernel)⟩

theorem witness_fork :
    (let s := code (st forker)
     Runs s 1 forker ∧ Ready forker (.fork ffork) ffork ∧ forker.ops = [] ∧ forker.num = (s.team forker.team).prod ∧
      (s.core forker.core).owner = some forker.team ∧ (forker.uni ffork 2 ffork.a).toNat % 32 = 0 ∧
      (forker.uni ffork 2 ffork.b).toNat % 32 = 0 ∧ (s.core forker.core).ms.st = .idle ∧
      (s.core forker.core).cs.st = .idle ∧ forker.uni ffork 2 ffork.a ≠ 0 ∧
      forker.uni ffork 2 ffork.b = 0) ∧
    ((State.reset.setCrew 1 crew).core 0).owner = none ∧
    (let c := { forker with num := 1 }
     Runs (code (st c)) 1 c ∧ Ready c (.fork ffork) ffork ∧ c.num ≠ ((code (st c)).team c.team).prod) ∧
    (let c := { forker with k := [(6, 0x10040)] }
     Runs (code (st c)) 1 c ∧ Ready c (.fork ffork) ffork ∧ c.ops = [] ∧ c.uni ffork 2 ffork.a ≠ 0 ∧
      (c.uni ffork 2 ffork.a).toNat % 32 = 0 ∧
      (code (st c)).wordKind c.core ((code (st c)).launchOf c) (c.uni ffork 2 ffork.a) = some 0) ∧
    (Ready crew (.rdv Form.zero) Form.zero ∧ ((st crew).team crew.team).forkM = false) ∧
    (let s := (seqAt' false []).modTeam 1 (fun t => { t with forkM := true })
     (s.team crew.team).forkM = true ∧ (s.core crew.core).ms.st ≠ .idle) := by
  delta Runs Ready; decide +kernel

/-- `seq.loop k4` to 0x10020. -/
theorem witness_sequencer :
    SeqRuns (seqAt' false [(4, 1)]) 0 false ∧ pget 0 (seqAt (seqAt' false [(4, 1)]) 0 false).k fwd.dst.toNat = 1 ∧
    (let s := seqAt' true [(4, 2)]
     let target := (seqAt s 0 true).pc + fwd.offset * 4
     SeqRuns s 0 true ∧ pget 0 (seqAt s 0 true).k fwd.dst.toNat ≠ 1 ∧ target.toNat % 4 = 0 ∧ target.toNat % 32 ≤ 24 ∧
      s.wordKind 0 (s.launch (s.team (s.seqTeam 0)).launch) target = some 3) := by
  delta SeqRuns; decide +kernel

/-- Rows 2 and 3 of the accumulator. -/
def clearer : Crew := { crew with k := [(6, 0x202)] }

theorem witness_clear :
    Runs (st clearer) 1 clearer ∧ Ready clearer (.aclr ffork) ffork ∧ ((st clearer).core clearer.core).owner = some clearer.team ∧
    ((st clearer).core clearer.core).ms.st = .idle ∧ (Ctl.mk (clearer.uni ffork 2 ffork.a).toNat).bad false 1 = false ∧
    (Ctl.mk (clearer.uni ffork 2 ffork.a).toNat).gate = none ∧ (Ctl.mk (clearer.uni ffork 2 ffork.a).toNat).rows = 2 := by
  delta Runs Ready; decide +kernel

/-- A clear of no rows. -/
def badClearer : Crew := { crew with k := [(6, 2)] }

theorem witness_clear_free_and_traps :
    (let s := (st clearer).modCore 0 (fun c => { c with owner := none })
     Runs s 1 clearer ∧ (s.core clearer.core).owner = none) ∧
    (let s := (st clearer).modCore 0 (fun c => { c with owner := some 2 })
     Runs s 1 clearer ∧ (s.core clearer.core).owner = some 2 ∧ (2 : Nat) ≠ clearer.team) ∧
    (Runs (st badClearer) 1 badClearer ∧ Ready badClearer (.aclr ffork) ffork ∧
      ((st badClearer).core badClearer.core).owner = some badClearer.team ∧
      (Ctl.mk (badClearer.uni ffork 2 ffork.a).toNat).bad false 1 = true) ∧
    (let s := (st clearer).modCore 0 (fun c => { c with ms := ⟨.running, 0x10008, 0x10000, 0, 1, []⟩ })
     Runs s 1 clearer ∧ (s.core clearer.core).owner = some clearer.team ∧ (s.core clearer.core).ms.st ≠ .idle) := by
  delta Runs Ready; decide +kernel

theorem test_clear_rows :
    thenHolds (exec (.aclr ffork) ((st clearer).modCore 0 (fun c => { c with acc := [(64, 1), (128, 2), (255, 3), (256, 4)] })))
      (fun t => (t.core 0).acc == [(64, 1), (256, 4)]) = true := by decide +kernel

/-- `k6` is offset 0 of the window, `k8` 64 and `k10` the control word: 32 rows of K for `ldw`, one row for the others. -/
def fjob (mod : BitVec 6) : Form := { Form.zero with mod := mod, x := 32, a := ⟨.k 6, .none⟩, b := ⟨.k 8, .none⟩, c := ⟨.k 10, .none⟩ }
def weights : State := seqAt' false [(8, 64), (10, 0x2000)]
def rows1 : State :=
  (seqAt' false [(8, 64), (10, 0x100)]).modCore 0 (fun c => { c with active := ⟨true, 0, 0, 32, []⟩ })

theorem witness_load_weights :
    let ctl := Ctl.mk ((seqAt weights 0 false).uni (fjob 0) (fjob 0).c).toNat
    let n := (imageParts (fjob 1).ty (fjob 1).hi ctl.kl).size
    SeqRuns (weights.modTeam 1 (fun t => { t with slab := 4 })) 0 false ∧ ldwBad ctl (fjob 1).ty (fjob 1).hi = false ∧
    ctl.gate = none ∧ (∀ j ∈ (weights.core 0).jobs, j.kind ≠ .ldw) ∧ (weights.core 0).jobs.length < 16 ∧
    (weights.modTeam 1 (fun t => { t with slab := 4 })).seqSlab 1 0x10008 [((seqAt weights 0 false).uni (fjob 1) (fjob 1).a, 64, n)]
      = none := by
  delta SeqRuns; decide +kernel

theorem witness_streams :
    (let f := { fjob 10 with b := .zero }
     let s := rows1.modCore 0 (fun c => { c with active := ⟨true, 10, 0, groupK 10 0, []⟩ })
     let ctl := Ctl.mk ((seqAt s 0 false).uni f f.c).toNat
     SeqRuns s 0 false ∧ ctl.bad true 1 = false ∧ ctl.gate = none ∧ streamMismatch (s.core 0).active f.ty false = none ∧
      (s.core 0).jobs.length < 16 ∧ ctl.rows * scaleBytes f.ty (s.core 0).active.spars = 0 ∧
      s.seqSlab (s.seqTeam 0) (seqAt s 0 false).pc
        [((seqAt s 0 false).uni f f.a, 1, ctl.rows * rowBytes f.ty (s.core 0).active.spars)] = none) ∧
    (let f := { fjob 13 with b := .zero }
     let s := rows1.modCore 0 (fun c => { c with active := ⟨true, 13, 0, groupK 13 0, []⟩ })
     let ctl := Ctl.mk ((seqAt s 0 false).uni f f.c).toNat
     SeqRuns s 0 false ∧ ctl.bad true 2 = false ∧ streamMismatch (s.core 0).active f.ty true = none ∧
      ctl.rows * scaleBytes f.ty (s.core 0).active.spars = 0 ∧
      s.seqSlab (s.seqTeam 0) (seqAt s 0 false).pc
        [((seqAt s 0 false).uni f f.a, 1, ctl.rows * rowBytes f.ty (s.core 0).active.spars)] = none) := by
  delta SeqRuns; decide +kernel

theorem witness_moves_out :
    let ctl := Ctl.mk ((seqAt rows1 0 false).uni (fjob 0) (fjob 0).c).toNat
    SeqRuns rows1 0 false ∧ ctl.bad false 1 = false ∧ ctl.gate = none ∧ (rows1.core 0).jobs.length < 16 ∧
    rows1.seqSlab (rows1.seqTeam 0) (seqAt rows1 0 false).pc
      [((seqAt rows1 0 false).uni (fjob 0) (fjob 0).a, 4, ctl.rows * 64 * 4)] = none ∧
    qntBad (fjob 8).ty ((fjob 8).xBit 4) 0 = false ∧
    rows1.seqSlab (rows1.seqTeam 0) (seqAt rows1 0 false).pc
      [((seqAt rows1 0 false).uni (fjob 8) (fjob 8).a, 8, ctl.rows * packedRow (fjob 8).ty)] = none := by
  delta SeqRuns; decide +kernel

theorem witness_flip :
    let with_ (k : JobKind) (on : Bool) : State := weights.modCore 0 (fun c => { c with jobs := [{ blankJob with kind := k, started := on }] })
    (SeqRuns (with_ .mma true) 0 false ∧ ∀ j ∈ ((with_ .mma true).core 0).jobs,
      j.kind ≠ .ldw ∧ (j.kind = .mma ∨ j.kind = .mmaC → j.started = true)) ∧
    (SeqRuns (with_ .ldw true) 0 false ∧ ∃ j ∈ ((with_ .ldw true).core 0).jobs, j.crew = none ∧ j.kind = .ldw) ∧
    SeqRuns (with_ .mmaC false) 0 false ∧ ∃ j ∈ ((with_ .mmaC false).core 0).jobs, j.crew = none ∧ j.kind = .mmaC ∧ j.started = false := by
  delta SeqRuns; decide +kernel

/-- A card at offset 0 of the window: one row of 8 bytes from offset 64 to offset 128, an arrival at barrier 3. -/
def cpyCard : List DWord := [0x13005, 64, 128, 0x800000001, 0, 0, 0, 0]
/-- The same for `cpyx` (64 elements of a byte), and for `cpym` (windows 0 and 1). -/
def cpyxCard : List DWord := [0x5, 64, 128, 0x4000000001, 0, 0, 256, 0]
def cpymCard : List DWord := [0x5, 64, 128, 0x800000001, 0, 0, 3, 0]
def carded (s : State) (card : List DWord) : State :=
  s.winWrite 1 0 ((card.map (fun w => leBytes 8 w.toNat)).flatten)

theorem witness_crew_copies :
    ∀ p ∈ ([((.cpy, .cpy), cpyCard), ((.cpyx, .cpyx), cpyxCard), ((.cpym, .cpym), cpymCard)]
        : List (((Form → Instr) × JobKind) × List DWord)),
      let f := { ffork with a := ⟨.k 8, .none⟩, b := .zero }
      let s := carded (st crew) p.2
      let card := listDWords 8 (s.winRead 1 ((crew.uni f 2 f.a).toNat % 2 ^ 32) 64)
      let j := s.cardJob p.1.2 1 (some 1) (crew.uni f 2 f.a) card
      Runs s 1 crew ∧ Ready crew (p.1.1 f) f ∧ crew.num = (s.team crew.team).prod ∧ f.xBit 5 = false ∧ card = p.2 ∧
      cardBad p.1.2 card = false ∧ j.card = card ∧ (s.core crew.core).jobsFull true = false ∧
      (s.ottPick crew).isSome = true := by
  delta Runs Ready; decide +kernel

theorem witness_slab_operand :
    (∀ card ∈ [cpyCard, cpyxCard, cpymCard], (carded (st crew) card).slabCheck 1 0 64 64 = .ok) ∧
    ∀ cp ∈ [false, true], (carded (seqAt' cp []) cpyCard).slabCheck 1 0 64 64 = .ok := by
  decide +kernel

theorem witness_sequencer_copies :
    ∀ p ∈ ([((.cpy, .cpy), cpyCard), ((.cpyx, .cpyx), cpyxCard), ((.cpym, .cpym), cpymCard)]
        : List (((Form → Instr) × JobKind) × List DWord)), ∀ cp ∈ [false, true],
      let f := { ffork with a := ⟨.k 8, .none⟩, b := .zero }
      let s := carded (seqAt' cp []) p.2
      let card := listDWords 8 (s.winRead (s.seqTeam 0) (((seqAt s 0 cp).uni f f.a).toNat % 2 ^ 32) 64)
      let j := s.cardJob p.1.2 (s.seqTeam 0) none ((seqAt s 0 cp).uni f f.a) card
      SeqRuns s 0 cp ∧ (s.core 0).jobsFull true = false ∧ cardBad p.1.2 card = false ∧ j.gate = none := by
  delta SeqRuns; decide +kernel

/-! ### Jobs -/

/-- A machine whose core 0 holds one job. -/
def jobbed (j : Job) : State :=
  (st crew).modCore 0 (fun c => { c with jobs := [j], acc := [(64, 0x3F800000), (127, 0x40000000)] })
def amovJob : Job := { blankJob with id := 7, kind := .amov, team := 1, a := 256, c := 0x101 }
def cpyJob : Job := { blankJob with id := 7, kind := .cpy, team := 1, card := cpyCard }

theorem witness_job_starts :
    ∀ j ∈ [amovJob, cpyJob], (jobbed j).findJob 0 7 = some j ∧ j.started = false ∧ (jobbed j).jobReady 0 j = true ∧
      (jobbed j).stopping j.team = false ∧ (jobbed j).dark 0 = false ∧ (pfind (jobbed j).teams j.team).isSome = true ∧
      j.gate = none := by
  decide +kernel

/-- A stream for which no plane is loaded. -/
def mmaJob : Job := { blankJob with id := 7, kind := .mma, team := 1, mod := 10 }

theorem witness_mismatch :
    (jobbed mmaJob).findJob 0 7 = some mmaJob ∧ mmaJob.started = false ∧ (jobbed mmaJob).jobReady 0 mmaJob = true ∧
    (jobbed mmaJob).stopping mmaJob.team = false ∧ (jobbed mmaJob).dark 0 = false ∧
    streamMismatch ((jobbed mmaJob).core 0).active (mmaJob.mod % 16) (decide (mmaJob.kind = .mmaC)) = some 0 := by decide +kernel

theorem witness_copy_job :
    cardSk cpyJob.card = 1 ∧ cardDk cpyJob.card = 1 ∧ cardRows cpyJob.card = 1 ∧ cardRow cpyJob.card = 8 ∧
    cardWord cpyJob.card 1 + 8 ≤ ((jobbed cpyJob).team 1).slab * 4096 ∧ cardWord cpyJob.card 2 + 8 ≤ ((jobbed cpyJob).team 1).slab * 4096 ∧
    ((jobbed cpyJob).team 1).slab ≤ 128 ∧ (Ctl.mk amovJob.c.toNat).rows = 1 := by decide +kernel

/-- The same as bf16, with `.clr`. -/
def amovClrJob : Job := { amovJob with mod := 0x11 }
/-- Two rows of 8 bytes within the window: from 64, 16 apart, to 136, downwards by 8. -/
def rowsJob : Job := { cpyJob with card := [0x5, 64, 136, 0x800000002, 16, -8, 0, 0] }
/-- 8 bytes of memory to offset 128, and offset 64 to memory. -/
def inJob : Job := { cpyJob with card := [0x4, 0x10008, 128, 0x800000001, 0, 0, 0, 0] }
def outJob : Job := { cpyJob with card := [0x1, 64, 0x10008, 0x800000001, 0, 0, 0, 0] }
/-- Two rows of 64 elements of two bytes: a bitmap at 64, values at 256, rows from 512 on. -/
def expandJob : Job := { cpyJob with kind := .cpyx, card := [0x400005, 64, 512, 0x4000000002, 0, 128, 256, 0] }
/-- Its bitmap: elements 1 and 9 of row 0, and the last of row 1. -/
def expandable : State := ((jobbed expandJob).winWrite 1 64 [2, 2]).winWrite 1 79 [0x80]

theorem witness_rows_start :
    (∀ j ∈ [amovJob, amovClrJob, rowsJob, inJob, outJob], Starts (jobbed j) 0 7 j ∧ j.gate = none) ∧ Starts expandable 0 7 expandJob ∧
    (amovClrJob.kind = .amov ∧ amovClrJob.mod % 16 < 3 ∧ amovJob.mod % 16 < 3 ∧ amovClrJob.mod.testBit 4 = true) := by
  delta Starts; decide +kernel

theorem witness_rows :
    (rowsJob.kind = .cpy ∧ cardSk rowsJob.card = 1 ∧ cardDk rowsJob.card = 1 ∧ cardRow rowsJob.card = 8 ∧ cardRows rowsJob.card = 2) ∧
    RowsInWindow (jobbed rowsJob) rowsJob 1 8 ∧ RowsInWindow (jobbed rowsJob) rowsJob 2 8 ∧
    (∀ i < cardRows rowsJob.card, ∀ k < 8, ∀ m < cardRows rowsJob.card, ¬InRow rowsJob 8 m ((rowStart rowsJob 1 i).toNat + k)) := by
  delta RowsInWindow InRow; decide +kernel

theorem rows_apart : RowsApart rowsJob 8 := by
  have hn : cardRows rowsJob.card = 2 := by decide +kernel
  have h0 : rowStart rowsJob 2 0 = 136 := by decide +kernel
  have h1 : rowStart rowsJob 2 1 = 128 := by decide +kernel
  intro a i hi k hk ha hb
  unfold InRow at ha hb
  rw [hn] at hi hk
  obtain rfl | rfl : i = 0 ∨ i = 1 := by omega
  all_goals obtain rfl | rfl : k = 0 ∨ k = 1 := by omega
  all_goals simp only [h0, h1] at ha hb
  all_goals omega

theorem witness_line_rows :
    (cardSk inJob.card = 0 ∧ cardDk inJob.card = 1 ∧ cardRows inJob.card = 1 ∧ cardRow inJob.card = 8 ∧
      RowsInWindow (jobbed inJob) inJob 2 8 ∧ LineReached (jobbed inJob) inJob .read 0x10008 8 ⟨0x10008, false⟩ ∧
      cardWord inJob.card 1 = 0x10008 ∧ Room (jobbed inJob) 0 2) ∧
    (cardSk outJob.card = 1 ∧ cardDk outJob.card = 0 ∧ cardRows outJob.card = 1 ∧ cardRow outJob.card = 8 ∧
      RowsInWindow (jobbed outJob) outJob 1 8 ∧ LineReached (jobbed outJob) outJob .write 0x10008 8 ⟨0x10008, false⟩ ∧
      cardWord outJob.card 2 = 0x10008 ∧ Room (jobbed outJob) 0 2 ∧ coreIsl 0 < 36) := by
  refine ⟨⟨by decide, by decide, by decide, by decide, by delta RowsInWindow; decide +kernel,
    ⟨by decide, by decide, by decide, by decide, fun i hi => ok_of ?_⟩, by decide, by delta Room; decide +kernel⟩,
    ⟨by decide, by decide, by decide, by decide, by delta RowsInWindow; decide +kernel,
    ⟨by decide, by decide, by decide, by decide, fun i hi => ok_of ?_⟩, by decide, by delta Room; decide +kernel, by decide⟩⟩
  all_goals revert i; decide +kernel

theorem witness_expanded :
    let total := presentBefore expandable expandJob (2 * 64)
    let size := (expandable.team 1).slab * 4096
    (expandJob.kind = .cpyx ∧ cardSk expandJob.card = 1 ∧ cardDk expandJob.card = 1 ∧ cardRow expandJob.card = 64 ∧
      cardRows expandJob.card = 2 ∧ cardEsize expandJob.card = 2) ∧
    RowsInWindow expandable expandJob 2 128 ∧ rowStart expandJob 2 0 = 512 ∧ rowStart expandJob 2 1 = 640 ∧
    total = 3 ∧ cardWord expandJob.card 1 + 2 * 64 / 8 ≤ size ∧ cardWord expandJob.card 6 + total * 2 ≤ size ∧
    cardWord expandJob.card 1 = 64 ∧ cardWord expandJob.card 6 = 256 := by
  delta RowsInWindow; decide +kernel

/-- The rows of the destination meet neither each other nor what is below them. -/
theorem expanded_apart : RowsApart expandJob 128 ∧ ∀ m < 2, ∀ a, InRow expandJob 128 m a → 512 ≤ a := by
  have hn : cardRows expandJob.card = 2 := by decide +kernel
  have h0 : rowStart expandJob 2 0 = 512 := by decide +kernel
  have h1 : rowStart expandJob 2 1 = 640 := by decide +kernel
  constructor
  · intro a i hi k hk ha hb
    unfold InRow at ha hb
    rw [hn] at hi hk
    obtain rfl | rfl : i = 0 ∨ i = 1 := by omega
    all_goals obtain rfl | rfl : k = 0 ∨ k = 1 := by omega
    all_goals simp only [h0, h1] at ha hb
    all_goals omega
  · intro m hm a ha
    unfold InRow at ha
    obtain rfl | rfl : m = 0 ∨ m = 1 := by omega
    all_goals simp only [h0, h1] at ha
    all_goals omega

/-- R177: 1 as bf16, and a cleared accumulator. -/
theorem test_amov_converts_and_clears :
    thenHolds (exec (.jobStart 0 7) (jobbed amovClrJob)) (fun t =>
      (t.team 1).win.readBytes 256 2 == [0x80, 0x3F] && accGet (t.core 0).acc 1 0 == 0 && accGet (t.core 0).acc 1 63 == 0) = true := by
  decide +kernel

/-- R180: row 1 comes from 16 bytes on and goes 8 bytes down. -/
theorem test_cpy_strides :
    thenHolds (exec (.jobStart 0 7) (((jobbed rowsJob).winWrite 1 64 [1, 2, 3]).winWrite 1 80 [4, 5])) (fun t =>
      (t.team 1).win.readBytes 128 11 == [4, 5, 0, 0, 0, 0, 0, 0, 1, 2, 3]) = true := by decide +kernel

/-- R180: from the window to a line of memory, as the core then reads it, and from memory. -/
theorem test_cpy_memory :
    thenHolds (exec (.jobStart 0 7) ((jobbed outJob).winWrite 1 64 [1, 2, 3])) (fun t =>
      [7, 8, 9, 10].map (fun j => seenByte t 0 ⟨0x10000 + j, false⟩) == [0, 1, 2, 3]) = true ∧
    thenHolds (exec (.jobStart 0 7) { jobbed inJob with mem := (jobbed inJob).mem.writeBytes 0x10008 [4, 5] }) (fun t =>
      (t.team 1).win.readBytes 127 4 == [0, 4, 5, 0]) = true := by decide +kernel

/-- R180: the values 7, 8 and 9 at the set bits of the bitmap. -/
theorem test_cpyx_expands :
    thenHolds (exec (.jobStart 0 7) (expandable.winWrite 1 256 [7, 0, 8, 0, 9, 0])) (fun t =>
      (t.team 1).win.readBytes 512 4 == [0, 0, 7, 0] && (t.team 1).win.readBytes 528 4 == [0, 0, 8, 0] &&
      (t.team 1).win.readBytes 764 4 == [0, 0, 9, 0]) = true := by decide +kernel

/-- R177: row 1 of the accumulator at offset 256, column 63 at its end. -/
theorem test_amov_writes_rows :
    thenHolds (exec (.jobStart 0 7) (jobbed amovJob)) (fun t =>
      (t.team 1).win.readBytes 256 4 == leBytes 4 0x3F800000 && (t.team 1).win.readBytes 508 4 == leBytes 4 0x40000000) = true := by
  decide +kernel

theorem test_cpy_copies :
    thenHolds (exec (.jobStart 0 7) ((jobbed cpyJob).winWrite 1 64 [1, 2, 3])) (fun t =>
      (t.team 1).win.readBytes 128 4 == [1, 2, 3, 0]) = true := by decide +kernel

def doneJob : Job := { cpyJob with started := true }
/-- A `cpym` with one beat left for window 0, recorded with tag 9. -/
def beatJob : Job := { blankJob with id := 7, kind := .cpym, team := 1, started := true, beats := [(0, 64, [5, 6])], windows := [(0, 1, 0, 9)] }

theorem witness_job_completes :
    (jobbed doneJob).findJob 0 7 = some doneJob ∧ doneJob.started = true ∧ doneJob.beats = [] ∧ (jobbed doneJob).jobHeld 0 7 = false ∧
    doneJob.fault = none ∧ doneJob.crew = none ∧ doneJob.kind = .cpy ∧ cardField doneJob.card 16 1 = 1 ∧ cardWord doneJob.card 6 = 0 ∧
    ((jobbed doneJob).core 0).owed = [] := by decide +kernel

theorem witness_arrival :
    let s : State := { barred crew with arrivals := [(5, (1, 3, 1, 0))] }
    pfind s.arrivals 5 = some (1, 3, 1, (s.team 1).core) ∧ (pfind s.teams 1).isSome = true ∧ (s.bar 1 3).exp ≠ 0 := by decide +kernel

theorem witness_beats :
    let s := (jobbed beatJob).modTeam 1 (fun t => { t with tag := 9 })
    (s.findJob 0 7 = some beatJob ∧ beatJob.beats = [(0, 64, [5, 6])] ∧ beatJob.windows = [(0, 1, 0, 9)] ∧ beatJob.spoiled = []) ∧
    (pfind s.teams 1).map (·.tag) = some 9 ∧ ((pfind (jobbed beatJob).teams 1).map (fun t => decide (t.tag ≠ 9))) = some true ∧
    (pget Gang.waiting (s.launch 1).gangs 0).want ≠ 2 ∧ (pfind s.teams 1).map (fun t => (t.launch, t.gang)) = some (1, 0) ∧
    (let u := s.setGang 1 0 { s.gang 1 0 with want := 2 }
     (pget Gang.waiting (u.launch 1).gangs 0).want = 2 ∧ u.findJob 0 7 = some beatJob ∧ (pfind u.teams 1).isSome = true) := by
  decide +kernel

theorem test_late_beat_counts :
    thenHolds (exec (.cpymBeat 0 7 0 0) (jobbed beatJob)) (fun t => (t.core 0).spoil == 1 && (t.team 1).win.read 64 == 0) = true := by
  decide +kernel

theorem witness_sequencer_events :
    (seqAt' true []).seqFetches 0 true = true ∧
    (let s := (seqAt' true []).modCore 0 (fun c => { c with cs := { c.cs with st := .ending } })
     (seqAt s 0 true).st = .ending ∧ (s.core 0).jobs = [] ∧ (s.core 0).owed = []) := by decide +kernel

/-! ### Handles -/

/-- A row-major record of 64 f32 elements at 0x10000: one dimension, extent 64, stride 1. -/
def rec64 : BitVec 512 := BitVec.ofNat 512 (0x10000 + 64 * 2 ^ 64 + 2 ^ 192)

/-- The same with a relay pending to layout 1 at 0x18000, its map at 0x1C000. -/
def relayed : BitVec 512 := hRelay rec64 1 0x18000 0x1C000

/-- Lanes 0 and 31 are active with their numbers as first coordinate in `v8`; `k8` to `k15` hold the record. -/
def holder : Crew :=
  { crew with
    em := 0x80000001, v := [(8, lanesBy (fun l => BitVec.ofNat 32 l)), (12, lanesAll 77)]
    k := [(5, 1), (6, 0x18000), (7, 0x1C000), (8, 0x10000), (9, 64), (11, 1)] }
def withRec (r : BitVec 512) (c : Crew) : State := (st c).modTeam 1 (fun t => { t with tn := if r = 0 then [] else [(1, r)] })

/-- `thd tn1, k8`; `thl` and `ths` at `k6` − 0x18000 + 0x10000; `tld v4, tn1, v8`; `relay tn1, k5, k6, k7`. -/
def fthd : Form := { Form.zero with mod := 1, a := ⟨.k 8, .none⟩ }
def ftld : Form := { fm 1 with a := ⟨.v 8, .none⟩, b := .zero, c := ⟨.v 12, .none⟩ }
def frelay : Form := { Form.zero with mod := 1, a := ⟨.k 5, .none⟩, b := ⟨.k 6, .none⟩, c := ⟨.k 7, .none⟩ }

theorem witness_handle_loads :
    Runs (withRec rec64 holder) 1 holder ∧ (pfind (withRec rec64 holder).teams holder.team).isSome = true ∧
    (Ready holder (.thd fthd) fthd ∧ (∀ i < 8, holder.kAwaits (fthd.a.src.bits.toNat % 64 + i) = false) ∧
      hPd (handleOf (withRec rec64 holder) holder fthd) = false ∧ hValid (recordFrom holder (fthd.a.src.bits.toNat % 64)) = true) ∧
    (Ready holder (.thl fthd) fthd ∧ Ready holder (.ths fthd) fthd ∧ MayIssue (withRec rec64 holder) holder .tn ∧
      Room (withRec rec64 holder) holder.core 2 ∧ coreIsl holder.core < 36) ∧
    (∀ k ∈ [Acc.read, .write], (withRec rec64 holder).accessAt holder k (holder.eaUniform fthd) 64 = .ok ⟨0x10000, false⟩) ∧
    Pages (withRec rec64 holder) := by
  have g : ∀ k ∈ [Acc.read, .write], ((withRec rec64 holder).accessAt holder k (holder.eaUniform fthd) 64).toOption
      = some ⟨0x10000, false⟩ := by decide +kernel
  exact ⟨by delta Runs; decide +kernel, by decide +kernel, by delta Ready; decide +kernel,
    by delta Ready MayIssue Room; decide +kernel, fun k hk => ok_of (g k hk), pages_of (by decide +kernel)⟩

/-- The element of a lane. -/
def elemOf (l : Nat) : ElemRef := ⟨0, 0, 8 * 0x10000 + 32 * l, ⟨0x10000 + 4 * l, false⟩, [1, 2, 3].map (fun j => ⟨0x10000 + 4 * l + j, false⟩)⟩

theorem elems_of {k : Acc} (h : ∀ l < 32, holder.isActive l = true →
    ((withRec rec64 holder).elemRef ((withRec rec64 holder).launchOf holder) holder.slotRange rec64 k (holder.coords ftld l)).toOption
      = some (elemOf l)) :
    ∀ l < 32, holder.isActive l = true →
      (withRec rec64 holder).elemRef ((withRec rec64 holder).launchOf holder) holder.slotRange rec64 k (holder.coords ftld l) = .ok (elemOf l) :=
  fun l hl ha => ok_of (h l hl ha)

theorem witness_elements :
    Ready holder (.tld ftld) ftld ∧ Ready holder (.tst ftld) ftld ∧ Ready holder (.thpf ftld) ftld ∧
    MayIssue (withRec rec64 holder) holder .tn ∧ handleOf (withRec rec64 holder) holder ftld = rec64 ∧
    holder.handleFault ftld rec64 = none ∧ hPd rec64 = false ∧ Room (withRec rec64 holder) holder.core 65 ∧
    (∀ l < 32, holder.isActive l = true →
      (withRec rec64 holder).elemRef ((withRec rec64 holder).launchOf holder) holder.slotRange rec64 .read (holder.coords ftld l) = .ok (elemOf l)) ∧
    ∀ l < 32, holder.isActive l = true →
      (withRec rec64 holder).elemRef ((withRec rec64 holder).launchOf holder) holder.slotRange rec64 .write (holder.coords ftld l) = .ok (elemOf l) :=
  ⟨by delta Ready; decide +kernel, by delta Ready; decide +kernel, by delta Ready; decide +kernel,
    by delta MayIssue; decide +kernel, by delta handleOf; decide +kernel, by decide +kernel, by decide +kernel,
    by delta Room; decide +kernel, elems_of (by decide +kernel), elems_of (by decide +kernel)⟩

/-- R284: lane 31 stores 77 at element 31. -/
theorem test_tst_stores :
    thenHolds (exec (.tst ftld) (withRec rec64 holder)) (fun t =>
      seenVal t 0 ⟨0x10000 + 124, false⟩ 4 == 77 && seenVal t 0 ⟨0x10000 + 120, false⟩ 4 == 0) = true := by decide +kernel

/-- The conversion of `relayed`, with its one tile not yet moved, or moved. -/
def conv (next : Nat) : Conv :=
  { id := 9, launch := 1, asid := 1, handle := relayed, tiles := 1, next := next, moving := false, waitOps := [], waitJobs := []
    hw := 0, held := [], stopped := false, complete := decide (1 ≤ next), elig := some 1, lease := 9 }
def converting (next : Nat) (c : Crew) : State := (withRec relayed c).modIsl 0 (fun x => { x with convs := [conv next] })

/-- A `tst` of the crew, with number 40, is held with four bytes of 0x10000. -/
def heldAt0 (s : State) : State :=
  s.modIsl 0 (fun x => { x with convs := [{ conv 0 with hw := 1, held := [⟨0, false, 1, 40, [(8 * 0x10000, 32, 0x55)], []⟩] }] })

theorem witness_held : (heldAt0 (st mover)).heldByte mover.isl 1 0x10000 = some 0x55 ∧ (heldAt0 (st mover)).heldByte 0 1 0x10004 = none := by
  decide +kernel

/-- R70, R284: the crew's load sees its held element; its later store takes the bytes from it. -/
theorem test_held_element :
    thenHolds (exec (.ld fld) (heldAt0 (st mover))) (fun t =>
      (crewAt t 1).ops.map (fun o => o.vvals.map (fun x => laneOf x 0)) == [[0x55]]) = true ∧
    thenHolds (exec (.st fld) (heldAt0 (st mover))) (fun t =>
      (t.heldByte 0 1 0x10000).isNone && ((t.isl 0).convs.map (fun v => v.held.map (fun h => h.lost.contains 0x10003))) == [[true]]) = true := by
  decide +kernel

theorem witness_relayout :
    (Ready holder (.relay frelay) frelay ∧ hValid rec64 = true ∧ hPd rec64 = false ∧
      relayBad ((withRec rec64 holder).launchOf holder) rec64 (holder.uni frelay 2 frelay.a).toNat (holder.uni frelay 2 frelay.b).toNat
        (holder.uni frelay 2 frelay.c).toNat = false) ∧
    (Ready holder (.thw fthd) fthd ∧ Runs (converting 0 holder) 1 holder ∧
      hPd (handleOf (converting 0 holder) holder fthd) = true ∧
      (converting 0 holder).relayDone ((converting 0 holder).launchOf holder) relayed = false ∧
      (converting 1 holder).relayDone ((converting 1 holder).launchOf holder) relayed = true ∧
      (pfind (converting 1 holder).teams holder.team).isSome = true ∧ ((converting 1 holder).core holder.core).gI ≠ 15) ∧
    (Ready holder (.thq fthd) fthd ∧ MayIssue (converting 0 holder) holder .tn ∧ hValid relayed = true ∧
      (converting 0 holder).convAt ((converting 0 holder).launchOf holder).isl ((converting 0 holder).launchOf holder).asid (hMap relayed)
        = some (conv 0)) := by
  delta Runs Ready MayIssue handleOf; decide +kernel

/-- R287: the settled record has layout 1 at the destination, and nothing pending. -/
theorem test_thw_settles :
    thenHolds (exec (.thw fthd) (converting 1 holder)) (fun t =>
      let r := t.tnGet 1 1
      hTag r == 1 && hBase r == 0x18000 && !hPd r && hMap r == 0 && hValid r) = true := by decide +kernel

/-! ### Remote operations -/

/-- `k6` is a remote address, `k7` a local one, `k8` a route word to island 1 with length 16, `k9` a mask of islands 0 and 1,
`k10` one without a length, `k12` the word of `mput`. -/
def sender : Crew :=
  { crew with k := [(6, 0x20), (7, 0x10000), (8, 0x100000010), (10, 0x100000000), (12, 16), (13, 3), (14, 0x100000FFF)] }
def fput : Form := { Form.zero with a := ⟨.k 6, .none⟩, b := ⟨.k 7, .none⟩, c := ⟨.k 8, .none⟩, dst := 4, nd := true }
def fmput : Form := { fput with c := ⟨.k 12, .none⟩ }
def fratm : Form := { fput with b := ⟨.k 10, .none⟩, c := ⟨.k 12, .none⟩ }
def fntf : Form := { fput with a := ⟨.k 14, .none⟩ }

/-- The bytes that the local side of a put gives. -/
def putBytes : State × List Byte := (((st sender).localRead sender false 0x10000 16).toOption).getD (st sender, [])

theorem witness_put :
    Runs (st sender) 1 sender ∧ Ready sender (.put fput) fput ∧ MayIssue (st sender) sender .rm ∧
    (st sender).rwFault (sender.uni fput 2 fput.c) (lenBad (sender.uni fput 2 fput.c)) (sender.uni fput 2 fput.a) = none ∧
    (st sender).localRead sender fput.localSlab (sender.uni fput 2 fput.b) (rwLen (sender.uni fput 2 fput.c)) = .ok putBytes ∧
    (st sender).rwTarget (sender.uni fput 2 fput.c) = 1 ∧ (st sender).unreachable sender.isl 1 = none := by
  refine ⟨by delta Runs; decide +kernel, by delta Ready; decide +kernel, by delta MayIssue; decide +kernel, by decide +kernel,
    ok_of (by decide +kernel), by decide +kernel, by decide +kernel⟩

theorem witness_mput :
    let w := sender.uni fmput 2 fmput.c
    let m := sender.kget (fmput.c.src.bits.toNat % 64 + 1)
    Ready sender (.mput fmput) fmput ∧ rwIsl w = 0 ∧ rwOp w = false ∧ m ≠ 0 ∧ m.toNat < 2 ^ (st sender).islands ∧
    (st sender).rwFault w (lenBad w) (sender.uni fmput 2 fmput.a) = none ∧ rwLen w = 16 ∧
    ∀ j ∈ (List.range (st sender).islands).filter m.getLsbD, (st sender).unreachable sender.isl j = none := by
  delta Ready; decide +kernel

theorem witness_get :
    Ready sender (.get fput) fput ∧ (st sender).localDest sender fput.localSlab (sender.uni fput 2 fput.b)
      (rwLen (sender.uni fput 2 fput.c)) = .ok (none, false, 0x10000) := by
  refine ⟨by delta Ready; decide +kernel, ok_of (by decide +kernel)⟩

theorem witness_remote_atomics :
    (Ready sender (.ratm fratm) fratm ∧ Ready sender (.ratmCas { fratm with mod := 11 }) { fratm with mod := 11 } ∧
      ratmFault (st sender) fratm (sender.uni fratm 2 fratm.b) (sender.uni fratm 2 fratm.a) = none ∧
      (st sender).unreachable sender.isl ((st sender).rwTarget (sender.uni fratm 2 fratm.b)) = none) ∧
    (Ready sender (.ntf fntf) fntf ∧
      (st sender).rwFault (sender.uni fntf 2 fntf.a) (decide (4096 ≤ rwLen (sender.uni fntf 2 fntf.a))) 0 = none ∧
      (st sender).unreachable sender.isl ((st sender).rwTarget (sender.uni fntf 2 fntf.a)) = none) := by
  delta Ready; decide +kernel

/-- R363: 16 bytes to the address 0x38 are cut at the line. -/
theorem test_put_is_cut :
    thenHolds (exec (.put fput) (st { sender with k := [(6, 0x38), (7, 0x10000), (8, 0x100000010)] })) (fun t =>
      t.packets.map (fun p => (p.2.dst, p.2.what)) == [(1, .put 0x38 (List.replicate 8 0)), (1, .put 0x40 [0x68, 0, 0, 0, 0, 0, 0, 0])])
      = true := by decide +kernel

/-- Counter 4095 belongs to the launch's ASID and stands at 7; `k6` names it and `k7` is the threshold. -/
def counted (c : Crew) : State := (st c).modIsl 0 (fun x => { x with owners := [(4095, 1)], counters := [(4095, 7)] })
def waiter (n t : Nat) : Crew := { crew with k := [(6, BitVec.ofNat 64 n), (7, BitVec.ofNat 64 t)] }
def fcw : Form := { Form.zero with a := ⟨.k 6, .none⟩, b := ⟨.k 7, .none⟩ }

theorem witness_remote_waits :
    (Ready crew (.flushp Form.zero) Form.zero ∧ ∀ e ∈ (st crew).rops, e.2.crew = 1 → e.2.kind = .get ∨ e.2.kind = .coll) ∧
    (∃ e ∈ ({ st crew with rops := [(7, (st crew).newRop 1 crew .put 1)] } : State).rops,
      e.2.crew = 1 ∧ e.2.kind ≠ .get ∧ e.2.kind ≠ .coll) ∧
    (Ready (waiter 4096 0) (.cwait fcw) fcw ∧ 4096 ≤ ((waiter 4096 0).uni fcw 2 fcw.a).toNat) ∧
    (((waiter 4095 7).uni fcw 2 fcw.a).toNat < 4096 ∧
      pfind ((counted (waiter 4095 7)).isl 0).owners 4095 = some ((counted (waiter 4095 7)).launchOf (waiter 4095 7)).asid ∧
      (pget 0 ((counted (waiter 4095 7)).isl 0).counters 4095 - lowWord ((waiter 4095 7).uni fcw 2 fcw.b)).toNat < 2 ^ 31 ∧
      ((counted (waiter 4095 7)).core 0).gI ≠ 15 ∧ ((counted (waiter 4095 7)).core 0).gS ≠ 15) ∧
    ((waiter 4095 8).cw = none ∧
      2 ^ 31 ≤ (pget 0 ((counted (waiter 4095 8)).isl 0).counters 4095 - lowWord ((waiter 4095 8).uni fcw 2 fcw.b)).toNat) := by
  delta Ready; decide +kernel

/-- Launch 1 waits for counter 4095 to reach `h`. -/
def onHold (h : Nat) : State := (counted crew).modLaunch 1 (fun l => { l with held := true, hold := some (4095, BitVec.ofNat 32 h) })

theorem witness_holds :
    (pfind (onHold 7).launches 1).map (fun l => (l.held, l.hold)) = some (true, some (4095, 7)) ∧
    (pfind (onHold 8).launches 1).map (fun l => (l.held, l.hold)) = some (true, some (4095, 8)) ∧
    (pget 0 ((onHold 7).isl 0).counters 4095 - 7).toNat < 2 ^ 31 ∧
    2 ^ 31 ≤ (pget 0 ((onHold 8).isl 0).counters 4095 - 8).toNat := by
  decide +kernel

theorem witness_remote_fences :
    (Ready crew (.rfenceRel Form.zero) Form.zero ∧ crew.ops = [] ∧ pRising ((dirtyAt (st crew)).core 0).lines = true ∧
      coreIsl crew.core < 36 ∧ ∀ e ∈ ((dirtyAt (st crew)).core 0).lines, 64 * e.1 + 64 ≤ 2 ^ 64) ∧
    (Ready crew (.rfenceAcq (fm 1)) (fm 1) ∧ ∀ e ∈ (st crew).rops, e.2.crew ≠ 1) := by
  delta Ready; decide +kernel

/-- A sum of one f32 of island 0 alone, all-reduced, with tag 5, at 0x10040. -/
def collCard : List DWord := [0x50001FF000100, 0x10080, 0x10080, 1, 0, 0, 0, 0]
def collS (c : Crew) : State :=
  { st c with mem := (st c).mem.writeBytes 0x10040 ((collCard.map (fun w => leBytes 8 w.toNat)).flatten) }
def collector : Crew := { crew with k := [(6, 0x10040)] }
def loaded : State × List Byte := (collS collector).loadPieces collector.core [(⟨0x10040, false⟩, 64)]

theorem loaded_eq : (collS collector).loadPieces collector.core [(⟨0x10040, false⟩, 64)] = (loaded.1, loaded.2) :=
  (Prod.eta loaded).symm

theorem coll_good {s s1 : State} {c : Crew} {f : Form} {ps src : List (Loc × Nat)} {bs : List Byte}
    (h1 : (c.uni f 2 f.a).toNat % 64 = 0) (h2 : s.regionAt c .read (c.uni f 2 f.a).toNat 64 = .ok ps)
    (h3 : s.loadPieces c.core ps = (s1, bs)) (h4 : s.cBad c.isl (listDWords 8 bs) = false)
    (h5 : s1.cRegions c (listDWords 8 bs) = .ok src)
    (h6 : ∀ i < 64, (cIm (listDWords 8 bs)).getLsbD i = true → (s.isl i).dead = false)
    (h7 : (s.collPairs (listDWords 8 bs) c.isl).any s.cutOff = false) (h8 : s.planeGone (listDWords 8 bs) = false) :
    CollGood s s1 c f ps src bs := ⟨h1, h2, h3, h4, h5, h6, h7, h8⟩

theorem witness_collective :
    Runs (collS collector) 1 collector ∧ Ready collector (.coll fput) fput ∧ MayIssue (collS collector) collector .rm ∧
    CollGood (collS collector) loaded.1 collector fput [(⟨0x10040, false⟩, 64)] [(⟨0x10080, false⟩, 4)] loaded.2 ∧
    (collS collector).findColl ((collS collector).launchOf collector).fn (cardField (listDWords 8 loaded.2) 48 16) = none := by
  refine ⟨by delta Runs; decide +kernel, by delta Ready; decide +kernel, by delta MayIssue; decide +kernel,
    coll_good (by decide +kernel) (ok_of (by decide +kernel)) loaded_eq (by decide +kernel) (ok_of (by decide +kernel))
      (by decide +kernel) (by decide +kernel) (by decide +kernel), by decide +kernel⟩

/-- The same collective, met by a member on island 1 with 5. -/
def metColl : Coll := ⟨0, (collS collector).cAgreed (listDWords 8 loaded.2), [⟨1, 60, false, false, false⟩], [(1, [5])], false, 0⟩

theorem witness_collective_joins :
    let s : State := { collS collector with colls := [(61, metColl)] }
    s.findColl (s.launchOf collector).fn (cardField (listDWords 8 loaded.2) 48 16) = some (61, metColl) ∧ metColl.broken = false ∧
    metColl.card = s.cAgreed (listDWords 8 loaded.2) ∧ (∀ m ∈ metColl.members, m.isl ≠ collector.isl) ∧
    Runs s 1 collector ∧ MayIssue s collector .rm ∧ s.cBad collector.isl (listDWords 8 loaded.2) = false ∧
    s.planeGone (listDWords 8 loaded.2) = false := by
  delta Runs MayIssue; decide +kernel

/-! ### Crews, teams and gangs -/

/-- An operation that will give 9 to lane 0 of `v5` and 8 to `k63`, and one of a history entry. -/
def lastOp : Op := { blankOp with id := 40, path := .ld, flag := 2, mask := 1, vreg := some 5, vvals := [lanesAll 9] }
def opened (o : Op) (c : Crew) : Crew := { c with ops := [o] }

theorem witness_completions :
    (∀ o ∈ [lastOp, { lastOp with vreg := none, vvals := [], kreg := some 63, kval := 8 },
        { lastOp with vreg := none, vvals := [], hvals := some (lanesAll 7) },
        { lastOp with vreg := none, vvals := [], hn := some 15, hrec := some 9 }],
      pfind (st (opened o crew)).crews 1 = some (opened o crew) ∧ (pfind (st (opened o crew)).teams crew.team).isSome = true ∧
        o.done = false ∧ o.held = false ∧ o.after = [] ∧ o.frozen = false ∧
        crew.trigWait = none ∧ crew.exiting = false) ∧
    (let c : Crew := { crew with exiting := true }
     pfind (st c).crews 1 = some c ∧ c.ops = [] ∧ c.trigWait = none ∧ ((st c).team c.team).fatal = none ∧
      ((st c).core c.core).owner = some c.team ∧ (∀ q ∈ [((st c).core c.core).ms, ((st c).core c.core).cs], q.st = .idle) ∧
      ((st c).team c.team).prod = c.num ∧ ((st c).modCore 0 (fun x => { x with owner := none })).crews = (st c).crews ∧
      (((st c).modCore 0 (fun x => { x with owner := none })).core c.core).owner ≠ some c.team ∧
      (((st c).modCore 0 (fun x => { x with owner := none })).core c.core).jobs = []) ∧
    ((st { crew with num := 1, exiting := true }).team 1).prod ≠ 1 := by
  decide +kernel

theorem test_completion_writes :
    thenHolds (exec (.operationCompletes 1 40) (st (opened lastOp { crew with v := [(5, lanesAll 1)] }))) (fun t =>
      laneOf ((crewAt t 1).vget 5) 0 == 9 && laneOf ((crewAt t 1).vget 5) 1 == 1 && (crewAt t 1).ops == []) = true := by
  decide +kernel

/-- Crew 2 waits in quarter 0; crews 1 and 11 to 17 fill the active set of `full8`, crew 15 having entered first. -/
def idler : Crew := { crew with num := 2, place := .pending, wstamp := 5 }
def withIdler : State := (st crew).setCrew 2 idler
def full8 : State :=
  [11, 12, 13, 14, 15, 16, 17].foldl (fun s n => s.setCrew n { crew with num := n, entered := if n = 15 then 3 else n })
    (((st { crew with entered := 9 })).setCrew 2 idler)

/-- `full8` with crew 12 yielded, or with crews 12 and 13 stalled since 8 and 4. -/
def yields12 : State := full8.modCrew 12 (fun c => { c with yielded := true })
def stalls13 : State :=
  (full8.modCrew 12 (fun c => { c with stall := .long, wstamp := 8 })).modCrew 13 (fun c => { c with stall := .long, wstamp := 4 })

/-- A crew, its number and its quarter's crews but it. -/
def first (s : State) (out : Nat) (among : Crew → Bool) (before : Crew → Crew → Bool) : Bool :=
  ((s.quarterCrews 0 0).filter (fun e => e.2.place = .active && among e.2 && e != (out, crewAt s out))).all
    (fun e => before (crewAt s out) e.2)

theorem first_by {s : State} {out : Nat} {among : Crew → Bool} {before : Crew → Crew → Bool}
    (h : (s.quarterCrews 0 0).contains (out, crewAt s out) = true) (p : (crewAt s out).place = .active)
    (a : among (crewAt s out) = true) (b : first s out among before = true) :
    FirstBy s 0 0 out (crewAt s out) among (fun x y => before x y = true) := by
  refine ⟨by simpa using h, p, a, fun e he hp ha hne => ?_⟩
  exact List.all_eq_true.mp b e (List.mem_filter.mpr ⟨he, by simp [hp, ha, hne]⟩)

/-- Crew 2 is the one crew of quarter 0 that waits. -/
def waitsAlone (s : State) : Bool :=
  (s.quarterCrews 0 0).contains (2, idler) && ((s.quarterCrews 0 0).filter (fun e => e.2.waits && e != (2, idler))).isEmpty

theorem waits_alone {s : State} (h : waitsAlone s = true) : WaitsLongest s 0 0 2 idler ∧ WaitsMost s 0 0 2 idler := by
  simp only [waitsAlone, Bool.and_eq_true, List.contains_iff_mem, List.isEmpty_iff] at h
  have no : ∀ e ∈ s.quarterCrews 0 0, e.2.waits = true → e ≠ (2, idler) → False := fun e he hw hne => by
    have : e ∈ (s.quarterCrews 0 0).filter (fun e => e.2.waits && e != (2, idler)) := List.mem_filter.mpr ⟨he, by simp [hw, hne]⟩
    rw [h.2] at this
    cases this
  exact ⟨⟨h.1, by decide, fun e he hw hne => (no e he hw hne).elim⟩, ⟨h.1, by decide, fun e he hw hne => (no e he hw hne).elim⟩⟩

theorem witness_swap_choices :
    (∀ s ∈ [withIdler, full8, yields12, stalls13], pfind (s.core 0).swaps 0 = none ∧ pfind s.crews 2 = some idler) ∧
    WaitsLongest withIdler 0 0 2 idler ∧ WaitsMost full8 0 0 2 idler ∧ WaitsLongest yields12 0 0 2 idler ∧
    WaitsLongest stalls13 0 0 2 idler ∧ 8 ≤ yields12.activeCount 0 0 ∧ 8 ≤ stalls13.activeCount 0 0 ∧
    FirstBy yields12 0 0 12 (crewAt yields12 12) (·.yielded) (fun _ _ => false = true) ∧
    (∀ e ∈ stalls13.quarterCrews 0 0, e.2.place = .active → e.2.yielded = false) ∧
    FirstBy stalls13 0 0 13 (crewAt stalls13 13) (·.stalled) (fun a b => decide (a.wstamp < b.wstamp) = true) ∧
    FirstBy full8 0 0 15 (crewAt full8 15) (fun _ => true) (fun a b => decide (a.entered < b.entered) = true) ∧
    ∀ e ∈ (st crew).quarterCrews 0 0, e.2.waits = false :=
  ⟨by decide +kernel, (waits_alone (by decide +kernel)).1, (waits_alone (by decide +kernel)).2, (waits_alone (by decide +kernel)).1,
    (waits_alone (by decide +kernel)).1, by decide +kernel, by decide +kernel, first_by (before := fun _ _ => false) (by decide +kernel) (by decide +kernel) (by decide +kernel) (by decide +kernel),
    by decide +kernel, first_by (before := fun a b => decide (a.wstamp < b.wstamp)) (by decide +kernel) (by decide +kernel)
      (by decide +kernel) (by decide +kernel), first_by (before := fun a b => decide (a.entered < b.entered)) (by decide +kernel)
      (by decide +kernel) (by decide +kernel) (by decide +kernel), by decide +kernel⟩

/-- R158: the yielder goes out before a stalled crew, and of those the one stalled longest. -/
theorem test_swap_out :
    thenHolds (exec (.swapStart 0 0) yields12) (fun t => pfind (t.core 0).swaps 0 == some (some 12, some 2)) = true ∧
    thenHolds (exec (.swapStart 0 0) stalls13) (fun t => pfind (t.core 0).swaps 0 == some (some 13, some 2)) = true := by
  decide +kernel

theorem witness_swaps :
    (pfind (withIdler.core 0).swaps 0 = none ∧ withIdler.waitingCrew 0 0 = some 2 ∧ withIdler.activeCount 0 0 < 8 ∧
      pfind withIdler.crews 2 = some idler) ∧
    (let s := withIdler.modCore 0 (fun x => { x with swaps := [(0, (none, some 2))] })
     pfind (s.core 0).swaps 0 = some (none, some 2) ∧ pfind s.crews 2 = some idler ∧ idler.place ≠ .left ∧ idler.core = 0 ∧
      idler.quarter = 0) ∧
    (let s := full8.modCore 0 (fun x => { x with swaps := [(0, (some 15, some 2))] })
     pfind (s.core 0).swaps 0 = some (some 15, some 2) ∧ pfind s.crews 2 = some idler ∧
      (pfind s.crews 15).map (fun d => (d.place, d.core, d.quarter)) = some (.active, 0, 0)) ∧
    (pfind (full8.core 0).swaps 0 = none ∧ 8 ≤ full8.activeCount 0 0 ∧ full8.waitingCrew 0 0 = some 2 ∧
      pfind full8.crews 2 = some idler ∧
      (lowestBy (fun c => (c.entered, 0)) ((full8.quarterCrews 0 0).filter (fun e => e.2.place = .active))).map Prod.fst = some 15) := by
  decide +kernel

/-- A section opened at 0, at panel time 100000 and after; a cause taken and not entered; an imprecise cause queued. -/
def sectioned : Crew := { trapper with sect := some 0 }
def atTime (n : Nat) (s : State) : State := { s with time := BitVec.ofNat 64 n }

/-- At just 100 µs, with `nps.end` (opcode 0x0CC) as the crew's next word. -/
def atEnd : State :=
  let s := atTime 100000 (handled (st sectioned))
  { s with mem := s.mem.writeBytes 0x10008 (leBytes 8 0x330) }

/-- R236: in a tie `nps.end` goes first. -/
theorem test_overrun_tie :
    thenHolds (exec (.sectionOverrun 1) atEnd) (fun t => !(crewAt t 1).handler && (crewAt t 1).sect == some 0) = true ∧
    thenHolds (exec (.sectionOverrun 1) (atTime 100001 atEnd)) (fun t => (crewAt t 1).handler && (crewAt t 1).sect == none)
      = true := by decide +kernel

theorem witness_traps_between_issues :
    (let s := atTime 100001 (handled (st sectioned))
     pfind s.crews 1 = some sectioned ∧ sectioned.sect = some 0 ∧ (0 : DWord).toNat + 100000 < (s.islTime sectioned.isl).toNat ∧
      sectioned.inRound = none ∧ sectioned.trap = none ∧ s.stopping sectioned.team = false ∧ CanEnter s sectioned) ∧
    ((0 : DWord).toNat + 100000 = ((atTime 100000 (handled (st sectioned))).islTime sectioned.isl).toNat ∧
      ((atTime 100000 (handled (st sectioned))).fetch (.crew 1)).toOption = some (.exit Form.zero)) ∧
    ((0 : DWord).toNat + 100000 = (atEnd.islTime sectioned.isl).toNat ∧ sectioned.place = .active ∧ sectioned.clauseWaits = false ∧
      (atEnd.fetch (.crew 1)).toOption = some (.npsEnd Form.zero)) ∧
    (let c : Crew := { trapper with trap := some (mkCause 0x0E 6 0) }
     pfind (handled (st c)).crews 1 = some c ∧ c.ops = []) ∧
    (let c : Crew := { trapper with queued := [mkCause 0x0B 0 0] }
     let s := handled (st c)
     s.producer 1 = some 1 ∧ pfind s.crews 1 = some c ∧ (mkCause 0x0B 0 0).fatal = false ∧ c.inRound = none ∧ c.trap = none ∧
      s.stopping 1 = false ∧ CanEnter s c) := by
  delta CanEnter; decide +kernel

/-- Launch 3 of two crews with a window of 4 units, staged on island 0; its gang not yet placed. -/
def ready3 : Launch :=
  { blankLaunch with asid := 1, entry := 0x10000, nreg := 64, ncrew := 2, prod := 1, slab := 4, staged := true }
def toPlace : State := { st crew with launches := pput (st crew).launches 3 ready3 }
def retired (w : Option Word) : State := (st crew).modLaunch 1 (fun l => { l with finalDue := true, fatal := w })

theorem witness_teams :
    (toPlace.gangFits 3 0 [1] = true ∧ (toPlace.launch 3).ncrew = 2) ∧
    (({ (st crew).modCore 0 (fun x => { x with owner := none }) with crews := [] } : State).teamOver 1 = true) ∧
    (pfind (retired none).launches 1).map (fun l => (l.finalDue, l.st, l.fatal)) = some (true, 1, none) ∧
    (pfind (retired (some 0x10)).launches 1).map (fun l => (l.finalDue, l.st, l.fatal)) = some (true, 1, some 0x10) := by
  decide +kernel

/-- R114, R115: the placed crews stand at the entry with two crews on core 1, and the launch runs. -/
theorem test_placement :
    thenHolds (exec (.gangPlacement 3 0 [1]) toPlace) (fun t =>
      (t.crewsOn 1).map (fun e => (e.2.num, e.2.pc, e.2.nreg)) == [(0, 0x10000, 64), (1, 0x10000, 64)] && (t.launch 3).st == 1)
      = true := by decide +kernel

/-- The gang of launch 1 as a pre-emption has saved it, and a team of it that waits for its restart. -/
def saved1 : SavedTeam := (st crew).saveTeam 1
def away (g : Gang) : State := { (st crew).modLaunch 1 (fun l => { l with gangs := [(0, g)] }) with teams := [], crews := [] }
def savedGang : Gang := { Gang.waiting with st := .saved, teams := [saved1], crews := [(1, crew)] }
def restarting : Gang := { Gang.waiting with restart := [(7, 0, ⟨2, [], []⟩)] }
def copied : State := (away restarting).modIsl 0 (fun x => { x with stores := [⟨1, 1, 0, true, true, ⟨2, [], []⟩⟩] })

theorem witness_gangs_move :
    (((st crew).launch 1).st = 1 ∧ ((st crew).gang 1 0).st = .placed ∧ ((st crew).gang 1 0).want = 0 ∧
      (st crew).gangDark 1 0 = false) ∧
    (let s := (st crew).setGang 1 0 { (st crew).gang 1 0 with want := 1 }
     (s.launch 1).st = 1 ∧ (s.gang 1 0).st = .placed ∧ s.gangDark 1 0 = false ∧ (s.gang 1 0).want = 1 ∧
      s.gangHolds 1 0 = false ∧ (s.setTeam 1 { placeTeam with phase := 2 }).gangHolds 1 0 = true) ∧
    (let s := (st crew).modLaunch 1 (fun l => { l with gangs := [(0, { Gang.waiting with st := .placed, want := 2 })] })
     (s.launch 1).st = 1 ∧ (s.gang 1 0).st = .placed ∧ (s.gang 1 0).want = 2 ∧ s.gangDark 1 0 = false ∧
      (∀ e ∈ s.gangTeams 1 0, e.2.fatal = none) ∧ s.gangDrained 1 0 = true) ∧
    (let s := (away savedGang).modCore 0 (fun x => { x with owner := none })
     s.resumeFits 1 0 [1] = true ∧ (s.gang 1 0).teams = [saved1] ∧ (s.gang 1 0).crews = [(1, crew)] ∧ crew.team = saved1.id ∧
      crew.num < 16) ∧
    (let s := copied
     (s.isl (s.launch 1).isl).isolatedZone (coreZone 1) = false ∧
      (s.isl (s.launch 1).isl).isolatedZone (buddyOf (s.isl (s.launch 1).isl).zone (coreZone 1)) = false ∧
      ((s.isl (s.launch 1).isl).survivor 1 0).isSome = true) ∧
    (let s := copied
     s.restartGang 7 = some (1, 0) ∧ (s.gang 1 0).restart = [(7, 0, ⟨2, [], []⟩)] ∧ (s.launch 1).st = 1 ∧
      oneBench (s.launch 1).isl [1] = true ∧ (s.launch 1).gangTurn 0 = true ∧
      s.storeRoom (s.launch 1).isl (coreZone 1) 1 [(0, (s.launch 1).partsOf ⟨2, [], []⟩)] = true ∧
      s.passes 1 ((s.launch 1).partsOf ⟨2, [], []⟩) (s.launch 1).nreg (s.launch 1).slab false = true) := by
  decide +kernel

/-! ### Caches, cores and zones -/

/-- Line 0x420 of core 0 with bytes 0 and 63 dirty, marked with release 3. -/
def marked : Line := ⟨List.replicate 64 7, 0x8000000000000001, false, some 0, some 3, false, false, none⟩
def markedAt : State := (st crew).modCore 0 (fun c => { c with lines := [(0x420, marked)] })

theorem witness_cache_events :
    (pfind (markedAt.core 0).lines 0x420 = some marked ∧ marked.mark = some 3 ∧ (3 : Word).toNat ≤ 3 ∧
      pfind (markedAt.isl (coreIsl 0)).excl 0x420 = none) ∧
    (State.reset.core 0).service = .live ∧ State.reset.coreEmpty 0 = true ∧
    ((State.reset.modCore 0 (fun c => { c with service := .gated })).core 0).service = .gated ∧
    (0x3F : Nat) % 64 + ([1] : List Byte).length ≤ 64 := by
  decide +kernel

theorem test_eviction_writes_back :
    thenHolds (exec (.eviction 0 0x420) markedAt) (fun t =>
      t.mem.read (t.homeKey 0 (64 * 0x420)) == 7 && t.mem.read (t.homeKey 0 (64 * 0x420) + 1) == 0
        && t.mem.read (t.homeKey 0 (64 * 0x420) + 63) == 7) = true := by decide +kernel

/-- A team whose round is written in the pending slot, or committed by the buddy. -/
def round (n : Nat) : Team := { placeTeam with phase := n, parts := [⟨0, 0x10020, [], []⟩], roundNo := 4 }
def inPhase (n : Nat) : State := (st { crew with inRound := some 32, stall := .round }).setTeam 1 (round n)

theorem witness_zones_and_rounds :
    (0 < State.reset.islands ∧ (State.reset.isl 0).dead = false ∧ (State.reset.isl 0).isolated.getLsbD 3 = false) ∧
    (let s := (st crew).modIsl 0 (fun x => { x with isolated := 8 })
     (s.isl 0).isolated.getLsbD 3 = true ∧ zoneLost (s.isl 0).zone 3 = false ∧ (s.isl 0).dead = false) ∧
    (pfind (inPhase 2).teams 1 = some (round 2) ∧ (round 2).phase = 2 ∧ zoneRmir ((inPhase 2).isl 0).zone (coreZone 0) = false ∧
      buddyOf ((inPhase 2).isl 0).zone (coreZone 0) ≠ coreZone 0 ∧ ((inPhase 2).isl 0).isolatedZone (coreZone 0) = false ∧
      ((inPhase 2).isl 0).isolatedZone (buddyOf ((inPhase 2).isl 0).zone (coreZone 0)) = false) ∧
    (pfind (inPhase 3).teams 1 = some (round 3) ∧ (round 3).phase = 3 ∧ ((inPhase 3).isl 0).isolatedZone (coreZone 0) = false ∧
      ((inPhase 3).isl 0).isolatedZone (buddyOf ((inPhase 3).isl 0).zone (coreZone 0)) = false) ∧
    (let s := (st crew).modIsl 0 (fun x => { x with zone := 0x3980 })
     zoneRmir (s.isl 0).zone 3 = true ∧ zoneLost (s.isl 0).zone 3 = false ∧ (s.isl 0).isolatedZone 3 = false ∧
       (s.isl 0).isolatedZone (buddyOf (s.isl 0).zone 3) = false) := by
  decide +kernel

/-- R329: the loss of zone 1 makes zone 2 the buddy of zone 0, with its copies to be made again, and counts one epoch. -/
theorem test_zone_loss :
    thenHolds (exec (.zoneLoss 0 1) ((State.reset).modIsl 0 (fun x => { x with isolated := 2 }))) (fun t =>
      (t.isl 0).zone == 0x100003A12) = true := by decide +kernel

/-- R330: a team that waits for its restart is unrecoverable once the zone that held its only copy is lost too. -/
theorem test_restart_lost :
    thenHolds (exec (.regulatorFailure 0 1) copied) (fun t => thenHolds (exec (.zoneLoss 0 1) t) (fun u =>
      (u.launch 1).st == 4 && (u.launch 1).code == 0x23)) = true := by decide +kernel

def tested (sv : Service) (due : Option DWord) (n : Nat) : State :=
  atTime n (State.reset.modCore 5 (fun c => { c with service := sv, due := due }))

theorem witness_core_service :
    ((State.reset.core 167).service = .spare) ∧
    (let s := tested .gated none 9
     (s.core 5).service = .gated ∧ (s.core 5).due = none ∧ s.dark 5 = false ∧ s.teamsOn 5 = []) ∧
    (State.reset.cap * 1000 < (65000000 + 0 + 0 + 0 + 1 : Nat) ∧ pget 0 (State.reset.isl 0).steps 3 < 7) ∧
    ((State.reset.core 5).service = .live ∧ (State.reset.core 5).due = none ∧ State.reset.dark 5 = false ∧
      State.reset.coreEmpty 5 = true ∧ State.reset.testRoom 5 = true) ∧
    (((tested .live (some 7) 10000007).core 5).due = some 7 ∧ ((tested .live (some 7) 10000007).core 5).service = .live ∧
      (7 : DWord).toNat + 10000000 ≤ (tested .live (some 7) 10000007).time.toNat) ∧
    (((tested .testing (some 7) 9).core 5).service = .testing ∧ ((tested .testing (some 7) 9).core 5).retired = false) ∧
    (let s : State := { State.reset.modCore 5 (fun c => { c with service := .retired, retired := true, passes := 4, fullPass := true }) with
       boot := { State.reset.boot with policy := some [] } }
     (s.core 5).service = .retired ∧ 4 ≤ (s.core 5).passes ∧ (s.core 5).fullPass = true ∧ s.boot.policy.isSome = true) ∧
    pfind (State.reset.isl 0).stepAt 3 = none := by
  decide +kernel

/-! ### Leases, panel time and the fabric -/

/-- Launch 3, accepted and not staged, with one range of one unit that maps to HBM4E; a lease of it that ends at 5000. -/
def plain3 : Launch := { ready3 with staged := false, ranges := [⟨0x10000, 0x100, true, false⟩] }
def toStage : State := { st crew with launches := pput (st crew).launches 3 plain3 }
def lease8 : Lease := { isl := 0, asid := 1, fn := 0, window := false, launch := some 3, units := [(0x10000, 0x100)], expiry := 5000, void := false }
def leased (n : Nat) : State := atTime n { toStage with leases := [(8, lease8)] }
/-- A migration of its unit waits. -/
def moving8 (n : Nat) : State := { leased n with migrating := [⟨8, 1, 0, 1⟩] }

theorem convs_of {s : State} (h : s.isls.all (fun e => e.2.convs.isEmpty) = true) (i : Nat) : (s.isl i).convs = [] := by
  have g : ∀ m : PMap Island, m.all (fun e => e.2.convs.isEmpty) = true → (pget Island.fresh m i).convs = [] := by
    intro m hm
    induction m with
    | nil => rfl
    | cons e m ih =>
      simp only [List.all_cons, Bool.and_eq_true, List.isEmpty_iff] at hm
      simp only [pget, pfind] at ih ⊢
      split
      · exact hm.1
      · exact ih hm.2
  exact g _ h

theorem snd_eq {α β : Type} {p : α × β} {b : β} (h : p.2 = b) : p = (p.1, b) := by cases p; cases h; rfl

theorem witness_leases :
    (pfind toStage.launches 3 = some plain3 ∧ plain3.stageable = true ∧ plain3.asid ≠ 0 ∧ toStage.unitHeld plain3.isl plain3.asid plain3.ranges = false ∧
      toStage.stageRanges plain3.isl plain3.asid plain3.ranges = ((toStage.stageRanges plain3.isl plain3.asid plain3.ranges).1, 0)) ∧
    (pfind (leased 7000).leases 8 = some lease8 ∧ lease8.void = false ∧ (leased 5000).time.toNat ≤ lease8.expiry + 2000 ∧
      ((leased 5000).islTime lease8.isl).toNat ≤ lease8.expiry ∧ pfind (leased 5000).leases 8 = some lease8 ∧
      lease8.expiry + 2000 < (leased 7001).time.toNat ∧ lease8.expiry < ((leased 5001).islTime lease8.isl).toNat) ∧
    (∀ v ∈ ((leased 7001).isl lease8.isl).convs, v.lease ≠ 8) ∧
    (1000 : Int).natAbs ≤ 1000 ∧ (-1000 : Int).natAbs ≤ 1000 ∧ (leased 7000).time.toNat + 5 + 1000 < 2 ^ 64 ∧
    (∀ d ∈ ([1000, -1000] : List Int), (((leased 7000).islTime 0).toNat : Int) ≤ (leased 7000).time.toNat + 1000 + d) ∧
    (leased 0).findMigration 8 1 = none ∧
    ((moving8 7000).findMigration 8 1 = some ⟨8, 1, 0, 1⟩ ∧ (moving8 7000).mayMove ⟨8, 1, 0, 1⟩ = false) ∧
    (moving8 7001).findMigration 8 1 = some ⟨8, 1, 0, 1⟩ ∧ (moving8 7001).mayMove ⟨8, 1, 0, 1⟩ = true ∧
    ((moving8 7001).pageOf 0 1 1).isSome = true ∧ (moving8 7001).islands = 36 ∧ ∀ i, ((moving8 7001).isl i).convs = [] := by
  have h : (toStage.stageRanges plain3.isl plain3.asid plain3.ranges).2 = 0 := by decide +kernel
  refine ⟨⟨?_, ?_, ?_, ?_, snd_eq h⟩, ?_⟩
  iterate 4 decide +kernel
  repeat' apply And.intro
  all_goals first | decide +kernel | exact convs_of (by decide +kernel)

/-- A conversion with the tiles given, before its first or in it. -/
def conv2 (tiles : Nat) (moving : Bool) : Conv := { conv 0 with tiles := tiles, moving := moving }
def convs2 (tiles : Nat) (moving : Bool) : State :=
  (withRec relayed holder).modIsl 0 (fun x => { x with convs := [conv2 tiles moving] })

theorem witness_tiles :
    (∀ m : Bool, (∀ u ∈ ((convs2 2 m).isl 0).convs, u.elig.isSome = true ∨ u.complete = true) ∧
      ((convs2 2 m).isl 0).convNow = some (conv2 2 m) ∧ (conv2 2 m).stopped = false ∧ (conv2 2 m).moving = m) ∧
    (conv2 2 true).next + 1 < (conv2 2 true).tiles ∧
    (((convs2 1 true).isl 0).convNow = some (conv2 1 true) ∧ (conv2 1 true).tiles ≤ (conv2 1 true).next + 1) ∧
    (let l : Launch := { plain3 with deps := [(1, false)] }
     let s : State := { (st crew).modLaunch 1 (fun l => { l with st := 2 }) with launches := [(1, { placeLaunch with st := 2 }), (3, l)] }
     pfind s.launches 3 = some l ∧ l.st = 0 ∧ ∀ d ∈ l.deps, s.depState d = 1) := by
  decide +kernel

/-- A packet from island 1 to island 0 for function 0, whose ASID 1 has a lease of the mapped page and counter 4095. -/
def flying (what : Payload) : Packet := ⟨50, 0, 1, 0, false, 0, 0, 1, 0, 0, what, .flying, 0, none, []⟩
def arriving (what : Payload) : State :=
  { (counted crew).modIsl 0 (fun x => { x with asids := [(1, ⟨0, 0⟩)] }) with
    packets := [(60, flying what)], leases := [(8, { lease8 with launch := some 1 })] }

/-- The put's acknowledgement is on its way to the crew's operation. -/
def acked : State :=
  { st crew with packets := [(60, { flying (.put 0x10040 [5]) with st := .performed })], rops := [(50, (st crew).newRop 1 crew .put 1)] }

/-- A collective of island 0 alone on its named tree. -/
def tree1 : Coll := ⟨0, [0x5000100000500, 0, 0, 1, 0, 0, 0, 0], [⟨0, 50, false, false, false⟩], [(0, [7])], false, 0⟩

/-- With the weights of reset no port serves another function first. -/
theorem port_open {s : State} (h : s.weights = []) (k : Nat) : s.portYields k = false := by
  unfold State.portYields
  split
  · rfl
  · simp [State.weight, h, pget, pfind]

/-- A packet of each kind, alone on its way, arrives. -/
theorem arrives_alone (what : Payload) : Arrives (arriving what) 60 (flying what) :=
  ⟨rfl, rfl, rfl, port_open rfl 60, fun h => by cases h⟩

/-- A `get` of the crew has 4 bytes to come to 0x10040, and 1 and then 3 of them come; `swap` adds 3 to 0x10040 there. -/
def getting (n : Nat) : State :=
  { (arriving (.reply (4 - n) (List.replicate n 6))) with
    crews := [(1, { crew with ops := [{ blankOp with id := 50, path := .rm, held := true, kreg := some 5, hvals := some (lanesAll 0) }]
                              hist := [⟨lanesAll 0, some 50⟩] })]
    rops := [(50, { (st crew).newRop 1 crew .get 4 with loc := 0x10040, len := 4, left := if n = 3 then 3 else 4, asid := 1 })] }
def swap : Payload := .atomic 0x10040 0 0 false 3 0

/-- Packet 61 of the same pair is ordered after packet 60. -/
def behind2 : State :=
  { arriving (.put 0x10040 [5]) with packets :=
      [(60, { flying (.put 0x10040 [5]) with ordered := true }), (61, { flying (.put 0x10040 [9]) with ordered := true, seq := 1 })] }

/-- A packet to island 2 of panel 1 on plane 1, of the crew's operation 50. -/
def onPlane : State :=
  { acked with
    panels := 3
    packets := [(60, { flying (.put 0x10040 [5]) with src := 0, dst := farIsland 1 2, route := 2 ^ 32 + 1 })] }

theorem witness_remote :
    (∀ what ∈ ([.put 0x10040 [5], .notify 4095 2, swap, .get 0x10040 4] : List Payload), Arrives (arriving what) 60 (flying what)) ∧
    ((arriving swap).remoteLoc 0 0 .both 0x10040 = .ok ⟨0x10040, false⟩ ∧
      (∀ e ∈ (arriving swap).cores, coreIsl e.1 = 0 → pfind e.2.lines 0x401 = none)) ∧
    ((arriving (.get 0x10040 4)).remoteLoc 0 0 .read 0x10040 = .ok ⟨0x10040, false⟩ ∧
      pfind ((arriving (.get 0x10040 4)).isl 0).excl 0x401 = none) := by
  exact ⟨fun what _ => arrives_alone what, ⟨ok_of (by decide +kernel), by decide +kernel⟩, ok_of (by decide +kernel), by decide +kernel⟩

theorem witness_replies (n : Nat) (h : n = 1 ∨ n = 3) :
    (getting n).portYields 60 = false ∧ ((getting n).core 0).lines = [] ∧ pfind ((getting n).isl 0).excl 0x401 = none ∧
    ∃ r, pfind (getting n).rops 50 = some r ∧ r.slab = none ∧ (r.loc + (4 - n)) % 64 + n ≤ 64 ∧
      (getting n).localLoc r (r.loc + (4 - n)) = some ⟨0x10040 + (4 - n), false⟩ ∧ (r.left = n ∨ n < r.left) ∧
      AwaitsResult (getting n) 50 r 5 := by
  rcases h with rfl | rfl <;> exact ⟨by decide +kernel, by decide +kernel, by decide +kernel, _, rfl, rfl, by decide, by decide +kernel,
    by decide, _, _, rfl, rfl, rfl, rfl, rfl, rfl, rfl, by decide⟩

theorem witness_ordered_and_plane :
    (pfind behind2.packets 61 = some { flying (.put 0x10040 [9]) with ordered := true, seq := 1 } ∧ behind2.portYields 61 = false ∧
      ∃ e ∈ behind2.packets, e.2.src = 1 ∧ e.2.dst = 0 ∧ e.2.ordered = true ∧ e.2.seq < 1 ∧ e.2.st ≠ .performed) ∧
    (planeEnds onPlane 0 0 1 2 = (0, farIsland 1 2) ∧
      (∃ e ∈ onPlane.packets, e.2.pair = (0, farIsland 1 2) ∧ e.2.route = 2 ^ 32 + 1 ∧ e.2.st = .flying) ∧
      (pfind onPlane.rops 50).isSome = true ∧ (pfind onPlane.teams 1).isSome = true) ∧
    (∀ e ∈ onPlane.packets, e.2.pair = (0, farIsland 1 2) → e.2.route ≠ 2 ^ 32 + 2) ∧
    ({ onPlane with deadPlanes := onPlane.deadPlanes ++ [(2, 0, 0, 1, 2)] } : State).cutOff (0, farIsland 1 2) = false := by
  decide +kernel

/-- R341, R344: an add of 3 to 0; the last reply completes the `get` with its length 4. -/
theorem test_remote :
    thenHolds (exec (.packetArrival (.here 60)) (arriving swap)) (fun t => t.mem.read (t.homeKey 0 0x10040) == 3) = true ∧
    thenHolds (exec (.packetArrival (.here 60)) (getting 3)) (fun t =>
      t.mem.readBytes (t.homeKey 0 0x10040) 4 == [0, 6, 6, 6] && (crewAt t 1).kget 5 == 4 && t.rops == []
        && laneOf ((crewAt t 1).hget 0).vals 31 == 4) = true := by decide +kernel

/-- R396: the operation on plane 1 ends its team with sub-cause 7; the death of plane 2 leaves it alone. -/
theorem test_plane_dead :
    thenHolds (exec (.planeDead 1 0 0 1 2) onPlane) (fun t => (t.team 1).fatal == some 0x80000714 && t.rops == [] && t.packets == []) = true ∧
    thenHolds (exec (.planeDead 2 0 0 1 2) onPlane) (fun t => (t.team 1).fatal == none && t.packets == onPlane.packets) = true := by
  decide +kernel

theorem witness_fabric :
    ((arriving (.put 0x10040 [5])).remoteLoc 0 0 .write 0x10040 = .ok ⟨0x10040, false⟩) ∧
    ((arriving (.notify 4095 2)).asidOf 0 0 = some 1 ∧ pfind ((arriving (.notify 4095 2)).isl 0).owners 4095 = some 1) ∧
    ((∀ e ∈ acked.packets, e.2.rop = 50 → e.2.dst = 0 → e.2.src = 1 → e.2.st = .performed ∧ e.2.err = none) ∧
      (pfind acked.packets 60).map (fun p => (p.rop, p.dst, p.src, p.answered)) = some (50, 0, 1, false) ∧
      (pfind acked.rops 50).any (fun r => decide (r.left ≤ 1)) = true) ∧
    (tree1.broken = false ∧ cTree tree1.card = true ∧ State.reset.collComplete tree1 = true) ∧
    ((State.reset).portLive 0 0 = true ∧ State.reset.portLive 35 7 = true ∧ 35 < State.reset.islands ∧
      (State.reset.isl 35).dead = false) := by
  exact ⟨ok_of (by decide +kernel), by decide +kernel, by decide +kernel, by decide +kernel, by decide +kernel⟩

/-- R340, R368: a put stores its byte; a notify raises the counter from 7 to 9. -/
theorem test_packets :
    thenHolds (exec (.packetArrival (.here 60)) (arriving (.put 0x10040 [5]))) (fun t => t.mem.read (t.homeKey 0 0x10040) == 5) = true ∧
    thenHolds (exec (.packetArrival (.here 60)) (arriving (.notify 4095 2))) (fun t => pget 0 (t.isl 0).counters 4095 == 9) = true := by
  decide +kernel

/-- Island 2 of panel 1, of a domain of two panels. -/
def twoPanels : State := { arriving (.notify 4095 2) with panels := 3 }

/-- R394, R395: a relaxed notify of panel 1 comes onto plane 0 and then raises the counter from 7 to 10; the own packet to
panel 1 waits for that panel to answer, and a refusal there comes back with its sub-cause. -/
theorem test_other_panel :
    thenHolds (exec (.packetArrival (.sent 1 2 0 0 false (.notify 4095 3))) twoPanels) (fun t =>
      (pfind t.packets (twoPanels.nextId + 1)).any (fun p => p.src == farIsland 1 2 && p.route == 2 ^ 32)
        && thenHolds (exec (.packetArrival (.here (twoPanels.nextId + 1))) t) (fun u => pget 0 (u.isl 0).counters 4095 == 10)) = true ∧
    thenHolds (exec (.packetArrival (.far 60 0 [] (some 4))) { twoPanels with packets := [(60, { flying (.put 0x10040 [5]) with dst := farIsland 1 2 })] })
      (fun t => (pfind t.packets 60).any (fun p => p.st == .performed && p.err == some 4)) = true := by decide +kernel

/-- R397: island 0 of panel 0 and island 0 of panel 1 sum u32: 7 and 0x102 make 0x109 once both have joined. -/
def sum1 : Coll := ⟨0, [0x5000100000030, 0, 0, 1, 3, 0, 0, 0], [⟨0, 50, false, false, false⟩], [(0, [7])], false, 0⟩
theorem test_panels_combine :
    thenHolds (exec (.collectiveCombine (.joins 1 0 0 [0x5000100000030, 0, 0, 1, 3, 0, 0, 0] [2, 1, 0, 0]))
        { twoPanels with colls := [(9, { sum1 with card := twoPanels.cAgreed [0x5000100000030, 0, 0, 1, 3, 0, 0, 0] })] })
      (fun t => (pfind t.colls 9).any (fun c => c.parts.map (·.2) == [[7], [0x102]] && t.collComplete c
        && t.mayCombine c 0 (farIsland 1 0) && combineVals c.card [7] [0x102] == [0x109])) = true := by decide +kernel

/-! ### Commands -/

/-- A panel that takes commands, for function 255; the machine once a command of it is entered in the journal. -/
def up : State := { State.reset with boot := { State.reset.boot with step := 6 } }
/-- R361, R411, R412 after a boot: ready, the last sequence, the weight of VF 63 of port 3, and the table's header with 36
islands on 36 sites; island 35 stands on site 35; the entry of a pair of one island is zero. -/
theorem test_management_reads :
    up.mgmtRead 0 = 6 ∧ { up with nextSeq := 8 }.mgmtRead 0x20 = 7 ∧ up.mgmtRead 0x69F8 = 16 ∧
    { up with topo := { up.topo with written := true } }.mgmtRead 0x1000 = 0xFFFFFFFFF2401 ∧
    { up with topo := { up.topo with written := true } }.mgmtRead 0x1060 = 0x23222120 ∧
    { up with topo := { up.topo with written := true } }.mgmtRead 0x1100 = 0 ∧
    up.bar0Read 255 0x1008 = some 0 ∧ up.bar0Read 255 0x1010 = none := by decide +kernel

def fn255 : Fn := ⟨3, 63⟩
def entered (s : State) (kind : Nat) (obj : DWord) : State := ({ s with nextSeq := s.nextSeq + 1 }).journalNew s.nextSeq fn255.num kind obj

theorem taken_of {s : State} (kind : Nat) (obj : DWord) (h : s.accepts fn255 = true) (g : s.slotFree s.nextSeq = true) :
    Taken s (entered s kind obj) fn255 kind obj := ⟨h, by simp [State.takeSeq, g, entered]⟩

theorem taken_up (kind : Nat) (obj : DWord) : Taken up (entered up kind obj) fn255 kind obj :=
  taken_of kind obj (by decide +kernel) (by decide +kernel)

/-- A launch record at 0x2000 of the host's memory: version 1, one range from 0 on that may be read, entry and parameters
at 0x10000, one team of one crew of 32 registers on island 35. -/
def launchCmd : LaunchCmd := ⟨fn255, false, false, 0x2000, 0, 0, 0, []⟩
def withRecord (s : State) : State :=
  let ws := [(0x2000, 0x1000001000000000), (0x2020, 0x10000), (0x2028, 0x10000), (0x2030, 0x100000023), (0x2058, 0x4000000000100000)]
  { s with mem := putWords s.mem (ws.map (fun w => (hostKey 3 w.1, w.2))) }

theorem witness_launch_command :
    (∃ s1, Taken up s1 launchCmd.fn 1 launchCmd.record) ∧
    ((withRecord up).accepts fn255 = true ∧ (withRecord up).slotFree (withRecord up).nextSeq = true) :=
  ⟨⟨_, taken_up _ _⟩, by decide +kernel⟩

/-- R109, R376: the launch of the record is accepted; without the record its version is wrong, code 1. -/
theorem test_launch_accepted :
    thenHolds (exec (.launch launchCmd) (withRecord up)) (fun t =>
      (t.launch 1).code == 0 && (t.launch 1).st == 0 && (t.launch 1).isl == 35 && (t.launch 1).asid == 1) = true ∧
    thenHolds (exec (.launch launchCmd) up) (fun t => (t.launch 1).code == 1 && (t.launch 1).st == 4) = true := by
  decide +kernel

/-- A graph of two nodes, the second behind the first; its table at 0x1000 of the host's memory. -/
def graphCmd : GraphCmd := ⟨fn255, false, true, 7, 2, 4096, 0x1000, 0x4000, 0x8000, 0⟩
def nodes2 : State :=
  { up with mem := putWords up.mem [(hostKey 3 0x1000, 0x2000), (hostKey 3 0x1020, 0x2000), (hostKey 3 0x1030, 0x8000)] }
def graph7 : Graph := ⟨255, 7, true, 64, 0x4000, 0x8000, [(0x2000, none, [], []), (0x2000, none, [(0, false)], [])], 0, 0, 3⟩
def replayCmd (job : Nat) : ReplayCmd := ⟨fn255, false, 7, job, job, 0⟩
def replay5 : Replay := ⟨3, 63, false, 7, 0, 0, 0x6000, none, 0, 0, none⟩
def replaying : State := { up with graphs := [graph7], replays := [(5, replay5)] }

theorem witness_graphs :
    (∃ s1, Taken nodes2 s1 graphCmd.fn 2 (BitVec.ofNat 64 graphCmd.graph) ∧ s1.graphBad graphCmd = false ∧
      (∀ e ∈ ((List.range graphCmd.nodes).map (s1.readNode graphCmd.fn.num graphCmd.table.toNat)).zip (List.range graphCmd.nodes),
        ∀ p ∈ e.1.2.2.1, p.1 < e.2) ∧
      ((List.range graphCmd.nodes).map (fun i => (s1.readNode graphCmd.fn.num graphCmd.table.toNat i).2.2.1)) = [[], [(0, false)]]) ∧
    (∃ s1, Taken up s1 (replayCmd 1).fn 3 (BitVec.ofNat 64 7)) ∧ up.findUnits 255 1 1 = none ∧ up.findUnits 255 0 0 ≠ none ∧
    up.graph 255 7 = none ∧ replaying.graph 255 7 = some graph7 ∧ (∃ s1, Taken replaying s1 (replayCmd 0).fn 3 (BitVec.ofNat 64 7)) ∧
    (pfind replaying.replays 5 = some replay5 ∧ replaying.slotFor 5 replay5 graph7 = some 0 ∧
      ∀ j < graph7.nodes.length, replaying.slotFree (replaying.nextSeq + j) = true) := by
  refine ⟨⟨entered nodes2 2 7, taken_of _ _ (by decide +kernel) (by decide +kernel), by decide +kernel⟩, ⟨_, taken_up _ _⟩,
    by decide +kernel, by decide +kernel, by decide +kernel, by decide +kernel,
    ⟨_, taken_of _ _ (by decide +kernel) (by decide +kernel)⟩, by decide +kernel⟩

/-- Job 2 with its phase 4, both open; a command on them. -/
def unitCmd (job phase : Nat) : UnitCmd := ⟨fn255, false, job, phase, 0, false⟩
def job2 : GroupUnit := ⟨11, 0, 3, 63, false, false, 2, 0, false, false, 0, 0, 1, none⟩
def phase4 : GroupUnit := ⟨12, 11, 3, 63, false, true, 2, 4, false, false, 0, 0, 1, none⟩
def running1 (n : Nat) : State := { up with launches := [(1, { placeLaunch with st := n })], nextSeq := 2 }

theorem witness_units_and_cancel :
    (∀ kind obj, ∃ s1, Taken up s1 fn255 kind obj) ∧
    (up.openBad (unitCmd 2 0) false = false ∧ up.openBad (unitCmd 0 0) false = true ∧ up.openBad (unitCmd 2 4) true = true ∧
      ({ up with units := [job2] } : State).openBad (unitCmd 2 4) true = false) ∧
    (∀ kind obj, ∃ s1, Taken { up with units := [job2, phase4] } s1 fn255 kind obj) ∧
    ({ up with units := [job2, phase4] } : State).closable (unitCmd 2 4) true = some 12 ∧
    ({ up with units := [job2, { phase4 with closed := true }] } : State).closable (unitCmd 2 0) false = some 11 ∧
    (∀ n ∈ [0, 1], (∃ s1, Taken (running1 n) s1 fn255 8 (BitVec.ofNat 64 1)) ∧
      (pfind (running1 n).launches 1).map (fun l => (l.st, l.finalDue)) = some (n, false)) := by
  have h : ∀ n ∈ [0, 1], (running1 n).accepts fn255 = true ∧ (running1 n).slotFree (running1 n).nextSeq = true ∧
      (pfind (running1 n).launches 1).map (fun l => (l.st, l.finalDue)) = some (n, false) := by decide +kernel
  exact ⟨fun _ _ => ⟨_, taken_up _ _⟩, by decide +kernel, fun _ _ => ⟨_, taken_of _ _ (by decide +kernel) (by decide +kernel)⟩,
    by decide +kernel, by decide +kernel, fun n hn => ⟨⟨_, taken_of _ _ (h n hn).1 (h n hn).2.1⟩, (h n hn).2.2⟩⟩

/-- Function 255 has ASID 5 on island 35. -/
def owning (owners : PMap Nat) : State := up.modIsl 35 (fun x => { x with asids := [(5, ⟨255, 0⟩)], owners := owners })
def counterCmd : CounterCmd := ⟨fn255, false, 35, 4095, 9⟩
def windowCmd : WindowCmd := ⟨fn255, false, 35, 0x10000, 0x20000⟩

theorem witness_settings :
    (∀ o ∈ [[], [(4095, 5)]], ∀ kind obj, ∃ s1, Taken (owning o) s1 fn255 kind obj) ∧
    (∀ o ∈ ([[], [(4095, 5)]] : List (PMap Nat)), (owning o).islBad 35 = false ∧ (owning o).asidOf 35 255 = some 5 ∧
      pfind ((owning o).isl 35).owners (counterCmd.counter % 4096) = if o = [] then none else some 5) ∧
    up.islBad windowCmd.isl = false ∧ up.islBad 35 = false ∧ up.islBad 36 = true ∧ JournalFits up := by
  have h : ∀ o ∈ ([[], [(4095, 5)]] : List (PMap Nat)), (owning o).accepts fn255 = true ∧
      (owning o).slotFree (owning o).nextSeq = true := by decide +kernel
  refine ⟨fun o ho _ _ => ⟨_, taken_of _ _ (h o ho).1 (h o ho).2⟩, by decide +kernel, by decide +kernel, by decide +kernel,
    by decide +kernel, by delta JournalFits; decide +kernel⟩

/-- R368, R388: counter 4095 of island 35 is given with its value; the journal's entry 1 says completed. -/
theorem test_counter_assigned :
    thenHolds (exec (.counterAssign counterCmd) up) (fun t =>
      pget 0 (t.isl 35).counters 4095 == 9 && pfind (t.isl 35).owners 4095 == some 1 && t.entryRead 1 0 == 1
        && t.entryRead 1 1 == 0x2FF09) = true := by decide +kernel

/-! ### Host ports, boot and SPDM -/

/-- Queue pair 7 of function 255 as given: enabled with rings of 16, or not. -/
def queued (x : Queue) : State := up.setQueue (qKey 255 7) x
def q16 : Queue := { Queue.reset with ctl := 1, sqBase := 0x1000, cqBase := 0x2000 }

theorem witness_queues :
    (queued q16).portUp fn255 = true ∧ (queued q16).queue (qKey fn255.num 7) = q16 ∧ q16.enabled = true ∧ 15 < q16.sqSize ∧
    q16.sqSize ≤ 16 ∧ 15 < q16.cqSize ∧ Queue.reset.enabled = false ∧ (queued Queue.reset).portUp fn255 = true ∧
    (queued Queue.reset).queue (qKey fn255.num 7) = Queue.reset ∧
    (let x : Queue := { q16 with heldRecs := [([1, 2, 3, 4], true)], cqTail := 14 }
     (queued x).portUp fn255 = true ∧ (queued x).queue (qKey fn255.num 7) = x ∧ x.heldRecs = [([1, 2, 3, 4], true)] ∧
      x.full = false) := by
  decide +kernel

theorem witness_host_ports :
    (up.portUp fn255 = true ∧ windowAt (up.windowsOf fn255.num) 0 = none) ∧ (fn255.port < 4 ∧ fn255.vf < 64 ∧ (255 : Nat) < 256) ∧
    (up.vf fn255.num).resetting = false ∧ 2 ≤ up.boot.step ∧ State.reset.boot.step < 2 ∧
    (∀ p ∈ ([(false, 0x28), (true, 0x20), (true, 0x6A00)] : List (Bool × Nat)),
      p.1 = false ∨ (p.2 ≠ 0x28 ∧ (p.2 < 0x6200 ∨ 0x6A00 ≤ p.2))) ∧
    ((15 < 16) ∧ (1 : DWord).getLsbD 0 = true ∧ (0 : DWord).getLsbD 0 = false ∧ (65000 : DWord).toNat = 65000 ∧
      ((up.setVf 255 { Vf.reset with masked := 0x8000, pending := 0x8000 }).vf 255).pending.getLsbD 15 = true ∧
      (up.vf 255).pending.getLsbD 15 = false ∧ (up.setVf 255 { Vf.reset with masked := 0x8000, pending := 0x8000 }).portUp fn255 = true) ∧
    (let s := up.setVf 255 { Vf.reset with resetting := true }
     (s.vf fn255.num).resetting = true ∧ s.allFinal fn255.num = true) := by
  decide +kernel

/-- Function 0 has the mapped page of island 0 as its window. -/
def windowed : State :=
  { (arriving (.notify 0 0)) with leases := [(8, { lease8 with window := true })], vfs := [], boot := { up.boot with step := 6 } }
def fn0 : Fn := ⟨0, 0⟩

theorem witness_bar2 :
    (windowed.portUp fn0 = true ∧ windowAt (windowed.windowsOf fn0.num) 0x100 = none) ∧
    (windowAt (windowed.windowsOf fn0.num) 0x40 = some (0, 0x10040) ∧ windowAt (windowed.windowsOf fn0.num) 0x47 = some (0, 0x10047) ∧
      windowed.asidOf 0 fn0.num = some 1 ∧ ((windowed.leaf 0 [] 1 0x10040).map (fun p => (p.loc 0x10040).la)) = some 0x10040 ∧
      pfind (windowed.isl 0).excl 0x401 = none) := by
  decide +kernel

/-- R398: a write inside reads back; one at the end of the window is dropped and recorded. -/
theorem test_bar2 :
    thenHolds (exec (.bar2Access fn0 0x40 (some 0x1122334455667788)) windowed) (fun t =>
      t.mem.read 0x10040 == 0x88 && t.mem.read 0x10047 == 0x11 && t.free == windowed.free) = true ∧
    thenHolds (exec (.bar2Access fn0 0xFC (some 1)) windowed) (fun t => t.mem == windowed.mem && t.free == windowed.free + 1) = true := by
  decide +kernel

/-- A panel whose images verify as given. -/
def booting (cp island : Image) : State := { up with boot := { up.boot with cp := cp, island := island } }

theorem witness_panel_reset :
    (up.boot.cp.reason = 0 ∧ up.boot.ports = true ∧ up.boot.island.reason = 0) ∧
    (({ up with boot := { up.boot with ports := false } } : State).boot.cp.reason = 0 ∧
      ({ up with boot := { up.boot with ports := false } } : State).boot.ports = false) ∧
    (booting { Image.good with ecdsa := false } .good).boot.cp.reason = 1 ∧
    ((booting .good { Image.good with index := 0 }).boot.cp.reason = 0 ∧ (booting .good { Image.good with index := 0 }).boot.ports = true ∧
      (booting .good { Image.good with index := 0 }).boot.island.reason = 4) := by
  decide +kernel

theorem witness_spdm :
    2 ≤ up.boot.step ∧ (2 : Nat).testBit 1 = true ∧ (128 : Nat).testBit 7 = true ∧ (1 : Nat).testBit 1 = false ∧
    (∀ n ∈ [0, 1, 2, 3], (pget ⟨0, false, []⟩ ({ up with spdm := [(3, ⟨n, n == 3, []⟩)] } : State).spdm 3).stage = n) ∧
    (pget ⟨0, false, []⟩ ({ up with spdm := [(3, ⟨3, true, []⟩)] } : State).spdm 3).negotiated = true := by
  decide +kernel

/-! ### The whole machine -/

theorem witness_whole_machine :
    State.reset.mem.wf = true ∧ exitPlaced.mem.wf = true ∧ Pages State.reset ∧ Pages exitPlaced ∧
    (∃ t, step State.reset = .next t) ∧ ∃ t, step exitPlaced = .next t := by
  have g (s : State) (h : thenHolds (step s) (fun _ => true) = true) : ∃ t, step s = .next t := by
    unfold thenHolds at h
    split at h
    · exact ⟨_, by assumption⟩
    · simp at h
  exact ⟨by decide +kernel, by decide +kernel, pages_of (by decide +kernel), pages_of (by decide +kernel),
    g _ (by decide +kernel), g _ (by decide +kernel)⟩

/-! ### Words placed with `withFetchWord` -/

/-- `srd k4` of register 0x13, and R41's `add v12, v7, #100`: the words run as the first ones. -/
theorem test_fetched_words :
    thenHolds (step (State.reset.withFetchWord 64 0x0013000000480340)) (fun t => (crewAt t 1).pc == 0x10010) = true ∧
    thenHolds (step (State.reset.withFetchWord 64 0x0064C00070C80004)) (fun t => laneOf ((crewAt t 1).vget 12) 31 == 100)
      = true := by decide +kernel

/-! ### Values of lanes and rows -/

/-- Lists of values below a bound give values below it. -/
theorem pget_lt {m : PMap Nat} {b : Nat} (h0 : 0 < b) (h : m.all (fun e => decide (e.2 < b)) = true) (a : Nat) : pget 0 m a < b := by
  induction m with
  | nil => exact h0
  | cons e m ih =>
    simp only [List.all_cons, Bool.and_eq_true, decide_eq_true_eq] at h
    simp only [pget, pfind] at ih ⊢
    split
    · exact h.1
    · exact ih h.2

theorem witness_lane_values :
    Runs (st crew) 1 crew ∧
    (∀ p ∈ ([(.perm, fm 11), (.voteAny, fu 0), (.voteAll, fu 0), (.voteBallot, fu 0), (.voteBallot, fm 16), (.mspl, fm 11), (.mskIf, fm 0),
      (.mskIfM, fm 16), (.mskElse, fm 0), (.mskEnd, fm 0), (.mand, fm 0), (.mor, fm 0), (.mxor, fm 0), (.mnot, fm 0), (.mmovMask, fm 0),
      (.mmovFromUniform, fu 1), (.mcnt, fm 0), (.mmovToUniform, fm 2), (.scmp, fm 0), (.sfnd, fm 48), (.shash, fm 0), (.hmix, fm 11),
      (.part, fm 0), (.hadd2, fm 4), (.hsub2, fm 21), (.hmul2, fm 4), (.hmin2, fm 5), (.hmax2, fm 20), (.hadd2, fm 9), (.hsub2, fm 10),
      (.hmul2, fm 9), (.hmin2, fm 10), (.hmax2, fm 9), (.hfma2, fm 9), (.bfma2, fm 10), (.hcmp2, fm 20), (.hcmp2, fm 0x39), (.acs2, fm 37)]
        : List ((Form → Instr) × Form)), Ready crew (p.1 p.2) p.2) ∧
    ((fu 0).b ≠ .zero ∧ (fm 16).m4 = true ∧ (fm 16).nd = true ∧ (fm 16).dst.toNat ≤ 7 ∧ (fm 0).a.src = .v 6 ∧ (fm 0).b.src = .v 8) := by
  delta Runs Ready; decide +kernel

theorem witness_reductions :
    ∀ mod ∈ ([0, 17, 34, 3, 8, 24, 40, 11, 28, 44] : List (BitVec 6)),
      ((intTys (fm mod).ty = true ∨ (fm mod).ty = 8 ∨ bitTys (fm mod).ty = true) ∧ (fm mod).hi < 3) ∧
        Ready crew (.lred (fm mod)) (fm mod) ∧ Ready crew (.lscan (fm mod)) (fm mod) := by
  delta Ready; decide +kernel

theorem witness_float_words :
    (∀ mk ∈ ([.fadd, .fsub, .fmul, .ffma, .fmin, .fmax] : List (Form → Instr)), ∀ ty ∈ ([8, 9, 10] : List (BitVec 6)),
      Ready crew (mk (fm ty)) (fm ty) ∧ (fm ty).ty = ty.toNat ∧ (fm ty).m5 = false ∧
        Ready crew (mk (fu (32 + ty))) (fu (32 + ty)) ∧ (fu (32 + ty)).ty = ty.toNat ∧ (fu (32 + ty)).m5 = true) ∧
    (∀ mk ∈ ([.fclamp, .frnd, .fcls, .fcmp, .fsqrt, .fscl] : List (Form → Instr)), Ready crew (mk { fm 8 with x := 4 }) { fm 8 with x := 4 }) ∧
    ({ fm 8 with x := 4 } : Form).x.toNat % 8 < 5 := by
  delta Ready; decide +kernel

/-- Uniform forms of the float words, `fxtr`, the units, and the packed integer forms of the words that raise flags for floats. -/
theorem witness_float_flags :
    (∀ mk ∈ ([.fneg, .fabs, .fclamp, .frnd] : List (Form → Instr)), Ready crew (mk (fu 40)) (fu 40)) ∧ (fu 40).ty = 8 ∧
    (fu 40).m5 = true ∧
    (∀ p ∈ ([(.fxtr, fm 8), (.fxtr, fm 24), (.fexpf, fm 8), (.flog2, fm 8), (.frcp, fm 8), (.frsq, fm 8), (.hcmp2, fm 5)] :
      List ((Form → Instr) × Form)), Ready crew (p.1 p.2) p.2) := by
  delta Ready; decide +kernel

/-- R87, R88: the exponent of the least subnormal, the quieted significand of a NaN, and 1.625 × 2^−148, of which R87 lists the
flags. -/
theorem test_extract_and_scale :
    fpExtract false 1 = (0xFFFFFF6B, 0) ∧ fpExtract true 0x7F800001 = (0x7FC00001, flagNv) ∧
    fpScale 0x3FD00000 (-148) = (3, flagUf ||| flagNx) := by decide +kernel

theorem witness_conversions :
    ∀ x ∈ ([0, 4] : List (BitVec 6)), ∀ m ∈ floatPairs.map (·.1) ++ fromPairs.map (·.1) ++ intoPairs.map (·.1),
      let f : Form := { fm (BitVec.ofNat 6 m) with x := x }
      f.x.toNat % 8 < 5 ∧ f.modN = m ∧ Ready crew (.cvt f) f := by
  delta Ready; decide +kernel

/-- A stream of two rows of f32 from row 0 on, over a plane of ones; one of `.bfp4` whose first scale row has a reserved bit; a
complex one of f32 pairs; and a `qnt` of rows 1 and 2 in each of its formats. -/
def plane0 : Plane := ⟨true, 0, 0, 32, List.replicate 8192 1⟩
def plane7 : Plane := ⟨true, 7, 0, 256, []⟩
def plane13 : Plane := ⟨true, 13, 0, 32, []⟩
def row2Job : Job := { blankJob with id := 7, kind := .mma, team := 1, a := 0, b := 2048, c := 0x200 }
def bandJob : Job := { blankJob with id := 7, kind := .mma, team := 1, mod := 7, a := 0, b := 2048, c := 0x100 }
def pairJob : Job := { blankJob with id := 7, kind := .mmaC, team := 1, mod := 13, c := 0x100 }
def qntJob (mod b : Nat) : Job := { blankJob with id := 7, kind := .qnt, team := 1, mod := mod, b := BitVec.ofNat 64 b, c := 0x201 }
def planed (p : Plane) (j : Job) : State := ((jobbed j).modCore 0 (fun c => { c with active := p })).winWrite 1 2050 [0x10]

/-- Of a plane without sparsity every K is present. -/
theorem dense_fits {p : Plane} {af : Nat} (l : p.loaded = true) (sp : p.spars = 0) (k : p.kl = denseRow af)
    (b : blockOf p.fmt ≠ 0 → presentWeights p % blockOf p.fmt = 0) : PlaneFits p af (denseRow af) := by
  have e : presentOf p.spars = 64 := by rw [sp]; rfl
  refine ⟨l, by rw [e, Nat.mul_div_cancel _ (by decide)], k.symm, b, fun n _ => ?_⟩
  have h := List.length_filter_le (isPresent p n) (List.range (denseRow af))
  rw [List.length_range] at h
  simpa [rankOf, presentWeights, e, k] using h

theorem witness_stream_rows :
    (∀ e ∈ [(plane0, row2Job), (plane7, bandJob), (plane13, pairJob)],
      (planed e.1 e.2).findJob 0 7 = some e.2 ∧ e.2.started = false ∧ (planed e.1 e.2).jobReady 0 e.2 = true ∧
        (planed e.1 e.2).stopping e.2.team = false ∧ (planed e.1 e.2).dark 0 = false ∧
        ((planed e.1 e.2).core 0).active.fmt = e.1.fmt) ∧
    (PlaneFits plane0 0 32 ∧ PlaneFits plane7 7 256 ∧ PlaneFits plane13 13 32) ∧ (Pairs 0 0 ∧ Pairs 7 7) ∧
    row2Job.c.toNat / 2 ^ 8 % 2 ^ 9 = 2 ∧
    ¬ leNat (((((planed plane7 bandJob).team 1).win.readBytes 2048 (scaleRow 7 256)).drop 0).take 4) < 2 ^ 20 := by
  refine ⟨by decide +kernel, ⟨dense_fits rfl rfl rfl (by decide), dense_fits rfl rfl rfl (by decide), dense_fits rfl rfl rfl (by decide)⟩,
    ⟨.inl ⟨by decide, rfl⟩, .inr (.inl (by decide))⟩, by decide, by decide +kernel⟩

theorem witness_quantised_rows :
    ∀ j ∈ [qntJob 7 (2 ^ 11), qntJob 0x38 0, { qntJob 0x19 0 with seed := true }],
      (jobbed j).findJob 0 7 = some j ∧ j.started = false ∧ (jobbed j).jobReady 0 j = true ∧ (jobbed j).stopping j.team = false ∧
        (jobbed j).dark 0 = false ∧ j.kind = .qnt ∧ (pfind (jobbed j).teams j.team).isSome = true ∧
        (j.mod % 16 = 7 ∨ j.mod % 16 = 8 ∨ j.mod % 16 = 9) ∧
        (if j.mod % 16 = 7 then scaleBand (j.b.toNat % 2 ^ 20) else oneExact).2.2.1 ≠ 0 := by
  decide +kernel

/-- R144: the bucket of 0x2AAAAAAB of 6 is 1, and that of 0xC0000000 is 4. -/
theorem test_part_buckets :
    thenHolds (exec (.part (fm 0)) (st { crew with v := [(6, lanesBy (fun l => if l = 0 then 0x2AAAAAAB else 0xC0000000)), (8, lanesAll 6)] }))
      (fun t => laneOf ((crewAt t 1).vget 4) 0 == 1 && laneOf ((crewAt t 1).vget 4) 1 == 4) = true := by decide +kernel

/-- R135: the keys 3, 1, 3, 3, 0, 1, 3, 2 in lanes 0 to 7. -/
theorem test_mspl_example :
    thenHolds (exec (.mspl (fm 11)) (st { crew with
        em := 0xFF, v := [(6, [3, 1, 3, 3, 0, 1, 3, 2])] }))
      (fun t => (List.range 8).map (laneOf ((crewAt t 1).vget 4))
        == [0x400, 0x10200, 0x401, 0x402, 0x40100, 0x10201, 0x403, 0x70100]) = true := by decide +kernel

/-! ### Caches, acquires and releases -/

/-- No core but one holds a line. -/
def onlyCore (s : State) (ck : Nat) : Bool := s.cores.all (fun e => e.1 == ck || e.2.lines.isEmpty)

theorem lines_of_other {s : State} {ck q : Nat} (h : onlyCore s ck = true) (hq : q ≠ ck) : (s.core q).lines = [] := by
  have g : ∀ m : PMap Core, m.all (fun e => e.1 == ck || e.2.lines.isEmpty) = true → ∀ c, pfind m q = some c → c.lines = [] := by
    intro m
    induction m with
    | nil => simp [pfind]
    | cons e m ih =>
      simp only [List.all_cons, Bool.and_eq_true, Bool.or_eq_true, beq_iff_eq, List.isEmpty_iff, pfind]
      rintro ⟨h1, h2⟩ c
      split
      · rename_i he; rintro ⟨⟩
        exact h1.resolve_left (fun x => hq (by simpa using he ▸ x))
      · exact ih h2 c
  unfold State.core
  split
  · exact g _ h _ ‹_›
  · split <;> rfl

/-- A dirty line of core 1 at 0x10000, marked with release 3; one at 0x10040 that core 1 owns, with a release of the bench. -/
def line1 : Line := ⟨List.replicate 64 9, 0xFF, false, some 0, some 3, false, false, none⟩
def line2 : Line := ⟨List.replicate 64 6, 0x1, false, some 0, some 4, true, false, some 4⟩
def sharing (s : State) : State :=
  (s.modCore 1 (fun c => { c with lines := [(0x400, line1), (0x401, line2)], relSeq := 4 })).modIsl 0 (fun x =>
    { x with rel := [(0x400, (1, 3))], excl := [(0x401, 1)] })
/-- A line of host memory that core 0 holds dirty. -/
def snooped : State :=
  (st crew).modCore 0 (fun c => { c with lines := [((cxlBase + 0x100) / 64, { marked with cxl := true })] })

theorem witness_caches :
    (Cached markedAt 0 ∧ pfind (markedAt.core 0).lines 0x420 = some marked ∧ marked.dirty.getLsbD 63 = true) ∧
    (let s := sharing (st crew)
     (s.core 1).service = .live ∧ s.coreEmpty 1 = true ∧ Cached s 1 ∧ OwnedWithin s (coreIsl 1) ∧
      pfind (s.core 1).lines 0x401 = some line2 ∧ pfind (s.isl (coreIsl 1)).excl 0x401 = some 1 ∧ line2.bench = some 4 ∧
      pfind (s.isl (coreIsl 1)).rel 0x401 = none ∧ line1.bench = none) ∧
    cxlBase + 0x100 < ctxBase ∧ SoleDirty snooped 0 ((cxlBase + 0x100) / 64) 63 { marked with cxl := true } ∧
    (63 < 0x100 % 64 ∨ 0x100 % 64 + ([1] : List Byte).length ≤ 63) ∧ ∀ i, (snooped.isl i).excl = [] := by
  have e : ∀ m : PMap Island, m.all (fun x => x.2.excl.isEmpty) = true → ∀ i, (pget Island.fresh m i).excl = [] := by
    intro m h i
    induction m with
    | nil => rfl
    | cons x m ih =>
      simp only [List.all_cons, Bool.and_eq_true, List.isEmpty_iff] at h
      simp only [pget, pfind] at ih ⊢
      split
      · exact h.1
      · exact ih h.2
  refine ⟨by delta Cached; decide +kernel, by delta Cached OwnedWithin; decide +kernel, by decide,
    ⟨by decide +kernel, by decide, fun q x hq hx => ?_⟩, by decide, e _ (by decide +kernel)⟩
  rw [lines_of_other (ck := 0) (by decide +kernel) hq] at hx
  cases hx

/-- Lane 5 alone, at 0x10000; u32 at island, bench and system scope. -/
def acquirer : Crew := { crew with em := 32, k := [(6, 0x10000)], v := [(12, lanesAll 0x01020304)] }
def fscope (n : BitVec 6) : Form := { fm 0x20 with a := ⟨.k 6, .none⟩, b := .zero, c := ⟨.v 12, .none⟩, x := n }

theorem one_word {s : State} {k : Acc} {f : Form}
    (h : (s.accessAt acquirer k (acquirer.eaScaled f (2 ^ f.hi) 5) (memWidth f.ty false)).toOption = some ⟨0x10000, false⟩)
    (w : memWidth f.ty false = 4) (x : pfind (s.isl (coreIsl acquirer.core)).excl 0x400 = none) :
    OneWord s acquirer k (acquirer.eaScaled f (2 ^ f.hi)) (memWidth f.ty false) 5 ⟨0x10000, false⟩ := by
  refine ⟨by decide, by decide +kernel, ok_of h, rfl, by decide, ?_, ?_, by decide, x⟩ <;> rw [w] <;> decide

theorem witness_acquires :
    (∀ n ∈ ([0, 2, 3] : List (BitVec 6)), (fscope n).scope = n.toNat ∧ Ready acquirer (.lda (fscope n)) (fscope n) ∧
      Ready acquirer (.stl (fscope n)) (fscope n)) ∧
    (∀ s ∈ [st acquirer, sharing (st acquirer)], Runs s 1 acquirer ∧ MayIssue s acquirer .ld ∧ MayIssue s acquirer .st ∧ Room s 0 1 ∧ NoneHeld s 1 ∧
      (s.core 0).relSeq ≠ 0xFFFFFFFF ∧ (s.core 0).lines = [] ∧ (s.core 0).gI ≠ 15 ∧ (s.core 0).gS ≠ 15) ∧
    (pfind ((sharing (st acquirer)).isl 0).rel 0x400 = some (1, 3) ∧ coreIsl 1 = coreIsl acquirer.core ∧ Cached (sharing (st acquirer)) 1 ∧
      pfind ((sharing (st acquirer)).core 1).lines 0x400 = some line1) ∧
    pfind ((st acquirer).isl 0).rel 0x400 = none ∧ acquirer.unperformed = false ∧ acquirer.relScope = none := by
  delta Runs Ready MayIssue Room Cached NoneHeld; decide +kernel

theorem witness_acquire_places :
    ∀ n ∈ ([0, 2, 3] : List (BitVec 6)), ∀ s ∈ [st acquirer, sharing (st acquirer)], ∀ k ∈ ([.read, .write] : List Acc),
      OneWord s acquirer k (acquirer.eaScaled (fscope n) (2 ^ (fscope n).hi)) (memWidth (fscope n).ty false) 5 ⟨0x10000, false⟩ := by
  have a : ∀ n ∈ ([0, 2, 3] : List (BitVec 6)), ∀ s ∈ [st acquirer, sharing (st acquirer)], ∀ k ∈ ([.read, .write] : List Acc),
      (s.accessAt acquirer k (acquirer.eaScaled (fscope n) (2 ^ (fscope n).hi) 5) (memWidth (fscope n).ty false)).toOption
        = some ⟨0x10000, false⟩ := by decide +kernel
  have b : ∀ n ∈ ([0, 2, 3] : List (BitVec 6)), memWidth (fscope n).ty false = 4 := by decide
  have x : ∀ s ∈ [st acquirer, sharing (st acquirer)], pfind (s.isl (coreIsl acquirer.core)).excl 0x400 = none := by decide +kernel
  exact fun n hn s hs k hk => one_word (a n hn s hs k hk) (b n hn) (x s hs)

/-- R254: the acquire at island scope finds core 1's bytes, which are at their home then. -/
theorem test_acquire_surrenders :
    thenHolds (exec (.lda (fscope 0)) (sharing (st acquirer))) (fun t =>
      (crewAt t 1).ops.map (fun o => o.vvals.map (fun x => laneOf x 5)) == [[0x09090909]] && t.mem.read 0x10007 == 9
        && t.mem.read 0x10010 == 0 && (t.core 0).acqs == 1 && pfind (t.isl 0).rel 0x400 == none) = true := by decide +kernel

/-- R226, R249: the release takes sequence 1, its word is at the home. -/
theorem test_release_records :
    thenHolds (exec (.stl (fscope 3)) (st acquirer)) (fun t =>
      t.mem.readBytes 0x10000 5 == [4, 3, 2, 1, 0] && pfind (t.isl 0).rel 0x400 == some (0, 1)) = true := by decide +kernel

/-! ### Launch commands and collectives -/

/-- The check of a launch that fails first, by its place. -/
theorem split_at {α : Type} {l : List α} {n : Nat} {x : α} (h : l[n]? = some x) : l = l.take n ++ x :: l.drop (n + 1) := by
  obtain ⟨hn, rfl⟩ := List.getElem?_eq_some_iff.mp h
  simp

/-- The record's bytes and the state that has taken the command. -/
def recBytes (s : State) : List Byte := (entered s 1 launchCmd.record).readCmd fn255.num launchCmd.record.toNat 336
def checks (s : State) : List (Nat × Prop) := launchChecks (entered s 1 launchCmd.record) (recBytes s) launchCmd

/-- A record with other words at some offsets; with no crew but a producer 3, with 129 units of slab, with no team, on island 63. -/
def altered (ws : List (Nat × Nat)) : State :=
  { withRecord up with mem := putWords (withRecord up).mem (ws.map (fun w => (hostKey 3 (0x2000 + w.1), w.2))) }

theorem witness_launch_checks :
    (∀ e ∈ checks (withRecord up), ¬ e.2) ∧
    (∃ check after, checks up = [] ++ check :: after ∧ check.1 = 1 ∧ check.2) ∧
    (∃ before check after, checks (altered [(0, 0x100000100000C000)]) = before ++ check :: after ∧ (∀ e ∈ before, ¬ e.2) ∧
      check.1 = 3 ∧ check.2) ∧
    (∃ before check after, checks (altered [(0, 0x1000001000000000 + 129 * 2 ^ 21)]) = before ++ check :: after ∧
      (∀ e ∈ before, ¬ e.2) ∧ check.1 = 5 ∧ check.2) ∧
    (∃ before check after, checks (altered [(0x30, 0x23)]) = before ++ check :: after ∧ (∀ e ∈ before, ¬ e.2) ∧
      check.1 = 6 ∧ check.2) ∧
    (∃ before check after, checks (altered [(0x30, 0x10000003F)]) = before ++ check :: after ∧ (∀ e ∈ before, ¬ e.2) ∧
      check.1 = 7 ∧ check.2) := by
  refine ⟨?_, ⟨_, _, rfl, rfl, ?_⟩, ⟨_, _, _, split_at (n := 2) rfl, ?_, rfl, ?_⟩, ⟨_, _, _, split_at (n := 4) rfl, ?_, rfl, ?_⟩,
    ⟨_, _, _, split_at (n := 5) rfl, ?_, rfl, ?_⟩, ⟨_, _, _, split_at (n := 6) rfl, ?_, rfl, ?_⟩⟩
  all_goals
    simp only [checks, launchChecks, List.take_succ_cons, List.take_zero, List.forall_mem_cons, List.not_mem_nil, false_implies,
      implies_true, and_true]
    try delta InDeclared DepBad UnitOpen
    repeat' apply And.intro
    all_goals decide +kernel

/-- A sum of u32 of islands 0 and 1, all-reduced on its tree: 7 and 0xFFFFFFFE. Each island's crew waits for its `coll`, which
gives the count to `k5` and the value to 0x10040 of its island. -/
def joined (n : Nat) : Crew :=
  { crew with isl := n, core := 256 * n, ops := [{ blankOp with id := 50 + n, path := .rm, held := true, kreg := some 5 }] }
def ropOf (n : Nat) : ROp := { (st (joined 0)).newRop (1 + n) (joined n) .coll 1 with loc := 0x10040, len := 4 }
def sum2 : Coll := ⟨0, [0x50001FF000530, 0, 0, 3, 0, 0, 0, 0], [⟨0, 50, false, false, false⟩, ⟨1, 51, false, false, false⟩],
  [(0, [7]), (1, [0xFFFFFFFE])], false, 0⟩
def gathered : State :=
  { (st (joined 0)).setCrew 2 (joined 1) with rops := [(50, ropOf 0), (51, ropOf 1)], colls := [(9, sum2)] }

theorem rops_of {n : Nat} {r : ROp} (h : pfind gathered.rops n = some r) : (n = 50 ∧ r = ropOf 0) ∨ (n = 51 ∧ r = ropOf 1) := by
  simp only [gathered, pfind] at h
  split at h
  · exact .inl ⟨by simp_all, (Option.some.inj h).symm⟩
  · split at h
    · exact .inr ⟨by simp_all, (Option.some.inj h).symm⟩
    · cases h

theorem crew_of {s : State} {n : Nat} {c d : Crew} (h : pfind s.crews n = some c) (g : pfind s.crews n = some d) : d = c :=
  Option.some.inj (g.symm.trans h)

theorem witness_gathered :
    pfind gathered.colls 9 = some sum2 ∧ sum2.broken = false ∧ cTree sum2.card = true ∧ gathered.collComplete sum2 = true ∧
    Gathered gathered sum2 ∧ Receives gathered sum2.card 0 ∧ pfind gathered.rops 50 = some (ropOf 0) ∧
    AwaitsResult gathered 50 (ropOf 0) 5 ∧ (ropOf 0).slab = none ∧
    (ropOf 0).loc % 64 + 4 * cCnt sum2.card ≤ 64 ∧ gathered.localLoc (ropOf 0) (ropOf 0).loc = some ⟨0x10040, false⟩ := by
  refine ⟨by decide +kernel, rfl, by decide, by decide +kernel, ⟨by decide, by decide, by decide, by decide, by decide, by decide,
    by decide +kernel, fun m hm => ?_⟩, .inl (by decide), by decide +kernel, ⟨joined 0, _, by decide +kernel, rfl, rfl, rfl, rfl, rfl, rfl, by decide⟩,
    by decide, by decide, by decide +kernel⟩
  have crews : pfind gathered.crews 1 = some (joined 0) ∧ pfind gathered.crews 2 = some (joined 1) := by decide +kernel
  have hm : m = ⟨0, 50, false, false, false⟩ ∨ m = ⟨1, 51, false, false, false⟩ := by simpa [sum2] using hm
  rcases hm with rfl | rfl <;> refine ⟨rfl, by decide, by decide +kernel, pget_lt (by decide) (by decide +kernel), fun r hr => ?_⟩ <;>
    rcases rops_of hr with ⟨h, rfl⟩ | ⟨h, rfl⟩ <;> simp only [Nat.reduceEqDiff] at h
  · exact ⟨by decide, by decide, by decide +kernel, fun d hd => by rw [crew_of crews.1 hd]; decide⟩
  · exact ⟨by decide, by decide, by decide +kernel, fun d hd => by rw [crew_of crews.2 hd]; decide⟩

/-- R349, R351: 7 + 0xFFFFFFFE modulo 2^32 is 5, and both crews get the count 2. -/
theorem test_tree_sums :
    thenHolds (exec (.collectiveCombine (.step 9 0 1)) gathered) (fun t =>
      t.mem.readBytes (gathered.homeKey 0 0x10040) 4 == [5, 0, 0, 0] && (crewAt t 1).kget 5 == 2 && (crewAt t 2).kget 5 == 2
        && t.rops == [] && t.colls == []) = true := by decide +kernel
end Sys2Proof.Tests
end

section
/-! PROOF. Every step keeps the canonical form of memory (O58): a lemma for each operation of the state, then for each word and
event, then for the scheduler's turns. -/

namespace Sys2Proof.Machine
open Sys2Proof
variable {s : State}

/-- A state whose memory is in canonical form. Each operation of the model keeps it, by a lemma named after the operation; an
operation that only calls others is then a chain of their lemmas. -/
@[simp] abbrev State.MemWf (s : State) : Prop := s.mem.wf = true

/-- A fold keeps the form where each of its steps does. -/
theorem State.MemWf.foldl {α : Type} {f : State → α → State} {l : List α} {s : State} (h : s.MemWf)
    (hf : ∀ s a, s.MemWf → (f s a).MemWf) : (l.foldl f s).MemWf :=
  List.foldlRecOn l f h fun t h a _ => hf t a h

@[simp] theorem Memory.wf_maskedWrite {m : Memory} {a : Nat} {d : BitVec 64} {bs : List Byte} (h : m.wf) :
    (maskedWrite m a d bs).wf :=
  List.foldlRecOn _ _ (motive := fun m : Memory => m.wf) h fun m h j _ => by
    split
    · exact Memory.wf_write _ _ h
    · exact h

@[simp] theorem Memory.wf_hostWrite {m : Memory} {p a : Nat} {bs : List Byte} (h : m.wf) : (hostWrite m p a bs).wf :=
  Memory.wf_writeBytes _ _ h

@[simp] theorem State.MemWf.ite {c : Prop} [Decidable c] {s t : State} (hs : s.MemWf) (ht : t.MemWf) :
    (if c then s else t).MemWf := by
  split <;> assumption

theorem State.MemWf.setCrew {id : Nat} {c : Crew} (h : s.MemWf) : (s.setCrew id c).MemWf := h

theorem State.MemWf.modCrew {id : Nat} {f : Crew → Crew} (h : s.MemWf) : (s.modCrew id f).MemWf := h

theorem State.MemWf.setTeam {id : Nat} {t : Team} (h : s.MemWf) : (s.setTeam id t).MemWf := h

theorem State.MemWf.modTeam {id : Nat} {f : Team → Team} (h : s.MemWf) : (s.modTeam id f).MemWf := h

theorem State.MemWf.setCore {ck : Nat} {c : Core} (h : s.MemWf) : (s.setCore ck c).MemWf := h

theorem State.MemWf.modCore {ck : Nat} {f : Core → Core} (h : s.MemWf) : (s.modCore ck f).MemWf := h

theorem State.MemWf.setIsl {i : Nat} {x : Island} (h : s.MemWf) : (s.setIsl i x).MemWf := h

theorem State.MemWf.modIsl {i : Nat} {f : Island → Island} (h : s.MemWf) : (s.modIsl i f).MemWf := h

theorem State.MemWf.modLaunch {n : Nat} {f : Launch → Launch} (h : s.MemWf) : (s.modLaunch n f).MemWf := h

theorem State.MemWf.issued (h : s.MemWf) : s.issued.MemWf := h

/-- The state of a pair that an equation takes apart. -/
theorem State.MemWf.of_eq {α : Type} {x : State × α} {t : State} {a : α} (hx : x.1.MemWf) (e : x = (t, a)) :
    t.MemWf := by
  subst e
  exact hx

theorem State.MemWf.fst_ite {α : Type} {c : Prop} [Decidable c] {x y : State × α} (hx : x.1.MemWf) (hy : y.1.MemWf) :
    (if c then x else y).1.MemWf := by
  split <;> assumption

namespace State.MemWf

/-! ### Homes -/

/-- Writes at a home: where most of memory's changes end up. -/
@[simp] theorem homeWrite {i la : Nat} {bs : List Byte} (h : s.MemWf) : (s.homeWrite i la bs).MemWf :=
  Memory.wf_writeBytes _ _ h

@[simp] theorem fillUpper {i asid va : Nat} (h : s.MemWf) : (s.fillUpper i asid va).MemWf := h

/-! ### Lines of the cores and the records of their homes -/

@[simp] theorem putBack {ck li : Nat} (h : s.MemWf) : (s.putBack ck li).MemWf := by
  unfold State.putBack
  split
  · exact h
  · exact Memory.wf_maskedWrite h

@[simp] theorem followBack {ck li p : Nat} (h : s.MemWf) : (s.followBack ck li p).MemWf := by
  unfold State.followBack
  split <;> simp [h]

@[simp] theorem writeBack {ck li : Nat} (h : s.MemWf) : (s.writeBack ck li).MemWf := by
  unfold State.writeBack
  split <;> simp [h]

@[simp] theorem writeBackAll {ck : Nat} {xs : List Nat} (h : s.MemWf) : (s.writeBackAll ck xs).MemWf := by
  induction xs generalizing s with
  | nil => exact h
  | cons x xs ih => simp [State.writeBackAll, ih, h]

@[simp] theorem eagerRelease {ck : Nat} {sys count : Bool} (h : s.MemWf) : (s.eagerRelease ck sys count).MemWf := by
  simp [State.eagerRelease, h]

@[simp] theorem putRecord {i li ck : Nat} {n : Word} (h : s.MemWf) : (s.putRecord i li ck n).MemWf := h

@[simp] theorem clearRecord {i li : Nat} (h : s.MemWf) : (s.clearRecord i li).MemWf := h

@[simp] theorem surrender {p : Nat} {n : Word} (h : s.MemWf) : (s.surrender p n).MemWf := by
  unfold State.surrender
  split <;> simp [h]

@[simp] theorem recordRelease {ck li : Nat} {n : Word} (h : s.MemWf) : (s.recordRelease ck li n).MemWf := by
  simp only [State.recordRelease]
  split
  · split <;> simp [h]
  · simp [h]

@[simp] theorem recallLine {i li : Nat} (h : s.MemWf) : (s.recall i li).MemWf := by
  simp only [State.recall]
  split
  · exact h
  · split
    · split <;> simp [h]
    · simp [h]

@[simp] theorem dropLine {ck li : Nat} (h : s.MemWf) : (s.dropLine ck li).MemWf := by
  unfold State.dropLine
  split
  · split <;> simp [h]
  · simp [h]

@[simp] theorem fill {ck li : Nat} (h : s.MemWf) : (s.fill ck li).MemWf := by
  unfold State.fill
  split
  · split <;> simp [h]
  · exact h

@[simp] theorem l1Load {ck : Nat} {p : Loc} {n : Nat} (h : s.MemWf) : (s.l1Load ck p n).1.MemWf := by
  unfold State.l1Load
  split
  · exact h
  · extract_lets li off s1
    have h1 : s1.MemWf := by
      unfold s1
      split
      · exact ite h h.fill
      · exact h.fill
    split <;> exact h1

@[simp] theorem l1Store {ck : Nat} {p : Loc} {bs : List Byte} (h : s.MemWf) : (s.l1Store ck p bs).MemWf :=
  ite h.homeWrite (modCore (ite h h.fill))

@[simp] theorem l1LoadRun {ck : Nat} {xs : List Loc} (h : s.MemWf) : (s.l1LoadRun ck xs).1.MemWf := by
  induction xs generalizing s with
  | nil => exact h
  | cons x xs ih => simp [State.l1LoadRun, ih, h]

@[simp] theorem nextSequence {ck : Nat} (h : s.MemWf) : (s.nextSequence ck).1.MemWf := by simp [State.nextSequence, h]

@[simp] theorem markOpen {ck : Nat} {n : Word} (h : s.MemWf) : (s.markOpen ck n).MemWf := h

@[simp] theorem sweep {ck : Nat} {cxl : Bool} (h : s.MemWf) : (s.sweep ck cxl).MemWf := by
  unfold State.sweep
  exact modCore (foldl h fun _ _ h => h.dropLine)

@[simp] theorem raiseNum {ck : Nat} {cxl : Bool} (h : s.MemWf) : (s.raiseNum ck cxl).MemWf := by simp [State.raiseNum, h]

@[simp] theorem raiseGen {ck scope : Nat} (h : s.MemWf) : (s.raiseGen ck scope).MemWf := by
  unfold State.raiseGen
  split
  · simp [h]
  · split <;> simp [h]

@[simp] theorem takeExclusive {ck li : Nat} (h : s.MemWf) : (s.takeExclusive ck li).MemWf := by
  simp only [State.takeExclusive]
  split
  · exact h
  · exact modCore (modIsl (fill (foldl h.recallLine fun _ _ h => h.writeBack)))

@[simp] theorem acquireLine {ck li : Nat} (h : s.MemWf) : (s.acquireLine ck li).1.MemWf := by
  simp only [State.acquireLine]
  split
  · split <;> simp [h]
  · simp [h]

@[simp] theorem acquireLines {ck scope : Nat} {xs : List Nat} (h : s.MemWf) : (s.acquireLines ck scope xs).1.MemWf := by
  induction xs generalizing s with
  | nil => exact h
  | cons x xs ih =>
    unfold State.acquireLines
    extract_lets needs
    split
    rename_i s1 b e
    have h1 : s1.MemWf := of_eq (fst_ite h.acquireLine h) e
    exact ih (ite h1.modCore h1)

@[simp] theorem acquireEnd {ck scope : Nat} {b : Bool} (h : s.MemWf) : (s.acquireEnd ck scope b).MemWf := by
  simp [State.acquireEnd, h]

@[simp] theorem acquireRecords {ck scope : Nat} {lis : List Nat} (h : s.MemWf) :
    (s.acquireRecords ck scope lis).1.MemWf := by
  unfold State.acquireRecords
  split <;> simp [h]

@[simp] theorem releaseStart {ck scope : Nat} {cxl : Bool} (h : s.MemWf) : (s.releaseStart ck scope cxl).1.MemWf := by
  simp only [State.releaseStart]
  split
  · exact h
  · exact markOpen (ite h.nextSequence.writeBackAll h.nextSequence)

@[simp] theorem syncPrepare {ck : Nat} {p : Loc} {scope : Nat} {rmw : Bool} (h : s.MemWf) :
    (s.syncPrepare ck p scope rmw).MemWf := by
  unfold State.syncPrepare
  split
  · simp [h]
  · split <;> simp [h]

@[simp] theorem syncLoad {ck : Nat} {p : Loc} {scope n : Nat} (h : s.MemWf) : (s.syncLoad ck p scope n).1.MemWf := by
  unfold State.syncLoad
  split <;> simp [h]

@[simp] theorem syncStore {ck : Nat} {p : Loc} {scope : Nat} {bs : List Byte} (h : s.MemWf) :
    (s.syncStore ck p scope bs).MemWf :=
  ite (ite h.homeWrite h.homeWrite.modCore) h.l1Store

@[simp] theorem releaseLine {ck scope : Nat} {n : Word} {li : Nat} (h : s.MemWf) : (s.releaseLine ck scope n li).MemWf := by
  unfold State.releaseLine
  split <;> simp [h]

@[simp] theorem releaseLines {ck scope : Nat} {n : Word} {xs : List Nat} (h : s.MemWf) :
    (s.releaseLines ck scope n xs).MemWf := by
  induction xs generalizing s with
  | nil => exact h
  | cons x xs ih => simp [State.releaseLines, ih, h]

/-! ### Operations in flight, traps and stalls -/

@[simp] theorem giveEntry {crew op : Nat} (h : s.MemWf) : (s.giveEntry crew op).MemWf := by
  unfold State.giveEntry
  split
  · simp [h]
  · split <;> simp [h]

@[simp] theorem flushRun {ck la n : Nat} (h : s.MemWf) : (s.flushRun ck la n).MemWf :=
  foldl h fun _ _ h => h.dropLine

@[simp] theorem slotPut {c : Crew} {off : Nat} {bs : List Byte} (h : s.MemWf) : (s.slotPut c off bs).MemWf :=
  Memory.wf_writeBytes _ _ h.flushRun

@[simp] theorem slotClear {c : Crew} {off b : Nat} (h : s.MemWf) : (s.slotClear c off b).MemWf :=
  Memory.wf_write _ _ h.flushRun

@[simp] theorem slotLanes {c : Crew} {n : Nat} {mask : Word} {x : Lanes 32} (h : s.MemWf) :
    (s.slotLanes c n mask x).MemWf :=
  foldl h fun _ _ h => h.slotPut

@[simp] theorem landSlot {c : Crew} {o : Op} (h : s.MemWf) : (s.landSlot c o).MemWf := by
  unfold State.landSlot
  extract_lets s1 s2 s3 s4
  have h1 : s1.MemWf := by
    unfold s1
    split
    · exact foldl h fun _ _ h => h.slotLanes.slotClear
    · exact h
  have h2 : s2.MemWf := by
    unfold s2
    split
    · exact h1.slotPut.slotClear
    · exact h1
  have h3 : s3.MemWf := by
    unfold s3
    split
    · exact ite h2 h2.slotPut.slotClear
    · exact h2
  have h4 : s4.MemWf := ite h3.slotPut h3
  exact ite h4 h4.slotPut

@[simp] theorem latchDeps (h : s.MemWf) : s.latchDeps.MemWf := h

@[simp] theorem checkTrig {t : Nat} (h : s.MemWf) : (s.checkTrig t).MemWf := by
  unfold State.checkTrig
  split <;> exact h

@[simp] theorem trigNow {crew : Nat} {c : Crew} (h : s.MemWf) : (s.trigNow crew c).MemWf := by simp [State.trigNow, h]

@[simp] theorem settleTrig {crew : Nat} (h : s.MemWf) : (s.settleTrig crew).MemWf := by
  unfold State.settleTrig
  split
  · simp [h]
  · split <;> simp [h]

@[simp] theorem completeOp {crew id : Nat} (h : s.MemWf) : (s.completeOp crew id).MemWf := by
  unfold State.completeOp
  split
  · exact h
  · split
    · exact h
    · split
      · exact h
      · extract_lets s0 s1
        have h0 : s0.MemWf := by
          unfold s0
          split <;> exact h
        exact settleTrig (ite h0.landSlot.setCrew h0.setCrew)

@[simp] theorem drain {crew : Nat} {xs : List Op} (h : s.MemWf) : (s.drain crew xs).MemWf := by
  induction xs generalizing s with
  | nil => exact h
  | cons x xs ih => exact ih (ite h h.completeOp)

@[simp] theorem completeHeld {crew id : Nat} (h : s.MemWf) :
    (s.completeHeld crew id).MemWf := by simp [State.completeHeld, h]

@[simp] theorem teamFatal {t : Nat} {word : Word} (h : s.MemWf) : (s.teamFatal t word).MemWf := h

@[simp] theorem enterTrap {crew : Nat} {x : Cause} {skip : Nat} (h : s.MemWf) : (s.enterTrap crew x skip).MemWf := by
  unfold State.enterTrap
  split
  · exact h
  · exact setCrew (Memory.wf_splice _ _ h.flushRun)

@[simp] theorem raiseTrap {crew : Nat} {x : Cause} {skip : Nat} (h : s.MemWf) : (s.raiseTrap crew x skip).MemWf := by
  simp only [State.raiseTrap]
  split
  · exact h
  · refine ite h.teamFatal (ite h.teamFatal (ite h.teamFatal ?_))
    split
    · exact h.drain
    · exact ite h.drain.setCrew h.drain.enterTrap

@[simp] theorem deliver {crew : Nat} {x : Cause} (h : s.MemWf) : (s.deliver crew x).MemWf := by
  unfold State.deliver
  split
  · exact h
  · exact ite h.teamFatal (ite (ite h.setCrew.slotPut h.setCrew) h.teamFatal)

@[simp] theorem imprecise {t : Nat} {x : Cause} (h : s.MemWf) : (s.imprecise t x).MemWf := by
  unfold State.imprecise
  split <;> simp [h]

@[simp] theorem nextStamp {ck q : Nat} (h : s.MemWf) : (s.nextStamp ck q).1.MemWf := h

@[simp] theorem stallAs {id : Nat} {st : Stall} (h : s.MemWf) : (s.stallAs id st).MemWf := by
  unfold State.stallAs
  split <;> simp [h]

@[simp] theorem stallCrew {id : Nat} (h : s.MemWf) : (s.stallCrew id).MemWf := by simp [State.stallCrew, h]

end State.MemWf

/-- A word's effect leaves canonical memory. -/
def Eff.MemWf : Eff → Prop
  | .ok t => t.MemWf
  | .moved t => t.MemWf
  | _ => True

theorem Eff.MemWf.finish {e : Eff} {id size : Nat} (he : e.MemWf) (h : s.MemWf) : (e.finish s id size).MemWf := by
  cases e with
  | ok t => exact he
  | moved t => exact he
  | trap x => exact h.raiseTrap
  | trapNext x => exact h.raiseTrap
  | stall => exact h.stallCrew
  | hold => exact h

namespace State.MemWf

/-! ### Rounds -/

@[simp] theorem closeRound {t : Nat} (h : s.MemWf) : (s.closeRound t).MemWf := by simp [State.closeRound, h]

@[simp] theorem roundDone {t : Nat} (h : s.MemWf) : (s.roundDone t).MemWf := h

@[simp] theorem roundStep {t : Nat} (h : s.MemWf) : (s.roundStep t).MemWf := by
  unfold State.roundStep
  split <;> simp [h]

@[simp] theorem quitRound {id : Nat} {c : Crew} (h : s.MemWf) : (s.quitRound id c).MemWf := by
  unfold State.quitRound
  split <;> exact h

/-! ### Sequencers and crews that leave -/

@[simp] theorem modSeq {ck : Nat} {cp : Bool} {g : Sequencer → Sequencer} (h : s.MemWf) : (s.modSeq ck cp g).MemWf := h

@[simp] theorem tryFree {id : Nat} (h : s.MemWf) : (s.tryFree id).MemWf := by
  unfold State.tryFree
  split <;> simp [h]

/-! ### Lanes of loads and stores -/

@[simp] theorem fillTlb {ck : Nat} {l : Launch} {va : Nat} (h : s.MemWf) : (s.fillTlb ck l va).MemWf := by
  unfold State.fillTlb
  split
  · simp [h]
  · split <;> simp [h]

@[simp] theorem fillTlbs {c : Crew} {xs : List DWord} (h : s.MemWf) : (s.fillTlbs c xs).MemWf := by
  induction xs generalizing s with
  | nil => exact h
  | cons x xs ih => simp [State.fillTlbs, ih, h]

@[simp] theorem issueOp {id : Nat} {o : Op} {x : Option Hist} (h : s.MemWf) : (s.issueOp id o x).MemWf := h

@[simp] theorem lateLanes {id : Nat} {c : Crew} {f : Form} {p : Path} {needs : Bool} {regs : Nat} {held : Bool}
    {after : List Nat} {val : Nat → BitVec 128} (h : s.MemWf) :
    (s.lateLanes id c f p needs regs held after val).MemWf := h

@[simp] theorem lateUniform {id : Nat} {c : Crew} {f : Form} {p : Path} {needs held : Bool} {v : DWord} (h : s.MemWf) :
    (s.lateUniform id c f p needs held v).MemWf := h

@[simp] theorem lateHandle {id : Nat} {c : Crew} {f : Form} {held : Bool} {hrec : Option (BitVec 512)} (h : s.MemWf) :
    (s.lateHandle id c f held hrec).MemWf := h

@[simp] theorem lateNone {id : Nat} {c : Crew} {f : Form} {p : Path} {needs held : Bool} (h : s.MemWf) :
    (s.lateNone id c f p needs held).MemWf := h

@[simp] theorem loadLanes {ck n : Nat} {xs : List (Nat × Loc)} (h : s.MemWf) : (s.loadLanes ck n xs).1.MemWf := by
  induction xs generalizing s with
  | nil => exact h
  | cons x xs ih => simp [State.loadLanes, ih, h]

@[simp] theorem storeLanes {ck n : Nat} {val : Nat → Nat} {xs : List (Nat × Loc)} (h : s.MemWf) :
    (s.storeLanes ck n val xs).MemWf := by
  induction xs generalizing s with
  | nil => exact h
  | cons x xs ih => simp [State.storeLanes, ih, h]

@[simp] theorem takeOver {i id : Nat} {as : List Nat} (h : s.MemWf) :
    (s.takeOver i id as).MemWf := by simp [State.takeOver, h]

@[simp] theorem winWrite {t off : Nat} {bs : List Byte} (h : s.MemWf) : (s.winWrite t off bs).MemWf := h

@[simp] theorem storeSlab {n : Nat} {val : Nat → Nat} {xs : List (Nat × Nat × Nat)} (h : s.MemWf) :
    (s.storeSlab n val xs).MemWf := by
  induction xs generalizing s with
  | nil => exact h
  | cons x xs ih => simp [State.storeSlab, ih, h]

@[simp] theorem prefLanes {c : Crew} {f : Form} {xs : List Nat} (h : s.MemWf) : (s.prefLanes c f xs).MemWf := by
  induction xs generalizing s with
  | nil => exact h
  | cons x xs ih =>
    simp only [State.prefLanes]
    split
    · exact ih (ite h.fillTlb h.fillTlb.l1Load)
    · exact ih h

@[simp] theorem loadRuns {ck : Nat} {xs : List (Nat × List Loc)} (h : s.MemWf) : (s.loadRuns ck xs).1.MemWf := by
  induction xs generalizing s with
  | nil => exact h
  | cons x xs ih => simp [State.loadRuns, ih, h]

/-! ### Barriers -/

@[simp] theorem stopSeq {ck : Nat} {cp : Bool} (h : s.MemWf) : (s.stopSeq ck cp).MemWf := h

end State.MemWf

/-- The effect of a sequencer's word leaves canonical memory. -/
def SeqEff.MemWf : SeqEff → Prop
  | .pass t => t.MemWf
  | .moved t => t.MemWf
  | _ => True

theorem SeqEff.MemWf.finish {e : SeqEff} {ck size : Nat} {cp : Bool} (he : e.MemWf) (h : s.MemWf) :
    (e.finish s ck cp size).MemWf := by
  cases e with
  | pass t => exact he
  | moved t => exact he
  | wait st => exact h
  | fault x =>
    simp only [SeqEff.finish]
    split
    · exact h.stopSeq.imprecise
    · exact h

namespace State.MemWf

@[simp] theorem setBar {t b : Nat} {x : Bar} (h : s.MemWf) : (s.setBar t b x).MemWf := h

@[simp] theorem arrive {ck t b n : Nat} (h : s.MemWf) : (s.arrive ck t b n).MemWf := by
  unfold State.arrive
  exact setBar (ite h.releaseStart.eagerRelease h)

@[simp] theorem acquireBar {t b : Nat} (h : s.MemWf) : (s.acquireBar t b).MemWf := by
  simp only [State.acquireBar]
  split <;> simp [h]

/-! ### Elements of tensors -/

@[simp] theorem fillPages {i asid : Nat} {xs : List Nat} (h : s.MemWf) : (s.fillPages i asid xs).MemWf := by
  induction xs generalizing s with
  | nil => exact h
  | cons x xs ih =>
    refine ih (ite h ?_)
    split
    · exact h
    · exact h.fillUpper.modIsl

@[simp] theorem fillTtlbBy {i asid : Nat} {back : Bool} {va : Nat} (h : s.MemWf) : (s.fillTtlbBy i asid back va).MemWf := by
  unfold State.fillTtlbBy
  split <;> simp [h]

@[simp] theorem fillTtlb {l : Launch} {back : Bool} {va : Nat} (h : s.MemWf) : (s.fillTtlb l back va).MemWf := by
  simp [State.fillTtlb, h]

@[simp] theorem copyFollows {ck : Nat} {p : Loc} {b : Byte} (h : s.MemWf) : (s.copyFollows ck p b).MemWf := by
  unfold State.copyFollows
  split <;> exact h

@[simp] theorem copiesFollow {ck : Nat} {pbs : List (Loc × Byte)} (h : s.MemWf) : (s.copiesFollow ck pbs).MemWf :=
  foldl h fun _ _ h => h.copyFollows

@[simp] theorem ownBack {ck : Nat} {lis : List Nat} (h : s.MemWf) : (s.ownBack ck lis).MemWf :=
  foldl h fun _ _ h => h.writeBack

@[simp] theorem elemRead {ck : Nat} {home : Bool} {ps : List Loc} (h : s.MemWf) : (s.elemRead ck home ps).1.MemWf := by
  unfold State.elemRead
  split <;> simp [h]

@[simp] theorem l1StoreRun {ck : Nat} {xs : List (Loc × Byte)} (h : s.MemWf) : (s.l1StoreRun ck xs).MemWf := by
  induction xs generalizing s with
  | nil => exact h
  | cons x xs ih => simp [State.l1StoreRun, ih, h]

@[simp] theorem elemHome {ck : Nat} {pbs : List (Loc × Byte)} (h : s.MemWf) : (s.elemHome ck pbs).MemWf := by
  unfold State.elemHome
  exact copiesFollow (foldl (ownBack (foldl h fun _ _ h => h.recallLine)) fun _ _ h => h.homeWrite)

@[simp] theorem elemWrite {ck : Nat} {home : Bool} {pbs : List (Loc × Byte)} (h : s.MemWf) :
    (s.elemWrite ck home pbs).MemWf := by simp [State.elemWrite, h]

@[simp] theorem holdWrite {i asid map : Nat} {w : HeldWrite} (h : s.MemWf) : (s.holdWrite i asid map w).MemWf := h

/-! ### Lanes of tensor words -/

@[simp] theorem tnSet {t n : Nat} {r : BitVec 512} (h : s.MemWf) : (s.tnSet t n r).MemWf := h

@[simp] theorem fillTtlbs {l : Launch} {xs : List Nat} (h : s.MemWf) : (s.fillTtlbs l xs).MemWf := by
  induction xs generalizing s with
  | nil => exact h
  | cons x xs ih => simp [State.fillTtlbs, ih, h]

@[simp] theorem tldLanes {ck crew : Nat} {l : Launch} {r : BitVec 512} {cs : Nat → List Nat}
    {see : List Loc → List Byte → List Byte} {xs : List (Nat × ElemRef)} (h : s.MemWf) :
    (s.tldLanes ck crew l r cs see xs).1.MemWf := by
  induction xs generalizing s with
  | nil => exact h
  | cons x xs ih => simp [State.tldLanes, ih, h]

@[simp] theorem lateElems {id : Nat} {c : Crew} {f : Form} {val : Nat → BitVec 128} (h : s.MemWf) :
    (s.lateElems id c f val).MemWf := h

@[simp] theorem tstLanes {ck : Nat} {r : BitVec 512} {val : Nat → Nat} {xs : List (Nat × ElemRef)} (h : s.MemWf) :
    (s.tstLanes ck r val xs).MemWf := by
  induction xs generalizing s with
  | nil => exact h
  | cons x xs ih => exact ih (ite h h.elemWrite)

@[simp] theorem holdWrites {i asid map : Nat} {xs : List HeldWrite} (h : s.MemWf) : (s.holdWrites i asid map xs).MemWf := by
  induction xs generalizing s with
  | nil => exact h
  | cons x xs ih => exact ih h.holdWrite

@[simp] theorem prefLines {c : Crew} {l : Launch} {xs : List Nat} (h : s.MemWf) : (s.prefLines c l xs).MemWf := by
  induction xs generalizing s with
  | nil => exact h
  | cons x xs ih =>
    refine ih ?_
    split
    · exact ite h h.l1Load
    · exact h

@[simp] theorem thpfLane {c : Crew} {f : Form} {r : BitVec 512} {cs : List Nat} (h : s.MemWf) :
    (s.thpfLane c f r cs).MemWf := by
  simp only [State.thpfLane]
  split
  · exact h
  · have h0 := fun l us => foldl (f := fun s u => s.fillTtlb l false (u * 2 ^ 16)) (l := us) h fun _ _ h => h.fillTtlb
    exact ite (ite (prefLines (h0 _ _)) (h0 _ _)) h

@[simp] theorem thpfLanes {c : Crew} {f : Form} {r : BitVec 512} {xs : List Nat} (h : s.MemWf) :
    (s.thpfLanes c f r xs).MemWf := by
  induction xs generalizing s with
  | nil => exact h
  | cons x xs ih => simp [State.thpfLanes, ih, h]

@[simp] theorem unhold {i : Nat} {w : HeldWrite} (h : s.MemWf) : (s.unhold i w).MemWf := ite h h.modCrew

@[simp] theorem endConv {i : Nat} {v : Conv} (h : s.MemWf) : (s.endConv i v).MemWf := by
  unfold State.endConv
  exact foldl h fun _ _ h => h.unhold

@[simp] theorem stopConvs {i n : Nat} (h : s.MemWf) : (s.stopConvs i n).MemWf := by
  unfold State.stopConvs
  exact foldl h fun _ _ h => ite h.modIsl h.endConv

/-! ### Copy jobs -/

@[simp] theorem enterTable {j : Job} (h : s.MemWf) : (s.enterTable j).MemWf := by
  unfold State.enterTable
  split <;> simp [h]

@[simp] theorem addJob {ck : Nat} {j : Job} (h : s.MemWf) : (s.addJob ck j).MemWf := h

@[simp] theorem fillElem {l : Launch} {e : ElemRef} {w : Nat} (h : s.MemWf) : (s.fillElem l e w).MemWf := by
  simp [State.fillElem, h]

@[simp] theorem jobLoad {ck : Nat} {l : Launch} {back : Bool} {xs : List (Nat × Nat)} (h : s.MemWf) :
    (s.jobLoad ck l back xs).s.MemWf := by
  induction xs generalizing s with
  | nil => exact h
  | cons x xs ih =>
    simp only [State.jobLoad]
    split
    · exact h
    · exact h
    · exact ih h.fillTtlb.l1Load

@[simp] theorem jobStore {ck : Nat} {l : Launch} {back : Bool} {bs : List Byte} {xs : List (Nat × Nat)} (h : s.MemWf) :
    (s.jobStore ck l back bs xs).s.MemWf := by
  induction xs generalizing s bs with
  | nil => exact h
  | cons x xs ih =>
    simp only [State.jobStore]
    split
    · exact h
    · exact h
    · exact ih h.fillTtlb.l1Store

@[simp] theorem rowLoad {ck : Nat} {l : Launch} {r : BitVec 512} {xs : List (List Nat)} (h : s.MemWf) :
    (s.rowLoad ck l r xs).1.MemWf := by
  induction xs generalizing s with
  | nil => exact h
  | cons x xs ih =>
    unfold State.rowLoad
    split
    · exact h
    · exact ih h.fillElem.elemRead

@[simp] theorem readRow {ck t kind : Nat} {r : BitVec 512} {word : Nat} {stride : Int} {i n : Nat} (h : s.MemWf) :
    (s.readRow ck t kind r word stride i n).s.MemWf := by
  simp only [State.readRow]
  split
  · exact h.jobLoad
  · split <;> exact h
  · exact h.rowLoad

@[simp] theorem readPacked {ck t : Nat} {r : BitVec 512} {word used n : Nat} (h : s.MemWf) :
    (s.readPacked ck t r word used n).s.MemWf := by
  simp only [State.readPacked]
  exact h.rowLoad

@[simp] theorem rowStore {ck : Nat} {l : Launch} {r : BitVec 512} {xs : List (List Nat × Nat × Nat)} (h : s.MemWf) :
    (s.rowStore ck l r xs).1.MemWf := by
  induction xs generalizing s with
  | nil => exact h
  | cons x xs ih =>
    unfold State.rowStore
    dsimp only
    split
    · exact h
    · split
      · exact ih h
      · exact ih h.fillElem.elemRead.elemWrite

@[simp] theorem holdJob {ck id : Nat} {l : Launch} {map : Nat} {hs : List (Nat × Nat × Nat × Nat)} (h : s.MemWf) :
    (s.holdJob ck id l map hs).MemWf := by simp [State.holdJob, h]

@[simp] theorem writeRow {ck t kind : Nat} {r : BitVec 512} {word : Nat} {stride : Int} {i : Nat} {bs : List Byte}
    (h : s.MemWf) : (s.writeRow ck t kind r word stride i bs).1.MemWf := by
  simp only [State.writeRow]
  split
  · exact h.jobStore
  · split
    · exact h.winWrite
    · exact h
  · exact h.rowStore

@[simp] theorem cpyRows {ck : Nat} {j : Job} {n i : Nat} (h : s.MemWf) : (s.cpyRows ck j n i).1.MemWf := by
  induction n generalizing s i with
  | zero => exact h
  | succ n ih =>
    simp only [State.cpyRows]
    split
    · exact h.readRow
    · split
      · exact h.readRow.writeRow
      · exact ih h.readRow.writeRow

/-- The values of a masked row are read behind its mask: none, packed elements, or bytes. -/
theorem cpyxVals {r : JobRes} {a b : Prop} [Decidable a] [Decidable b] {ck t used n word : Nat} {tn : BitVec 512}
    {kind k stride m : Nat} (h : r.s.MemWf) :
    (if a then (⟨r.s, [], none⟩ : JobRes) else if b then r.s.readPacked ck t tn word used n
      else r.s.readRow ck t kind tn word stride k m).s.MemWf := by
  split
  · exact h
  · split
    · exact h.readPacked
    · exact h.readRow

@[simp] theorem cpyxRows {ck : Nat} {j : Job} {n i used : Nat} (h : s.MemWf) : (s.cpyxRows ck j n i used).1.MemWf := by
  induction n generalizing s i used with
  | zero => exact h
  | succ n ih =>
    simp only [State.cpyxRows]
    split
    · exact h.readRow
    · split
      · exact cpyxVals h.readRow
      · split
        · exact (cpyxVals h.readRow).writeRow
        · exact ih (cpyxVals h.readRow).writeRow

@[simp] theorem cpymRows {ck : Nat} {j : Job} {n i : Nat} (h : s.MemWf) : (s.cpymRows ck j n i).1.MemWf := by
  induction n generalizing s i with
  | zero => exact h
  | succ n ih =>
    simp only [State.cpymRows]
    split
    · exact h.readRow
    · split
      · exact h.readRow
      · exact ih h.readRow

@[simp] theorem modJob {ck id : Nat} {g : Job → Job} (h : s.MemWf) : (s.modJob ck id g).MemWf := h

@[simp] theorem keepPrior {s0 : State} {id : Nat} {xs : List Region} (h : s.MemWf) : (s0.keepPrior s id xs).MemWf := by
  induction xs generalizing s with
  | nil => exact h
  | cons x xs ih =>
    simp only [State.keepPrior]
    split
    · exact ih h
    · exact ih h.modTeam

@[simp] theorem dropPrior {id : Nat} (h : s.MemWf) : (s.dropPrior id).MemWf := h

@[simp] theorem startCopy {ck : Nat} {j : Job} (h : s.MemWf) : (s.startCopy ck j).MemWf := by
  simp only [State.startCopy]
  split
  · exact h.cpymRows.modJob
  · exact h.cpyxRows.holdJob.modJob
  · exact h.cpyRows.holdJob.modJob

@[simp] theorem beat {ck : Nat} {j : Job} {k : Nat} (h : s.MemWf) : (s.beat ck j k).MemWf := by
  simp only [State.beat]
  split
  · exact h
  · split
    · exact h.modJob
    · exact ite h.modJob (ite h.winWrite.modJob (modJob (ite h h.modCore)))

@[simp] theorem addArrivals {xs : List (Nat × Nat × Nat × Nat)} (h : s.MemWf) : (s.addArrivals xs).MemWf := by
  induction xs generalizing s with
  | nil => exact h
  | cons x xs ih => simp [State.addArrivals, ih, h]

@[simp] theorem payOwed {ck t : Nat} {cp : Bool} {xs : List (Nat × Nat)} (h : s.MemWf) : (s.payOwed ck t cp xs).MemWf := by
  induction xs generalizing s with
  | nil => exact h
  | cons x xs ih => exact ite h.stopSeq.imprecise (ih h.arrive)

@[simp] theorem settleOwed {ck : Nat} {cp : Bool} (h : s.MemWf) : (s.settleOwed ck cp).MemWf := by simp [State.settleOwed, h]

@[simp] theorem finishJob {ck : Nat} {j : Job} (h : s.MemWf) : (s.finishJob ck j).MemWf := by
  unfold State.finishJob
  extract_lets s1 s2 s2' own w6 s3
  have h1 : s1.MemWf := h.dropPrior.modCore
  have h2 : s2.MemWf := by
    unfold s2
    split
    · exact h1.completeHeld
    · exact h1
  have h3 : s3.MemWf := by
    unfold s3
    cases j.fault with
    | some x => exact imprecise (ite h2.stopSeq h2)
    | none => exact ite h2.addArrivals h2
  exact h3.settleOwed.settleOwed

@[simp] theorem applyArrival {k : Nat} (h : s.MemWf) : (s.applyArrival k).MemWf := by
  unfold State.applyArrival
  split
  · simp [h]
  · split <;> simp [h]

/-! ### Jobs of the engines -/

@[simp] theorem startLdw {ck : Nat} {j : Job} (h : s.MemWf) : (s.startLdw ck j).MemWf := h

@[simp] theorem startMma {ck : Nat} {j : Job} (h : s.MemWf) : (s.startMma ck j).MemWf := by
  simp only [State.startMma]
  split <;> simp [h]

@[simp] theorem startAmov {ck : Nat} {j : Job} (h : s.MemWf) : (s.startAmov ck j).MemWf := h

@[simp] theorem startQnt {ck : Nat} {j : Job} (h : s.MemWf) : (s.startQnt ck j).MemWf := h

@[simp] theorem passGate {j : Job} (h : s.MemWf) : (s.passGate j).MemWf := by
  unfold State.passGate
  split <;> simp [h]

@[simp] theorem runJob {ck : Nat} {j : Job} (h : s.MemWf) : (s.runJob ck j).MemWf := by
  unfold State.runJob
  split <;> simp [h]

@[simp] theorem startJob {ck : Nat} {j : Job} (h : s.MemWf) : (s.startJob ck j).MemWf :=
  ite (keepPrior h.enterTable.passGate.runJob) h.enterTable.passGate.runJob

/-! ### Seats of crews -/

@[simp] theorem seat {id q : Nat} {c : Crew} (h : s.MemWf) : (s.seat id q c).MemWf := h

@[simp] theorem dealCrew {id : Nat} {c : Crew} (h : s.MemWf) : (s.dealCrew id c).MemWf := h

/-! ### Saved contexts -/

@[simp] theorem writeArea {n : Nat} {t : SavedTeam} (h : s.MemWf) : (s.writeArea n t).MemWf :=
  Memory.wf_place _ _ _ h

@[simp] theorem writePreSlot {n num : Nat} {c : Crew} (h : s.MemWf) : (s.writePreSlot n num c).MemWf :=
  Memory.wf_place _ _ _ h

/-! ### Synchronising accesses -/

@[simp] theorem syncReady {ck : Nat} {p : Loc} {scope : Nat} {rmw acq : Bool} (h : s.MemWf) :
    (s.syncReady ck p scope rmw acq).1.MemWf := by
  unfold State.syncReady
  split <;> simp [h]

@[simp] theorem syncLoads {id ck scope n : Nat} {xs : List (Nat × Loc)} (h : s.MemWf) :
    (s.syncLoads id ck scope n xs).1.MemWf := by
  induction xs generalizing s with
  | nil => exact h
  | cons x xs ih =>
    simp only [State.syncLoads]
    exact ih h.syncReady.syncLoad

@[simp] theorem syncStores {ck scope n : Nat} {val : Nat → Nat} {xs : List (Nat × Loc)} (h : s.MemWf) :
    (s.syncStores ck scope n val xs).MemWf := by
  induction xs generalizing s with
  | nil => exact h
  | cons x xs ih =>
    simp only [State.syncStores]
    exact ih h.syncPrepare.syncStore

@[simp] theorem updates {id ck scope n : Nat} {acq : Bool} {op : Nat → Nat → Nat} {xs : List (Nat × Loc)}
    (h : s.MemWf) : (s.updates id ck scope n acq op xs).1.MemWf := by
  induction xs generalizing s with
  | nil => exact h
  | cons x xs ih =>
    simp only [State.updates]
    exact ih h.takeOver.syncReady.syncLoad.syncStore

/-! ### Packets -/

@[simp] theorem setStream {i j : Nat} {x : Stream} (h : s.MemWf) : (s.setStream i j x).MemWf := h

@[simp] theorem send {rop fn i j : Nat} {ordered : Bool} {ws : List Payload} (h : s.MemWf) :
    (s.send rop fn i j ordered ws).MemWf := h

@[simp] theorem leave {i j k : Nat} (h : s.MemWf) : (s.leave i j k).MemWf := h

@[simp] theorem release {i j : Nat} (h : s.MemWf) : (s.release i j).MemWf := foldl h fun _ _ h => h.leave

@[simp] theorem homePut {i : Nat} {p : Loc} {bs : List Byte} (h : s.MemWf) : (s.homePut i p bs).MemWf :=
  homeWrite (ite h h.recallLine)

@[simp] theorem homeGet {i : Nat} {p : Loc} {n : Nat} (h : s.MemWf) : (s.homeGet i p n).1.MemWf := by simp [State.homeGet, h]

@[simp] theorem stepCounter {i c : Nat} {v : Word} (h : s.MemWf) : (s.stepCounter i c v).MemWf := h

@[simp] theorem recallAll {i li : Nat} (h : s.MemWf) : (s.recallAll i li).MemWf := foldl h fun _ _ h => h.dropLine

@[simp] theorem getLines {i fn : Nat} {xs : List (Nat × Nat)} (h : s.MemWf) : (s.getLines i fn xs).1.MemWf := by
  induction xs generalizing s with
  | nil => exact h
  | cons x xs ih =>
    simp only [State.getLines]
    split
    · exact h
    · split <;> (rename_i e; exact of_eq (ih h.homeGet) e)

@[simp] theorem markDone {k : Nat} {p : Packet} {v : DWord} {err : Option Nat} (h : s.MemWf) :
    (s.markDone k p v err).MemWf := h

@[simp] theorem sendReplies {k : Nat} {p : Packet} {ws : List Payload} (h : s.MemWf) : (s.sendReplies k p ws).MemWf := h

@[simp] theorem putRest {i : Nat} {p : Loc} {a : Nat} {bs : List Byte} {part : PMap (List Byte)} (h : s.MemWf) :
    (s.putRest i p a bs part).MemWf := by
  unfold State.putRest
  exact ite h.homePut (foldl h fun _ _ h => ite h h.homePut)

@[simp] theorem perform {k : Nat} {p : Packet} (h : s.MemWf) : (s.perform k p).MemWf := by
  simp only [State.perform]
  split
  · split
    · exact h.markDone
    · exact h.putRest.markDone
  · split
    · exact h.markDone
    · split
      · exact h.stepCounter.markDone
      · exact h.markDone
  · split
    · exact h.markDone
    · exact h.recallAll.homeWrite.markDone
  · split <;> rename_i e
    · exact (of_eq h.getLines e).markDone
    · exact (of_eq h.getLines e).sendReplies
  · exact h

@[simp] theorem ropDone {id : Nat} {v : DWord} (h : s.MemWf) : (s.ropDone id v).MemWf := by
  unfold State.ropDone
  split <;> simp [h]

@[simp] theorem ropFail {id sub : Nat} (h : s.MemWf) : (s.ropFail id sub).MemWf := by
  unfold State.ropFail
  split
  · exact h
  · exact teamFatal (modCrew h)

@[simp] theorem dropLocal {r : ROp} {xs : List (Nat × Nat)} (h : s.MemWf) : (s.dropLocal r xs).MemWf := by
  induction xs generalizing s with
  | nil => exact h
  | cons x xs ih =>
    refine ih ?_
    split
    · exact ite h h.dropLine
    · exact h

@[simp] theorem putLocal {r : ROp} {bs : List Byte} {xs : List (Nat × Nat)} (h : s.MemWf) : (s.putLocal r bs xs).MemWf := by
  induction xs generalizing s bs with
  | nil => exact h
  | cons x xs ih =>
    simp only [State.putLocal]
    split
    · exact ih h.homePut
    · exact ih h

@[simp] theorem writeLocal {id off : Nat} {bs : List Byte} (h : s.MemWf) : (s.writeLocal id off bs).MemWf := by
  unfold State.writeLocal
  split
  · exact h
  · split
    · exact h.winWrite
    · exact putLocal (ite h h.dropLocal)

@[simp] theorem answerOver {rop i j : Nat} (h : s.MemWf) : (s.answerOver rop i j).MemWf := by simp [State.answerOver, h]

@[simp] theorem packetArrives {k : Nat} (h : s.MemWf) : (s.packetArrives k).MemWf := by
  simp only [State.packetArrives]
  split
  · exact h
  · split
    · exact h
    · split
      · split
        · split
          · exact ropDone (answerOver (writeLocal h))
          · exact writeLocal h
        · exact answerOver (writeLocal h)
      · exact ite h (ite h (ite h h.perform))

@[simp] theorem atomArrives {k at8 : Nat} (h : s.MemWf) : (s.atomArrives k at8).MemWf := by
  simp only [State.atomArrives]
  split
  · exact h
  · refine ite h ?_
    split
    · split
      · exact h
      · exact ite h h.homePut
    · split
      · exact h
      · exact ite h h.homeGet
    · exact h

@[simp] theorem farAnswers {k : Nat} {v : DWord} {bs : List Byte} {refusal : Option Nat} (h : s.MemWf) :
    (s.farAnswers k v bs refusal).MemWf := by
  unfold State.farAnswers
  split
  · exact h
  · refine ite h ?_
    split
    · exact ite h.markDone h
    · exact h.sendReplies
    · exact h.markDone
    · exact h
    · exact h.markDone

@[simp] theorem sendIn {panel isl target fn : Nat} {ordered : Bool} {what : Payload} (h : s.MemWf) :
    (s.sendIn panel isl target fn ordered what).MemWf := by simp [State.sendIn, h]

@[simp] theorem ackArrives {k : Nat} (h : s.MemWf) : (s.ackArrives k).MemWf := by
  simp only [State.ackArrives]
  split
  · exact h
  · refine ite h (ite ?_ (ite h ?_))
    · split
      · exact ropFail (release h)
      · exact release h
    · split
      · exact ropFail (release h)
      · split
        · exact release h
        · exact ite (ropDone (release h)) (release h)

@[simp] theorem resetPairs {pairs : List (Nat × Nat)} {lost : Packet → Bool} {sub : Nat → Bool → Nat × Nat → Nat}
    (h : s.MemWf) : (s.resetPairs pairs lost sub).MemWf := by
  unfold State.resetPairs
  exact foldl (foldl h fun _ _ h => h.setStream) fun _ _ h => h.ropFail

@[simp] theorem linkDead {i port : Nat} (h : s.MemWf) : (s.linkDead i port).MemWf := by
  unfold State.linkDead
  split <;> simp [h]

@[simp] theorem collsFail {sub : Nat} {hit : Coll → Bool} (h : s.MemWf) : (s.collsFail sub hit).MemWf := by
  unfold State.collsFail
  exact foldl h fun _ _ h => h.ropFail

@[simp] theorem islandCut {i : Nat} (h : s.MemWf) : (s.islandCut i).MemWf := by simp [State.islandCut, h]

@[simp] theorem planeCut {plane pa a pb b : Nat} (h : s.MemWf) : (s.planeCut plane pa a pb b).MemWf := by
  simp [State.planeCut, h]

/-! ### Remote operations -/

@[simp] theorem loadPieces {ck : Nat} {xs : List (Loc × Nat)} (h : s.MemWf) : (s.loadPieces ck xs).1.MemWf := by
  induction xs generalizing s with
  | nil => exact h
  | cons x xs ih => simp [State.loadPieces, ih, h]

@[simp] theorem openRop {r : ROp} (h : s.MemWf) : (s.openRop r).1.MemWf := h

@[simp] theorem sendAll {rop fn i : Nat} {ordered : Bool} {ws : List Payload} {xs : List Nat} (h : s.MemWf) :
    (s.sendAll rop fn i ordered ws xs).MemWf := by
  induction xs generalizing s with
  | nil => exact h
  | cons x xs ih =>
    unfold State.sendAll
    split
    · exact ih h.send
    · exact (ih h).ropFail

@[simp] theorem post {id : Nat} {c : Crew} {f : Form} {kind : RKind} {ordered : Bool} {ws : List Payload} {js : List Nat}
    (h : s.MemWf) : (s.post id c f kind ordered ws js).MemWf := by
  unfold State.post
  exact h.openRop.lateNone.sendAll

@[simp] theorem ask {id : Nat} {c : Crew} {f : Form} {r : ROp} {ordered : Bool} {w : Payload} {j : Nat} (h : s.MemWf) :
    (s.ask id c f r ordered w j).MemWf := by
  unfold State.ask
  exact h.openRop.lateUniform.sendAll

/-! ### Collectives -/

@[simp] theorem memberDone {k i : Nat} {v : DWord} (h : s.MemWf) : (s.memberDone k i v).MemWf := by
  unfold State.memberDone
  split
  · simp [h]
  · split <;> simp [h]

@[simp] theorem collResult {k : Nat} {c : Coll} {vs : List Nat} (h : s.MemWf) : (s.collResult k c vs).MemWf := by
  unfold State.collResult
  exact foldl h fun _ _ h => ite h (ite h.writeLocal.memberDone h.memberDone)

@[simp] theorem collAccept {k : Nat} {c : Coll} {i : Nat} (h : s.MemWf) : (s.collAccept k c i).MemWf := by
  simp [State.collAccept, h]

@[simp] theorem collCombine {k first second : Nat} (h : s.MemWf) : (s.collCombine k first second).MemWf := by
  simp only [State.collCombine]
  split
  · exact h
  · refine ite h (ite h.collResult (ite h.collAccept.collAccept (ite h ?_)))
    split
    · refine ite h ?_
      split
      · exact ite (collResult (collAccept (collAccept h))) (collAccept (collAccept h))
      · exact collAccept (collAccept h)
    · exact h

@[simp] theorem collBreak {k : Nat} {c : Coll} {why : Nat} (h : s.MemWf) : (s.collBreak k c why).MemWf := by
  unfold State.collBreak
  exact foldl h fun _ _ h => h.ropFail

@[simp] theorem collForget {k : Nat} (h : s.MemWf) : (s.collForget k).MemWf := by
  unfold State.collForget
  split <;> simp [h]

@[simp] theorem collJoin {fn : Nat} {m : Member} {card : List DWord} {vals : List Nat} (h : s.MemWf) :
    (s.collJoin fn m card vals).MemWf := by
  simp only [State.collJoin]
  split
  · split
    · exact h
    · exact collForget (collBreak h)
  · exact ite h.collBreak.collForget h

@[simp] theorem collsPlane {x y : Nat} (h : s.MemWf) : (s.collsPlane x y).MemWf := by
  unfold State.collsPlane
  exact foldl h fun _ _ h => ite h.collBreak.collForget (ite (collForget (collBreak h)) h)

@[simp] theorem collsCut {was : State} {links : List (Nat × Nat)} (h : s.MemWf) : (s.collsCut was links).MemWf := by
  unfold State.collsCut
  exact foldl h fun _ _ h => ite h.collBreak.collForget (ite (ite (collForget (collBreak h)) h) h)

@[simp] theorem collFar {panel isl fn : Nat} {card : List DWord} {bs : List Byte} (h : s.MemWf) :
    (s.collFar panel isl fn card bs).MemWf := by simp [State.collFar, h]

/-! ### Completion records and the journal -/

@[simp] theorem setQueue {k : Nat} {q : Queue} (h : s.MemWf) : (s.setQueue k q).MemWf := h

@[simp] theorem setVf {fn : Nat} {v : Vf} (h : s.MemWf) : (s.setVf fn v).MemWf := h

@[simp] theorem fire {fn vec : Nat} (h : s.MemWf) : (s.fire fn vec).MemWf := by
  simp only [State.fire]
  split <;> simp [h]

@[simp] theorem maskVector {fn vec : Nat} {on : Bool} (h : s.MemWf) : (s.maskVector fn vec on).MemWf := by
  unfold State.maskVector
  split <;> simp [h]

@[simp] theorem putRecord32 {fn k : Nat} {rec : List DWord} {irq : Bool} (h : s.MemWf) :
    (s.putRecord32 fn k rec irq).MemWf := by
  unfold State.putRecord32
  exact ite (fire (setQueue (Memory.wf_hostWrite h))) (setQueue (Memory.wf_hostWrite h))

@[simp] theorem complete {fn k : Nat} {rec : List DWord} {irq : Bool} (h : s.MemWf) : (s.complete fn k rec irq).MemWf := by
  unfold State.complete
  split <;> simp [h]

@[simp] theorem journalNew {seq fn kind : Nat} {obj : DWord} (h : s.MemWf) : (s.journalNew seq fn kind obj).MemWf :=
  h.homeWrite

@[simp] theorem journalSetAt {tm : DWord} {seq fn kind st code : Nat} {aux : Word} (h : s.MemWf) :
    (s.journalSetAt tm seq fn kind st code aux).MemWf := by
  unfold State.journalSetAt
  exact h.homeWrite.homeWrite

@[simp] theorem journalSet {seq fn kind st code : Nat} {aux : Word} (h : s.MemWf) :
    (s.journalSet seq fn kind st code aux).MemWf :=
  h.journalSetAt

@[simp] theorem journalFinalAt {tm : DWord} {seq fn kind st code : Nat} {aux : Word} {queue : Option Nat}
    {irq : Bool} (h : s.MemWf) :
    (s.journalFinalAt tm seq fn kind st code aux queue irq).MemWf := by
  unfold State.journalFinalAt
  split <;> simp [h]

@[simp] theorem journalFinal {seq fn kind st code : Nat} {aux : Word} {queue : Option Nat} {irq : Bool} (h : s.MemWf) :
    (s.journalFinal seq fn kind st code aux queue irq).MemWf :=
  h.journalFinalAt

/-- The sequence number that a command takes is journalled. -/
theorem takeSeq {fn kind : Nat} {obj : DWord} {t : State × Nat} (h : s.MemWf) (ht : s.takeSeq fn kind obj = some t) :
    t.1.MemWf := by
  unfold State.takeSeq at ht
  split at ht
  · obtain rfl := Option.some.inj ht
    exact journalNew h
  · cases ht

theorem oneShot {fn : Nat} {k : Option Nat} {kind : Nat} {obj : DWord} {irq : Bool}
    {act : State → Nat → State × Nat × Word} (h : s.MemWf) (hact : ∀ s seq, s.MemWf → (act s seq).1.MemWf) :
    (s.oneShot fn k kind obj irq act).MemWf := by
  simp only [State.oneShot]
  split
  · exact h
  · rename_i ht
    exact journalFinal (hact _ _ (h.takeSeq ht))

@[simp] theorem counterWrite {port a : Nat} {v : Word} (h : s.MemWf) : (s.counterWrite port a v).MemWf := by
  simp [State.counterWrite, h]

@[simp] theorem launchCount {n : Nat} (h : s.MemWf) : (s.launchCount n).MemWf := by simp [State.launchCount, h]

@[simp] theorem modUnit {seq : Nat} {g : GroupUnit → GroupUnit} (h : s.MemWf) : (s.modUnit seq g).MemWf := h

@[simp] theorem unitCount {seq : Nat} (h : s.MemWf) : (s.unitCount seq).MemWf := by
  unfold State.unitCount
  split <;> simp [h]

@[simp] theorem graphCount {fn num : Nat} (h : s.MemWf) : (s.graphCount fn num).MemWf := by
  unfold State.graphCount
  split <;> simp [h]

@[simp] theorem countAbove {l : Launch} (h : s.MemWf) : (s.countAbove l).MemWf := by
  unfold State.countAbove
  extract_lets s1
  have h1 : s1.MemWf := by
    unfold s1
    split
    · split
      · exact h.graphCount
      · exact h
    · exact h
  exact h1.unitCount.unitCount

@[simp] theorem settleReplay {k : Nat} (h : s.MemWf) : (s.settleReplay k).MemWf := by
  unfold State.settleReplay
  split <;> simp [h]

@[simp] theorem settleUnit {seq : Nat} (h : s.MemWf) : (s.settleUnit seq).MemWf := by
  simp only [State.settleUnit]
  split
  · simp [h]
  · split <;> simp [h]

@[simp] theorem settleUnits (h : s.MemWf) : s.settleUnits.MemWf := by
  unfold State.settleUnits
  exact latchDeps (foldl (foldl (foldl h fun _ _ h => h.settleReplay) fun _ _ h => h.settleUnit) fun _ _ h => h.settleUnit)

@[simp] theorem launchFinal {n st code : Nat} {aux : Word} (h : s.MemWf) : (s.launchFinal n st code aux).MemWf := by
  unfold State.launchFinal
  exact settleUnits (journalFinalAt (ite h.modLaunch.countAbove h.modLaunch))

/-! ### Commands that enter -/

@[simp] theorem writeVa {i asid : Nat} {bs : List Byte} {xs : List (Nat × Nat)} (h : s.MemWf) :
    (s.writeVa i asid bs xs).MemWf := by
  induction xs generalizing s bs with
  | nil => exact h
  | cons x xs ih =>
    simp only [State.writeVa]
    split
    · exact ih h.homePut
    · exact ih h

@[simp] theorem writeCmd {fn a : Nat} {bs : List Byte} (h : s.MemWf) : (s.writeCmd fn a bs).MemWf := by
  unfold State.writeCmd
  split
  · split
    · exact h.writeVa
    · exact h
  · exact Memory.wf_hostWrite h

@[simp] theorem dropAsid {i asid : Nat} (h : s.MemWf) : (s.dropAsid i asid).MemWf := h

@[simp] theorem giveAsid {i fn : Nat} (h : s.MemWf) : (s.giveAsid i fn).1.MemWf := by
  simp only [State.giveAsid]
  split
  · exact h
  · split
    · exact h
    · split <;> exact h

@[simp] theorem enterLaunch {seq : Nat} {l : Launch} {code : Nat} (h : s.MemWf) : (s.enterLaunch seq l code).MemWf := by
  simp only [State.enterLaunch]
  split
  · exact journalFinal h
  · exact h.giveAsid

@[simp] theorem cmdLaunch {k : Option Nat} {c : LaunchCmd} (h : s.MemWf) : (s.cmdLaunch k c).MemWf := by
  simp only [State.cmdLaunch]
  split
  · exact h
  · rename_i ht
    exact settleUnits (enterLaunch (h.takeSeq ht))

/-! ### Staging, placement and the end of launches -/

@[simp] theorem meetDeps {n : Nat} (h : s.MemWf) : (s.meetDeps n).MemWf := by
  unfold State.meetDeps
  split
  · simp [h]
  · split <;> simp [h]

@[simp] theorem passHold {n : Nat} (h : s.MemWf) : (s.passHold n).MemWf := by
  unfold State.passHold
  split <;> simp [h]

@[simp] theorem dropPage {i asid va bits : Nat} (h : s.MemWf) : (s.dropPage i asid va bits).MemWf := h

theorem movePage {i asid mt : Nat} {p : Page} {t : State} (h : s.MemWf) (ht : s.movePage i asid mt p = some t) :
    t.MemWf := by
  simp only [State.movePage] at ht
  split at ht
  · cases ht
  · obtain rfl := Option.some.inj ht
    exact modIsl (dropPage (homeWrite (Memory.wf_splice _ _ h)))

theorem bringPage {i asid : Nat} {rs : List Range} {p : Page} {n : Nat} {t : State} (h : s.MemWf)
    (ht : s.bringPage i asid rs p n = some t) : t.MemWf := by
  induction n generalizing s with
  | zero => exact h.movePage ht
  | succ n ih =>
    simp only [State.bringPage] at ht
    split at ht
    · rename_i hm
      exact Option.some.inj ht ▸ h.movePage hm
    · split at ht
      · cases ht
      · split at ht
        · cases ht
        · rename_i hm
          exact ih (h.movePage hm) ht

@[simp] theorem stageUnit {i asid : Nat} {rs : List Range} {u : Nat} (h : s.MemWf) : (s.stageUnit i asid rs u).1.MemWf := by
  unfold State.stageUnit
  split
  · exact h
  · split
    · exact h
    · split
      · exact h
      · rename_i hb
        exact h.bringPage hb

@[simp] theorem stageRun {i asid : Nat} {rs : List Range} {n u : Nat} (h : s.MemWf) :
    (s.stageRun i asid rs n u).1.MemWf := by
  induction n generalizing s u with
  | zero => exact h
  | succ n ih =>
    simp only [State.stageRun]
    split
    · rename_i e
      exact ih (of_eq h.stageUnit e)
    · exact h.stageUnit

@[simp] theorem widen {i asid : Nat} {rs : List Range} {block theta k u n : Nat} (h : s.MemWf) :
    (s.widen i asid rs block theta k u n).1.MemWf := by
  induction k generalizing s u n with
  | zero => exact h
  | succ k ih =>
    simp only [State.widen]
    refine fst_ite h ?_
    split
    · rename_i e
      exact ih (of_eq h.stageRun e)
    · exact h.stageRun

@[simp] theorem stageUnits {i asid : Nat} {rs : List Range} {n u : Nat} (h : s.MemWf) :
    (s.stageUnits i asid rs n u).1.MemWf := by
  induction n generalizing s u with
  | zero => exact h
  | succ n ih =>
    simp only [State.stageUnits]
    split
    · rename_i s1 e
      have h1 : s1.MemWf := of_eq h.stageUnit e
      split
      · rename_i e
        exact ih (of_eq (fst_ite h1.widen h1) e)
      · exact fst_ite h1.widen h1
    · exact h.stageUnit

@[simp] theorem stageList {i asid : Nat} {all xs : List Range} (h : s.MemWf) : (s.stageList i asid all xs).1.MemWf := by
  induction xs generalizing s with
  | nil => exact h
  | cons x xs ih =>
    simp only [State.stageList]
    split
    · rename_i e
      exact ih (of_eq h.stageUnits e)
    · exact h.stageUnits

@[simp] theorem stageRanges {i asid : Nat} {rs : List Range} (h : s.MemWf) : (s.stageRanges i asid rs).1.MemWf := by
  simp [State.stageRanges, h]

@[simp] theorem stage {n : Nat} (h : s.MemWf) : (s.stage n).MemWf := by
  unfold State.stage
  split
  · exact h
  · split
    · exact h
    · split
      rename_i e
      have h0 := of_eq (fst_ite h.giveAsid h) e
      split
      · exact h
      · split
        · rename_i e
          have h1 := of_eq h0.stageRanges e
          exact modLaunch h1
        · exact h0.launchFinal

@[simp] theorem retake {ck : Nat} (h : s.MemWf) : (s.retake ck).MemWf := h

@[simp] theorem takeTag {ck units : Nat} (h : s.MemWf) : (s.takeTag ck units).1.MemWf := by
  unfold State.takeTag
  split <;> exact h

@[simp] theorem addCrews {t : Nat} {entry : DWord} {k : Nat} {i1 : Nat} (h : s.MemWf) :
    (s.addCrews t entry k i1).MemWf := by
  induction k generalizing s i1 with
  | zero => exact h
  | succ k ih => simp [State.addCrews, ih, h]

@[simp] theorem addTeams {n g : Nat} {xs : List (Nat × Nat)} (h : s.MemWf) : (s.addTeams n g xs).MemWf := by
  induction xs generalizing s with
  | nil => exact h
  | cons x xs ih =>
    unfold State.addTeams
    exact ih (modLaunch (raiseGen (setTeam h.takeTag)))

@[simp] theorem setGang {n g : Nat} {x : Gang} (h : s.MemWf) : (s.setGang n g x).MemWf := h

@[simp] theorem startLaunch {n : Nat} (h : s.MemWf) : (s.startLaunch n).MemWf := by simp [State.startLaunch, h]

@[simp] theorem placeGang {n g : Nat} {cores : List Nat} (h : s.MemWf) : (s.placeGang n g cores).MemWf := by
  simp only [State.placeGang]
  split
  · exact h
  · exact startLaunch (setGang (foldl h.addTeams fun _ _ h => h.addCrews))

@[simp] theorem retireGang {n g : Nat} (h : s.MemWf) : (s.retireGang n g).MemWf := by
  simp only [State.retireGang]
  split
  · split <;> simp [h]
  · simp [h]

@[simp] theorem endTeam {t : Nat} (h : s.MemWf) : (s.endTeam t).MemWf := by
  unfold State.endTeam
  split
  · exact h
  · extract_lets team l s1 s2 s3
    have h1 : s1.MemWf := h.eagerRelease.modCore
    have h3 : s3.MemWf := modLaunch (modIsl h1)
    exact latchDeps (ite h3.retireGang h3)

@[simp] theorem releaseCores {xs : List Nat} (h : s.MemWf) : (s.releaseCores xs).MemWf := by
  induction xs generalizing s with
  | nil => exact h
  | cons x xs ih => exact ih (ite h h.eagerRelease)

@[simp] theorem dropLease {n : Nat} (h : s.MemWf) : (s.dropLease n).MemWf := h

@[simp] theorem completeLaunch {n : Nat} (h : s.MemWf) : (s.completeLaunch n).MemWf := by
  simp only [State.completeLaunch]
  split
  · exact h
  · split
    · exact h
    · split <;> exact h.releaseCores.dropLease.launchCount.launchFinal

/-! ### Preemption, resumption and cancellation -/

@[simp] theorem recordBench {ck : Nat} (h : s.MemWf) : (s.recordBench ck).MemWf := foldl h fun _ _ h => h.recallLine

@[simp] theorem leaveCore {t : Nat} (h : s.MemWf) : (s.leaveCore t).MemWf := by simp [State.leaveCore, h]

@[simp] theorem quitRounds {n g : Nat} (h : s.MemWf) : (s.quitRounds n g).MemWf := foldl h fun _ _ h => h.quitRound

@[simp] theorem saveGang {n g : Nat} (h : s.MemWf) : (s.saveGang n g).MemWf := by
  unfold State.saveGang
  extract_lets s0
  have h0 : s0.MemWf := foldl h fun _ _ h => h.endTeam
  split
  · exact h0
  · exact setGang (foldl (foldl (foldl h0 fun _ _ h => h.leaveCore) fun _ _ h => h.writePreSlot) fun _ _ h => h.writeArea)

@[simp] theorem preempt {n g : Nat} (h : s.MemWf) : (s.preempt n g).MemWf := by
  unfold State.preempt
  exact ite h (ite h.setGang (ite (ite h h.quitRounds.setGang) (ite h.saveGang h)))

@[simp] theorem reissue {ck : Nat} {j : Job} (h : s.MemWf) : (s.reissue ck j).MemWf := h

@[simp] theorem resumeTeam {n : Nat} {t : SavedTeam} {ck : Nat} (h : s.MemWf) : (s.resumeTeam n t ck).MemWf := by
  unfold State.resumeTeam
  split
  rename_i e
  have h1 := of_eq h.takeTag e
  exact modLaunch (raiseGen (modIsl (foldl (ite h1.setTeam.modCore h1.setTeam) fun _ _ h => h.reissue)))

@[simp] theorem retag {t : Nat} (h : s.MemWf) : (s.retag t).MemWf := h

@[simp] theorem takeEntries {id : Nat} {os : List Op} (h : s.MemWf) : (s.takeEntries id os).MemWf := by
  unfold State.takeEntries
  exact foldl h.modCrew fun _ _ h => h.giveEntry

@[simp] theorem reseat {id : Nat} {c : Crew} (h : s.MemWf) : (s.reseat id c).MemWf := by
  unfold State.reseat
  split <;> simp [h]

@[simp] theorem resumeGang {n g : Nat} {cores : List Nat} (h : s.MemWf) : (s.resumeGang n g cores).MemWf := by
  simp only [State.resumeGang]
  split
  · exact h
  · exact setGang (foldl (foldl (foldl h fun _ _ h => h.resumeTeam) fun _ _ h => h.retag) fun _ _ h => h.reseat)

@[simp] theorem stopLaunch {n st code : Nat} (h : s.MemWf) : (s.stopLaunch n st code).MemWf := by
  unfold State.stopLaunch
  split
  · exact h
  · exact ite h (ite h.dropLease.launchFinal h.modLaunch.stopConvs)

@[simp] theorem finishStop {n : Nat} (h : s.MemWf) : (s.finishStop n).MemWf := by
  unfold State.finishStop
  split
  · exact h
  · split
    · exact h
    · extract_lets ts s0 s1 s2 s3
      have h0 : s0.MemWf := foldl h.releaseCores fun _ _ h => h.leaveCore
      have h1 : s1.MemWf := h0
      have h3 : s3.MemWf := h1.dropLease.modLaunch.modIsl
      exact launchFinal (ite h3.launchCount h3)

@[simp] theorem cancelReplays {was : State} {target code : Nat} (h : s.MemWf) :
    (s.cancelReplays was target code).MemWf := by
  unfold State.cancelReplays
  refine foldl h fun _ _ h => ?_
  split
  · exact h
  · exact journalFinal h

@[simp] theorem cancelUnits {was : State} {target code : Nat} (h : s.MemWf) : (s.cancelUnits was target code).MemWf := by
  unfold State.cancelUnits
  exact foldl h fun _ _ h => h.modUnit.journalFinal

@[simp] theorem cancel {target code : Nat} (h : s.MemWf) : (s.cancel target code).1.MemWf := by
  unfold State.cancel
  exact settleUnits (cancelUnits (cancelReplays (foldl h fun _ _ h => h.stopLaunch)))

@[simp] theorem cmdCancel {fn : Nat} {k : Option Nat} {target : Nat} {irq : Bool} (h : s.MemWf) :
    (s.cmdCancel fn k target irq).MemWf :=
  oneShot h fun _ _ h => h.cancel

/-! ### Commands -/

@[simp] theorem recordGraph {c : GraphCmd} (h : s.MemWf) : (s.recordGraph c).1.MemWf := by
  simp only [State.recordGraph]
  split
  · simp [h]
  · split <;> simp [h]

@[simp] theorem cmdRecord {k : Option Nat} {c : GraphCmd} (h : s.MemWf) : (s.cmdRecord k c).MemWf :=
  oneShot h fun _ _ h => h.recordGraph

@[simp] theorem launchNode {k : Nat} {r : Replay} {slot first : Nat} {i : Nat}
    {n : Nat × Option Nat × List (Nat × Bool) × List Byte} (h : s.MemWf) : (s.launchNode k r slot first i n).MemWf := by
  unfold State.launchNode
  exact enterLaunch (journalNew h)

@[simp] theorem launchNodes {k : Nat} {r : Replay} {slot first i : Nat}
    {xs : List (Nat × Option Nat × List (Nat × Bool) × List Byte)} (h : s.MemWf) :
    (s.launchNodes k r slot first i xs).MemWf := by
  induction xs generalizing s i with
  | nil => exact h
  | cons x xs ih =>
    simp only [State.launchNodes]
    exact ih h.launchNode

@[simp] theorem takeSlot {k : Nat} (h : s.MemWf) : (s.takeSlot k).MemWf := by
  simp only [State.takeSlot]
  split
  · exact h
  · split
    · exact h
    · split
      · exact h
      · split
        · exact h
        · exact settleUnits (launchNodes (journalSet (writeCmd h)))

@[simp] theorem cmdReplay {k : Option Nat} {c : ReplayCmd} (h : s.MemWf) : (s.cmdReplay k c).MemWf := by
  simp only [State.cmdReplay]
  split
  · exact h
  · rename_i ht
    exact ite (h.takeSeq ht) (settleUnits (journalFinal (h.takeSeq ht)))

@[simp] theorem cmdOpen {k : Option Nat} {c : UnitCmd} {isPhase : Bool} (h : s.MemWf) : (s.cmdOpen k c isPhase).MemWf := by
  simp only [State.cmdOpen]
  split
  · exact h
  · rename_i ht
    have h1 := h.takeSeq ht
    split
    · exact h1.journalFinal
    · exact journalSet h1

@[simp] theorem cmdClose {k : Option Nat} {c : UnitCmd} {isPhase : Bool} (h : s.MemWf) :
    (s.cmdClose k c isPhase).MemWf := by
  refine settleUnits (oneShot h fun _ _ h => ?_)
  split
  · exact h
  · exact h.modUnit

@[simp] theorem assignCounter {fn : Nat} {c : CounterCmd} (h : s.MemWf) : (s.assignCounter fn c).1.MemWf := by
  simp only [State.assignCounter]
  refine fst_ite h ?_
  split
  · exact fst_ite h.stepCounter h
  · exact h
  · exact fst_ite h h.giveAsid.stepCounter.modIsl

@[simp] theorem releaseCounter {fn : Nat} {c : CounterCmd} (h : s.MemWf) : (s.releaseCounter fn c).1.MemWf := by
  simp only [State.releaseCounter]
  refine fst_ite h ?_
  split
  · exact fst_ite h.modIsl h
  · exact h

@[simp] theorem cmdAssign {k : Option Nat} {c : CounterCmd} (h : s.MemWf) : (s.cmdAssign k c).MemWf :=
  oneShot h fun _ _ h => h.assignCounter

@[simp] theorem cmdRelease {k : Option Nat} {c : CounterCmd} (h : s.MemWf) : (s.cmdRelease k c).MemWf :=
  oneShot h fun _ _ h => h.releaseCounter

@[simp] theorem leaseWindow {fn : Nat} {c : WindowCmd} (h : s.MemWf) : (s.leaseWindow fn c).1.MemWf := by
  unfold State.leaseWindow
  split <;> simp [h]

@[simp] theorem releaseWindow {fn : Nat} {c : WindowCmd} (h : s.MemWf) : (s.releaseWindow fn c).1.MemWf := h

@[simp] theorem cmdLease {k : Option Nat} {c : WindowCmd} (h : s.MemWf) : (s.cmdLease k c).MemWf :=
  oneShot h fun _ _ h => h.leaseWindow

@[simp] theorem cmdUnlease {k : Option Nat} {c : WindowCmd} (h : s.MemWf) : (s.cmdUnlease k c).MemWf :=
  oneShot h fun _ _ h => h.releaseWindow

@[simp] theorem cmdHandler {fn : Nat} {k : Option Nat} {irq : Bool} {i : Nat} {addr : DWord} (h : s.MemWf) :
    (s.cmdHandler fn k irq i addr).MemWf := by
  refine oneShot h fun _ _ h => ?_
  split <;> exact h

@[simp] theorem runEntry {f : Fn} {q : Nat} {bs : List Byte} (h : s.MemWf) : (s.runEntry f q bs).MemWf := by
  simp only [State.runEntry]
  split
  · exact h.cmdLaunch
  · exact h.cmdRecord
  · exact h.cmdReplay
  · exact h.cmdOpen
  · exact h.cmdClose
  · exact h.cmdOpen
  · exact h.cmdClose
  · exact h.cmdCancel
  · exact h.cmdAssign
  · exact h.cmdRelease
  · exact h.cmdLease
  · exact h.cmdUnlease
  · exact h.cmdHandler
  · exact oneShot h fun _ _ h => h

@[simp] theorem takeCommand (h : s.MemWf) : s.takeCommand.MemWf := by
  simp only [State.takeCommand]
  refine ite h ?_
  split
  · exact h
  · exact ite h (ite h h.setQueue.runEntry)

/-! ### The host port -/

@[simp] theorem tailDoorbell {fn q tail : Nat} (h : s.MemWf) : (s.tailDoorbell fn q tail).MemWf := by
  simp only [State.tailDoorbell]
  split
  · simp [h]
  · split <;> simp [h]

@[simp] theorem headDoorbell {fn q head : Nat} (h : s.MemWf) : (s.headDoorbell fn q head).MemWf := by
  simp [State.headDoorbell, h]

@[simp] theorem writeHeld {fn k : Nat} (h : s.MemWf) : (s.writeHeld fn k).MemWf := by
  simp only [State.writeHeld]
  split
  · simp [h]
  · split <;> simp [h]

@[simp] theorem writeCtl {fn q : Nat} {v : DWord} (h : s.MemWf) : (s.writeCtl fn q v).MemWf := by simp [State.writeCtl, h]

@[simp] theorem writeBar0 {fn offset : Nat} {v : DWord} (h : s.MemWf) : (s.writeBar0 fn offset v).MemWf := by
  simp only [State.writeBar0]
  split
  · simp [h]
  · split <;> simp [h]

@[simp] theorem writeCap {watts : Nat} (h : s.MemWf) : (s.writeCap watts).MemWf := by
  unfold State.writeCap
  split <;> exact h

@[simp] theorem writeWeight {fn weight : Nat} (h : s.MemWf) : (s.writeWeight fn weight).MemWf := h

@[simp] theorem writeBar4 {pf : Bool} {offset : Nat} {v : DWord} (h : s.MemWf) : (s.writeBar4 pf offset v).MemWf := by
  unfold State.writeBar4
  split
  · simp [h]
  · split <;> simp [h]

@[simp] theorem bar2 {fn offset : Nat} {store : Option DWord} (h : s.MemWf) : (s.bar2 fn offset store).MemWf := by
  simp only [State.bar2]
  split
  · split
    · split
      · exact h
      · exact h.writeVa
      · exact h
    · exact h
  · exact h

@[simp] theorem resetBegin {fn : Nat} (h : s.MemWf) : (s.resetBegin fn).MemWf := by
  unfold State.resetBegin
  exact settleUnits (foldl (foldl h fun _ _ h => h.cancelReplays.cancelUnits) fun _ _ h => h.stopLaunch)

@[simp] theorem scrub {i n : Nat} (h : s.MemWf) : (s.scrub i n).MemWf := Memory.wf_filter _ h

@[simp] theorem dropFn {i fn : Nat} (h : s.MemWf) : (s.dropFn i fn).MemWf := by
  unfold State.dropFn
  split <;> exact h

@[simp] theorem resetEnd {fn : Nat} (h : s.MemWf) : (s.resetEnd fn).MemWf := by
  unfold State.resetEnd
  exact foldl (foldl h fun _ _ h => h.scrub) fun _ _ h => h.dropFn

@[simp] theorem functionReset {fn : Nat} (h : s.MemWf) : (s.functionReset fn).MemWf := by
  simp only [State.functionReset]
  split
  · simp [h]
  · split <;> simp [h]

/-! ### Boot and reset -/

@[simp] theorem startIsland {i : Nat} (h : s.MemWf) : (s.startIsland i).MemWf := by
  unfold State.startIsland
  exact modIsl (foldl h fun _ _ h => h.modCore)

@[simp] theorem runBoot (h : s.MemWf) : s.runBoot.MemWf := by
  unfold State.runBoot
  exact ite h (ite h (ite h (foldl h fun _ _ h => h.startIsland)))

@[simp] theorem atReset (h : s.MemWf) : s.atReset.MemWf := Memory.wf_filter _ h

/-! ### Fetch -/

@[simp] theorem seqFault {ck : Nat} {cp : Bool} {x : Cause} (h : s.MemWf) : (s.seqFault ck cp x).MemWf := by
  unfold State.seqFault
  extract_lets q s1 sub y
  split
  · exact h.modSeq.imprecise
  · exact h

@[simp] theorem fetchTrap {x : Exec} {e : Cause} (h : s.MemWf) : (s.fetchTrap x e).MemWf := by
  unfold State.fetchTrap
  split <;> simp [h]

/-! ### Slots of the handlers -/

@[simp] theorem nextQueued {id : Nat} {c : Crew} {x : Cause} {rest : List Cause} (h : s.MemWf) :
    (s.nextQueued id c x rest).MemWf := by
  unfold State.nextQueued
  exact h.slotPut.slotPut.slotPut.setCrew

@[simp] theorem slotLoad {c : Crew} {off : Nat} (h : s.MemWf) : (s.slotLoad c off).1.MemWf := by simp [State.slotLoad, h]

@[simp] theorem slotStore {c : Crew} {off : Nat} {v : DWord} (h : s.MemWf) : (s.slotStore c off v).MemWf := by
  simp [State.slotStore, h]

@[simp] theorem trapVal {c : Crew} {n : Nat} (h : s.MemWf) : (s.trapVal c n).1.MemWf := by
  unfold State.trapVal
  split <;> simp [h]

/-! ### Swaps and deliveries -/

@[simp] theorem yieldOver {ck q : Nat} (h : s.MemWf) : (s.yieldOver ck q).MemWf := h

@[simp] theorem swap {ck q : Nat} {out into : Option Nat} (h : s.MemWf) : (s.swap ck q out into).MemWf := by
  simp only [State.swap]
  split <;> split <;> exact h

@[simp] theorem startSwap {ck q : Nat} (h : s.MemWf) : (s.startSwap ck q).MemWf := by
  unfold State.startSwap
  refine ite h ?_
  split
  · exact h
  · refine ite h.swap ?_
    split
    · exact h
    · exact h.swap

@[simp] theorem enterActive {id : Nat} (h : s.MemWf) : (s.enterActive id).MemWf := by
  unfold State.enterActive
  split <;> simp [h]

@[simp] theorem enterPending {id : Nat} (h : s.MemWf) : (s.enterPending id).MemWf := by
  unfold State.enterPending
  split <;> simp [h]

@[simp] theorem endSwap {ck q : Nat} (h : s.MemWf) : (s.endSwap ck q).MemWf := by
  unfold State.endSwap
  split
  · exact h
  · extract_lets s1 s2
    have h2 : s2.MemWf := by
      unfold s2
      split
      · exact h.modCore.enterActive
      · exact h
    split
    · exact h2.enterPending
    · exact h2

@[simp] theorem displace {ck q : Nat} (h : s.MemWf) : (s.displace ck q).MemWf := by
  unfold State.displace
  split
  · simp [h]
  · split <;> simp [h]

@[simp] theorem closeSlot {c : Crew} (h : s.MemWf) : (s.closeSlot c).MemWf := by simp [State.closeSlot, h]

@[simp] theorem takeOverrun {id : Nat} (h : s.MemWf) : (s.takeOverrun id).MemWf := by
  simp only [State.takeOverrun]
  split
  · exact h
  · exact ite h (ite h.quitRound.modCrew.closeSlot.deliver (ite h.quitRound.modCrew.deliver h.quitRound.modCrew.raiseTrap))

@[simp] theorem trapEntry {id : Nat} (h : s.MemWf) : (s.trapEntry id).MemWf := by
  unfold State.trapEntry
  split
  · simp [h]
  · split <;> simp [h]

@[simp] theorem takeImprecise {t : Nat} (h : s.MemWf) : (s.takeImprecise t).MemWf := by
  unfold State.takeImprecise
  split
  · exact h
  · split
    · exact h
    · split
      · exact h
      · exact ite h h.quitRound.modCrew.raiseTrap

/-! ### Zones and islands that are lost -/

@[simp] theorem isolate {i z : Nat} (h : s.MemWf) : (s.isolate i z).MemWf := by
  unfold State.isolate
  exact modIsl (foldl h fun _ _ h => h.release)

@[simp] theorem endIslandLaunches {i : Nat} (h : s.MemWf) : (s.endIslandLaunches i).MemWf := by
  unfold State.endIslandLaunches
  exact foldl h fun _ _ h => ite h.completeLaunch
    (ite (launchFinal (ite h.dropLease.modLaunch.launchCount h.dropLease.modLaunch)) h.dropLease.modLaunch.launchFinal)

@[simp] theorem islandDead {i : Nat} (h : s.MemWf) : (s.islandDead i).MemWf := by
  unfold State.islandDead
  split
  · exact h
  · extract_lets s1 gone rops s2
    have h2 : s2.MemWf := h.islandCut
    exact collsCut (endIslandLaunches (modIsl h2))

@[simp] theorem loseTeam {id : Nat} {t : Team} (h : s.MemWf) : (s.loseTeam id t).MemWf := by
  unfold State.loseTeam
  split <;> simp [h]

@[simp] theorem loseOne {e : Nat × Team} (h : s.MemWf) : (s.loseOne e).MemWf := by
  simp only [State.loseOne]
  split <;> simp [h]

@[simp] theorem failRestarts {i : Nat} (h : s.MemWf) : (s.failRestarts i).MemWf := by
  unfold State.failRestarts
  exact foldl h fun _ _ h => h.stopLaunch

@[simp] theorem loseZone {i z : Nat} (h : s.MemWf) : (s.loseZone i z).MemWf := by
  unfold State.loseZone
  exact ite h (failRestarts (foldl (foldl h fun _ _ h => h.modCore) fun _ _ h => h.loseOne))

@[simp] theorem reMirror {i z : Nat} (h : s.MemWf) : (s.reMirror i z).MemWf := by simp [State.reMirror, h]

@[simp] theorem addParts {t : Nat} {xs : List RoundPart} (h : s.MemWf) : (s.addParts t xs).MemWf := by
  induction xs generalizing s with
  | nil => exact h
  | cons x xs ih => simp [State.addParts, ih, h]

@[simp] theorem restartTeam {n g : Nat} {num : Nat} {r : Record} {ck : Nat} (h : s.MemWf) :
    (s.restartTeam n g num r ck).MemWf := by
  simp only [State.restartTeam]
  split
  · exact addCrews (modLaunch (modIsl (raiseGen (setTeam h.takeTag))))
  · exact addParts (modLaunch (modIsl (raiseGen (setTeam h.takeTag))))

@[simp] theorem restart {id : Nat} {cores : List Nat} (h : s.MemWf) : (s.restart id cores).MemWf := by
  unfold State.restart
  split
  · exact h
  · exact ite (setGang (foldl h fun _ _ h => h.restartTeam)) h

/-! ### Leases and conversions -/

@[simp] theorem loseStalled {n : Nat} (h : s.MemWf) : (s.loseStalled n).MemWf := by
  unfold State.loseStalled
  exact foldl h fun _ _ h => h.teamFatal

@[simp] theorem voidLease {k : Nat} (h : s.MemWf) : (s.voidLease k).MemWf := by
  simp only [State.voidLease]
  split
  · exact h
  · split
    · exact h
    · split
      · exact loseStalled (foldl h fun _ _ h => h.endConv)
      · exact foldl h fun _ _ h => h.endConv

@[simp] theorem voidLapsed (h : s.MemWf) : s.voidLapsed.MemWf := foldl h fun _ _ h => h.voidLease

@[simp] theorem setOffset {i : Nat} {d least : Int} (h : s.MemWf) : (s.setOffset i d least).MemWf := by
  unfold State.setOffset
  exact ite h.modIsl (modIsl (foldl h fun _ _ h => h.voidLease))

@[simp] theorem migrate {m : Migration} {go : Bool} (h : s.MemWf) : (s.migrate m go).MemWf := by
  simp only [State.migrate]
  split
  · exact h
  · split
    · cases hm : State.movePage s m.isl m.asid _ _ with
      | none => exact h.dropPage.homeWrite
      | some t => exact h.movePage hm
    · exact h.dropPage.homeWrite

@[simp] theorem homeGets {i : Nat} {xs : List Loc} (h : s.MemWf) : (s.homeGets i xs).1.MemWf := by
  induction xs generalizing s with
  | nil => exact h
  | cons x xs ih => simp [State.homeGets, ih, h]

@[simp] theorem putElem {i : Nat} {v : Conv} {ba w x : Nat} (h : s.MemWf) : (s.putElem i v ba w x).MemWf := by
  simp only [State.putElem]
  split
  · exact h
  · exact foldl h.homeGets fun _ _ h => h.homePut

@[simp] theorem moveElems {i : Nat} {v : Conv} {xs : List (List Nat)} (h : s.MemWf) : (s.moveElems i v xs).MemWf := by
  induction xs generalizing s with
  | nil => exact h
  | cons x xs ih =>
    simp only [State.moveElems]
    split
    · exact ih h
    · exact ih h.homeGets.putElem

@[simp] theorem mapEntry {i : Nat} {v : Conv} {t x : Nat} (h : s.MemWf) : (s.mapEntry i v t x).MemWf := by
  simp [State.mapEntry, h]

@[simp] theorem engineRelease {i : Nat} {v : Conv} {t : Nat} (h : s.MemWf) : (s.engineRelease i v t).MemWf := by
  unfold State.engineRelease
  split
  · simp [h]
  · split <;> simp [h]

@[simp] theorem cleanLine {i li : Nat} (h : s.MemWf) : (s.cleanLine i li).MemWf := foldl h fun _ _ h => h.writeBack

@[simp] theorem cleanLines {i : Nat} {v : Conv} {xs : List Nat} (h : s.MemWf) : (s.cleanLines i v xs).MemWf := by
  induction xs generalizing s with
  | nil => exact h
  | cons x xs ih =>
    refine ih ?_
    split
    · exact h
    · exact h.cleanLine

@[simp] theorem putHeld {i : Nat} {v : Conv} {w : HeldWrite} {e : Nat × Nat × Nat} (h : s.MemWf) :
    (s.putHeld i v w e).MemWf := by
  simp only [State.putHeld]
  split
  · exact h.ownBack.homeGets.elemHome
  · exact h.putElem

@[simp] theorem performHeld {i : Nat} {v : Conv} {xs : List HeldWrite} (h : s.MemWf) : (s.performHeld i v xs).MemWf := by
  induction xs generalizing s with
  | nil => exact h
  | cons x xs ih =>
    simp only [State.performHeld]
    exact ih (foldl h fun _ _ h => h.putHeld)

@[simp] theorem setConv {i : Nat} {v : Conv} (h : s.MemWf) : (s.setConv i v).MemWf := h

@[simp] theorem eligible {i : Nat} (h : s.MemWf) : (s.eligible i).MemWf := by
  unfold State.eligible
  exact foldl h fun _ _ h => setConv h

@[simp] theorem startTile {i : Nat} (h : s.MemWf) : (s.startTile i).MemWf := by
  simp only [State.startTile]
  split
  · exact h.eligible
  · exact ite h.eligible h.eligible.mapEntry.setConv

@[simp] theorem finishTile {i : Nat} {v : Conv} (h : s.MemWf) : (s.finishTile i v).MemWf := by
  unfold State.finishTile
  extract_lets cs old pages s1 s2 s3 u
  have h1 : s1.MemWf := foldl h.cleanLines fun _ _ h => h.fillTtlbBy
  have h3 : s3.MemWf := h1.moveElems.engineRelease.mapEntry.modIsl
  split
  · exact h3.endConv
  · refine ite ?_ ?_ <;> exact foldl h3.performHeld.setConv fun _ _ h => h.unhold

@[simp] theorem convert {i id : Nat} (h : s.MemWf) : (s.convert i id).MemWf := by
  simp only [State.convert]
  split
  · exact h.eligible
  · exact ite h.eligible (modIsl (startTile (ite h.eligible.finishTile h.eligible)))

/-! ### Service of cores and host writes -/

@[simp] theorem askGangs {ck was want : Nat} (h : s.MemWf) : (s.askGangs ck was want).MemWf := by
  unfold State.askGangs
  exact foldl h fun _ _ h => ite h.setGang h

@[simp] theorem startTest {ck : Nat} (h : s.MemWf) : (s.startTest ck).MemWf := by simp [State.startTest, h]

@[simp] theorem returnOwned {ck : Nat} (h : s.MemWf) : (s.returnOwned ck).MemWf := foldl h fun _ _ h => h.recallLine

theorem eachHolder {li : Nat} {g : State → Nat → State} (h : s.MemWf) (hg : ∀ s ck, s.MemWf → (g s ck).MemWf) :
    (s.eachHolder li g).MemWf :=
  foldl h hg

@[simp] theorem hostWriteRun {a : Nat} {bs : List Byte} (h : s.MemWf) : (s.hostWriteRun a bs).MemWf := by
  unfold State.hostWriteRun
  exact homeWrite (eachHolder h fun _ _ h => h.dropLine)

@[simp] theorem hostWriteRuns {bs : List Byte} {xs : List (Nat × Nat)} (h : s.MemWf) : (s.hostWriteRuns bs xs).MemWf := by
  induction xs generalizing s bs with
  | nil => exact h
  | cons x xs ih => exact ih h.hostWriteRun

@[simp] theorem noteDraw {r : PowerReading} (h : s.MemWf) : (s.noteDraw r).MemWf := h

@[simp] theorem stepZone {r : PowerReading} {hot : Bool} (h : s.MemWf) :
    (s.stepZone r hot).MemWf := by simp [State.stepZone, h]

end State.MemWf
/-! ### Effects of the words, and the frames they run in -/

/-- The state that an outcome leads to has canonical memory. -/
def NextMemWf : Host.Outcome State Fault Refusal → Prop
  | .next t => t.MemWf
  | _ => True

theorem Eff.MemWf.ite {c : Prop} [Decidable c] {x y : Eff} (hx : x.MemWf) (hy : y.MemWf) : (if c then x else y).MemWf := by
  split <;> assumption

theorem SeqEff.MemWf.ite {c : Prop} [Decidable c] {x y : SeqEff} (hx : x.MemWf) (hy : y.MemWf) :
    (if c then x else y).MemWf := by
  split <;> assumption

/-- A crew's word keeps memory canonical where its effect does. -/
theorem runCrew_memWf {i : Instr} {f : Form} {body : State → Nat → Crew → Eff} (h : s.MemWf)
    (hb : ∀ id c, (body s id c).MemWf) : NextMemWf (runCrew i f s body) := by
  unfold runCrew
  split
  · trivial
  · split
    · exact Eff.MemWf.finish (e := .trap _) trivial h
    · exact (hb _ _).finish h

theorem runLocal_memWf {i : Instr} {f : Form} {g : Crew → Crew} (h : s.MemWf) : NextMemWf (runLocal i f s g) :=
  runCrew_memWf h fun _ _ => h

/-- A sequencer's word keeps memory canonical where its effect does. -/
theorem runSeq_memWf {f : Form} {body : State → Nat → Bool → Sequencer → SeqEff} (h : s.MemWf)
    (hb : ∀ ck cp q, (body s ck cp q).MemWf) : NextMemWf (runSeq f s body) := by
  unfold runSeq
  split
  · exact (hb _ _ _).finish h
  · trivial

theorem runEither_memWf {i : Instr} {f : Form} {crew : State → Nat → Crew → Eff}
    {seq : State → Nat → Bool → Sequencer → SeqEff} (h : s.MemWf) (hc : ∀ id c, (crew s id c).MemWf)
    (hs : ∀ ck cp q, (seq s ck cp q).MemWf) : NextMemWf (runEither i f s crew seq) := by
  unfold runEither
  split
  · exact runSeq_memWf h hs
  · exact runCrew_memWf h hc

theorem runCommand_memWf {f : Fn} {act : State → Option Nat → State} (h : s.MemWf) (ha : ∀ k, (act s k).MemWf) :
    NextMemWf (runCommand f s act) :=
  State.MemWf.ite (ha _) h

theorem runQueue_memWf {f : Fn} {q : Nat} {act : State → State} (h : s.MemWf) (ha : (act s).MemWf) :
    NextMemWf (runQueue f q s act) :=
  State.MemWf.ite ha h

theorem runPort_memWf {act : State → State} (h : s.MemWf) (ha : (act s).MemWf) : NextMemWf (runPort s act) :=
  State.MemWf.ite h ha

theorem runSpdm_memWf {port : Nat} {act : State → Spdm → Spdm × Nat} (h : s.MemWf) : NextMemWf (runSpdm port s act) :=
  State.MemWf.ite h h

theorem spdmAnswer_memWf {port : Nat} {answer : List DWord} (h : s.MemWf) : NextMemWf (spdmAnswer port s answer) :=
  runSpdm_memWf h

theorem transferEff_memWf {id : Nat} {c : Crew} {target : DWord} {g : Crew → Crew} (h : s.MemWf) :
    (transferEff s id c target g).MemWf := by
  unfold transferEff
  split
  · trivial
  · exact h.setCrew

/-! ### Words of control -/

theorem execNop_memWf {f : Form} (h : s.MemWf) : NextMemWf (execNop f s) := by
  unfold execNop
  split
  · exact h
  · exact runLocal_memWf h

theorem execClauseHeader_memWf {x : Header} (h : s.MemWf) : NextMemWf (execClauseHeader x s) := by
  unfold execClauseHeader
  split
  · exact h
  · split
    · exact State.MemWf.ite h.setCrew.stallCrew h.setCrew
    · trivial

theorem execBrc_memWf {f : Form} (h : s.MemWf) : NextMemWf (execBrc f s) :=
  runCrew_memWf h fun _ _ => .ite (transferEff_memWf h) h

theorem execLoop_memWf {f : Form} (h : s.MemWf) : NextMemWf (execLoop f s) :=
  runCrew_memWf h fun _ _ => .ite (transferEff_memWf h) h.setCrew

theorem execExit_memWf {f : Form} (h : s.MemWf) : NextMemWf (execExit f s) :=
  runCrew_memWf h fun _ _ => h.setCrew.checkTrig.closeRound.tryFree

theorem execYield_memWf {f : Form} (h : s.MemWf) : NextMemWf (execYield f s) :=
  runCrew_memWf h fun _ _ => h.nextStamp.setCrew

theorem execWait_memWf {f : Form} (h : s.MemWf) : NextMemWf (execWait f s) :=
  runCrew_memWf h fun _ _ => .ite trivial h

/-! ### Loads, stores and words of the slab -/

theorem execLd_memWf {f : Form} (h : s.MemWf) : NextMemWf (execLd f s) := by
  refine runCrew_memWf h fun id c => ?_
  dsimp only
  split
  · trivial
  · exact .ite trivial h.fillTlbs.loadLanes.lateLanes

theorem execSt_memWf {f : Form} (h : s.MemWf) : NextMemWf (execSt f s) := by
  refine runCrew_memWf h fun id c => ?_
  dsimp only
  split
  · trivial
  · exact .ite trivial h.takeOver.fillTlbs.storeLanes.lateNone

theorem execLdk_memWf {f : Form} (h : s.MemWf) : NextMemWf (execLdk f s) := by
  refine runCrew_memWf h fun id c => ?_
  dsimp only
  split
  · trivial
  · exact .ite trivial h.fillTlbs.l1Load.lateUniform

theorem execStk_memWf {f : Form} (h : s.MemWf) : NextMemWf (execStk f s) := by
  refine runCrew_memWf h fun id c => ?_
  dsimp only
  split
  · trivial
  · exact .ite trivial h.takeOver.fillTlbs.l1Store.lateNone

theorem execSld_memWf {f : Form} (h : s.MemWf) : NextMemWf (execSld f s) := by
  refine runCrew_memWf h fun id c => ?_
  dsimp only
  split
  · trivial
  · exact .ite trivial (State.MemWf.lateLanes h)

theorem execSst_memWf {f : Form} (h : s.MemWf) : NextMemWf (execSst f s) := by
  refine runCrew_memWf h fun id c => ?_
  dsimp only
  split
  · trivial
  · exact .ite trivial h.storeSlab.lateNone

theorem execVget_memWf {f : Form} (h : s.MemWf) : NextMemWf (execVget f s) := by
  refine runCrew_memWf h fun id c => ?_
  split
  · trivial
  · exact h.lateLanes

theorem execVput_memWf {f : Form} (h : s.MemWf) : NextMemWf (execVput f s) := by
  refine runCrew_memWf h fun id c => ?_
  split
  · trivial
  · exact .ite trivial h.setCrew.lateNone

theorem execSseg_memWf {f : Form} (h : s.MemWf) : NextMemWf (execSseg f s) := by
  refine runCrew_memWf h fun id c => ?_
  dsimp only
  split
  · trivial
  · exact .ite trivial h.fillTlbs.loadRuns.lateLanes

theorem runUnit_memWf {i : Instr} {f : Form} {op : Nat → Nat → Nat × FFlags} (h : s.MemWf) :
    NextMemWf (runUnit i f s op) :=
  runCrew_memWf h fun _ _ => h

/-! ### Words of the engines -/

theorem execFork_memWf {f : Form} (h : s.MemWf) : NextMemWf (execFork f s) :=
  runCrew_memWf h fun _ _ =>
    .ite trivial (.ite trivial (.ite trivial (.ite trivial (.ite trivial (.ite trivial h.modCore.modTeam)))))

theorem execRdv_memWf {f : Form} (h : s.MemWf) : NextMemWf (execRdv f s) :=
  runCrew_memWf h fun _ _ => .ite trivial h

theorem execSeqEnd_memWf {f : Form} (h : s.MemWf) : NextMemWf (execSeqEnd f s) :=
  runSeq_memWf h fun _ _ _ => h.modSeq

theorem execSeqLoop_memWf {f : Form} (h : s.MemWf) : NextMemWf (execSeqLoop f s) := by
  refine runSeq_memWf h fun ck cp q => .ite h.modSeq ?_
  dsimp only
  split
  · trivial
  · exact h.modSeq

theorem issueJob_memWf {ck : Nat} {q : Sequencer} {gate : Option (Nat × Nat)} {slabs : List (DWord × Nat × Nat)} {j : Job}
    {g : Sequencer → Sequencer} (h : s.MemWf) : (issueJob s ck q gate slabs j g).MemWf := by
  unfold issueJob
  refine .ite trivial ?_
  split
  · trivial
  · refine .ite trivial (State.MemWf.modSeq (State.MemWf.addJob ?_))
    split
    · exact h.acquireBar
    · exact h

theorem streamEff_memWf {f : Form} {complex : Bool} {ck : Nat} {q : Sequencer} (h : s.MemWf) :
    (streamEff f complex s ck q).MemWf :=
  .ite trivial (issueJob_memWf h)

theorem execLdw_memWf {f : Form} (h : s.MemWf) : NextMemWf (execLdw f s) :=
  runSeq_memWf h fun _ _ _ => .ite trivial (.ite (SeqEff.MemWf.finish (e := .fault _) trivial h.modCore) (issueJob_memWf h))

theorem execFlip_memWf {f : Form} (h : s.MemWf) : NextMemWf (execFlip f s) :=
  runSeq_memWf h fun _ _ _ => .ite trivial h.modCore

theorem execAclr_memWf {f : Form} (h : s.MemWf) : NextMemWf (execAclr f s) :=
  runCrew_memWf h fun _ _ => .ite trivial (.ite trivial (.ite trivial h.modCore))

theorem execAmov_memWf {f : Form} (h : s.MemWf) : NextMemWf (execAmov f s) :=
  runSeq_memWf h fun _ _ _ => .ite trivial (issueJob_memWf h)

theorem execQnt_memWf {f : Form} (h : s.MemWf) : NextMemWf (execQnt f s) :=
  runSeq_memWf h fun _ _ _ => .ite trivial (issueJob_memWf h)

theorem crewCopy_memWf {kind : JobKind} {f : Form} {id : Nat} {c : Crew} (h : s.MemWf) :
    (crewCopy kind f s id c).MemWf := by
  unfold crewCopy
  extract_lets a card j blank op s1
  have h1 : s1.MemWf := h.addJob.modCrew
  clear_value card s1
  refine Eff.MemWf.ite trivial ?_
  split
  · trivial
  · trivial
  · exact Eff.MemWf.ite trivial (Eff.MemWf.ite trivial h1)

theorem seqCopy_memWf {kind : JobKind} {f : Form} {ck : Nat} {cp : Bool} {q : Sequencer} (h : s.MemWf) :
    (seqCopy kind f s ck cp q).MemWf := by
  unfold seqCopy
  extract_lets t a org x card j y s0
  have h0 : s0.MemWf := by
    dsimp only [s0]
    split
    · exact h.acquireBar
    · exact h
  clear_value card s0
  refine SeqEff.MemWf.ite trivial ?_
  split
  · trivial
  · trivial
  · exact SeqEff.MemWf.ite trivial (SeqEff.MemWf.ite trivial h0.addJob.modSeq)

/-! ### Barriers, synchronisation and fences -/

theorem execBarInit_memWf {f : Form} (h : s.MemWf) : NextMemWf (execBarInit f s) := by
  refine runCrew_memWf h fun id c => ?_
  split
  · trivial
  · exact h.setBar

theorem seqArrive_memWf {f : Form} {ck : Nat} {cp : Bool} {q : Sequencer} (h : s.MemWf) :
    (seqArrive f s ck cp q).MemWf := by
  unfold seqArrive
  dsimp only
  split
  · trivial
  · exact .ite (.ite trivial h.arrive) h.modCore

theorem execBarArr_memWf {f : Form} (h : s.MemWf) : NextMemWf (execBarArr f s) := by
  refine runEither_memWf h (fun id c => ?_) fun _ _ _ => seqArrive_memWf h
  split
  · trivial
  · exact .ite trivial h.arrive

theorem execBarArrx_memWf {f : Form} (h : s.MemWf) : NextMemWf (execBarArrx f s) := by
  refine runCrew_memWf h fun id c => ?_
  split
  · trivial
  · refine .ite trivial ?_
    split
    · trivial
    · exact .ite trivial h.arrive

theorem execBarWait_memWf {f : Form} (h : s.MemWf) : NextMemWf (execBarWait f s) :=
  runCrew_memWf h fun _ _ => .ite trivial (.ite trivial h.acquireBar)

theorem execLda_memWf {f : Form} (h : s.MemWf) : NextMemWf (execLda f s) := by
  refine runCrew_memWf h fun id c => ?_
  dsimp only
  split
  · trivial
  · exact .ite trivial h.fillTlbs.syncLoads.acquireEnd.modCrew.lateLanes

theorem execStl_memWf {f : Form} (h : s.MemWf) : NextMemWf (execStl f s) := by
  refine runCrew_memWf h fun id c => ?_
  dsimp only
  split
  · trivial
  · exact .ite trivial (.ite trivial h.fillTlbs.releaseStart.syncStores.releaseLines.modCrew.issueOp)

theorem atomEff_memWf {f : Form} {result : Bool} {op : Nat → Nat → Nat} {id : Nat} {c : Crew} (h : s.MemWf) :
    (atomEff f result op s id c).MemWf := by
  unfold atomEff
  extract_lets n ea rel path s0
  have h0 : s0.MemWf := h.fillTlbs
  split
  · trivial
  refine .ite trivial (.ite trivial ?_)
  extract_lets scope lines
  split
  rename_i s1 m e1
  have h1 : s1.MemWf := State.MemWf.of_eq (.fst_ite h0.releaseStart h0) e1
  split
  rename_i s4 vs b e4
  have h4 : s4.MemWf := State.MemWf.of_eq h1.updates e4
  extract_lets s5 s6 s7
  have h7 : s7.MemWf := .modCrew (.ite (State.MemWf.acquireEnd (.ite h4.releaseLines h4)) (.ite h4.releaseLines h4))
  exact .ite h7.lateLanes h7.issueOp

theorem execFenceAcq_memWf {f : Form} (h : s.MemWf) : NextMemWf (execFenceAcq f s) :=
  runCrew_memWf h fun _ _ => .ite trivial (State.MemWf.modCrew (.ite h.raiseGen h.acquireRecords.acquireEnd))

theorem execFenceRel_memWf {f : Form} (h : s.MemWf) : NextMemWf (execFenceRel f s) :=
  runCrew_memWf h fun _ _ => .ite trivial h.setCrew

theorem execFenceSc_memWf {f : Form} (h : s.MemWf) : NextMemWf (execFenceSc f s) :=
  runCrew_memWf h fun _ _ => .ite trivial (.ite h h.eagerRelease.raiseGen)

/-! ### Words of the system -/

theorem execEret_memWf {f : Form} (h : s.MemWf) : NextMemWf (execEret f s) := by
  refine runCrew_memWf h fun id c => .ite trivial (.ite trivial ?_)
  split
  · exact h.nextQueued
  · dsimp only
    split
    · trivial
    · exact h.flushRun.setCrew.raiseTrap
    · exact h.flushRun.setCrew

theorem execNpsBegin_memWf {f : Form} (h : s.MemWf) : NextMemWf (execNpsBegin f s) :=
  runCrew_memWf h fun _ _ => .ite trivial h.setCrew

theorem execNpsEnd_memWf {f : Form} (h : s.MemWf) : NextMemWf (execNpsEnd f s) :=
  runCrew_memWf h fun _ _ => .ite trivial h.setCrew

theorem execRound_memWf {f : Form} (h : s.MemWf) : NextMemWf (execRound f s) := by
  refine runCrew_memWf h fun id c => .ite trivial ?_
  split
  · trivial
  · trivial
  · exact .ite trivial (.ite trivial (.ite trivial h.setCrew.stallAs.modTeam.closeRound))

theorem execTrig_memWf {f : Form} (h : s.MemWf) : NextMemWf (execTrig f s) :=
  runCrew_memWf h fun _ _ => .ite h h.setCrew.settleTrig

theorem execSpawn_memWf {f : Form} (h : s.MemWf) : NextMemWf (execSpawn f s) := by
  refine runCrew_memWf h fun id c => ?_
  dsimp only
  split
  · trivial
  · split
    · exact h.setCrew
    · exact State.MemWf.dealCrew h

theorem execSrd_memWf {f : Form} (h : s.MemWf) : NextMemWf (execSrd f s) := by
  refine runCrew_memWf h fun id c => .ite (.ite trivial h.trapVal.modCrew) ?_
  split
  · exact h.setCrew
  · trivial

theorem execSwr_memWf {f : Form} (h : s.MemWf) : NextMemWf (execSwr f s) := by
  refine runCrew_memWf h fun id c =>
    .ite h.setCrew (.ite (.ite trivial (.ite h.slotStore (.ite h.slotLoad.slotStore trivial))) ?_)
  split <;> trivial

theorem execGtime_memWf {f : Form} (h : s.MemWf) : NextMemWf (execGtime f s) :=
  runCrew_memWf h fun _ _ => .ite trivial h.setCrew.lateUniform

/-! ### Tensor words -/

theorem execThd_memWf {f : Form} (h : s.MemWf) : NextMemWf (execThd f s) :=
  runCrew_memWf h fun _ _ => .ite trivial (.ite trivial (.ite trivial h.tnSet))

theorem execThl_memWf {f : Form} (h : s.MemWf) : NextMemWf (execThl f s) := by
  refine runCrew_memWf h fun id c => .ite trivial ?_
  split
  · trivial
  · exact .ite trivial h.fillTlbs.l1Load.lateHandle

theorem execThs_memWf {f : Form} (h : s.MemWf) : NextMemWf (execThs f s) := by
  refine runCrew_memWf h fun id c => ?_
  split
  · trivial
  · exact .ite trivial h.fillTlbs.l1Store.lateNone

theorem execTld_memWf {f : Form} (h : s.MemWf) : NextMemWf (execTld f s) := by
  refine runCrew_memWf h fun id c => ?_
  dsimp only
  split
  · trivial
  · split
    · trivial
    · exact .ite trivial h.fillTtlbs.tldLanes.lateElems

theorem execTst_memWf {f : Form} (h : s.MemWf) : NextMemWf (execTst f s) := by
  refine runCrew_memWf h fun id c => ?_
  dsimp only
  split
  · trivial
  · split
    · trivial
    · exact .ite trivial h.takeOver.fillTtlbs.tstLanes.holdWrites.lateHandle

theorem execRelay_memWf {f : Form} (h : s.MemWf) : NextMemWf (execRelay f s) :=
  runCrew_memWf h fun _ _ => .ite trivial (.ite trivial (.ite trivial (State.MemWf.modIsl (State.MemWf.tnSet h))))

theorem execThq_memWf {f : Form} (h : s.MemWf) : NextMemWf (execThq f s) :=
  runCrew_memWf h fun _ _ => .ite trivial h.lateUniform

theorem execThw_memWf {f : Form} (h : s.MemWf) : NextMemWf (execThw f s) :=
  runCrew_memWf h fun _ _ => .ite h (.ite h.tnSet.raiseGen trivial)

theorem execThpf_memWf {f : Form} (h : s.MemWf) : NextMemWf (execThpf f s) :=
  runCrew_memWf h fun _ _ => State.MemWf.ite h.thpfLanes h

/-! ### Remote words -/

theorem State.MemWf.localRead {c : Crew} {slab : Bool} {a : DWord} {n : Nat} {t : State} {bs : List Byte} (h : s.MemWf)
    (ht : s.localRead c slab a n = .ok (t, bs)) : t.MemWf := by
  unfold State.localRead at ht
  split at ht
  · split at ht
    · cases ht
      exact h
    · cases ht
  · split at ht
    · cases ht
    · exact of_eq h.loadPieces (Except.ok.inj ht)

theorem putEff_memWf {f : Form} {len : Nat} {js : List Nat} {id : Nat} {c : Crew} (h : s.MemWf) :
    (putEff f len js s id c).MemWf := by
  unfold putEff
  dsimp only
  split
  · trivial
  · rename_i ht
    exact .ite trivial (h.localRead ht).post

theorem ratmEff_memWf {f : Form} {cas : Bool} {c1 c2 : DWord} {id : Nat} {c : Crew} (h : s.MemWf) :
    (ratmEff f cas c1 c2 s id c).MemWf := by
  unfold ratmEff
  dsimp only
  split
  · trivial
  · exact .ite trivial h.ask

theorem execPut_memWf {f : Form} (h : s.MemWf) : NextMemWf (execPut f s) := by
  refine runCrew_memWf h fun id c => ?_
  dsimp only
  split
  · trivial
  · exact putEff_memWf h

theorem execMput_memWf {f : Form} (h : s.MemWf) : NextMemWf (execMput f s) := by
  refine runCrew_memWf h fun id c => .ite trivial ?_
  split
  · trivial
  · exact .ite trivial (putEff_memWf h)

theorem execGet_memWf {f : Form} (h : s.MemWf) : NextMemWf (execGet f s) := by
  refine runCrew_memWf h fun id c => ?_
  dsimp only
  split
  · trivial
  · split
    · trivial
    · exact .ite trivial h.ask

theorem execNtf_memWf {f : Form} (h : s.MemWf) : NextMemWf (execNtf f s) := by
  refine runCrew_memWf h fun id c => ?_
  dsimp only
  split
  · trivial
  · exact .ite trivial h.post

theorem execFlushp_memWf {f : Form} (h : s.MemWf) : NextMemWf (execFlushp f s) :=
  runCrew_memWf h fun _ _ => .ite trivial h

theorem execCwait_memWf {f : Form} (h : s.MemWf) : NextMemWf (execCwait f s) :=
  runCrew_memWf h fun _ _ =>
    .ite trivial (.ite h.raiseGen (.ite trivial (.ite h.raiseGen h.modCrew.stallCrew)))

theorem execColl_memWf {f : Form} (h : s.MemWf) : NextMemWf (execColl f s) := by
  refine runCrew_memWf h fun id c => .ite trivial ?_
  split
  · trivial
  · refine .ite trivial ?_
    split
    · trivial
    · exact .ite trivial (.ite trivial (.ite trivial (.ite trivial h.loadPieces.loadPieces.openRop.lateUniform.collJoin)))

theorem execRfenceRel_memWf {f : Form} (h : s.MemWf) : NextMemWf (execRfenceRel f s) :=
  runCrew_memWf h fun _ _ => .ite trivial h.eagerRelease

theorem execRfenceAcq_memWf {f : Form} (h : s.MemWf) : NextMemWf (execRfenceAcq f s) :=
  runCrew_memWf h fun _ _ => .ite trivial h.raiseGen

/-! ### Events of crews, cores and jobs -/

theorem execSequencerFetch_memWf {core : Nat} {copy : Bool} (h : s.MemWf) : NextMemWf (execSequencerFetch core copy s) :=
  State.MemWf.ite h h

theorem execSeqEndCompletes_memWf {core : Nat} {copy : Bool} (h : s.MemWf) : NextMemWf (execSeqEndCompletes core copy s) :=
  State.MemWf.ite h.modSeq h

theorem execJobStart_memWf {core job : Nat} (h : s.MemWf) : NextMemWf (execJobStart core job s) := by
  dsimp only [execJobStart, NextMemWf]
  split
  · exact .ite h.startJob h
  · exact h

theorem execJobCompletion_memWf {core job : Nat} (h : s.MemWf) : NextMemWf (execJobCompletion core job s) := by
  dsimp only [execJobCompletion, NextMemWf]
  split
  · exact .ite h.finishJob h
  · exact h

theorem execCpymBeat_memWf {core job window k : Nat} (h : s.MemWf) : NextMemWf (execCpymBeat core job window k s) := by
  dsimp only [execCpymBeat, NextMemWf]
  split
  · split
    · exact h.beat
    · exact h
  · exact h

theorem execPowerGating_memWf {core : Nat} (h : s.MemWf) : NextMemWf (execPowerGating core s) :=
  State.MemWf.ite h.returnOwned.eagerRelease.modCore h

theorem execRovingTestDue_memWf {core : Nat} (h : s.MemWf) : NextMemWf (execRovingTestDue core s) :=
  State.MemWf.ite h (State.MemWf.ite h h.modCore.askGangs).startTest

theorem execTestOverdue_memWf {core : Nat} (h : s.MemWf) : NextMemWf (execTestOverdue core s) := by
  dsimp only [execTestOverdue, NextMemWf]
  split
  · exact h
  · exact .ite h.modCore.modIsl.askGangs h

theorem execTestComplete_memWf {core : Nat} {pass full : Bool} (h : s.MemWf) :
    NextMemWf (execTestComplete core pass full s) :=
  State.MemWf.ite h h.setCore.modIsl

theorem execCoreReturn_memWf {core : Nat} (h : s.MemWf) : NextMemWf (execCoreReturn core s) :=
  State.MemWf.ite h.setCore.modIsl h

theorem execCoreWake_memWf {core : Nat} (h : s.MemWf) : NextMemWf (execCoreWake core s) :=
  State.MemWf.ite h.modCore h

theorem execRegulatorFailure_memWf {isl group : Nat} (h : s.MemWf) : NextMemWf (execRegulatorFailure isl group s) :=
  State.MemWf.ite h (.ite (.ite h h.isolate) (.ite (.ite h.modIsl.islandDead h.modIsl) h))

theorem execRegulatorMeasurement_memWf {m : Measurement} (h : s.MemWf) : NextMemWf (execRegulatorMeasurement m s) :=
  State.MemWf.foldl h fun _ _ h => h.stepZone

/-! ### Events of leases, links and the host -/

theorem execLeaseRenewal_memWf {lease : Nat} (h : s.MemWf) : NextMemWf (execLeaseRenewal lease s) := by
  dsimp only [execLeaseRenewal, NextMemWf]
  split
  · exact h
  · exact .ite h (.ite h.voidLease h)

theorem execLeaseVoid_memWf {lease : Nat} (h : s.MemWf) : NextMemWf (execLeaseVoid lease s) := by
  dsimp only [execLeaseVoid, NextMemWf]
  split
  · exact h
  · exact .ite h.voidLease h

theorem execTimeBroadcast_memWf {elapsed : Nat} {offsets : List (Nat × Int)} (h : s.MemWf) :
    NextMemWf (execTimeBroadcast elapsed offsets s) :=
  State.MemWf.voidLapsed (State.MemWf.foldl h fun _ _ h => h.setOffset)

theorem execMigrationRequest_memWf {lease unit : Nat} (h : s.MemWf) : NextMemWf (execMigrationRequest lease unit s) := by
  dsimp only [execMigrationRequest, NextMemWf]
  split
  · exact .ite h h
  · exact h

theorem execMigrationProceeds_memWf {lease unit : Nat} (h : s.MemWf) : NextMemWf (execMigrationProceeds lease unit s) := by
  dsimp only [execMigrationProceeds, NextMemWf]
  split
  · exact h
  · exact .ite h (State.MemWf.foldl h fun _ _ h => h.voidLease).migrate

theorem execPacketArrival_memWf {a : Arrival} (h : s.MemWf) : NextMemWf (execPacketArrival a s) := by
  cases a with
  | here p => exact State.MemWf.ite h h.packetArrives
  | atom p at8 => exact State.MemWf.ite h h.atomArrives
  | far p v bs r => exact State.MemWf.ite h h.farAnswers
  | sent p i t f o w => exact h.sendIn

theorem execCollectiveCombine_memWf {x : Combining} (h : s.MemWf) : NextMemWf (execCollectiveCombine x s) := by
  cases x with
  | step coll first second => exact h.collCombine
  | joins panel isl fn card bytes => exact h.collFar

theorem execLinkDeclaredDead_memWf {isl port : Nat} (h : s.MemWf) : NextMemWf (execLinkDeclaredDead isl port s) :=
  State.MemWf.ite (State.MemWf.foldl h.linkDead.collsCut fun _ _ h => h.islandDead) h

theorem execPlaneDead_memWf {plane panelA islA panelB islB : Nat} (h : s.MemWf) :
    NextMemWf (execPlaneDead plane panelA islA panelB islB s) :=
  State.MemWf.ite h.planeCut.collsPlane h

theorem execRegisterWrite_memWf {file : RegFile} {offset : Nat} {value : DWord} (h : s.MemWf) :
    NextMemWf (execRegisterWrite file offset value s) := by
  cases file with
  | bar0 fn =>
    unfold execRegisterWrite
    exact runQueue_memWf h h.writeBar0
  | bar4 port pf => exact runPort_memWf h (.ite h.writeBar4 h)
  | masks fn => exact runQueue_memWf h (.ite h.maskVector h)
  | masksPf port => exact runPort_memWf h (.ite h h)

/-! ### Every instruction -/

/-- No word and no event leaves memory in another than its canonical form. -/
theorem exec_memWf (i : Instr) (h : s.MemWf) : NextMemWf (exec i s) := by
  cases i <;> dsimp only [exec]
  case add f | sub f | mul f | mulh f | mad f | abs f | min f | max f | and f | or f | xor f | not f | shl f | shr f | sra f
  | rotl f | clz f | popc f | brev f | bfe f | bfi f | mov f | lea f | sel f | cmp f | fadd f | fsub f | fmul f | ffma f
  | fmin f | fmax f | frnd f | fsqrt f | fscl f | fxtr f | fcls f | cvt f | fcmp f | fneg f | fabs f | fclamp f | hadd2 f
  | hsub2 f | hmul2 f | hmin2 f | hmax2 f | acs2 f | hfma2 f | bfma2 f | hcmp2 f | perm f | voteAny f | voteAll f
  | voteBallot f | lred f | lscan f | mspl f | mskIf f | mskIfM f | mskElse f | mskEnd f | mand f | mor f | mxor f | mnot f
  | mcnt f | mmovMask f | mmovFromUniform f | mmovToUniform f | scmp f | sfnd f | shash f | hmix f | part f =>
    exact runLocal_memWf h
  case fexpf f | flog2 f | frcp f | frsq f => exact runUnit_memWf h
  case nop f => exact execNop_memWf h
  case clauseHeader x => exact execClauseHeader_memWf h
  case bra f | bri f | call f | callI f | ret f => exact runCrew_memWf h fun _ _ => transferEff_memWf h
  case brc f => exact execBrc_memWf h
  case loop f => exact execLoop_memWf h
  case exit f => exact execExit_memWf h
  case yield f => exact execYield_memWf h
  case wait f => exact execWait_memWf h
  case ld f => exact execLd_memWf h
  case st f => exact execSt_memWf h
  case ldk f => exact execLdk_memWf h
  case stk f => exact execStk_memWf h
  case sld f => exact execSld_memWf h
  case sst f => exact execSst_memWf h
  case pref f => exact runCrew_memWf h fun _ _ => h.prefLanes
  case vget f => exact execVget_memWf h
  case vput f => exact execVput_memWf h
  case sseg f => exact execSseg_memWf h
  case fork f => exact execFork_memWf h
  case rdv f => exact execRdv_memWf h
  case seqEnd f => exact execSeqEnd_memWf h
  case seqLoop f => exact execSeqLoop_memWf h
  case ldw f => exact execLdw_memWf h
  case flip f => exact execFlip_memWf h
  case mma f | mmaC f => exact runSeq_memWf h fun _ _ _ => streamEff_memWf h
  case aclr f => exact execAclr_memWf h
  case amov f => exact execAmov_memWf h
  case qnt f => exact execQnt_memWf h
  case cpy f | cpyx f | cpym f => exact runEither_memWf h (fun _ _ => crewCopy_memWf h) fun _ _ _ => seqCopy_memWf h
  case barInit f => exact execBarInit_memWf h
  case barArr f => exact execBarArr_memWf h
  case barArrx f => exact execBarArrx_memWf h
  case barWait f => exact execBarWait_memWf h
  case barTest f => exact runCrew_memWf h fun _ _ => h.setCrew
  case lda f => exact execLda_memWf h
  case stl f => exact execStl_memWf h
  case atom f | atomCas f => exact runCrew_memWf h fun _ _ => atomEff_memWf h
  case fenceAcq f => exact execFenceAcq_memWf h
  case fenceRel f => exact execFenceRel_memWf h
  case fenceSc f => exact execFenceSc_memWf h
  case trap f | sys f => exact runCrew_memWf h fun _ _ => trivial
  case eret f => exact execEret_memWf h
  case npsBegin f => exact execNpsBegin_memWf h
  case npsEnd f => exact execNpsEnd_memWf h
  case round f => exact execRound_memWf h
  case trig f => exact execTrig_memWf h
  case spawn f => exact execSpawn_memWf h
  case srd f => exact execSrd_memWf h
  case swr f => exact execSwr_memWf h
  case gtime f => exact execGtime_memWf h
  case thd f => exact execThd_memWf h
  case thl f => exact execThl_memWf h
  case ths f => exact execThs_memWf h
  case tld f => exact execTld_memWf h
  case tst f => exact execTst_memWf h
  case relay f => exact execRelay_memWf h
  case thq f => exact execThq_memWf h
  case thw f => exact execThw_memWf h
  case thpf f => exact execThpf_memWf h
  case put f => exact execPut_memWf h
  case mput f => exact execMput_memWf h
  case get f => exact execGet_memWf h
  case ratm f | ratmCas f => exact runCrew_memWf h fun _ _ => ratmEff_memWf h
  case ntf f => exact execNtf_memWf h
  case flushp f => exact execFlushp_memWf h
  case cwait f => exact execCwait_memWf h
  case coll f => exact execColl_memWf h
  case rfenceRel f => exact execRfenceRel_memWf h
  case rfenceAcq f => exact execRfenceAcq_memWf h
  case operationCompletes crew op => exact h.completeOp.tryFree
  case swapStart core quarter => exact h.startSwap
  case swapEnds core quarter => exact h.endSwap
  case displacement core quarter => exact h.displace
  case sequencerFetch core copy => exact execSequencerFetch_memWf h
  case seqEndCompletes core copy => exact execSeqEndCompletes_memWf h
  case jobStart core job => exact execJobStart_memWf h
  case jobCompletion core job => exact execJobCompletion_memWf h
  case cpymBeat core job window beat => exact execCpymBeat_memWf h
  case arrivalApplied arrival => exact h.applyArrival
  case producerContextFreed crew => exact h.tryFree
  case teamEnd team => exact h.endTeam
  case gangPlacement launch gang cores => exact h.placeGang
  case launchCompletion launch => exact h.completeLaunch.finishStop
  case sectionOverrun crew => exact h.takeOverrun
  case trapEntry crew => exact h.trapEntry
  case impreciseDelivery team => exact h.takeImprecise
  case surrender core seq => exact h.writeBackAll
  case eviction core line => exact h.dropLine
  case powerGating core => exact execPowerGating_memWf h
  case hostSnoop addr => exact h.eachHolder fun _ _ h => h.writeBack
  case hostWriteInvalidate addr bytes => exact h.hostWriteRuns
  case preemption launch gang => exact h.preempt
  case resumption launch gang cores => exact h.resumeGang
  case regulatorFailure isl group => exact execRegulatorFailure_memWf h
  case zoneLoss isl zone => exact h.loseZone
  case roundCommit team => exact h.roundStep
  case reMirror isl zone => exact h.reMirror
  case guardedRestart team cores => exact h.restart
  case rovingTestDue core => exact execRovingTestDue_memWf h
  case testOverdue core => exact execTestOverdue_memWf h
  case testComplete core pass full => exact execTestComplete_memWf h
  case coreReturn core => exact execCoreReturn_memWf h
  case staging launch => exact h.stage
  case leaseRenewal lease => exact execLeaseRenewal_memWf h
  case leaseVoid lease => exact execLeaseVoid_memWf h
  case timeBroadcast elapsed offsets => exact execTimeBroadcast_memWf h
  case migrationRequest lease unit => exact execMigrationRequest_memWf h
  case migrationProceeds lease unit => exact execMigrationProceeds_memWf h
  case tileConversion isl conversion => exact h.convert
  case packetArrival a => exact execPacketArrival_memWf h
  case acknowledgement packet => exact h.ackArrives
  case collectiveCombine x => exact execCollectiveCombine_memWf h
  case linkDeclaredDead isl port => exact execLinkDeclaredDead_memWf h
  case islandDeclaredDead isl => exact h.islandDead
  case planeDead plane panelA islA panelB islB => exact execPlaneDead_memWf h
  case holdMet launch => exact h.passHold
  case dependenceMet launch => exact h.meetDeps
  case launch c => exact runCommand_memWf h fun _ => h.cmdLaunch
  case graphRecord c => exact runCommand_memWf h fun _ => h.cmdRecord
  case graphReplay c => exact runCommand_memWf h fun _ => h.cmdReplay
  case replaySlotTaken replay => exact h.takeSlot
  case phaseOpen c | jobOpen c => exact runCommand_memWf h fun _ => h.cmdOpen
  case phaseClose c | jobClose c => exact runCommand_memWf h fun _ => h.cmdClose
  case cancel fn irq target => exact runCommand_memWf h fun _ => h.cmdCancel
  case counterAssign c => exact runCommand_memWf h fun _ => h.cmdAssign
  case counterRelease c => exact runCommand_memWf h fun _ => h.cmdRelease
  case remoteWindowLease c => exact runCommand_memWf h fun _ => h.cmdLease
  case leaseRelease c => exact runCommand_memWf h fun _ => h.cmdUnlease
  case handlerSet fn irq isl addr => exact runCommand_memWf h fun _ => h.cmdHandler
  case submissionTailDoorbell fn q tail => exact runQueue_memWf h h.tailDoorbell
  case completionHeadDoorbell fn q head => exact runQueue_memWf h h.headDoorbell
  case heldCompletionRecord fn q => exact runQueue_memWf h h.writeHeld
  case queueEnable fn q ctl | queueErrClear fn q ctl => exact runQueue_memWf h h.writeCtl
  case registerWrite file offset value => exact execRegisterWrite_memWf h
  case bar2Access fn offset store => exact runQueue_memWf h h.bar2
  case panelCapWrite watts => exact runPort_memWf h h.writeCap
  case vfWeightWrite fn weight => exact runPort_memWf h (.ite h.writeWeight h)
  case functionLevelReset fn => exact State.MemWf.ite h.functionReset h
  case panelReset => exact h.atReset.runBoot
  case getVersion port | getCapabilities port | negotiateAlgorithms port hash sign | challenge port nonce
  | getMeasurements port index => exact runSpdm_memWf h
  case getDigests port | getCertificate port => exact spdmAnswer_memWf h
  case regulatorMeasurement readings => exact execRegulatorMeasurement_memWf h
  case coreWake core => exact execCoreWake_memWf h

/-! ### The scheduler and the step -/

namespace State.MemWf

theorem stallExec {x : Exec} (h : s.MemWf) : (s.stallExec x).MemWf := by
  cases x with
  | crew id => exact h.stallCrew
  | seq ck cp => exact h

theorem fillFetch {ck : Nat} {l : Launch} {pc : DWord} (h : s.MemWf) : (s.fillFetch ck l pc).MemWf := by
  unfold State.fillFetch
  split
  · exact h.fillTlb
  · exact h

theorem fetched {x : Exec} (h : s.MemWf) : (s.fetched x).MemWf := by
  unfold State.fetched
  split
  · split
    · exact h
    · exact h.fillFetch
  · exact h.fillFetch

/-- The selected executor's step keeps the form: a stall, its word's run, or the trap of its fetch. -/
theorem runExec {x : Exec} (h : s.MemWf) : NextMemWf (runExec x s) := by
  unfold Machine.runExec
  split
  · exact h.stallExec
  · split
    · exact exec_memWf _ h.fetched
    · exact h.fetched.fetchTrap

theorem nextOf {o : Host.Outcome State Fault Refusal} (h : s.MemWf) (ho : NextMemWf o) : (nextOf s o).MemWf := by
  unfold Machine.nextOf
  split
  · exact ho
  · exact h

/-- The selection of an executor does not touch memory, and its step keeps the form. -/
theorem nextRun {x : Exec} (h : s.MemWf) : (Machine.nextOf s (Machine.runExec x { s with cur := some x })).MemWf :=
  h.nextOf (runExec h)

theorem setStall {s0 : State} {id : Nat} {st : Stall} {cw : Option (Nat × Word × Bool)} (h : s.MemWf) :
    (s0.setStall s id st cw).MemWf := by
  unfold State.setStall
  split
  · exact h
  · exact .ite h.setCrew (.ite h.setCrew.modCore h.setCrew)

theorem settleYields (h : s.MemWf) : s.settleYields.MemWf := h

theorem retest (h : s.MemWf) : s.retest.MemWf :=
  .foldl (State.MemWf.settleYields (.foldl h fun _ _ h => h.setStall)) fun _ _ h => h.eligible

/-- The first event that changes the state keeps the form, whichever it is. -/
theorem firstOf {t : State} (h : s.MemWf) : ∀ {es : List Instr}, s.firstOf es = some t → t.MemWf
  | e :: es, ht => by
    unfold State.firstOf at ht
    dsimp only at ht
    split at ht
    · exact h.firstOf ht
    · cases ht
      exact h.nextOf (exec_memWf e h)

theorem placeFor {fn : Nat} {t : State} (h : s.MemWf) (ht : s.placeFor fn = some t) : t.MemWf :=
  h.firstOf ht

/-- Credits are not memory: a placement keeps the form whatever credit it leaves. -/
theorem placeTurn {t : State} (h : s.MemWf) (ht : s.placeTurn = some t) : t.MemWf := by
  unfold State.placeTurn at ht
  dsimp only at ht
  split at ht
  · split at ht
    · cases ht
    · exact h.placeFor ht
  · split at ht
    · refine placeFor ?_ ht
      exact h
    · refine placeFor ?_ ht
      exact h

theorem swapTurn {t : State} (h : s.MemWf) (ht : s.swapTurn = some t) : t.MemWf :=
  h.firstOf ht

theorem countRun {ck q id : Nat} {other : Bool} (h : s.MemWf) : (s.countRun ck q id other).MemWf := by
  unfold State.countRun
  extract_lets s1
  have h1 : s1.MemWf := h
  split
  · exact h1
  · exact .ite h1.setCrew (.ite h1.setCrew h1.nextStamp.setCrew)

theorem issueBy {ck q id : Nat} (h : s.MemWf) : (s.issueBy ck q id).MemWf := by
  unfold State.issueBy
  extract_lets s1 other t
  have ht : t.MemWf := h.yieldOver.nextRun
  split
  · exact .ite ht.countRun ht
  · exact ht

theorem issueTurn (h : s.MemWf) : s.issueTurn.MemWf := by
  unfold State.issueTurn
  split
  · exact h
  · extract_lets ck s1
    have h1 : s1.MemWf := h
    refine .ite h1.nextRun ?_
    split
    · exact h1
    · exact h1.issueBy

theorem spawnTurn {t : State} (h : s.MemWf) (ht : s.spawnTurn = some t) : t.MemWf := by
  obtain ⟨e, -, rfl⟩ := Option.map_eq_some_iff.mp ht
  exact h.issueBy

theorem convDue {n : Nat} {t : State} (h : s.MemWf) (ht : s.convDue n = some t) : t.MemWf :=
  h.firstOf ht

theorem ageConvs (h : s.MemWf) : s.ageConvs.MemWf := h

/-- A state that may be replaced by one that keeps the form. -/
theorem getD {o : Option State} (h : s.MemWf) (ho : ∀ t, o = some t → t.MemWf) : (o.getD s).MemWf := by
  cases o with
  | none => exact h
  | some t => exact ho t rfl

theorem issueOrConvert (h : s.MemWf) : s.issueOrConvert.MemWf := by
  unfold State.issueOrConvert
  split
  · next ht => exact h.convDue ht
  · exact .ite (h.getD fun _ => h.convDue) h.issueTurn.ageConvs

theorem wordStep (h : s.MemWf) : s.wordStep.MemWf :=
  h.retest.issueOrConvert.getD fun _ => h.retest.swapTurn

theorem scripted {e : Instr} (h : s.MemWf) : NextMemWf (s.scripted e) := by
  unfold State.scripted
  split
  · exact h.wordStep
  · exact exec_memWf e h.retest

theorem proceed (h : s.MemWf) : s.proceed.MemWf := by
  unfold State.proceed
  refine .ite (h.nextOf (exec_memWf _ h)) ?_
  extract_lets s1
  have h1 : s1.MemWf := h.retest
  split
  · next ht => exact h1.firstOf ht
  · refine .ite h1.takeCommand ?_
    split
    · next ht =>
      refine getD (h1.placeTurn ht) fun u hu => ?_
      obtain ⟨v, hv, rfl⟩ := Option.map_eq_some_iff.mp hu
      exact (h1.spawnTurn hv).getD fun _ => h1.swapTurn
    · split
      · next ht => exact h1.swapTurn ht
      · exact h1.issueOrConvert

end State.MemWf

/-- A step runs the selected executor, takes an entry of the script, or lets the panel go on. -/
theorem step_memWf (h : s.MemWf) : NextMemWf (step s) := by
  unfold step
  split
  · exact h.runExec
  · split
    · exact State.MemWf.scripted (s := { s with script := _ }) h
    · exact h.proceed

/-- Settles O58: each operation of the state keeps the form of memory, so each word, event and turn of the scheduler does. -/
theorem memoryStaysCanonical : Obligations.MemoryStaysCanonical := by
  unfold Obligations.MemoryStaysCanonical
  intro s t h hs
  have hn := step_memWf h
  rw [hs] at hn
  exact hn

end Sys2Proof.Machine
end

section
/-! PROOF. The machine after reset (O60): an island, a queue, a weight or a core that nothing has written reads at its start value. -/

namespace Sys2Proof.Machine
open Sys2Proof

@[simp] theorem pget_nil {β : Type} (d : β) (k : Nat) : pget d [] k = d := rfl

/-- A core that nothing has changed is fresh but for its service and its place in the live count, which the spare cores differ
in (R15, R408). -/
theorem State.core_of_cores_nil {s : State} (h : s.cores = []) (ck : Nat) :
    ∃ v n, s.core ck = { Core.fresh with service := v, counted := n } := by
  simp only [State.core, h, pfind_nil]
  split
  · exact ⟨.spare, false, rfl⟩
  · exact ⟨.live, true, rfl⟩

/-- Where no core has changed, no TLB holds a translation that could be malformed. -/
theorem pages_of_cores_nil {s : State} (h : s.cores = []) : Stated.Pages s := by
  intro ck e he
  obtain ⟨v, n, hc⟩ := State.core_of_cores_nil h ck
  simp [hc, Core.fresh] at he

theorem State.isl_reset (i : Nat) : State.reset.isl i = Island.fresh := pget_nil _ i

theorem State.queue_reset (k : Nat) : State.reset.queue k = Queue.reset := pget_nil _ k

theorem State.weight_reset (fn : Nat) : State.reset.weight fn = 16 :=
  congrArg BitVec.toNat (pget_nil 16 fn)

/-- Settles O60: the panel's own registers are those of the reset state; its islands, queues, weights and cores are unwritten. -/
theorem resetState : Obligations.ResetState := by
  unfold Obligations.ResetState
  refine ⟨rfl, rfl, rfl, rfl, rfl, rfl, rfl, rfl, fun i => ?_, State.queue_reset, State.weight_reset, fun ck => ?_, Memory.wf_nil,
    pages_of_cores_nil rfl⟩
  · rw [State.isl_reset]
    exact ⟨rfl, rfl, rfl⟩
  · obtain ⟨v, n, hc⟩ := State.core_of_cores_nil (s := State.reset) rfl ck
    rw [hc]
    exact ⟨rfl, rfl, rfl, rfl, rfl, rfl, rfl, rfl, rfl⟩

end Sys2Proof.Machine
end

section
/-! SUPPORT. The parts of the state that a number names, after an update: a core, an island, a team, a launch, a crew. -/

namespace Sys2Proof.Machine
variable {s : State}

@[simp] theorem State.core_setCrew (id : Nat) (c : Crew) (ck : Nat) : (s.setCrew id c).core ck = s.core ck := rfl
@[simp] theorem State.core_modCrew (id : Nat) (g : Crew → Crew) (ck : Nat) : (s.modCrew id g).core ck = s.core ck := rfl
@[simp] theorem State.core_modTeam (id : Nat) (g : Team → Team) (ck : Nat) : (s.modTeam id g).core ck = s.core ck := rfl
@[simp] theorem State.core_modIsl (i : Nat) (g : Island → Island) (ck : Nat) : (s.modIsl i g).core ck = s.core ck := rfl
@[simp] theorem State.core_issued (ck : Nat) : s.issued.core ck = s.core ck := rfl

@[simp] theorem State.isl_setCrew (id : Nat) (c : Crew) (i : Nat) : (s.setCrew id c).isl i = s.isl i := rfl
@[simp] theorem State.isl_setTeam (t : Nat) (x : Team) (i : Nat) : (s.setTeam t x).isl i = s.isl i := rfl
@[simp] theorem State.isl_modCore (ck : Nat) (g : Core → Core) (i : Nat) : (s.modCore ck g).isl i = s.isl i := rfl
@[simp] theorem State.isl_issued (i : Nat) : s.issued.isl i = s.isl i := rfl

@[simp] theorem State.team_setCrew (id : Nat) (c : Crew) (t : Nat) : (s.setCrew id c).team t = s.team t := rfl
@[simp] theorem State.team_modCrew (id : Nat) (g : Crew → Crew) (t : Nat) : (s.modCrew id g).team t = s.team t := rfl
@[simp] theorem State.team_modCore (ck : Nat) (g : Core → Core) (t : Nat) : (s.modCore ck g).team t = s.team t := rfl
@[simp] theorem State.team_modIsl (i : Nat) (g : Island → Island) (t : Nat) : (s.modIsl i g).team t = s.team t := rfl
@[simp] theorem State.team_issued (t : Nat) : s.issued.team t = s.team t := rfl

@[simp] theorem State.launchOf_setCrew (id : Nat) (c d : Crew) : (s.setCrew id c).launchOf d = s.launchOf d := rfl

@[simp] theorem State.core_modCore_same (ck : Nat) (g : Core → Core) : (s.modCore ck g).core ck = g (s.core ck) := by
  simp [State.modCore, State.setCore, State.core]

theorem State.core_modCore_other {ck k : Nat} (g : Core → Core) (h : k ≠ ck) : (s.modCore ck g).core k = s.core k := by
  simp [State.modCore, State.setCore, State.core, pfind_pput_other _ _ h]

@[simp] theorem State.isl_modIsl_same (i : Nat) (g : Island → Island) : (s.modIsl i g).isl i = g (s.isl i) := by
  simp [State.modIsl, State.setIsl, State.isl]

theorem State.isl_modIsl_other {i j : Nat} (g : Island → Island) (h : j ≠ i) : (s.modIsl i g).isl j = s.isl j := by
  simp [State.modIsl, State.setIsl, State.isl, pget_pput_other _ _ _ h]

@[simp] theorem State.team_setTeam_same (t : Nat) (x : Team) : (s.setTeam t x).team t = x := by
  simp [State.setTeam, State.team]

/-- A team that is there, after a change of it. -/
theorem State.team_modTeam_same {t : Nat} (g : Team → Team) (h : (pfind s.teams t).isSome = true) :
    (s.modTeam t g).team t = g (s.team t) := by
  obtain ⟨x, hx⟩ := Option.isSome_iff_exists.1 h
  simp [State.team, pget, pfind_pmod_same _ hx, hx]

@[simp] theorem State.pfind_setCrew_same (id : Nat) (c : Crew) : pfind (s.setCrew id c).crews id = some c := by
  simp

theorem State.pfind_setCrew_other {id x : Nat} (c : Crew) (h : x ≠ id) : pfind (s.setCrew id c).crews x = pfind s.crews x :=
  pfind_pput_other _ _ h

/-- A crew that is set and then changed has been set once. -/
theorem State.modCrew_setCrew (id : Nat) (c : Crew) (g : Crew → Crew) : (s.setCrew id c).modCrew id g = s.setCrew id (g c) := by
  simp [State.modCrew, State.setCrew, pmod, pput_pput]

@[simp] theorem State.setCrew_setCrew (id : Nat) (c d : Crew) : (s.setCrew id c).setCrew id d = s.setCrew id d := by
  simp [State.setCrew, pput_pput]

/-- Removing an entry that was just put leaves no trace of it. -/
theorem pdel_pput {β : Type} (m : PMap β) (k : Nat) (v : β) : pdel (pput m k v) k = pdel m k := by
  induction m with
  | nil => simp [pput, pdel]
  | cons e m ih =>
    obtain ⟨a, b⟩ := e
    simp only [pput]
    split
    · simp [pdel]
    · split
      · simp_all [pdel]
      · simp only [pdel, List.filter_cons] at ih ⊢
        rw [ih]

end Sys2Proof.Machine
end

section
/-! PROOF. Words written out (O10), and a word that the encoder does not give back (O11). -/

namespace Sys2Proof.Machine
open Sys2Proof Sys2Proof.Stated

/-- Settles O10: each word is decoded by evaluation. -/
theorem decodedWords : Obligations.DecodedWords := by
  unfold Obligations.DecodedWords
  exact ⟨rfl, rfl, rfl, rfl, rfl, rfl⟩

/-- A `ratm` whose extension bit 5 is set, the bit by which the one opcode tells `ratm.cas` from `ratm` (R344). -/
def ratmWithCasBit : Instr :=
  .ratm { Form.zero with len := .medium, x := 32, a := ⟨.k 0, .none⟩, b := ⟨.k 0, .none⟩, c := ⟨.k 0, .none⟩ }

/-- The field rules of `ratm` leave bit 5 of x to the opcode map. -/
theorem ratmWithCasBit_wellFormed : ratmWithCasBit.wellFormed .crew = true := by decide

/-- Its word is one of `ratm.cas`, which does not take the type. -/
theorem decodeWord_ratmWithCasBit : (encode ratmWithCasBit).map (decodeWord .crew) = some (.error (.reserved 12)) := rfl

/-- Refutes O11: `wellFormed` accepts `ratm` with x[5] set and `ratm.cas` with x[5] clear, which share their opcode and differ in
that bit alone, so that such a word decodes as the other one. -/
theorem not_decodeEncode : ¬ Obligations.DecodeEncode := by
  unfold Obligations.DecodeEncode
  intro h
  obtain ⟨w, hw, hd⟩ := h .crew ratmWithCasBit ratmWithCasBit_wellFormed
  have hr := decodeWord_ratmWithCasBit
  rw [hw, Option.map_some, hd] at hr
  simp at hr

end Sys2Proof.Machine
end

section
/-! PROOF. A step runs the word that it fetches (O9): what a fetch gives where a word stands, and what it leaves in the caches. -/

namespace Sys2Proof.Machine
open Sys2Proof Sys2Proof.Stated
variable {s : State}

/-- A word that decodes and fits its place in the clause passes the checks of R39. -/
theorem checkedDecode_ok {k : ExecKind} {left : Nat} {w : BitVec 128} {i : Instr} (hd : decodeWord k w = .ok i)
    (hh : (w.extractLsb' 0 2).toNat = 3 ↔ left = 0) (hc : isControl (opcOf w) = true → (w.extractLsb' 0 2).toNat = 3 ∨ left = 1) :
    checkedDecode k left w = .ok i := by
  by_cases h3 : (w.extractLsb' 0 2).toNat = 3
  · have hl := hh.1 h3
    simp [checkedDecode, h3, hl, hd]
  · have hl : left ≠ 0 := fun h => h3 (hh.2 h)
    have hlast : isControl (opcOf w) = true → left = 1 := fun h => (hc h).resolve_left h3
    simp only [checkedDecode, hd, beq_eq_false_iff_ne.2 h3]
    simpa [hl] using hlast

theorem State.fetchAt_of_wordAt {k : ExecKind} {ck : Nat} {l : Launch} {pc : DWord} {left : Nat} {i : Instr}
    (h : WordAt s k ck l pc left i) : s.fetchAt k ck l pc left = .ok i := by
  obtain ⟨p, q, hp, hblock, hq, hd, hh, hc⟩ := h
  simp only [State.fetchAt, hp]
  rw [if_neg (by omega), hq]
  exact checkedDecode_ok hd hh hc

/-- Nothing but what is cached of the page tables has changed (R304). -/
def TablesCached (s t : State) : Prop :=
  t = { s with cores := t.cores, isls := t.isls } ∧ (∀ ck, t.core ck = { s.core ck with tlb := (t.core ck).tlb }) ∧
    ∀ i, t.isl i = { s.isl i with upper := (t.isl i).upper }

theorem TablesCached.refl (s : State) : TablesCached s s := ⟨rfl, fun _ => rfl, fun _ => rfl⟩

theorem State.fillTlb_cached (s : State) (ck : Nat) (l : Launch) (va : Nat) : TablesCached s (s.fillTlb ck l va) := by
  unfold State.fillTlb
  split
  · exact .refl s
  · split
    · exact .refl s
    · refine ⟨rfl, fun k => ?_, fun i => ?_⟩
      · by_cases h : k = ck
        · subst h
          simp [State.fillUpper]
        · simp [State.core_modCore_other _ h, State.fillUpper]
      · by_cases h : i = l.isl
        · subst h
          simp [State.fillUpper]
        · simp [State.fillUpper, State.isl_modIsl_other _ h]

theorem State.fillFetch_cached (s : State) (ck : Nat) (l : Launch) (pc : DWord) : TablesCached s (s.fillFetch ck l pc) := by
  unfold State.fillFetch
  split
  · exact s.fillTlb_cached ck l pc.toNat
  · exact .refl s

theorem State.fetched_cached (s : State) (x : Exec) : TablesCached s (s.fetched x) := by
  cases x with
  | crew id =>
    simp only [State.fetched]
    split
    · exact .refl s
    · exact s.fillFetch_cached _ _ _
  | seq ck cp => exact s.fillFetch_cached _ _ _

/-- With no executor selected the next entry of the script is taken; one that no word encodes happens (assumption 1). -/
theorem step_scripted {e : Instr} {es : List Instr} (hc : s.cur = none) (hs : s.script = e :: es)
    (he : Instr.isWord e = false) : step s = exec e ({ s with script := es } : State).retest := by
  simp [step, hc, hs, State.scripted, he]

/-- Settles O9: by what the fetch gives (`fetchAt_of_wordAt`) and leaves (`fetched_cached`). -/
theorem stepRunsDecoded : Obligations.StepRunsDecoded := by
  unfold Obligations.StepRunsDecoded
  refine ⟨?_, ?_, fun s x => s.fetched_cached x, fun s e es => step_scripted⟩
  · intro s id c i ⟨hcur, hid⟩ hw hword
    refine step_runs hcur (by simp [State.clauseHolds, hid, hw]) ?_
    simpa only [State.fetch, hid] using State.fetchAt_of_wordAt hword
  · intro s ck cp i hcur hword
    exact step_runs hcur rfl (State.fetchAt_of_wordAt hword)

end Sys2Proof.Machine
end

section
/-! PROOF. What decodes is well formed (O12): the opcode map both ways, the reserved bits of a field, and the fields that fit their
length. -/

namespace Sys2Proof
open Sys2Proof.Machine Sys2Proof.Stated

/-- No bit number is the lowest only where there is none. -/
theorem lowest_eq_none {ns : List Nat} : lowest ns = none ↔ ns = [] := by
  cases ns <;> simp [lowest]

/-- A field of zeros is the only one without a bit to report (R39). -/
theorem eq_zero_of_lowBitFrom {n lo : Nat} {x : BitVec n} (h : lowBitFrom lo n x.toNat = []) : x = 0 := by
  simp only [lowBitFrom, List.map_eq_nil_iff, List.filter_eq_nil_iff, List.mem_range] at h
  exact BitVec.eq_of_getLsbD_eq fun i hi => by simpa [BitVec.testBit_toNat] using h i hi

theorem srcOf_zero : srcOf 0 = .v 0 := rfl

/-- An immediate's slot number is odd where its lowest bit is set. -/
theorem slotNumber_pos {x : BitVec 10} (h : x.getLsbD 0 = true) : 0 < (x.extractLsb' 0 8).toNat := by
  rw [← BitVec.testBit_toNat, Nat.testBit_zero, decide_eq_true_eq] at h
  simp only [BitVec.extractLsb'_toNat, Nat.shiftRight_zero]
  omega

/-- An immediate whose slot number is below the slots of a word has its slot there (R34). -/
theorem slotFits_imm {l : Len} {b : Bool} {x : BitVec 10} (p : Perm) (h : (x.extractLsb' 0 8).toNat < slotsOf l b) :
    slotFits l b ⟨.imm (x.getLsbD 0), p⟩ = true := by
  cases hx : x.getLsbD 0 with
  | false => cases l <;> cases b <;> simp_all [slotFits, slotsOf]
  | true =>
    have := slotNumber_pos hx
    have hs : 1 < slotsOf l b := by omega
    cases l <;> cases b <;> simp_all [slotFits, slotsOf]

/-- A source field that breaks no rule of its layout fits the word (R34). -/
theorem slotFits_of_srcStruct {u : Use} {lo : Nat} {l : Len} {b : Bool} {x : BitVec 10} (p : Perm)
    (h : srcStruct u lo (slotsOf l b) x = []) : slotFits l b ⟨srcOf x, p⟩ = true := by
  by_cases hu : u = .no
  · subst hu
    rw [eq_zero_of_lowBitFrom h, srcOf_zero]
    rfl
  · simp only [srcStruct, hu, if_false] at h
    unfold srcOf
    split at h
    · rfl
    · rfl
    · rfl
    · exact slotFits_imm p (by simpa [chargeIf] using h)

theorem slotFits_zero (l : Len) (b : Bool) : slotFits l b .zero = true := rfl

/-- A field widened with zeros keeps its bound. -/
theorem toNat_zero_append_lt {n m : Nat} (x : BitVec m) : ((0 : BitVec n) ++ x).toNat < 2 ^ m := by
  simp [BitVec.toNat_append, x.isLt]

/-- The fields of a word that breaks no rule of its layout fit its length (R32). -/
theorem fits_formOf {d : Desc} {f : Form} {l : Len} {opc : Nat} {w : BitVec 128}
    (h : formStruct d f l (shapeB opc) w = []) : (formOf l (shapeB opc) w).fits opc = true := by
  simp only [formStruct, List.append_eq_nil_iff] at h
  obtain ⟨⟨ha, hb⟩, hc⟩ := h
  cases l with
  | short =>
    cases hs : shapeB opc with
    | false =>
      rw [hs] at ha hb
      simp [Form.fits, formOf, hs, slotFits_of_srcStruct _ ha, slotFits_of_srcStruct _ hb, slotFits_zero]
      exact ⟨rfl, toNat_zero_append_lt _⟩
    | true =>
      rw [hs] at ha hb
      simp only [hs, if_true, List.append_eq_nil_iff] at hc
      simp [Form.fits, formOf, hs, slotFits_of_srcStruct _ ha, slotFits_of_srcStruct _ hb, slotFits_of_srcStruct _ hc.1]
  | medium =>
    simp only [List.append_eq_nil_iff] at hc
    simp [Form.fits, formOf, slotFits_of_srcStruct _ ha, slotFits_of_srcStruct _ hb, slotFits_of_srcStruct _ hc.1.1.1]
    exact toNat_zero_append_lt _
  | long =>
    simp only [List.append_eq_nil_iff] at hc
    simp [Form.fits, formOf, slotFits_of_srcStruct _ ha, slotFits_of_srcStruct _ hb, slotFits_of_srcStruct _ hc.1.1.1]

/-- The opcode map gives an instruction of its opcode, with the fields of the word (R50). -/
theorem word?_of_mkInstr {opc : Nat} {f : Form} {i : Instr} (h : mkInstr opc f = some i) : i.word? = some (opc, f) := by
  unfold mkInstr at h
  repeat' split at h
  all_goals cases h
  all_goals rfl


/-- A word of the instruction set is well formed by the rules of its opcode. -/
theorem wellFormed_of_word? {i : Instr} {opc : Nat} {f : Form} (k : ExecKind) (h : i.word? = some (opc, f)) :
    i.wellFormed k = (permitted k opc && f.fits opc && (descFaults i.desc f).isEmpty) := by
  unfold Instr.wellFormed
  split
  · simp [Instr.word?] at h
  · rw [h]

/-- What decodes (R39): a header with a count and no bit to report, or the instruction of an opcode that the executor may execute,
with no bit to report. -/
theorem decodeWord_ok {k : ExecKind} {w : BitVec 128} {i : Instr} (h : decodeWord k w = .ok i) :
    (i = .clauseHeader (headerOf w) ∧ (headerOf w).cnt ≠ 0 ∧ headerFaults k (headerOf w) = []) ∨
    ∃ l opc f, f = formOf l (shapeB opc) w ∧ mkInstr opc f = some i ∧ permitted k opc = true ∧
      formStruct i.desc f l (shapeB opc) w = [] ∧ descFaults i.desc f = [] := by
  unfold decodeWord at h
  split at h
  · simp only at h
    split at h
    · cases h
    · rename_i hcnt
      split at h
      · cases h
      · rename_i hlow
        cases h
        exact .inl ⟨rfl, hcnt, (List.append_eq_nil_iff.1 (lowest_eq_none.1 hlow)).1⟩
  · rename_i l _
    simp only at h
    split at h
    · cases h
    · rename_i j hj
      split at h
      · cases h
      · rename_i hp
        split at h
        · cases h
        · rename_i hlow
          cases h
          obtain ⟨hstruct, hdesc⟩ := List.append_eq_nil_iff.1 (lowest_eq_none.1 hlow)
          exact .inr ⟨l, _, _, rfl, hj, by simpa using hp, hstruct, hdesc⟩

theorem decodesWellFormed : DecodesWellFormed := by
  intro k w i h
  rcases decodeWord_ok h with ⟨rfl, hcnt, hfaults⟩ | ⟨l, opc, f, rfl, hmk, hperm, hstruct, hdesc⟩
  · simpa [Instr.wellFormed, hfaults] using hcnt
  · rw [wellFormed_of_word? k (word?_of_mkInstr hmk), hperm, fits_formOf hstruct, hdesc]
    rfl

/-- A word in the wrong place of its clause (R39): sub-causes 1, 2 and 6. -/
theorem clauseChecks : ClauseChecks := by
  refine ⟨fun k w h => ?_, fun k left w h hl => ?_, fun k left w i hd h hl hc => ?_⟩
  · simp only [checkedDecode, beq_eq_false_iff_ne.2 h]
    rfl
  · simp [checkedDecode, h, Nat.ne_of_gt hl]
  · simp only [checkedDecode, beq_eq_false_iff_ne.2 h, hd, hc]
    simp [show left ≠ 0 by omega, show left ≠ 1 by omega]

/-- Settles O12. -/
theorem decodingRefuses : Obligations.DecodingRefuses := ⟨decodesWellFormed, clauseChecks⟩

end Sys2Proof
end

section
/-! PROOF. Clause headers, `wait`, `yield` and `exit` (O14): what a stall changes, which flags hold a clause back, and when an exiting
crew's context goes. -/

namespace Sys2Proof.Stated
open Sys2Proof Sys2Proof.Machine

theorem Runs.curCrew {s : State} {id : Nat} {c : Crew} (h : Runs s id c) : s.curCrew = some (id, c) := curCrew_of h.1 h.2

end Sys2Proof.Stated

namespace Sys2Proof.Machine
open Sys2Proof Sys2Proof.Stated
variable {s : State}

/-- A word that leaves the machine as it is passes. -/
theorem runCrew_pass {i : Instr} {f : Form} {id : Nat} {c : Crew} {body : State → Nat → Crew → Eff} (hr : Runs s id c)
    (hp : Ready c i f) (hb : body s id c = .ok s) : runCrew i f s body = .next (After s id (past c f)) := by
  rw [runCrew_next hr.curCrew hp, hb]
  simp [Eff.finish, State.modCrew, State.issued, pmod, hr.2, After, past, Crew.advance]

theorem runCrew_stall {i : Instr} {f : Form} {id : Nat} {c : Crew} {body : State → Nat → Crew → Eff} (hr : Runs s id c)
    (hp : Ready c i f) (hb : body s id c = .stall) : runCrew i f s body = .next (s.stallCrew id).issued := by
  rw [runCrew_next hr.curCrew hp, hb]
  rfl

/-- A crew that was not stalled stalls at the next stamp of its quarter (R156, R158). -/
theorem State.stallAs_fresh {id : Nat} {c : Crew} (st : Stall) (h : pfind s.crews id = some c) (hs : c.stalled = false) :
    s.stallAs id st =
      (s.nextStamp c.core c.quarter).1.setCrew id { c with stall := st, wstamp := pget 0 (s.core c.core).stamps c.quarter } := by
  simp [State.stallAs, h, hs, State.nextStamp]

/-- A clause waits on a flag of its mask with an operation that still owes its values (R28). -/
theorem Crew.clauseWaits_iff {c : Crew} :
    c.clauseWaits = true ↔ ∃ n < 12, c.wm.getLsbD n = true ∧ ∃ o ∈ c.ops, o.awaited = true ∧ o.flag = n := by
  simp [Crew.clauseWaits, Crew.flagSet]

theorem execClauseHeader_crew {h : Header} {id : Nat} {c : Crew} (hr : Runs s id c) :
    exec (.clauseHeader h) s = .next
      (if (behind c h).clauseWaits then (s.setCrew id (behind c h)).stallCrew id else s.setCrew id (behind c h)).issued := by
  change execClauseHeader h s = _
  simp [execClauseHeader, hr.1, hr.curCrew]
  rfl

theorem execClauseHeader_seq {h : Header} {ck : Nat} {cp : Bool} (hr : SeqRuns s ck cp) :
    exec (.clauseHeader h) s = .next (s.modSeq ck cp (·.enterClause h)).issued := by
  change execClauseHeader h s = _
  simp only [execClauseHeader, show s.cur = some (.seq ck cp) from hr]

theorem headerPassed : HeaderPassed := by
  refine ⟨fun h s id c hr hn => ?_, fun h s id c n hr hn hw ho => ?_, fun h s ck cp hr => ?_⟩
  · have hf : (behind c h).clauseWaits = false := by
      rw [← Bool.not_eq_true, Crew.clauseWaits_iff]
      rintro ⟨n, h12, hm, o, ho, ha, hfl⟩
      simp [Op.awaited] at ha
      exact hn n h12 hm o ho ha.1 hfl
    rw [execClauseHeader_crew hr, hf]
    rfl
  · have hf : (behind c h).clauseWaits = true := by
      obtain ⟨o, ho, hd, hz, hfl⟩ := ho
      exact Crew.clauseWaits_iff.2 ⟨n, hn, hw, o, ho, by simp [Op.awaited, hd, hz], hfl⟩
    refine ⟨_, execClauseHeader_crew hr, ?_⟩
    rw [hf, if_pos rfl, State.stallCrew, State.stallAs_fresh .long (State.pfind_setCrew_same id _) rfl]
    refine ⟨by simp [State.nextStamp, behind], fun x hx => ?_, rfl, rfl⟩
    simp [State.nextStamp, pfind_pput_other _ _ hx]
  · refine ⟨_, execClauseHeader_seq hr, ?_⟩
    cases cp <;> simp [State.modSeq, Core.seq, Sequencer.enterClause]

theorem waitAndYield : WaitAndYield := by
  refine ⟨fun f s id c hr hp hle => ?_, fun f s id c hr hp hlt => ?_, fun f s id c hr hp => ?_⟩
  · change execWait f s = _
    exact runCrew_pass hr hp (if_neg (Nat.not_lt.2 hle))
  · change execWait f s = _
    exact runCrew_stall hr hp (if_pos hlt)
  · refine ⟨_, show execYield f s = _ from runCrew_next hr.curCrew hp, ?_⟩
    simp only [Eff.finish, State.nextStamp, State.issued_crews, State.pfind_setCrew_same, State.core_issued, State.core_setCrew,
      State.core_modCore_same, pget_pput_same, State.issued_mem, State.setCrew_mem]
    exact ⟨rfl, trivial, fun x hx => State.pfind_setCrew_other _ hx, rfl⟩

/-- A context with operations left is kept (R63). -/
theorem State.tryFree_of_ops {id : Nat} {c : Crew} (h : pfind s.crews id = some c) (ho : c.ops ≠ []) : s.tryFree id = s := by
  simp [State.tryFree, h, State.freeable, ho]

/-- The context of an exiting crew can go (R63, R214): nothing of it is outstanding, and its engines have stopped where it is the
producer. -/
theorem State.freeable_of {id : Nat} {c : Crew} (he : c.exiting = true) (ho : c.ops = []) (hw : c.trigWait = none)
    (hf : (s.team c.team).fatal = none)
    (hp : (s.team c.team).prod = c.num → ((s.core c.core).owner = some c.team →
        ∀ q ∈ [(s.core c.core).ms, (s.core c.core).cs], q.st = .idle ∨ q.st = .faulted) ∧
      ∀ j ∈ (s.core c.core).jobs, j.crew ≠ some id) :
    s.freeable id c = true := by
  by_cases hn : (s.team c.team).prod = c.num
  · obtain ⟨hq, hj⟩ := hp hn
    simp only [List.mem_cons, List.not_mem_nil, or_false, forall_eq_or_imp, forall_eq] at hq
    simpa [State.freeable, he, ho, hw, hf, hn, ← imp_iff_not_or] using ⟨hq, hj⟩
  · simp [State.freeable, he, ho, hw, hf, hn]

theorem State.tryFree_of_freeable {id : Nat} {c : Crew} (h : pfind s.crews id = some c) (hf : s.freeable id c = true) :
    s.tryFree id = { s with crews := pdel s.crews id } := by
  simp [State.tryFree, h, hf]

/-- No trigger of the team waits (R238). -/
theorem State.checkTrig_of_untriggered {t : Nat} (h : (s.team t).trigged = false) : s.checkTrig t = s := by
  simp [State.checkTrig, h]

/-- No round of the team gathers (R237). -/
theorem State.closeRound_of_idle {t : Nat} (h : (s.team t).phase = 0) : s.closeRound t = s := by
  simp [State.closeRound, h]

/-- The crew behind its `exit` (R63, R157, R235). -/
def Crew.gone (c : Crew) (f : Form) : Crew := { past c f with exiting := true, sect := none, place := .left }

/-- Where no trigger and no round of the team waits for the crew, `exit` frees its context if that can be (R63). -/
theorem execExit_next {f : Form} {id : Nat} {c : Crew} (hr : Runs s id c) (hp : Ready c (.exit f) f)
    (hphase : (s.team c.team).phase = 0) (htrig : (s.team c.team).trigged = false) :
    exec (.exit f) s = .next ((s.setCrew id (c.gone f)).tryFree id).issued := by
  refine (show execExit f s = _ from runCrew_next hr.curCrew hp).trans ?_
  simp only [Eff.finish]
  rw [State.checkTrig_of_untriggered (s := s.setCrew id _) htrig, State.closeRound_of_idle (s := s.setCrew id _) hphase]
  rfl

theorem exitFreesContext : ExitFreesContext := by
  refine ⟨fun f s id c hr hp hops hwait hprod hphase htrig hfatal => ?_, fun f s id c hr hp hops hphase htrig => ?_⟩
  · have hfree : (s.setCrew id (c.gone f)).freeable id (c.gone f) = true :=
      State.freeable_of rfl hops hwait hfatal fun h => absurd h hprod
    rw [execExit_next hr hp hphase htrig, State.tryFree_of_freeable (State.pfind_setCrew_same id _) hfree]
    simp [State.setCrew, State.issued, pdel_pput]
  · rw [execExit_next hr hp hphase htrig, State.tryFree_of_ops (State.pfind_setCrew_same id (c.gone f)) hops]
    rfl

/-- Settles O14. -/
theorem headersWaitsAndExit : Obligations.HeadersWaitsAndExit := ⟨headerPassed, waitAndYield, exitFreesContext⟩

end Sys2Proof.Machine
end

section
/-! PROOF. `fork` and `rdv` (O30): what the target of a transfer gives, and the core that a `fork` leaves. -/

namespace Sys2Proof.Machine
open Sys2Proof Sys2Proof.Stated
variable {s : State}

theorem runCrew_raises {i : Instr} {f : Form} {id : Nat} {c : Crew} {x : Cause} {body : State → Nat → Crew → Eff}
    (hr : Runs s id c) (hp : Ready c i f) (hb : body s id c = .trap x) :
    runCrew i f s body = .next (s.raiseTrap id x 0).issued := by
  rw [runCrew_next hr.curCrew hp, hb]
  rfl

/-- A target that holds a clause header within one block takes the transfer (R29, R61). -/
theorem targetFault_of_headerAt {c : Crew} {t : DWord} (h : HeaderAt s c t) :
    s.targetFault c.core (s.launchOf c) t = none := by
  obtain ⟨halign, hblock, hkind⟩ := h
  simp [State.targetFault, halign, hkind, Nat.not_lt.2 hblock]

/-- A target that can be fetched and holds no clause header is sub-cause 7 (R39, R61). -/
theorem targetFault_of_kind {ck n : Nat} {l : Launch} {t : DWord} (h : s.wordKind ck l t = some n) (hn : n ≠ 3) :
    s.targetFault ck l t = some (mkCause 1 7 t) := by
  unfold State.targetFault
  split
  · rfl
  · rw [h]
    split
    · exact absurd (Option.some.inj ‹_›) hn
    · rfl
    · contradiction

theorem Crew.kAwaits_of_no_ops {c : Crew} (h : c.ops = []) (n : Nat) : c.kAwaits n = false := by simp [Crew.kAwaits, h]

/-- An entry of a `fork` that R166 refuses: one that is not 32-aligned. -/
def entryBad (e : DWord) : Bool := e != 0 && e.toNat % 32 != 0

/-- The decode fault of a `fork` entry (R29): none where it is zero or refused by R166. -/
def State.entryFault (s : State) (c : Crew) (e : DWord) : Option Cause :=
  if e = 0 || entryBad e then none else s.targetFault c.core (s.launchOf c) e

/-- The engines after a `fork` (R164, R166). -/
def Core.forked (x : Core) (c : Crew) (a b : DWord) : Core :=
  { x.takeEngines c.team with
    ms := if a = 0 then (x.takeEngines c.team).ms else .start a c.k
    cs := if b = 0 then (x.takeEngines c.team).cs else .start b c.k }

/-- The effect of a `fork` with the entries a and b, check by check (R164, R166). -/
def State.forkEff (s : State) (c : Crew) (a b : DWord) : Eff :=
  if (List.range 64).any c.kAwaits then .trap causePending
  else if (s.entryFault c a).isSome || (s.entryFault c b).isSome then
    .trap ((s.entryFault c a).getD ((s.entryFault c b).getD causePending))
  else if c.num ≠ (s.team c.team).prod then .trap (causeRights 0)
  else if (s.core c.core).owner.isSome && (s.core c.core).owner != some c.team then .trap (causeRights 1)
  else if entryBad a || entryBad b then .trap causeOperand
  else if (s.core c.core).owner == some c.team
      && ((a != 0 && !(s.core c.core).ms.ended) || (b != 0 && !(s.core c.core).cs.ended)) then .trap (causeRights 2)
  else .ok ((s.modCore c.core (·.forked c a b)).modTeam c.team (fun t => { t with forkM := a != 0, forkC := b != 0 }))

theorem execFork_eq (f : Form) (s : State) :
    exec (.fork f) s = runCrew (.fork f) f s (fun s _ c => s.forkEff c (c.uni f 2 f.a) (c.uni f 2 f.b)) := rfl

theorem entryFault_of_good {c : Crew} {f : Form} {e : DWord} (h : EntriesGood s c f) (he : e ∈ [c.uni f 2 f.a, c.uni f 2 f.b]) :
    s.entryFault c e = none := by
  unfold State.entryFault
  split
  · rfl
  · rename_i hb
    simp only [entryBad, Bool.or_eq_true, decide_eq_true_eq, Bool.and_eq_true, bne_iff_ne, not_or, not_and, ne_eq, not_not] at hb
    exact h e he hb.1 (hb.2 hb.1)

theorem entryBad_of_aligned {e : DWord} (h : e.toNat % 32 = 0) : entryBad e = false := by simp [entryBad, h]

theorem forkEff_ok {c : Crew} {f : Form} (hops : c.ops = []) (hgood : EntriesGood s c f)
    (hprod : c.num = (s.team c.team).prod) (hown : (s.core c.core).owner = none ∨ (s.core c.core).owner = some c.team)
    (ha : (c.uni f 2 f.a).toNat % 32 = 0) (hb : (c.uni f 2 f.b).toNat % 32 = 0) (hms : (s.core c.core).ms.st = .idle)
    (hcs : (s.core c.core).cs.st = .idle) :
    s.forkEff c (c.uni f 2 f.a) (c.uni f 2 f.b) = .ok ((s.modCore c.core (·.forked c (c.uni f 2 f.a) (c.uni f 2 f.b))).modTeam c.team
      (fun t => { t with forkM := c.uni f 2 f.a != 0, forkC := c.uni f 2 f.b != 0 })) := by
  have hown' : ((s.core c.core).owner.isSome && (s.core c.core).owner != some c.team) = false := by
    rcases hown with h | h <;> simp [h]
  simp [State.forkEff, Crew.kAwaits_of_no_ops hops, entryFault_of_good hgood, hprod, hown', entryBad_of_aligned ha,
    entryBad_of_aligned hb, Sequencer.ended, hms, hcs]

theorem forkEff_rights {c : Crew} {f : Form} (hops : c.ops = []) (hgood : EntriesGood s c f)
    (hprod : c.num ≠ (s.team c.team).prod) :
    s.forkEff c (c.uni f 2 f.a) (c.uni f 2 f.b) = .trap (mkCause 0x0A 0 0) := by
  simp [State.forkEff, Crew.kAwaits_of_no_ops hops, entryFault_of_good hgood, hprod, causeRights]

theorem forkEff_no_header {c : Crew} {a b : DWord} {n : Nat} (hops : c.ops = []) (h0 : a ≠ 0) (ha : a.toNat % 32 = 0)
    (hk : s.wordKind c.core (s.launchOf c) a = some n) (hn : n ≠ 3) :
    s.forkEff c a b = .trap (mkCause 1 7 a) := by
  have hf : s.entryFault c a = some (mkCause 1 7 a) := by
    simp only [State.entryFault, decide_eq_false h0, entryBad_of_aligned ha]
    exact targetFault_of_kind hk hn
  simp [State.forkEff, Crew.kAwaits_of_no_ops hops, hf]

/-- What a `fork` leaves of its core: the team owns the engines, zero where it has just taken them, and runs a sequencer at each entry
that is not zero (R164, R166). -/
theorem Core.forked_spec (x : Core) (c : Crew) (a b : DWord) (hms : x.ms.st = .idle) (hcs : x.cs.st = .idle) :
    (x.forked c a b).owner = some c.team ∧
      (a ≠ 0 → (x.forked c a b).ms = ⟨.running, a, a, 0, 0, c.k⟩) ∧ (b ≠ 0 → (x.forked c a b).cs = ⟨.running, b, b, 0, 0, c.k⟩) ∧
      (a = 0 → (x.forked c a b).ms.st = .idle) ∧ (b = 0 → (x.forked c a b).cs.st = .idle) ∧
      (x.owner = none → (x.forked c a b).acc = [] ∧ (x.forked c a b).active.loaded = false ∧
        (x.forked c a b).shadow.loaded = false ∧ (x.forked c a b).gen = 0) := by
  have hm : (x.takeEngines c.team).ms.st = .idle := by unfold Core.takeEngines; split <;> simp [hms, Sequencer.idle]
  have hc : (x.takeEngines c.team).cs.st = .idle := by unfold Core.takeEngines; split <;> simp [hcs, Sequencer.idle]
  have ho : (x.takeEngines c.team).owner = some c.team := by unfold Core.takeEngines; split <;> simp_all
  refine ⟨ho, fun h => ?_, fun h => ?_, fun h => ?_, fun h => ?_, fun h => ?_⟩
  · simp only [Core.forked, if_neg h, Sequencer.start]
  · simp only [Core.forked, if_neg h, Sequencer.start]
  · simpa [Core.forked, h] using hm
  · simpa [Core.forked, h] using hc
  · simp [Core.forked, Core.takeEngines, h, Plane.zero]

/-- `rdv` waits for a sequencer that the fork started and that has not ended (R167). -/
theorem execRdv_eq (f : Form) (s : State) : exec (.rdv f) s = runCrew (.rdv f) f s (fun s _ c =>
    if ((s.team c.team).forkM && !(s.core c.core).ms.ended) || ((s.team c.team).forkC && !(s.core c.core).cs.ended) then .stall
    else .ok s) := rfl

/-- Settles O30. -/
theorem forkAndRendezvous : Obligations.ForkAndRendezvous := by
  unfold Obligations.ForkAndRendezvous
  refine ⟨fun f s id c hr hp hops hprod hown ha hb hms hcs hgood => ?_, fun f s id c hr hp hops hprod hgood => ?_,
    fun f s id n c hr hp hops h0 ha hk hn => ?_, fun f s id c hr hp hm hc => ?_, fun f s id c hr hp hw => ?_⟩
  · refine ⟨_, (execFork_eq f s).trans (runCrew_next hr.curCrew hp), ?_⟩
    rw [forkEff_ok hops hgood hprod hown ha hb hms hcs]
    refine ⟨?_, rfl, ?_⟩
    · simp [Eff.finish, pmod, hr.2]
      rfl
    · simpa [Eff.finish] using Core.forked_spec (s.core c.core) c _ _ hms hcs
  · exact (execFork_eq f s).trans (runCrew_raises hr hp (forkEff_rights hops hgood hprod))
  · exact (execFork_eq f s).trans (runCrew_raises hr hp (forkEff_no_header hops h0 ha hk hn))
  · refine (execRdv_eq f s).trans (runCrew_pass hr hp (if_neg ?_))
    simp only [Sequencer.ended, Bool.or_eq_true, Bool.and_eq_true, Bool.not_eq_true', beq_eq_false_iff_ne]
    rintro (⟨h, h'⟩ | ⟨h, h'⟩)
    · exact h' (hm h)
    · exact h' (hc h)
  · refine (execRdv_eq f s).trans (runCrew_stall hr hp (if_pos ?_))
    simpa [Sequencer.ended] using hw

end Sys2Proof.Machine
end

section
/-! PROOF. `round` (O26): what a release leaves alone, and the record of a round that closes. -/

namespace Sys2Proof.Machine
open Sys2Proof Sys2Proof.Stated
variable {s : State}

/-- Write-backs touch memory and the cores' caches alone. -/
def WrittenBack (s t : State) : Prop := t = { s with mem := t.mem, cores := t.cores }

theorem WrittenBack.trans {s t u : State} (h1 : WrittenBack s t) (h2 : WrittenBack t u) : WrittenBack s u :=
  Eq.trans h2 (by rw [show t = { s with mem := t.mem, cores := t.cores } from h1])

theorem WrittenBack.modCore {t : State} (h : WrittenBack s t) (ck : Nat) (g : Core → Core) : WrittenBack s (t.modCore ck g) :=
  h.trans rfl

theorem State.putBack_frame (s : State) (ck li : Nat) : WrittenBack s (s.putBack ck li) := by
  unfold State.putBack
  split <;> rfl

theorem State.writeBack_frame (s : State) (ck li : Nat) : WrittenBack s (s.writeBack ck li) := by
  unfold State.writeBack State.followBack
  split
  · split
    · exact s.putBack_frame ck li
    · split
      · rfl
      · exact ((s.putBack_frame _ li).trans (State.putBack_frame _ ck li)).modCore _ _
  · exact s.putBack_frame ck li

theorem State.writeBackAll_frame (s : State) (ck : Nat) (lis : List Nat) : WrittenBack s (s.writeBackAll ck lis) := by
  induction lis generalizing s with
  | nil => rfl
  | cons li lis ih => exact (s.writeBack_frame ck li).trans (ih _)

theorem State.eagerRelease_frame (s : State) (ck : Nat) (sys count : Bool) : WrittenBack s (s.eagerRelease ck sys count) := by
  unfold State.eagerRelease
  simp only
  split
  · exact (s.writeBackAll_frame ck _).modCore _ _
  · exact s.writeBackAll_frame ck _

/-- A record that was put in a slot is found there (R326). -/
theorem Island.stored_putStored (x : Island) (r : Stored) :
    (x.putStored r).stored r.zone r.launch r.team r.copy r.committed = some r.data := by
  have hnone : ∀ e ∈ x.stores.filter (fun e => !(e.zone == r.zone && e.launch == r.launch && e.team == r.team
      && e.copy == r.copy && e.committed == r.committed)), ¬(e.zone == r.zone && e.launch == r.launch && e.team == r.team
      && e.copy == r.copy && e.committed == r.committed) = true := by
    intro e he
    simpa only [Bool.not_eq_true', Bool.not_eq_true] using (List.mem_filter.1 he).2
  unfold Island.stored Island.putStored
  rw [List.find?_append, List.find?_eq_none.2 hnone]
  simp

/-- A round whose live crews have all contributed closes (R237, R327): its record stands pending in the primary slot. -/
theorem State.closeRound_closes {t : Nat} (hphase : (s.team t).phase = 1)
    (hlive : ∃ e ∈ s.crews, e.2.team = t ∧ e.2.exiting = false)
    (hall : ∀ e ∈ s.crews, e.2.team = t → e.2.exiting = true ∨ e.2.inRound.isSome = true) :
    (s.closeRound t).crews = s.crews ∧
      (s.closeRound t).team t = { s.team t with phase := 2, roundBars := (s.team t).bars } ∧
      ((s.closeRound t).isl (s.team t).isl).stored (coreZone (s.team t).core) (s.team t).launch (s.team t).num false false
        = some ⟨(s.team t).roundNo + 1, (s.team t).parts, (s.team t).bars⟩ := by
  have hne : ((s.crewsOf t).filter (fun e => !e.2.exiting)).isEmpty = false := by
    obtain ⟨e, he, ht, hx⟩ := hlive
    rw [List.isEmpty_eq_false_iff_exists_mem]
    exact ⟨e, by simp [State.crewsOf, he, ht, hx]⟩
  have hin : ((s.crewsOf t).filter (fun e => !e.2.exiting)).all (fun e => e.2.inRound.isSome) = true := by
    simp only [List.all_eq_true, List.mem_filter, State.crewsOf, and_imp]
    intro e he ht hx
    exact (hall e he (by simpa using ht)).resolve_left (by simpa using hx)
  have hcond : ((s.team t).phase = 1 && !((s.crewsOf t).filter (fun e => !e.2.exiting)).isEmpty
      && ((s.crewsOf t).filter (fun e => !e.2.exiting)).all (fun e => e.2.inRound.isSome)) = true := by
    simp only [hphase, hne, hin]
    rfl
  have hframe := s.eagerRelease_frame (s.team t).core false true
  unfold State.closeRound
  simp only [if_pos hcond]
  refine ⟨?_, State.team_setTeam_same _ _, ?_⟩
  · rw [hframe]
    rfl
  · rw [State.isl_setTeam, State.isl_modIsl_same]
    exact Island.stored_putStored _ ⟨coreZone (s.team t).core, (s.team t).launch, (s.team t).num, false, false, _⟩

/-- A crew that stalls keeps the stamp of the stall that it is in, or takes the next one of its quarter (R158). -/
def Crew.stallStamp (s : State) (c : Crew) : Nat := if c.stalled then c.wstamp else pget 0 (s.core c.core).stamps c.quarter

theorem State.stallAs_crews {id : Nat} {c : Crew} (st : Stall) (h : pfind s.crews id = some c) :
    (s.stallAs id st).crews = pput s.crews id { c with stall := st, wstamp := c.stallStamp s } := by
  cases hs : c.stalled <;> simp [State.stallAs, h, hs, Crew.stallStamp, State.nextStamp]

theorem State.stallAs_teams (id : Nat) (st : Stall) : (s.stallAs id st).teams = s.teams := by
  unfold State.stallAs
  split
  · rfl
  · split <;> rfl

/-- An entry of a map after another value was put at a key: the value put, or an entry of the map with the one value there. -/
theorem mem_pput_swap {β : Type} {m : PMap β} {k : Nat} {v w : β} {e : Nat × β} (h : e ∈ pput m k v) :
    e = (k, v) ∨ e ∈ pput m k w := by
  induction m with
  | nil => exact .inl (by simpa [pput] using h)
  | cons x m ih =>
    obtain ⟨a, b⟩ := x
    simp only [pput] at h ⊢
    split at h
    · rename_i hk
      rw [if_pos hk]
      rcases List.mem_cons.1 h with h | h
      · exact .inl h
      · exact .inr (List.mem_cons_of_mem _ h)
    · rename_i hk
      rw [if_neg hk]
      split at h
      · rename_i hk
        rw [if_pos hk]
        rcases List.mem_cons.1 h with h | h
        · exact .inl h
        · exact .inr (List.mem_cons_of_mem _ h)
      · rename_i hk
        rw [if_neg hk]
        rcases List.mem_cons.1 h with h | h
        · exact .inr (h ▸ List.mem_cons_self ..)
        · exact (ih h).imp_right (List.mem_cons_of_mem _)

theorem mem_pput_self {β : Type} (m : PMap β) (k : Nat) (v : β) : (k, v) ∈ pput m k v := by
  induction m with
  | nil => simp [pput]
  | cons x m ih =>
    simp only [pput]
    split
    · simp
    · split <;> simp [ih]

theorem roundBounds_none {nreg : Nat} {regs : List Nat} (h : ∀ r ∈ regs, r < nreg) : roundBounds nreg regs = none := by
  have hf : regs.filter (fun r => decide (nreg ≤ r)) = [] := by simpa using h
  rw [roundBounds, hf]
  rfl


/-- The state of a `round` that contributes, before its team's round is judged (R237). -/
def State.contributed (s : State) (id : Nat) (c : Crew) (f : Form) : State :=
  ((s.setCrew id { c with inRound := some f.len.bytes }).stallAs id .round).modTeam c.team (fun t =>
    { t with parts := t.parts ++ [c.roundPart (directTarget c.pc f) (roundRegs f.modN (c.uni f 2 f.a))], phase := 1 })

theorem State.contributed_crews (s : State) (id : Nat) (c : Crew) (f : Form) :
    (s.contributed id c f).crews = pput s.crews id { c with
      inRound := some f.len.bytes, stall := .round, wstamp := c.stallStamp s } := by
  simp only [State.contributed, State.modTeam_crews, State.stallAs_crews .round (State.pfind_setCrew_same id _), State.setCrew_crews,
    pput_pput]
  rfl

theorem State.contributed_team {id : Nat} {c : Crew} {f : Form} (h : (pfind s.teams c.team).isSome = true) :
    (s.contributed id c f).team c.team = { s.team c.team with
      parts := (s.team c.team).parts ++ [c.roundPart (directTarget c.pc f) (roundRegs f.modN (c.uni f 2 f.a))], phase := 1 } := by
  have ht : ((s.setCrew id { c with inRound := some f.len.bytes }).stallAs id .round).teams = s.teams := State.stallAs_teams _ _
  rw [State.contributed, State.team_modTeam_same _ (by rw [ht]; exact h)]
  simp only [State.team, ht]

/-- A `round` whose operands and target are good, in a guarded team with no engine at work and nothing outstanding (R237). -/
theorem execRound_contributes {f : Form} {id : Nat} {c : Crew} (hr : Runs s id c) (hp : Ready c (.round f) f)
    (ht : HeaderAt s c (c.pc + f.offset * 4)) (hregs : ∀ r ∈ roundRegs f.modN (c.uni f 2 f.a), r < c.nreg)
    (hg : (s.launchOf c).grd = true) (he : s.engineBusy c.core c.team = false) (ho : c.ops = []) :
    exec (.round f) s = .next ((s.contributed id c f).closeRound c.team).issued := by
  have hk : (List.range 16).any c.kAwaits = false := by simp [Crew.kAwaits, ho]
  have hv : (roundRegs f.modN (c.uni f 2 f.a)).any c.vAwaits = false := by simp [Crew.vAwaits, ho]
  have hs : c.ops.any (fun o => o.awaited && o.path ≠ .rm && o.path ≠ .none) = false := by simp [ho]
  change execRound f s = _
  refine (runCrew_next hr.curCrew hp).trans ?_
  simp only [directTarget, hk, hv, targetFault_of_headerAt ht, roundBounds_none hregs, hg, he, hs]
  rfl

/-- Settles O26: the last contribution closes the round (`closeRound_closes`). -/
theorem roundContributes : Obligations.RoundContributes := by
  unfold Obligations.RoundContributes
  refine ⟨fun f s id c hr hp ht hregs hg he ho hx hteam hall => ?_, fun f s id c hr hp hpend => ?_,
    fun f s id c hr hp ht hregs hk hg => ?_⟩
  · have hcrews := s.contributed_crews id c f
    have hcteam := State.contributed_team (id := id) (f := f) hteam
    obtain ⟨hc, hu, hs⟩ := State.closeRound_closes (s := s.contributed id c f) (t := c.team) (by rw [hcteam])
      ⟨_, hcrews ▸ mem_pput_self .., rfl, hx⟩ fun e hmem hteam => by
        rw [hcrews] at hmem
        rcases mem_pput_swap hmem with rfl | hmem
        · exact .inr rfl
        · exact hall e hmem hteam
    refine ⟨_, execRound_contributes hr hp ht hregs hg he ho, hc.trans hcrews, ?_, ?_, ?_⟩
    · rw [State.team_issued, hu]
    · rw [State.team_issued, hu, hcteam]
    · rw [hcteam] at hs
      exact hs
  · have ha : ((roundRegs f.modN (c.uni f 2 f.a)).any c.vAwaits || (List.range 16).any c.kAwaits) = true := by
      simpa using hpend
    change execRound f s = _
    exact runCrew_raises hr hp (if_pos ha)
  · have hv : (roundRegs f.modN (c.uni f 2 f.a)).any c.vAwaits = false := by simpa using fun r hr => (hregs r hr).2
    have ha : (List.range 16).any c.kAwaits = false := by simpa using hk
    change execRound f s = _
    refine runCrew_raises hr hp ?_
    simp only [directTarget, ha, hv, targetFault_of_headerAt ht, roundBounds_none fun r hr => (hregs r hr).1, hg]
    rfl

end Sys2Proof.Machine
end

section
/-! SUPPORT. An operation that completes alone: what its values change in the crew, and what is left of the crew's list. -/

namespace Sys2Proof.Machine
open Sys2Proof Sys2Proof.Stated
variable {s : State}

/-- A lane of lanes computed one by one. -/
theorem laneOf_lanesBy {w : Nat} (g : Nat → BitVec w) {l : Nat} (h : l < 32) : laneOf (lanesBy g) l = g l := by
  simp [laneOf, lanesBy, List.getD_eq_getElem?_getD, h]

/-- The lanes of an operation's mask take its value in a named register (R118). -/
def Crew.landReg (o : Op) (r : Nat) (c : Crew) (e : Lanes 32 × Nat) : Crew :=
  c.vset (r + e.2) (lanesBy (fun l => if o.mask.getLsbD l then laneOf e.1 l else laneOf (c.vget (r + e.2)) l))

/-- An operation's values in the named registers that await them. -/
def Crew.landV (c : Crew) (o : Op) : Crew :=
  match o.vreg with
  | none => c
  | some r => (o.vvals.zip (List.range o.vvals.length)).foldl (Crew.landReg o r) c

/-- An operation's value in the uniform register that awaits it. -/
def Crew.landK (c : Crew) (o : Op) : Crew :=
  match o.kreg with
  | none => c
  | some n => c.kset n o.kval

/-- An operation's value in the history entry reserved for it. -/
def Crew.landH (c : Crew) (o : Op) : Crew :=
  match o.hvals with
  | none => c
  | some x => { c with hist := c.hist.map (fun h => if h.pend = some o.id then ⟨x, none⟩ else h) }

theorem Crew.land_eq (c : Crew) (o : Op) : c.land o = ((c.landV o).landK o).landH o := rfl

/-- Values have reached a crew's registers and history, and nothing else of it has changed (R30, R118). -/
def Landed (c d : Crew) : Prop := d = { c with v := d.v, k := d.k, hist := d.hist }

theorem Landed.trans {c d e : Crew} (h1 : Landed c d) (h2 : Landed d e) : Landed c e :=
  Eq.trans h2 (by rw [show d = { c with v := d.v, k := d.k, hist := d.hist } from h1])

/-- What does not look at registers or history is as it was. -/
theorem Landed.same {α : Type} {c d : Crew} (h : Landed c d) (p : Crew → α)
    (hp : ∀ v k hist, p { c with v := v, k := k, hist := hist } = p c) : p d = p c :=
  (congrArg p (show d = _ from h)).trans (hp _ _ _)

theorem Crew.landV_landed (c : Crew) (o : Op) : Landed c (c.landV o) := by
  unfold Crew.landV
  split
  · rfl
  · exact List.foldlRecOn _ _ (motive := Landed c) rfl fun d hd e _ => hd.trans rfl

theorem Crew.landK_landed (c : Crew) (o : Op) : Landed c (c.landK o) := by
  unfold Crew.landK
  split <;> rfl

theorem Crew.landH_landed (c : Crew) (o : Op) : Landed c (c.landH o) := by
  unfold Crew.landH
  split <;> rfl

theorem Crew.land_landed (c : Crew) (o : Op) : Landed c (c.land o) :=
  ((c.landV_landed o).trans ((c.landV o).landK_landed o)).trans (((c.landV o).landK o).landH_landed o)

/-! ### The registers and the history behind an operation -/

theorem Crew.landV_k_hist (c : Crew) (o : Op) : (c.landV o).k = c.k ∧ (c.landV o).hist = c.hist := by
  unfold Crew.landV
  split
  · exact ⟨rfl, rfl⟩
  · exact List.foldlRecOn _ _ (motive := fun d : Crew => d.k = c.k ∧ d.hist = c.hist) ⟨rfl, rfl⟩ fun d hd e _ => hd

theorem Crew.landK_hist (c : Crew) (o : Op) : (c.landK o).hist = c.hist := by
  unfold Crew.landK
  split <;> rfl

theorem Crew.landK_v (c : Crew) (o : Op) : (c.landK o).v = c.v := by
  unfold Crew.landK
  split <;> rfl

theorem Crew.landH_v (c : Crew) (o : Op) : (c.landH o).v = c.v := by
  unfold Crew.landH
  split <;> rfl

theorem Crew.landH_k (c : Crew) (o : Op) : (c.landH o).k = c.k := by
  unfold Crew.landH
  split <;> rfl

theorem Crew.land_v (c : Crew) (o : Op) : (c.land o).v = (c.landV o).v :=
  (Crew.landH_v _ o).trans (Crew.landK_v _ o)

theorem Crew.land_k (c : Crew) (o : Op) : (c.land o).k = ((c.landV o).landK o).k := Crew.landH_k _ o

theorem Crew.land_v_of_none {c : Crew} {o : Op} (h : o.vreg = none) : (c.land o).v = c.v := by
  rw [Crew.land_v, Crew.landV, h]

theorem Crew.land_k_of_none {c : Crew} {o : Op} (h : o.kreg = none) : (c.land o).k = c.k := by
  rw [Crew.land_k, Crew.landK, h]
  exact (c.landV_k_hist o).1

/-- An operation with one named register gives it the value in the lanes of its mask. -/
theorem Crew.land_vget {c : Crew} {o : Op} {r : Nat} {x : Lanes 32} (hr : o.vreg = some r) (hx : o.vvals = [x]) {l : Nat}
    (hl : l < 32) : laneOf ((c.land o).vget r) l = if o.mask.getLsbD l then laneOf x l else laneOf (c.vget r) l := by
  have hv : (c.land o).v = (c.landReg o r (x, 0)).v := by simp [Crew.land_v, Crew.landV, hr, hx]
  rw [Crew.vget, hv, Crew.landReg, Crew.vset, Nat.add_zero, pget_pset_same, laneOf_lanesBy _ hl]

theorem Crew.land_kget {c : Crew} {o : Op} {n : Nat} (h : o.kreg = some n) : (c.land o).kget n = o.kval := by
  simp [Crew.kget, Crew.land_k, Crew.landK, h, Crew.kset]

theorem Crew.land_hist {c : Crew} {o : Op} {x : Lanes 64} (h : o.hvals = some x) :
    (c.land o).hist = c.hist.map (fun h => if h.pend = some o.id then ⟨x, none⟩ else h) := by
  have hh : ((c.landV o).landK o).hist = c.hist := (Crew.landK_hist _ o).trans (c.landV_k_hist o).2
  simp [Crew.land_eq, Crew.landH, h, hh]

/-! ### Completion -/

/-- A crew whose one operation completes has none left (R65). -/
theorem Crew.finishOp_single {c : Crew} {o : Op} (h : c.ops = [o]) : c.finishOp o.id = { c with ops := [] } := by
  simp [Crew.finishOp, h, popDone]

/-- The record that a handle load brings to the team register it names (R281). -/
def State.handRecord (s : State) (t : Nat) (o : Op) : State :=
  match o.hn, o.hrec with
  | some n, some r => s.tnSet t n r
  | _, _ => s

theorem State.handRecord_of_none {t : Nat} {o : Op} (h : o.hn = none ∨ o.hrec = none) : s.handRecord t o = s := by
  unfold State.handRecord
  rcases h with h | h <;> simp [h]

theorem State.handRecord_of_some {t n : Nat} {o : Op} {r : BitVec 512} (hn : o.hn = some n) (hr : o.hrec = some r) :
    s.handRecord t o = s.tnSet t n r := by
  simp [State.handRecord, hn, hr]

/-- No `trig` of the crew waits (R238). -/
theorem State.settleTrig_of_none {id : Nat} {c : Crew} (h : pfind s.crews id = some c) (hw : c.trigWait = none) :
    s.settleTrig id = s := by
  simp [State.settleTrig, h, hw]

/-- The one operation of a crew that nothing holds back completes: the record it brings, and its values (R30, R65). -/
theorem State.completeOp_single {id : Nat} {c : Crew} {o : Op} (h : pfind s.crews id = some c) (ho : c.ops = [o])
    (hd : o.done = false) (hh : o.held = false) (ha : o.after = []) (hf : o.frozen = false) (hw : c.trigWait = none) :
    s.completeOp id o.id = (s.handRecord c.team o).setCrew id { c.land o with ops := [] } := by
  have hops : (c.land o).ops = [o] := ((c.land_landed o).same Crew.ops fun _ _ _ => rfl).trans ho
  have hwait : (c.land o).trigWait = none := ((c.land_landed o).same Crew.trigWait fun _ _ _ => rfl).trans hw
  have hfind : c.ops.find? (fun x => x.id = o.id && !x.done) = some o := by simp [ho, hd]
  unfold State.completeOp
  simp only [h, hfind, hh, ha, hf, List.any_nil, Bool.or_self, Bool.false_eq_true, if_false, Crew.finishOp_single hops]
  exact State.settleTrig_of_none (State.pfind_setCrew_same id _) hwait

end Sys2Proof.Machine
end

section
/-! PROOF. Completions, swaps and freed contexts (O42): the crew that an order puts first, and what a swap changes. -/

namespace Sys2Proof.Machine
open Sys2Proof Sys2Proof.Stated
variable {s : State}

/-! ### Completions and freed contexts -/

theorem State.tryFree_of_live {id : Nat} {c : Crew} (h : pfind s.crews id = some c) (he : c.exiting = false) :
    s.tryFree id = s := by
  simp [State.tryFree, h, State.freeable, he]

theorem State.handRecord_mem (s : State) (t : Nat) (o : Op) : (s.handRecord t o).mem = s.mem := by
  unfold State.handRecord
  split <;> rfl

theorem State.handRecord_crews (s : State) (t : Nat) (o : Op) : (s.handRecord t o).crews = s.crews := by
  unfold State.handRecord
  split <;> rfl

theorem State.tnGet_tnSet_same {t n : Nat} (r : BitVec 512) (h : (pfind s.teams t).isSome = true) : (s.tnSet t n r).tnGet t n = r := by
  rw [State.tnGet, State.tnSet, State.team_modTeam_same _ h]
  exact pget_pset_same 0 _ n r

theorem State.tnGet_tnSet_other {t n m : Nat} (r : BitVec 512) (h : (pfind s.teams t).isSome = true) (hm : m ≠ n) :
    (s.tnSet t n r).tnGet t m = s.tnGet t m := by
  rw [State.tnGet, State.tnSet, State.team_modTeam_same _ h]
  exact pget_pset_other 0 _ r hm

theorem operationsComplete : OperationsComplete := by
  refine ⟨fun s id c o h ho hd hh ha hf hw he => ?_, fun s id c h he ho hw hf hp => ?_⟩
  · have hlive : ({ c.land o with ops := [] } : Crew).exiting = false :=
      ((c.land_landed o).same Crew.exiting fun _ _ _ => rfl).trans he
    have hnext : exec (.operationCompletes id o.id) s = .next ((s.handRecord c.team o).setCrew id { c.land o with ops := [] }) := by
      change Host.Outcome.next ((s.completeOp id o.id).tryFree id) = _
      rw [State.completeOp_single h ho hd hh ha hf hw, State.tryFree_of_live (State.pfind_setCrew_same id _) hlive]
    refine ⟨_, _, hnext, State.pfind_setCrew_same id _, rfl, s.handRecord_mem c.team o, fun x hx => ?_, Crew.land_v_of_none,
      Crew.land_k_of_none, fun r x hr hx l hl => Crew.land_vget hr hx hl, fun n _ => Crew.land_kget, fun x => Crew.land_hist,
      fun n r u hn hr hu => ?_, fun hnone => ?_⟩
    · rw [State.pfind_setCrew_other _ hx, State.handRecord_crews]
    · rw [State.handRecord_of_some hn hr]
      have hteam : (pfind s.teams c.team).isSome = true := by simp [hu]
      exact ⟨State.tnGet_tnSet_same r hteam, fun m hm => State.tnGet_tnSet_other r hteam hm⟩
    · rw [State.handRecord_of_none hnone]
      rfl
  · change Host.Outcome.next (s.tryFree id) = _
    rw [State.tryFree_of_freeable h (State.freeable_of he ho hw hf hp)]

/-! ### The crew that an order puts first (R158, R159) -/

/-- A key puts one crew before another: strictly, in the order of pairs. -/
def KeyBefore (key : Crew → Nat × Nat) (c d : Crew) : Prop :=
  (key c).1 < (key d).1 ∨ ((key c).1 = (key d).1 ∧ (key c).2 < (key d).2)

theorem lowestBy_cons_none {key : Crew → Nat × Nat} {e : Nat × Crew} {m : PMap Crew} (h : lowestBy key m = none) :
    lowestBy key (e :: m) = some e := by
  simp only [lowestBy, h]

theorem lowestBy_cons_some {key : Crew → Nat × Nat} {e b : Nat × Crew} {m : PMap Crew} (h : lowestBy key m = some b) :
    lowestBy key (e :: m) = if (key e.2).1 < (key b.2).1 ∨ ((key e.2).1 = (key b.2).1 ∧ (key e.2).2 ≤ (key b.2).2) then some e
      else some b := by
  simp only [lowestBy, h]

theorem lowestBy_mem {key : Crew → Nat × Nat} {m : PMap Crew} {b : Nat × Crew} (h : lowestBy key m = some b) : b ∈ m := by
  induction m with
  | nil => simp [lowestBy] at h
  | cons e m ih =>
    cases hm : lowestBy key m with
    | none =>
      rw [lowestBy_cons_none hm] at h
      exact Option.some.inj h ▸ List.mem_cons_self ..
    | some d =>
      rw [lowestBy_cons_some hm] at h
      split at h
      · exact Option.some.inj h ▸ List.mem_cons_self ..
      · exact List.mem_cons_of_mem _ (ih (Option.some.inj h ▸ hm))

/-- The crew whose key is strictly before every other one's is the lowest. -/
theorem lowestBy_eq {key : Crew → Nat × Nat} {m : PMap Crew} {e : Nat × Crew} (he : e ∈ m)
    (h : ∀ x ∈ m, x ≠ e → KeyBefore key e.2 x.2) : lowestBy key m = some e := by
  induction m with
  | nil => simp at he
  | cons a m ih =>
    by_cases hae : a = e
    · subst hae
      cases hm : lowestBy key m with
      | none => exact lowestBy_cons_none hm
      | some b =>
        rw [lowestBy_cons_some hm]
        by_cases hb : b = a
        · simp [hb]
        · have hk := h b (List.mem_cons_of_mem _ (lowestBy_mem hm)) hb
          exact if_pos (hk.imp_right fun hk => ⟨hk.1, hk.2.le⟩)
    · have hm : e ∈ m := (List.mem_cons.1 he).resolve_left (Ne.symm hae)
      have hk := h a (List.mem_cons_self ..) hae
      rw [lowestBy_cons_some (ih hm fun x hx => h x (List.mem_cons_of_mem _ hx))]
      refine if_neg ?_
      unfold KeyBefore at hk
      omega

/-! ### The crews that a swap moves -/

theorem mem_quarterCrews {ck q : Nat} {e : Nat × Crew} :
    e ∈ s.quarterCrews ck q ↔ e ∈ s.crews ∧ e.2.core = ck ∧ e.2.quarter = q := by
  simp only [State.quarterCrews, State.crewsOn, List.mem_filter, beq_iff_eq, and_assoc]

theorem State.waitingCrew_eq {ck q id : Nat} {c : Crew} (h : WaitsLongest s ck q id c) : s.waitingCrew ck q = some id := by
  obtain ⟨hmem, hw, hfirst⟩ := h
  rw [State.waitingCrew, lowestBy_eq (e := (id, c)) (List.mem_filter.2 ⟨hmem, hw⟩)]
  · rfl
  · intro x hx hne
    obtain ⟨hx, hxw⟩ := List.mem_filter.1 hx
    exact .inl (hfirst x hx hxw hne)

theorem State.waitingCrew_none {ck q : Nat} (h : ∀ e ∈ s.quarterCrews ck q, e.2.waits = false) : s.waitingCrew ck q = none := by
  have hf : (s.quarterCrews ck q).filter (fun e => e.2.waits) = [] := by simpa using h
  rw [State.waitingCrew, hf]
  rfl

theorem find?_eq_of_unique {α : Type} {p : α → Bool} {l : List α} {a : α} (ha : a ∈ l) (hp : p a = true)
    (h : ∀ x ∈ l, p x = true → x = a) : l.find? p = some a := by
  cases hf : l.find? p with
  | none => exact absurd hp (List.find?_eq_none.1 hf a ha)
  | some x => rw [h x (List.mem_of_find?_eq_some hf) (List.find?_some hf)]

/-- The active crews of a quarter. -/
def State.activeCrews (s : State) (ck q : Nat) : PMap Crew := (s.quarterCrews ck q).filter (fun e => e.2.place = .active)

theorem mem_activeCrews {ck q : Nat} {e : Nat × Crew} :
    e ∈ s.activeCrews ck q ↔ e ∈ s.quarterCrews ck q ∧ e.2.place = .active := by
  simp [State.activeCrews]

/-- A crew that yielded leaves first (R158). -/
theorem State.leavingCrew_yielded {ck q out : Nat} {d : Crew} (h : FirstBy s ck q out d (·.yielded) (fun _ _ => False)) :
    s.leavingCrew ck q = some out := by
  obtain ⟨hmem, hact, hy, honly⟩ := h
  have hfind : (s.activeCrews ck q).find? (fun e => e.2.yielded) = some (out, d) := by
    refine find?_eq_of_unique (mem_activeCrews.2 ⟨hmem, hact⟩) hy fun x hx hxy => ?_
    obtain ⟨hx, hxa⟩ := mem_activeCrews.1 hx
    exact Classical.byContradiction fun hne => honly x hx hxa hxy hne
  unfold State.activeCrews at hfind
  simp only [State.leavingCrew, hfind]

/-- Where none yielded, the crew that has been stalled longest leaves (R158). -/
theorem State.leavingCrew_stalled {ck q out : Nat} {d : Crew}
    (hy : ∀ e ∈ s.quarterCrews ck q, e.2.place = .active → e.2.yielded = false)
    (h : FirstBy s ck q out d (·.stalled) (fun a b => a.wstamp < b.wstamp ∨ (a.wstamp = b.wstamp ∧ a.stamp < b.stamp))) :
    s.leavingCrew ck q = some out := by
  obtain ⟨hmem, hact, hst, hfirst⟩ := h
  have hfind : (s.activeCrews ck q).find? (fun e => e.2.yielded) = none := by
    refine List.find?_eq_none.2 fun x hx => ?_
    obtain ⟨hx, hxa⟩ := mem_activeCrews.1 hx
    simp [hy x hx hxa]
  have hlow : lowestBy (fun c => (c.wstamp, c.stamp)) ((s.activeCrews ck q).filter (fun e => e.2.stalled)) = some (out, d) := by
    refine lowestBy_eq (List.mem_filter.2 ⟨mem_activeCrews.2 ⟨hmem, hact⟩, hst⟩) fun x hx hne => ?_
    obtain ⟨hx, hxs⟩ := List.mem_filter.1 hx
    obtain ⟨hx, hxa⟩ := mem_activeCrews.1 hx
    exact hfirst x hx hxa hxs hne
  unfold State.activeCrews at hfind hlow
  simp only [State.leavingCrew, hfind, hlow, Option.map_some]

theorem foldl_max_le {α : Type} {g : α → Nat} {l : List α} {n m : Nat} :
    l.foldl (fun n e => max n (g e)) n ≤ m ↔ n ≤ m ∧ ∀ x ∈ l, g x ≤ m := by
  induction l generalizing n with
  | nil => simp
  | cons a l ih => simp [ih, and_assoc]

/-- The crew that has waited for the most issues, first stalled of those (R159). -/
theorem State.latestCrew_eq {ck q id : Nat} {c : Crew} (h : WaitsMost s ck q id c) : s.latestCrew ck q = some (id, c) := by
  obtain ⟨hmem, hw, hfirst⟩ := h
  let ws := (s.quarterCrews ck q).filter (fun e => e.2.waits)
  have hin : (id, c) ∈ ws := List.mem_filter.2 ⟨hmem, hw⟩
  have hws : ∀ x ∈ ws, x ≠ (id, c) → x.2.waited < c.waited ∨ (x.2.waited = c.waited ∧ c.wstamp < x.2.wstamp) := fun x hx hne =>
    hfirst x (List.mem_filter.1 hx).1 (List.mem_filter.1 hx).2 hne
  have hmost : ws.foldl (fun n e => max n e.2.waited) 0 = c.waited := by
    refine Nat.le_antisymm (foldl_max_le.2 ⟨Nat.zero_le _, fun x hx => ?_⟩) 
      ((foldl_max_le (g := fun e : Nat × Crew => e.2.waited)).1 (Nat.le_refl _) |>.2 _ hin)
    by_cases hne : x = (id, c)
    · simp [hne]
    · have := hws x hx hne
      omega
  have hlow : lowestBy (fun c => (c.wstamp, 0)) (ws.filter (fun e => e.2.waited == c.waited)) = some (id, c) := by
    refine lowestBy_eq (List.mem_filter.2 ⟨hin, by simp⟩) fun x hx hne => ?_
    obtain ⟨hx, hxw⟩ := List.mem_filter.1 hx
    have := hws x hx hne
    have hxw : x.2.waited = c.waited := by simpa using hxw
    exact .inl (show c.wstamp < x.2.wstamp by omega)
  change lowestBy _ (ws.filter (fun e => e.2.waited == ws.foldl (fun n e => max n e.2.waited) 0)) = _
  rw [hmost, hlow]

/-! ### What a swap changes (R157) -/

theorem pfind_peach {β : Type} (m : PMap β) (g : Nat → β → β) (k : Nat) : pfind (peach m g) k = (pfind m k).map (g k) := by
  induction m with
  | nil => rfl
  | cons e m ih =>
    obtain ⟨a, b⟩ := e
    by_cases h : k = a
    · subst h
      simp [peach, pfind]
    · simpa [peach, pfind, h] using ih

theorem swapStarted_none {ck q id : Nat} {c : Crew} (h : pfind s.crews id = some c) (hk : c.core = ck) (hq : c.quarter = q) :
    SwapStarted s (s.swap ck q none (some id)) ck q none (id, c) := by
  refine ⟨by simp [State.swap], rfl, ?_, fun e he => by simp at he, fun x hx _ => ?_⟩
  · simp [State.swap, State.yieldOver, pfind_peach, pfind_pmod_same _ h, hk, hq]
  · simp [State.swap, State.yieldOver, pfind_peach, pfind_pmod_other _ _ hx]

theorem swapStarted_some {ck q id out : Nat} {c d : Crew} (h : pfind s.crews id = some c) (hk : c.core = ck) (hq : c.quarter = q)
    (hd : pfind s.crews out = some d) (hdk : d.core = ck) (hdq : d.quarter = q) (hne : out ≠ id) :
    SwapStarted s (s.swap ck q (some out) (some id)) ck q (some (out, d)) (id, c) := by
  have hid : pfind (pmod s.crews out fun c => { c with place := .movingOut }) id = some c := by
    rw [pfind_pmod_other _ _ hne.symm, h]
  refine ⟨by simp [State.swap], rfl, ?_, fun e he => ?_, fun x hx ho => ?_⟩
  · simp [State.swap, State.yieldOver, pfind_peach, pfind_pmod_same _ hid, hk, hq]
  · cases he
    simp [State.swap, State.yieldOver, pfind_peach, pfind_pmod_other _ _ hne, pfind_pmod_same _ hd, hdk, hdq]
  · simp [State.swap, State.yieldOver, pfind_peach, pfind_pmod_other _ _ hx, pfind_pmod_other _ _ (ho _ rfl)]

theorem State.enterActive_eq {id : Nat} {c : Crew} (h : pfind s.crews id = some c) (hp : c.place ≠ .left) :
    s.enterActive id = (s.nextStamp c.core c.quarter).1.setCrew id { c with
      place := .active, stamp := (s.nextStamp c.core c.quarter).2, entered := (s.nextStamp c.core c.quarter).2, run := 0
      stall := .none } := by
  simp [State.enterActive, h, hp]

theorem State.enterPending_eq {id : Nat} {c : Crew} (h : pfind s.crews id = some c) (hp : c.place ≠ .left) :
    s.enterPending id = (s.nextStamp c.core c.quarter).1.setCrew id { c with
      place := .pending, wstamp := (s.nextStamp c.core c.quarter).2, run := 0, yielded := false, waited := 0
      stall := if c.stall = .hold then .none else c.stall } := by
  simp [State.enterPending, h, hp]

/-- A crew that waits is none of the active ones. -/
theorem ne_of_waits_of_active {id out : Nat} {c d : Crew} (hc : pfind s.crews id = some c) (hd : pfind s.crews out = some d)
    (hw : c.waits = true) (ha : d.place = .active) : out ≠ id := by
  rintro rfl
  obtain rfl : c = d := Option.some.inj (hc.symm.trans hd)
  simp [Crew.waits, ha] at hw

theorem startSwap_some {ck q id out : Nat} {c d : Crew} (hfree : pfind (s.core ck).swaps q = none)
    (hw : WaitsLongest s ck q id c) (hc : pfind s.crews id = some c) (hfull : 8 ≤ s.activeCount ck q)
    (hd : pfind s.crews out = some d) (hmem : (out, d) ∈ s.quarterCrews ck q) (ha : d.place = .active)
    (hout : s.leavingCrew ck q = some out) :
    ∃ t, exec (.swapStart ck q) s = .next t ∧ SwapStarted s t ck q (some (out, d)) (id, c) := by
  obtain ⟨_, hk, hq⟩ := mem_quarterCrews.1 hw.1
  obtain ⟨_, hdk, hdq⟩ := mem_quarterCrews.1 hmem
  refine ⟨s.swap ck q (some out) (some id), ?_, swapStarted_some hc hk hq hd hdk hdq (ne_of_waits_of_active hc hd hw.2.1 ha)⟩
  change Host.Outcome.next (s.startSwap ck q) = _
  simp [State.startSwap, State.portFree, hfree, State.waitingCrew_eq hw, Nat.not_lt.2 hfull, hout]

/-- A quarter whose swap has ended, as the crew that moved in enters its active set. -/
theorem endSwap_eq {ck q id : Nat} {out : Option Nat} {c : Crew} (hs : pfind (s.core ck).swaps q = some (out, some id))
    (hc : pfind s.crews id = some c) (hp : c.place ≠ .left) (hk : c.core = ck) (hq : c.quarter = q) :
    ∃ u : State, s.endSwap ck q = out.elim u u.enterPending ∧
      pfind (u.core ck).swaps q = none ∧ pget 0 (u.core ck).stamps q = pget 0 (s.core ck).stamps q + 1 ∧ u.mem = s.mem ∧
      u.crews = pput s.crews id { c with
        place := .active, stamp := pget 0 (s.core ck).stamps q, entered := pget 0 (s.core ck).stamps q, run := 0, stall := .none } := by
  subst hk hq
  refine ⟨(s.modCore c.core (fun x => { x with swaps := pdel x.swaps c.quarter })).enterActive id, ?_, ?_⟩
  · simp only [State.endSwap, hs]
    cases out <;> rfl
  · rw [State.enterActive_eq (s := s.modCore _ _) hc hp]
    simp [State.nextStamp, pfind_pdel]

theorem swaps : Swaps := by
  refine ⟨fun s ck q id c hfree hw hc => ⟨fun hroom => ?_, fun out d hfull hd hleave => ?_⟩, fun s ck q hnone => ?_,
    fun s ck q id c n hc hp hk hq hn => ⟨fun hs => ?_, fun out d hs hne hd hdp hdk hdq => ?_⟩,
    fun s ck q id out c d hfree hfull hw hc hd hfirst => ?_⟩
  · obtain ⟨_, hk, hq⟩ := mem_quarterCrews.1 hw.1
    refine ⟨s.swap ck q none (some id), ?_, swapStarted_none hc hk hq⟩
    change Host.Outcome.next (s.startSwap ck q) = _
    simp [State.startSwap, State.portFree, hfree, State.waitingCrew_eq hw, hroom]
  · rcases hleave with hyield | ⟨hy, hstall⟩
    · exact startSwap_some hfree hw hc hfull hd hyield.1 hyield.2.1 (State.leavingCrew_yielded hyield)
    · exact startSwap_some hfree hw hc hfull hd hstall.1 hstall.2.1 (State.leavingCrew_stalled hy hstall)
  · change Host.Outcome.next (s.startSwap ck q) = _
    simp [State.startSwap, State.waitingCrew_none hnone]
  · obtain ⟨u, hu, hswap, _, hmem, hcrews⟩ := endSwap_eq hs hc hp hk hq
    subst hn
    exact ⟨u, congrArg Host.Outcome.next hu, hswap, hmem, hcrews⟩
  · obtain ⟨u, hu, hswap, hstamp, hmem, hcrews⟩ := endSwap_eq hs hc hp hk hq
    subst hn hdk hdq
    have hout : pfind u.crews out = some d := by rw [hcrews, pfind_pput_other _ _ hne, hd]
    refine ⟨_, congrArg Host.Outcome.next hu, ?_⟩
    simp only [Option.elim_some, State.enterPending_eq hout hdp]
    simp [State.nextStamp, hswap, hmem, hcrews, hstamp]
  · obtain ⟨_, hk, hq⟩ := mem_quarterCrews.1 hw.1
    obtain ⟨hmem, hact, _, hold⟩ := hfirst
    obtain ⟨_, hdk, hdq⟩ := mem_quarterCrews.1 hmem
    have hlow : lowestBy (fun c => (c.entered, 0)) (s.activeCrews ck q) = some (out, d) := by
      refine lowestBy_eq (mem_activeCrews.2 ⟨hmem, hact⟩) fun x hx hne => ?_
      obtain ⟨hx, hxa⟩ := mem_activeCrews.1 hx
      exact .inl (hold x hx hxa rfl hne)
    refine ⟨s.swap ck q (some out) (some id), ?_,
      swapStarted_some hc hk hq hd hdk hdq (ne_of_waits_of_active hc hd hw.2.1 hact)⟩
    unfold State.activeCrews at hlow
    change Host.Outcome.next (s.displace ck q) = _
    simp [State.displace, State.portFree, hfree, Nat.not_lt.2 hfull, State.latestCrew_eq hw, hlow]

end Sys2Proof.Machine

namespace Sys2Proof

/-- Settles O42. -/
theorem crewEvents : Obligations.CrewEvents := ⟨Machine.operationsComplete, Machine.swaps⟩

end Sys2Proof
end

section
/-! PROOF. Which accesses and operands trap (O19): the checks of an address in their order, the first lane that faults, and the
operands of the words that work on their crew alone. -/

namespace Sys2Proof.Machine
open Sys2Proof Sys2Proof.Stated
variable {s : State}

/-! ### The checks of an address (R305) -/

theorem rangeFault_high {rs : List Range} {k : Acc} {va n : Nat} (h : 2 ^ 57 ≤ va) :
    rangeFault rs k va n = some (mkCause 7 0 (BitVec.ofNat 64 va)) := if_pos h

theorem rangeFault_outside {rs : List Range} {k : Acc} {va n : Nat} (h : va < 2 ^ 57) (hr : ∀ r ∈ rs, r.has va n = false) :
    rangeFault rs k va n = some (mkCause 8 0 (BitVec.ofNat 64 va)) := by
  have h1 : rs.any (fun r => r.has va n && k.inRange r) = false := List.any_eq_false.2 fun r hm => by simp [hr r hm]
  have h2 : rs.any (fun r => r.has va n) = false := List.any_eq_false.2 fun r hm => by simp [hr r hm]
  rw [rangeFault, if_neg (Nat.not_le.2 h), h1, h2]
  rfl

theorem rangeFault_denied {rs : List Range} {k : Acc} {va n : Nat} (h : va < 2 ^ 57) (hr : ∃ r ∈ rs, r.has va n = true)
    (hk : ∀ r ∈ rs, r.has va n = true → k.inRange r = false) :
    rangeFault rs k va n = some (mkCause 7 1 (BitVec.ofNat 64 va)) := by
  have h1 : rs.any (fun r => r.has va n && k.inRange r) = false := List.any_eq_false.2 fun r hm => by simpa using hk r hm
  have h2 : rs.any (fun r => r.has va n) = true := List.any_eq_true.2 hr
  rw [rangeFault, if_neg (Nat.not_le.2 h), h1, h2]
  rfl

theorem rangeFault_none {rs : List Range} {k : Acc} {va n : Nat} (h : va < 2 ^ 57)
    (hr : ∃ r ∈ rs, r.has va n = true ∧ k.inRange r = true) : rangeFault rs k va n = none := by
  have h1 : rs.any (fun r => r.has va n && k.inRange r) = true := List.any_eq_true.2 (by simpa using hr)
  rw [rangeFault, if_neg (Nat.not_le.2 h), h1]
  rfl

theorem accessChecks : AccessChecks := by
  intro s l tlb k va n
  refine ⟨fun h => ?_, fun h hr => ?_, fun h hr hk => ?_, fun h hr => ⟨fun hl => ?_, fun e hl => ⟨fun hp => ?_, fun hp hv => ?_,
    fun hp hv => ?_⟩⟩⟩
  · simp only [State.checkPlain, rangeFault_high h]
  · simp only [State.checkPlain, rangeFault_outside h hr]
  · simp only [State.checkPlain, rangeFault_denied h hr hk]
  · simp only [State.checkPlain, rangeFault_none h hr, hl]
  · simp [State.checkPlain, rangeFault_none h hr, hl, hp]
  · simp [State.checkPlain, rangeFault_none h hr, hl, hp, hv]
  · simp [State.checkPlain, rangeFault_none h hr, hl, hp, hv]

/-! ### The first lane that faults (R75) -/

theorem laneLocs_error {α : Type} {check : Nat → Except Cause α} {pre post : List Nat} {l : Nat} {x : Cause}
    (hpre : ∀ h ∈ pre, ∃ q, check h = .ok q) (hl : check l = .error x) :
    laneLocs check (pre ++ l :: post) = .error { x with lane := some l } := by
  induction pre with
  | nil => simp only [List.nil_append, laneLocs, hl]
  | cons h pre ih =>
    obtain ⟨q, hq⟩ := hpre h (List.mem_cons_self ..)
    simp only [List.cons_append, laneLocs, hq, ih fun y hy => hpre y (List.mem_cons_of_mem _ hy)]

/-- The active lanes fall into those below a lane, the lane, and those above it. -/
theorem Crew.lanes_split {c : Crew} {l : Nat} (hl : l < 32) (ha : c.isActive l = true) :
    ∃ post, c.lanes = (List.range l).filter c.isActive ++ l :: post := by
  obtain ⟨n, hn⟩ : ∃ n, 32 = l + 1 + n := ⟨32 - (l + 1), by omega⟩
  have hrange : List.range 32 = List.range l ++ l :: (List.range n).map (l + 1 + ·) := by
    rw [hn, List.range_add, List.range_succ, List.append_assoc]
    rfl
  exact ⟨_, by rw [Crew.lanes, hrange, List.filter_append, List.filter_cons_of_pos ha]⟩

theorem accessAt_misaligned {c : Crew} {k : Acc} {ea : DWord} {n : Nat} (h : ea.toNat % n ≠ 0) :
    s.accessAt c k ea n = .error (mkCause 4 0 ea) := if_pos h

/-- The access of the lowest faulting lane of a crew (R75). -/
theorem laneLocs_lanes {α : Type} {c : Crew} {check : Nat → Except Cause α} {l : Nat} {x : Cause} (hl : l < 32)
    (ha : c.isActive l = true) (hx : check l = .error x) (hlow : ∀ h < l, c.isActive h = true → ∃ q, check h = .ok q) :
    laneLocs check c.lanes = .error { x with lane := some l } := by
  obtain ⟨post, hpost⟩ := Crew.lanes_split hl ha
  rw [hpost]
  exact laneLocs_error (by simpa using hlow) hx

theorem accessFaults : AccessFaults := by
  refine ⟨fun p hp f s id c l x hr hready hl ha hx hlow => ?_, fun p hp f s id c x hr hready hx => ?_,
    fun s c k ea n => accessAt_misaligned⟩
  · have hlanes := laneLocs_lanes (check := fun l => s.accessAt c p.2 (c.ea f l) (memWidth f.ty (wideMem f))) hl ha hx hlow
    simp only [List.mem_cons, List.not_mem_nil, or_false] at hp
    rcases hp with rfl | rfl
    · change execLd f s = _
      refine runCrew_raises hr hready ?_
      simp only [hlanes]
    · change execSt f s = _
      refine runCrew_raises hr hready ?_
      simp only [hlanes]
  · simp only [List.mem_cons, List.not_mem_nil, or_false] at hp
    rcases hp with rfl | rfl
    · change execLdk f s = _
      refine runCrew_raises hr hready ?_
      simp only [hx]
    · change execStk f s = _
      refine runCrew_raises hr hready ?_
      simp only [hx]

/-! ### Operands (R31, R120) -/

/-- A word that runs in the frame of a crew where one is selected, and makes no aligned access (R31, R75, R120). -/
def CrewWord (mk : Form → Instr) : Prop :=
  ∀ f : Form, (mk f).desc.acc = none ∧
    ∀ (s : State) (id : Nat), s.cur = some (.crew id) → ∃ body, exec (mk f) s = runCrew (mk f) f s body

theorem crewWord_local {mk : Form → Instr} (hacc : ∀ f, (mk f).desc.acc = none)
    (h : ∀ f s, ∃ g, exec (mk f) s = runLocal (mk f) f s g) : CrewWord mk := by
  refine fun f => ⟨hacc f, fun s id _ => ?_⟩
  obtain ⟨g, hg⟩ := h f s
  exact ⟨_, hg⟩

theorem crewWord_unit {mk : Form → Instr} (hacc : ∀ f, (mk f).desc.acc = none)
    (h : ∀ f s, ∃ op, exec (mk f) s = runUnit (mk f) f s op) : CrewWord mk := by
  refine fun f => ⟨hacc f, fun s id _ => ?_⟩
  obtain ⟨op, hop⟩ := h f s
  exact ⟨_, hop⟩

theorem crewWord_nop : CrewWord .nop := by
  refine fun f => ⟨rfl, fun s id hc => ⟨fun s id c => .ok (s.setCrew id c), ?_⟩⟩
  change execNop f s = _
  simp only [execNop, hc]
  rfl

theorem desc_cvt_acc (f : Form) : (Instr.cvt f).desc.acc = none := by
  simp only [Instr.desc]
  split <;> rfl

theorem crewWord_of_quiet : ∀ mk ∈ quietWords, CrewWord mk := by
  simp only [quietWords, List.forall_mem_cons, List.not_mem_nil, false_imp_iff, implies_true, and_true]
  refine ⟨crewWord_nop, ?_⟩
  repeat' apply And.intro
  all_goals exact crewWord_local (fun _ => rfl) fun _ _ => ⟨_, rfl⟩

theorem crewWord_of_float : ∀ mk ∈ floatWords, CrewWord mk := by
  have hcvt : CrewWord .cvt := crewWord_local desc_cvt_acc fun _ _ => ⟨_, rfl⟩
  simp only [floatWords, List.forall_mem_cons, List.not_mem_nil, false_imp_iff, implies_true, and_true, hcvt, true_and]
  repeat' apply And.intro
  all_goals exact crewWord_local (fun _ => rfl) fun _ _ => ⟨_, rfl⟩

theorem crewWord_of_unit : ∀ mk ∈ unitWords, CrewWord mk := by
  simp only [unitWords, List.forall_mem_cons, List.not_mem_nil, false_imp_iff, implies_true, and_true]
  repeat' apply And.intro
  all_goals exact crewWord_unit (fun _ => rfl) fun _ _ => ⟨_, rfl⟩

/-- The words that work on their crew alone (R51). -/
theorem crewWord_of_mem {mk : Form → Instr} (h : mk ∈ quietWords ++ floatWords ++ unitWords) : CrewWord mk := by
  rcases List.mem_append.1 h with h | h
  · exact (List.mem_append.1 h).elim (crewWord_of_quiet mk) (crewWord_of_float mk)
  · exact crewWord_of_unit mk h

end Sys2Proof.Machine
end

section
/-! SUPPORT. The bytes of a save slot (R270): a run of bytes within another, what memory holds behind a long run written at
once, and where each part of the slot stands. -/

namespace Sys2Proof.Machine
open Sys2Proof Sys2Proof.Stated

/-! ### Runs within runs -/

/-- The bytes `xs` stand in `bs` from an offset on. -/
def Slice (bs : List Byte) (off : Nat) (xs : List Byte) : Prop := ∃ pre post, bs = pre ++ xs ++ post ∧ pre.length = off

theorem Slice.trans {bs xs ys : List Byte} {i j : Nat} (h1 : Slice bs i xs) (h2 : Slice xs j ys) : Slice bs (i + j) ys := by
  obtain ⟨p, q, rfl, rfl⟩ := h1
  obtain ⟨p', q', rfl, rfl⟩ := h2
  exact ⟨p ++ p', q' ++ q, by simp only [List.append_assoc], List.length_append⟩

theorem Slice.getD {bs xs : List Byte} {off j : Nat} (h : Slice bs off xs) (hj : j < xs.length) :
    off + j < bs.length ∧ bs.getD (off + j) 0 = xs.getD j 0 := by
  obtain ⟨p, q, rfl, rfl⟩ := h
  refine ⟨by simp only [List.length_append]; omega, ?_⟩
  simp [List.getD_eq_getElem?_getD, List.append_assoc, List.getElem?_append_right, List.getElem?_append_left hj]

/-- A part of a list of runs stands behind those before it. -/
theorem Slice.flatten {parts : List (List Byte)} {i : Nat} {x : List Byte} (h : parts[i]? = some x) :
    Slice parts.flatten ((parts.map List.length).take i).sum x := by
  obtain ⟨hi, rfl⟩ := List.getElem?_eq_some_iff.1 h
  refine ⟨(parts.take i).flatten, (parts.drop (i + 1)).flatten, ?_, by simp [List.length_flatten, List.map_take]⟩
  calc parts.flatten = (parts.take i ++ parts.drop i).flatten := by rw [List.take_append_drop]
    _ = _ := by rw [List.drop_eq_getElem_cons hi, List.flatten_append, List.flatten_cons, List.append_assoc]

theorem map_length_const {g : Nat → List Byte} {w : Nat} (hw : ∀ j, (g j).length = w) (n : Nat) :
    ((List.range n).map g).map List.length = List.replicate n w := by
  rw [List.map_map, show List.map (List.length ∘ g) (List.range n) = _ from List.map_congr_left (g := fun _ => w) (fun j _ => hw j), List.map_const', List.length_range]

/-- A part of a list of runs of one width. -/
theorem Slice.range {g : Nat → List Byte} {w n i : Nat} (hw : ∀ j, (g j).length = w) (hi : i < n) :
    Slice ((List.range n).map g).flatten (w * i) (g i) := by
  have h := Slice.flatten (parts := (List.range n).map g) (i := i) (x := g i) (by simp [hi])
  rw [map_length_const hw, List.take_replicate, List.sum_replicate, Nat.min_eq_left hi.le, smul_eq_mul, Nat.mul_comm] at h
  exact h

theorem length_flatten_range {g : Nat → List Byte} {w : Nat} (hw : ∀ j, (g j).length = w) (n : Nat) :
    ((List.range n).map g).flatten.length = w * n := by
  rw [List.length_flatten, map_length_const hw, List.sum_replicate, smul_eq_mul, Nat.mul_comm]

theorem length_laneBytes {w : Nat} (n : Nat) (x : Lanes w) : (laneBytes n x).length = 32 * n := by
  rw [laneBytes, length_flatten_range (fun _ => length_leBytes _ _), Nat.mul_comm]

/-- A lane's bytes in the bytes of the lanes. -/
theorem Slice.lane {w n l : Nat} (x : Lanes w) (hl : l < 32) : Slice (laneBytes n x) (n * l) (leBytes n (laneOf x l).toNat) :=
  Slice.range (g := fun l => leBytes n (laneOf x l).toNat) (fun _ => length_leBytes _ _) hl

/-! ### A long run written at once -/

theorem pfind_filter_key {β : Type} (p : Nat → Bool) (m : PMap β) (k : Nat) :
    pfind (m.filter (fun e => p e.1)) k = if p k then pfind m k else none := by
  induction m with
  | nil => simp
  | cons e m ih =>
    obtain ⟨a, b⟩ := e
    by_cases hk : k = a
    · subst hk
      cases hp : p k <;> simp [hp, pfind, ih]
    · cases hp : p a <;> simp [hp, pfind, ih, hk]

theorem pfind_append {β : Type} (m m' : PMap β) (k : Nat) : pfind (m ++ m') k = (pfind m k).or (pfind m' k) := by
  induction m with
  | nil => rfl
  | cons e m ih =>
    obtain ⟨a, b⟩ := e
    simp only [List.cons_append, pfind, ih]
    split <;> rfl

theorem pfind_byteCells_below {a k : Nat} {bs : List Byte} (h : k < a) : pfind (byteCells a bs) k = none := by
  induction bs generalizing a with
  | nil => rfl
  | cons b bs ih =>
    simp only [byteCells]
    split
    · exact ih (by omega)
    · rw [pfind, if_neg (by omega), ih (by omega)]

theorem pfind_byteCells_above {a k : Nat} {bs : List Byte} (h : a + bs.length ≤ k) : pfind (byteCells a bs) k = none := by
  induction bs generalizing a with
  | nil => rfl
  | cons b bs ih =>
    have hk : a + 1 + bs.length ≤ k := by simpa [Nat.add_assoc, Nat.add_comm 1] using h
    simp only [byteCells]
    split
    · exact ih hk
    · rw [pfind, if_neg (by omega), ih hk]

theorem pget_byteCells {a j : Nat} {bs : List Byte} (h : j < bs.length) : pget 0 (byteCells a bs) (a + j) = bs.getD j 0 := by
  induction bs generalizing a j with
  | nil => cases h
  | cons b bs ih =>
    cases j with
    | zero =>
      simp only [byteCells]
      split
      · next hb => simp [pget, hb, pfind_byteCells_below]
      · simp [pget, pfind]
    | succ j =>
      have ih' := ih (a := a + 1) (Nat.lt_of_succ_lt_succ h)
      rw [Nat.add_right_comm, Nat.add_assoc] at ih'
      simp only [byteCells]
      split
      · simpa using ih'
      · simpa [pget, pfind] using ih'

theorem Memory.read_splice_in (m : Memory) (a : Nat) {bs : List Byte} {j : Nat} (h : j < bs.length) :
    (m.splice a bs).read (a + j) = bs.getD j 0 := by
  have hlow : pfind (m.filter (fun e => decide (e.1 < a))) (a + j) = none := by
    simp [pfind_filter_key (fun k => decide (k < a))]
  have hhigh : pfind (m.filter (fun e => decide (a + bs.length ≤ e.1))) (a + j) = none := by
    simp [pfind_filter_key (fun k => decide (a + bs.length ≤ k)), h]
  rw [Memory.read, Memory.splice, pget, pfind_append, pfind_append, hlow, hhigh, Option.none_or, Option.or_none]
  exact pget_byteCells h

theorem Memory.read_splice_out (m : Memory) {a : Nat} {bs : List Byte} {x : Nat} (h : ¬(a ≤ x ∧ x < a + bs.length)) :
    (m.splice a bs).read x = m.read x := by
  rw [Memory.read, Memory.splice, pget, pfind_append, pfind_append, pfind_filter_key (fun k => decide (k < a)),
    pfind_filter_key (fun k => decide (a + bs.length ≤ k)), Memory.read, pget]
  by_cases hx : x < a
  · simp [hx, pfind_byteCells_below, show ¬a + bs.length ≤ x from by omega]
  · have hx' : a + bs.length ≤ x := by omega
    simp [hx, hx', pfind_byteCells_above]

/-- What a read within the run gives. -/
theorem Memory.readBytes_splice (m : Memory) (a : Nat) {bs xs : List Byte} {off : Nat} (h : Slice bs off xs) :
    (m.splice a bs).readBytes (a + off) xs.length = xs := by
  refine List.ext_getElem (by simp) fun j _ hj => ?_
  obtain ⟨hlt, hget⟩ := h.getD hj
  calc ((m.splice a bs).readBytes (a + off) xs.length)[j] = (m.splice a bs).read (a + (off + j)) := by
        simp [Memory.readBytes, Nat.add_assoc]
    _ = xs[j] := by rw [Memory.read_splice_in m a hlt, hget, List.getD_eq_getElem _ _ hj]

/-- A number within the run, read back (R3). -/
theorem Memory.leNat_splice (m : Memory) (a : Nat) {bs : List Byte} {off n v : Nat} (h : Slice bs off (leBytes n v)) :
    leNat ((m.splice a bs).readBytes (a + off) n) = v % 256 ^ n := by
  have hr := Memory.readBytes_splice m a h
  rw [length_leBytes] at hr
  rw [hr, leNat_leBytes]

end Sys2Proof.Machine
end


section
/-! SUPPORT. The parts of a save slot, one behind the other, and what its words hold (R270). -/

namespace Sys2Proof.Machine
open Sys2Proof Sys2Proof.Stated

/-- The parts of a save slot in their order (R270). -/
def Crew.slotParts (c : Crew) (hdr : DWord) (idx : Nat) (mode : Bool) (x : Cause) (fpc : DWord) : List (List Byte) :=
  [leBytes 8 hdr.toNat, leBytes 8 (slotFlags c idx mode), leBytes 8 x.word.toNat, leBytes 8 fpc.toNat,
    leBytes 8 x.info.toNat, leBytes 8 c.em.toNat,
    ((List.range 8).map (fun n => leBytes 4 (c.mget n).toNat)).flatten, leBytes 8 c.fxs.toNat,
    (List.range 12).map (fun n => BitVec.ofNat 8 (c.ops.filter (fun o => !o.done && o.flag = n)).length),
    [Path.ld, .st, .sl, .rm, .tn].map (fun p => BitVec.ofNat 8 (c.ops.filter (fun o => o.path = p)).length),
    List.replicate 7 0, bits8 2 (fun a => (c.hget a).pend.isSome), List.replicate 6 0,
    leBytes 8 (c.sect.getD 0).toNat, bits8 32 c.vAwaits, queueBytes c.queued, bits8 8 c.kAwaits,
    List.replicate 24 0, ((List.range 64).map (fun n => leBytes 8 (c.kget n).toNat)).flatten,
    ((List.range 16).map (fun a => laneBytes 8 (c.hget a).vals)).flatten,
    ((List.range c.nreg).map (fun n => laneBytes 4 (c.vget n))).flatten]

variable (c : Crew) (hdr : DWord) (idx : Nat) (mode : Bool) (x : Cause) (fpc : DWord)

/-- Runs joined from the left, as the slot joins them. -/
theorem flatten_cons_eq_foldl (first : List Byte) (rest : List (List Byte)) :
    (first :: rest).flatten = rest.foldl (· ++ ·) first := by
  induction rest generalizing first with
  | nil => simp
  | cons l rest ih => rw [List.foldl_cons, ← ih, List.flatten_cons, List.flatten_cons, List.flatten_cons, List.append_assoc]

theorem Crew.slotBytes_eq : c.slotBytes hdr idx mode x fpc = (c.slotParts hdr idx mode x fpc).flatten := by
  unfold Crew.slotParts
  rw [flatten_cons_eq_foldl]
  rfl

theorem length_queueBytes (q : List Cause) : (queueBytes q).length = 64 := by
  refine length_flatten_range (w := 16) (fun j => ?_) 4
  cases q[j]? with
  | none => rfl
  | some y => rw [List.length_append, length_leBytes, length_leBytes]

/-- Widths of the parts (R270). -/
theorem Crew.slotParts_lengths : (c.slotParts hdr idx mode x fpc).map List.length =
    [8, 8, 8, 8, 8, 8, 32, 8, 12, 5, 7, 2, 6, 8, 32, 64, 8, 24, 512, 4096, 128 * c.nreg] := by
  have h4 := fun j => length_leBytes 4 (c.mget j).toNat
  have h8 := fun j => length_leBytes 8 (c.kget j).toNat
  have hh := fun j => length_laneBytes 8 (c.hget j).vals
  have hv := fun j => length_laneBytes 4 (c.vget j)
  simp only [Crew.slotParts, List.map_cons, List.map_nil, length_leBytes, length_flatten_range h4, length_flatten_range h8,
    length_flatten_range hh, length_flatten_range hv, length_queueBytes, bits8, List.length_map, List.length_range,
    List.length_replicate, List.length_cons, List.length_nil]

theorem Crew.length_slotBytes : (c.slotBytes hdr idx mode x fpc).length = slotSize c.nreg := by
  rw [Crew.slotBytes_eq, List.length_flatten, Crew.slotParts_lengths]
  simp only [List.sum_cons, List.sum_nil, slotSize]
  omega

/-- A part of the slot stands behind the widths of those before it. -/
theorem Crew.slice_slotParts {i off : Nat} {bs : List Byte} (h : (c.slotParts hdr idx mode x fpc)[i]? = some bs)
    (hoff : ([8, 8, 8, 8, 8, 8, 32, 8, 12, 5, 7, 2, 6, 8, 32, 64, 8, 24, 512, 4096, 128 * c.nreg].take i).sum = off) :
    Slice (c.slotBytes hdr idx mode x fpc) off bs := by
  rw [← hoff, ← c.slotParts_lengths hdr idx mode x fpc, c.slotBytes_eq]
  exact Slice.flatten h

/-! ### Its words -/

theorem Crew.slice_mask {n : Nat} (h : n < 8) :
    Slice (c.slotBytes hdr idx mode x fpc) (0x30 + 4 * n) (leBytes 4 (c.mget n).toNat) :=
  (c.slice_slotParts hdr idx mode x fpc (i := 6) rfl (by simp)).trans
    (Slice.range (g := fun n => leBytes 4 (c.mget n).toNat) (fun _ => length_leBytes _ _) h)

theorem Crew.slice_k {n : Nat} (h : n < 64) :
    Slice (c.slotBytes hdr idx mode x fpc) (0x100 + 8 * n) (leBytes 8 (c.kget n).toNat) :=
  (c.slice_slotParts hdr idx mode x fpc (i := 18) rfl (by simp)).trans
    (Slice.range (g := fun n => leBytes 8 (c.kget n).toNat) (fun _ => length_leBytes _ _) h)

theorem Crew.slice_hist {a l : Nat} (ha : a < 16) (hl : l < 32) :
    Slice (c.slotBytes hdr idx mode x fpc) (0x300 + 256 * a + 8 * l) (leBytes 8 (laneOf (c.hget a).vals l).toNat) :=
  ((c.slice_slotParts hdr idx mode x fpc (i := 19) rfl (by simp)).trans
    (Slice.range (g := fun a => laneBytes 8 (c.hget a).vals) (fun _ => length_laneBytes _ _) ha)).trans (Slice.lane _ hl)

theorem Crew.slice_v {n l : Nat} (hn : n < c.nreg) (hl : l < 32) :
    Slice (c.slotBytes hdr idx mode x fpc) (0x1300 + 128 * n + 4 * l) (leBytes 4 (laneOf (c.vget n) l).toNat) :=
  ((c.slice_slotParts hdr idx mode x fpc (i := 20) rfl (by simp)).trans
    (Slice.range (g := fun n => laneBytes 4 (c.vget n)) (fun _ => length_laneBytes _ _) hn)).trans (Slice.lane _ hl)

end Sys2Proof.Machine
end

section
/-! PROOF. Operands that trap, and the trap's entry into the handler (R31, R120, R267, R270, R272). -/

namespace Sys2Proof.Machine
open Sys2Proof Sys2Proof.Stated
variable {s : State} {id : Nat} {c : Crew}

/-! ### The slot in memory -/

theorem slotKey_eq (s : State) (c : Crew) : slotKey s c = c.isl * 2 ^ 64 + (ctxBase + c.slot) := by
  have h : isCxl (ctxBase + c.slot) = false := by
    rw [isCxl, decide_eq_false (Nat.not_lt.2 (Nat.le_add_right ctxBase c.slot)), Bool.and_false]
  simp [slotKey, State.homeKey, h]

/-- Two states have a crew's slot at one home. -/
theorem slotKey_congr (s t : State) (c : Crew) : slotKey s c = slotKey t c := by rw [slotKey_eq, slotKey_eq]

section
variable {t : State} {m : Memory} {bs : List Byte} (ht : t.mem = m.splice (slotKey t c) bs)
include ht

theorem slotWord_of_slice {off v : Nat} (h : Slice bs off (leBytes 8 v)) : slotWord t c off = BitVec.ofNat 64 v := by
  rw [slotWord, ht, Memory.leNat_splice m _ h]
  exact BitVec.eq_of_toNat_eq (by simp)

theorem slotHalf_of_slice {off v : Nat} (h : Slice bs off (leBytes 4 v)) : slotHalf t c off = BitVec.ofNat 32 v := by
  rw [slotHalf, ht, Memory.leNat_splice m _ h]
  exact BitVec.eq_of_toNat_eq (by simp)

end

/-! ### The entry -/

/-- The live context at the handler keeps the values of the history. -/
theorem Crew.enterLive_hget (c : Crew) (entry : DWord) (a : Nat) : ((c.enterLive entry).hget a).vals = (c.hget a).vals := by
  simp only [Crew.hget, Crew.enterLive, Crew.jump, List.getD_eq_getElem?_getD, List.getElem?_map]
  cases c.hist[a]? <;> rfl

theorem State.flushRun_of_none {ck : Nat} (la n : Nat) (h : (s.core ck).lines = []) : s.flushRun ck la n = s := by
  simp [State.flushRun, h]

/-- Nothing outstanding: the slot takes the crew's state, and the handler starts (R270, R272). -/
theorem State.enterTrap_entered (h : pfind s.crews id = some c) (ho : c.ops = []) (x : Cause) (skip : Nat) :
    Entered s (s.enterTrap id x skip).issued id c x.word x.info skip := by
  have ht : (s.enterTrap id x skip).issued.mem = (s.flushRun c.core (ctxBase + c.slot) (slotSize c.nreg)).mem.splice
      (slotKey (s.enterTrap id x skip).issued c) (c.slotBytes c.hdr (c.idx + skip) true x c.pc) := by
    rw [slotKey_congr _ (s.flushRun c.core (ctxBase + c.slot) (slotSize c.nreg)) c]
    simp only [State.enterTrap, h]
    rfl
  have hcrew : pfind (s.enterTrap id x skip).issued.crews id = some (c.enterLive (s.launchOf c).handler) := by
    simp [State.enterTrap, h]
  have hlive : (c.enterLive (s.launchOf c).handler).ops = [] := by simp [Crew.enterLive, Crew.jump, ho]
  have part {i off : Nat} {bs : List Byte} := c.slice_slotParts c.hdr (c.idx + skip) true x c.pc (i := i) (off := off) (bs := bs)
  have word {off v : Nat} := slotWord_of_slice ht (off := off) (v := v)
  have half {off v : Nat} := slotHalf_of_slice ht (off := off) (v := v)
  generalize (s.enterTrap id x skip).issued = t at ht hcrew word half ⊢
  refine ⟨⟨_, hcrew, rfl, rfl, rfl, rfl, rfl, rfl, hlive, rfl, rfl, rfl, fun a _ => c.enterLive_hget _ a⟩,
    ?hdr, ?flags, ?cause, ?pc, ?info, ?em, ?fxs, fun n hn => ?k, fun n hn => ?m, fun n hn l hl => ?v, fun a ha l hl => ?hist,
    fun hlines a ha => ?frame⟩
  case hdr => simpa using word (part (i := 0) rfl rfl)
  case flags => exact word (part (i := 1) rfl rfl)
  case cause => simpa using word (part (i := 2) rfl rfl)
  case pc => simpa using word (part (i := 3) rfl rfl)
  case info => simpa using word (part (i := 4) rfl rfl)
  case em => simpa using word (part (i := 5) rfl rfl)
  case fxs => simpa using word (part (i := 7) rfl rfl)
  case k => simpa using word (c.slice_k c.hdr (c.idx + skip) true x c.pc hn)
  case m => simpa using half (c.slice_mask c.hdr (c.idx + skip) true x c.pc hn)
  case v => simpa using half (c.slice_v c.hdr (c.idx + skip) true x c.pc hn hl)
  case hist => simpa using word (c.slice_hist c.hdr (c.idx + skip) true x c.pc ha hl)
  case frame =>
    rw [ht, State.flushRun_of_none _ _ hlines]
    refine Memory.read_splice_out _ ?_
    rwa [slotKey_congr t s, Crew.length_slotBytes]

/-! ### The trap -/

/-- A trap that is not fatal, in a crew that is not in its handler and has one: the drain, and the entry behind it (R272). -/
theorem State.raiseTrap_of_drained {d : Crew} {x : Cause} (skip : Nat) (h : pfind s.crews id = some c) (hx : x.fatal = false)
    (hh : c.handler = false) (hok : (s.launchOf c).handlerOk = true) (hd : pfind (s.drain id c.ops).crews id = some d)
    (hops : d.ops = []) : s.raiseTrap id x skip = (s.drain id c.ops).enterTrap id x skip := by
  have hleft : d.undrained = false := by simp [Crew.undrained, hops]
  simp [State.raiseTrap, h, hx, hh, hok, hd, hleft]

/-- With nothing outstanding a trap enters at once. -/
theorem State.raiseTrap_enters {x : Cause} (skip : Nat) (h : pfind s.crews id = some c) (hx : x.fatal = false)
    (hh : c.handler = false) (hok : (s.launchOf c).handlerOk = true) (ho : c.ops = []) :
    Entered s (s.raiseTrap id x skip).issued id c x.word x.info skip := by
  have hdrain : s.drain id c.ops = s := by rw [ho, State.drain]
  rw [State.raiseTrap_of_drained skip h hx hh hok (by rwa [hdrain]) ho, hdrain]
  exact State.enterTrap_entered h ho x skip

/-- The one operation outstanding has completed by the entry (R272). -/
theorem State.raiseTrap_enters_behind {x : Cause} {o : Op} (skip : Nat) (h : pfind s.crews id = some c) (hx : x.fatal = false)
    (hh : c.handler = false) (hok : (s.launchOf c).handlerOk = true) (ho : c.ops = [o]) (hdone : o.done = false)
    (hheld : o.held = false) (hfrozen : o.frozen = false) (hafter : o.after = []) (hpath : o.path ≠ .rm) (hhn : o.hn = none)
    (htrig : c.trigWait = none) :
    Entered s (s.raiseTrap id x skip).issued id { c.land o with ops := [] } x.word x.info skip := by
  have hdrain : s.drain id c.ops = s.setCrew id { c.land o with ops := [] } := by
    have hnot : ¬(decide (o.path = .rm) || o.frozen) = true := by simp [hpath, hfrozen]
    rw [ho, State.drain, if_neg hnot, State.completeOp_single h ho hdone hheld hafter hfrozen htrig,
      State.handRecord_of_none (.inl hhn), State.drain]
  have hd : pfind (s.drain id c.ops).crews id = some { c.land o with ops := [] } := by
    rw [hdrain, State.pfind_setCrew_same]
  rw [State.raiseTrap_of_drained skip h hx hh hok hd rfl, hdrain]
  exact State.enterTrap_entered (State.pfind_setCrew_same id _) rfl x skip

/-! ### Operands -/

theorem Crew.preFault_of_pending {d : Desc} {f : Form} (h : c.pendingFault d f ≠ none) : c.preFault d f = some (mkCause 3 0 0) := by
  have hp : c.pendingFault d f = some (mkCause 3 0 0) := by
    unfold Crew.pendingFault at h ⊢
    split
    · rfl
    · next hn => exact absurd (if_neg hn) h
  simp [Crew.preFault, hp]

/-- The alignment of an access is not judged where the word makes none. -/
theorem Crew.preFault_of_bounds {d : Desc} {f : Form} {x : Cause} (hacc : d.acc = none) (hp : c.pendingFault d f = none)
    (hb : c.boundsFault d f = some x) : c.preFault d f = some x := by
  simp [Crew.preFault, hp, hb, Crew.alignFault, hacc]

/-- A word that works on its crew traps on its operands before it has any effect. -/
theorem CrewWord.raises {mk : Form → Instr} (hmk : CrewWord mk) {f : Form} {x : Cause} (hr : Runs s id c)
    (hx : c.preFault (mk f).desc f = some x) : Raises s id (mk f) x := by
  obtain ⟨body, hbody⟩ := (hmk f).2 s id hr.1
  rw [Raises, hbody, runCrew_trap hr.curCrew hx]

theorem operandTraps : OperandTraps := by
  intro mk hmem f s id c hr
  have hmk := crewWord_of_mem hmem
  exact ⟨fun hp => hmk.raises hr (Crew.preFault_of_pending hp),
    fun x hp hb => hmk.raises hr (Crew.preFault_of_bounds (hmk f).1 hp hb)⟩

/-- The cause word has no field but the code (R268). -/
theorem causeBounds_word (n : Nat) : (causeBounds n).word = 6 := by
  change (0 : BitVec 32) ++ BitVec.ofNat 32 6 = (6 : BitVec 64)
  decide

theorem preciseTrapEnters : PreciseTrapEnters := by
  intro mk hmem f s id c hr hh hok
  have htrap := operandTraps mk hmem f s id c hr
  refine ⟨fun n ho hb hp => ⟨_, htrap.2 _ hp hb, ?_⟩,
    fun o ho hdone hheld hfrozen hafter hpath hhn htrig hp => ⟨_, htrap.1 hp, ?_⟩⟩
  · have hentered := State.raiseTrap_enters (x := causeBounds n) 0 hr.2 rfl hh hok ho
    rwa [causeBounds_word] at hentered
  · exact State.raiseTrap_enters_behind (x := mkCause 3 0 0) 0 hr.2 rfl hh hok ho hdone hheld hfrozen hafter hpath hhn htrig

/-- Settles O19: the two halves on accesses, and the operand traps with their entry, for the words that work on their crew. -/
theorem accessTraps : Obligations.AccessTraps := ⟨accessFaults, accessChecks, operandTraps, preciseTrapEnters⟩

end Sys2Proof.Machine
end

section
/-! PROOF. Control transfers (O13): a transfer goes to the header at its target, or traps with the target and has not happened. -/

namespace Sys2Proof.Machine
open Sys2Proof Sys2Proof.Stated
variable {s : State} {id : Nat} {c : Crew} {f : Form} {i : Instr} {body : State → Nat → Crew → Eff} {t : DWord} {g : Crew → Crew}

/-- A word that passes with its crew changed. -/
theorem runCrew_setCrew {d : Crew} (hr : Runs s id c) (hp : Ready c i f) (hb : body s id c = .ok (s.setCrew id d)) :
    runCrew i f s body = .next (After s id (past d f)) := by
  rw [runCrew_next hr.curCrew hp, hb, Eff.finish, State.modCrew_setCrew]
  rfl

/-- A target that is not aligned, or that can be fetched and holds no clause header, is sub-cause 7 (R39, R61). -/
theorem targetFault_of_noHeaderAt (h : NoHeaderAt s c t) : s.targetFault c.core (s.launchOf c) t = some (mkCause 1 7 t) := by
  rcases h with h | ⟨n, hk, hn⟩
  · exact if_pos h
  · exact targetFault_of_kind hk hn

/-- The word, where its crew and its operands meet `taken`, transfers to `target` with the crew changed by `g` (R61, R62). -/
def IsTransfer (mk : Form → Instr) (taken : Form → Crew → Prop) (target : Form → Crew → DWord) (g : Form → Crew → Crew) : Prop :=
  ∀ (f : Form) (s : State), ∃ body, exec (mk f) s = runCrew (mk f) f s body ∧
    ∀ id c, taken f c → body s id c = transferEff s id c (target f c) (g f)

/-- The target of a direct transfer (R61), and that of one through a register. -/
def directOf (f : Form) (c : Crew) : DWord := c.pc + f.offset * 4
def uniformOf (f : Form) (c : Crew) : DWord := c.uni f 2 f.a

/-- The crew with the address behind a `call` in its register (R62). -/
def linked (f : Form) (c : Crew) : Crew := c.kset f.dst.toNat (c.pc + BitVec.ofNat 64 f.len.bytes)

section
variable {mk : Form → Instr} {target : Form → Crew → DWord} {g : Form → Crew → Crew}

theorem isTransfer_always
    (h : ∀ f s, exec (mk f) s = runCrew (mk f) f s (fun s id c => transferEff s id c (target f c) (g f))) :
    IsTransfer mk (fun _ _ => True) target g := fun f s => ⟨_, h f s, fun _ _ _ => rfl⟩

theorem isTransfer_if {taken : Form → Crew → Prop} [∀ f c, Decidable (taken f c)] {other : Form → State → Nat → Crew → Eff}
    (h : ∀ f s, exec (mk f) s = runCrew (mk f) f s (fun s id c =>
      if taken f c then transferEff s id c (target f c) (g f) else other f s id c)) :
    IsTransfer mk taken target g := fun f s => ⟨_, h f s, fun _ _ ht => if_pos ht⟩

end

theorem bra_isTransfer : IsTransfer .bra (fun _ _ => True) directOf (fun _ c => c) := isTransfer_always fun _ _ => rfl
theorem bri_isTransfer : IsTransfer .bri (fun _ _ => True) uniformOf (fun _ c => c) := isTransfer_always fun _ _ => rfl
theorem ret_isTransfer : IsTransfer .ret (fun _ _ => True) uniformOf (fun _ c => c) := isTransfer_always fun _ _ => rfl
theorem call_isTransfer : IsTransfer .call (fun _ _ => True) directOf linked := isTransfer_always fun _ _ => rfl
theorem callI_isTransfer : IsTransfer .callI (fun _ _ => True) uniformOf linked := isTransfer_always fun _ _ => rfl

theorem brc_isTransfer : IsTransfer .brc (fun f c => brcHolds c f = true) directOf (fun _ c => c) :=
  isTransfer_if (other := fun _ s _ _ => .ok s) fun _ _ => rfl

/-- `loop` transfers while its counter, one less, is not 0 (R62). -/
theorem loop_isTransfer : IsTransfer .loop (fun f c => c.kget f.dst.toNat - 1 ≠ 0) directOf
    (fun f c => c.kset f.dst.toNat (c.kget f.dst.toNat - 1)) :=
  isTransfer_if (other := fun f s id c => .ok (s.setCrew id (c.kset f.dst.toNat (c.kget f.dst.toNat - 1)))) fun _ _ => rfl

section
variable {mk : Form → Instr} {taken : Form → Crew → Prop} {target : Form → Crew → DWord} {g : Form → Crew → Crew}

/-- A transfer to a clause header: the crew, changed, is at the header (R29, R61). -/
theorem IsTransfer.sent (h : IsTransfer mk taken target g) (hr : Runs s id c) (hp : Ready c (mk f) f) (hc : taken f c)
    (ht : HeaderAt s c (target f c)) : exec (mk f) s = .next (After s id (sent (g f c) (target f c))) := by
  obtain ⟨body, hexec, hbody⟩ := h f s
  rw [hexec, runCrew_next hr.curCrew hp, hbody id c hc, transferEff, targetFault_of_headerAt ht]
  rfl

/-- A transfer to what is no clause header has not happened (R61). -/
theorem IsTransfer.raises (h : IsTransfer mk taken target g) (hr : Runs s id c) (hp : Ready c (mk f) f) (hc : taken f c)
    (ht : NoHeaderAt s c (target f c)) : Raises s id (mk f) (mkCause 1 7 (target f c)) := by
  obtain ⟨body, hexec, hbody⟩ := h f s
  rw [Raises, hexec]
  exact runCrew_raises hr hp (by rw [hbody id c hc, transferEff, targetFault_of_noHeaderAt ht])

end

theorem transfersTaken : TransfersTaken :=
  ⟨fun _ _ _ _ hr hp ht => bra_isTransfer.sent hr hp trivial ht, fun _ _ _ _ hr hp hc ht => brc_isTransfer.sent hr hp hc ht,
    fun _ _ _ _ hr hp ht => bri_isTransfer.sent hr hp trivial ht, fun _ _ _ _ hr hp ht => ret_isTransfer.sent hr hp trivial ht,
    fun _ _ _ _ hr hp ht => call_isTransfer.sent hr hp trivial ht,
    fun _ _ _ _ hr hp ht => callI_isTransfer.sent hr hp trivial ht, fun _ _ _ _ hr hp hn ht => loop_isTransfer.sent hr hp (sub_ne_zero_of_ne hn) ht⟩

theorem transfersPassed : TransfersPassed := by
  refine ⟨fun f s id c hr hp hc => ?_, fun f s id c hr hp h1 => ?_⟩
  · change execBrc f s = _
    exact runCrew_pass hr hp (if_neg (by simp [hc]))
  · change execLoop f s = _
    exact runCrew_setCrew hr hp (by simp [h1])

theorem targetTrap : TargetTrap := by
  refine ⟨fun mk hmem f s id c hr hp hbrc hloop ht => ?_, fun mk hmem f s id c hr hp ht => ?_⟩
  · simp only [List.mem_cons, List.not_mem_nil, or_false] at hmem
    rcases hmem with rfl | rfl | rfl | rfl
    · exact bra_isTransfer.raises hr hp trivial ht
    · exact call_isTransfer.raises hr hp trivial ht
    · exact brc_isTransfer.raises hr hp (hbrc rfl) ht
    · exact loop_isTransfer.raises hr hp (sub_ne_zero_of_ne (hloop rfl)) ht
  · simp only [List.mem_cons, List.not_mem_nil, or_false] at hmem
    rcases hmem with rfl | rfl | rfl
    · exact bri_isTransfer.raises hr hp trivial ht
    · exact ret_isTransfer.raises hr hp trivial ht
    · exact callI_isTransfer.raises hr hp trivial ht

/-- Settles O13: each control transfer is one of `IsTransfer`, which goes to its target or traps there. -/
theorem transfers : Obligations.Transfers := ⟨transfersTaken, transfersPassed, targetTrap⟩

end Sys2Proof.Machine
end

section
/-! SUPPORT. What the result of a word leaves of its crew: the registers and the history entry that it writes, lane by lane, and
all that it does not write (R37, R51, R53, R54, R60, R116). -/

namespace Sys2Proof.Machine
open Sys2Proof Sys2Proof.Stated
variable {s : State} {id : Nat} {c d : Crew} {f : Form} {i : Instr}

/-! ### Registers -/

@[simp] theorem Crew.vget_vset_same (c : Crew) (n : Nat) (x : Lanes 32) : (c.vset n x).vget n = x := by simp [Crew.vget, Crew.vset]

theorem Crew.vget_vset_other (c : Crew) {n r : Nat} (x : Lanes 32) (h : r ≠ n) : (c.vset n x).vget r = c.vget r :=
  pget_pset_other _ _ x h

@[simp] theorem Crew.kget_kset_same (c : Crew) (n : Nat) (x : DWord) : (c.kset n x).kget n = x := by simp [Crew.kget, Crew.kset]

theorem Crew.kget_kset_other (c : Crew) {n r : Nat} (x : DWord) (h : r ≠ n) : (c.kset n x).kget r = c.kget r :=
  pget_pset_other _ _ x h

@[simp] theorem Crew.isActive_writeV (c : Crew) (n : Nat) (g : Nat → Word) (l : Nat) :
    (c.writeV n g).isActive l = c.isActive l := rfl

theorem Crew.laneOf_writeV_same (c : Crew) (n : Nat) (g : Nat → Word) {l : Nat} (hl : l < 32) :
    laneOf ((c.writeV n g).vget n) l = if c.isActive l then g l else laneOf (c.vget n) l := by
  rw [Crew.writeV, Crew.vget_vset_same, laneOf_lanesBy _ hl]

theorem Crew.vget_writeV_other (c : Crew) {n r : Nat} (g : Nat → Word) (h : r ≠ n) : (c.writeV n g).vget r = c.vget r :=
  Crew.vget_vset_other _ _ h

/-- A write to a named register leaves every lane of an inactive one (R51). -/
theorem Crew.laneOf_writeV_inactive (c : Crew) (n r : Nat) (g : Nat → Word) {l : Nat} (hl : l < 32) (ha : c.isActive l = false) :
    laneOf ((c.writeV n g).vget r) l = laneOf (c.vget r) l := by
  by_cases h : r = n
  · subst h
    simp [c.laneOf_writeV_same r g hl, ha]
  · rw [c.vget_writeV_other g h]

/-- The named registers of a per-lane result (R37, R53). -/
def Crew.resultRegs (c : Crew) (f : Form) (regs : Nat) (res : Nat → DWord) : Crew :=
  if f.nd then
    if regs = 2 then (c.writeV f.dst.toNat (fun l => lowWord (res l))).writeV (f.dst.toNat + 1) (fun l => highWord (res l))
    else c.writeV f.dst.toNat (fun l => lowWord (res l))
  else c

theorem Crew.resultLanes_eq (c : Crew) (f : Form) (regs : Nat) (res : Nat → DWord) :
    c.resultLanes f regs res = (c.resultRegs f regs res).pushLanes res := rfl

/-- A crew with named registers of its own. -/
theorem Crew.resultRegs_rest (c : Crew) (f : Form) (regs : Nat) (res : Nat → DWord) :
    c.resultRegs f regs res = { c with v := (c.resultRegs f regs res).v } := by
  unfold Crew.resultRegs
  split
  · split <;> rfl
  · rfl

@[simp] theorem Crew.resultRegs_isActive (c : Crew) (f : Form) (regs : Nat) (res : Nat → DWord) (l : Nat) :
    (c.resultRegs f regs res).isActive l = c.isActive l := by rw [Crew.resultRegs_rest]; rfl

theorem Crew.resultRegs_of_nd_false {regs : Nat} (res : Nat → DWord) (h : f.nd = false) : c.resultRegs f regs res = c := by
  simp [Crew.resultRegs, h]

theorem Crew.resultRegs_of_two (res : Nat → DWord) (h : f.nd = true) : c.resultRegs f 2 res =
    (c.writeV f.dst.toNat (fun l => lowWord (res l))).writeV (f.dst.toNat + 1) (fun l => highWord (res l)) := by
  simp [Crew.resultRegs, h]

theorem Crew.resultRegs_of_one {regs : Nat} (res : Nat → DWord) (h : f.nd = true) (h2 : regs ≠ 2) :
    c.resultRegs f regs res = c.writeV f.dst.toNat (fun l => lowWord (res l)) := by
  simp [Crew.resultRegs, h, h2]

/-- The lanes of the first register of a result. -/
theorem Crew.laneOf_resultRegs_low (c : Crew) (f : Form) (regs : Nat) (res : Nat → DWord) {l : Nat} (hl : l < 32) :
    laneOf ((c.resultRegs f regs res).vget f.dst.toNat) l
      = if f.nd ∧ c.isActive l then lowWord (res l) else laneOf (c.vget f.dst.toNat) l := by
  cases hnd : f.nd with
  | false => simp [Crew.resultRegs_of_nd_false res hnd]
  | true =>
    simp only [true_and]
    rw [← c.laneOf_writeV_same f.dst.toNat (fun l => lowWord (res l)) hl]
    by_cases h2 : regs = 2
    · subst h2
      rw [Crew.resultRegs_of_two res hnd, Crew.vget_writeV_other _ _ (Nat.ne_of_lt (Nat.lt_succ_self _))]
    · rw [Crew.resultRegs_of_one res hnd h2]

/-- The lanes of the second register of a result of two. -/
theorem Crew.laneOf_resultRegs_high (c : Crew) (f : Form) (res : Nat → DWord) {l : Nat} (hl : l < 32) :
    laneOf ((c.resultRegs f 2 res).vget (f.dst.toNat + 1)) l
      = if f.nd ∧ c.isActive l then highWord (res l) else laneOf (c.vget (f.dst.toNat + 1)) l := by
  cases hnd : f.nd with
  | false => simp [Crew.resultRegs_of_nd_false res hnd]
  | true =>
    rw [Crew.resultRegs_of_two res hnd, Crew.laneOf_writeV_same _ _ _ hl, c.vget_writeV_other _ (Nat.succ_ne_self _),
      Crew.isActive_writeV]
    cases c.isActive l <;> simp

/-- A result writes no register but its own. -/
theorem Crew.vget_resultRegs_other (c : Crew) (f : Form) {regs r : Nat} (res : Nat → DWord) (h1 : 1 ≤ regs)
    (h : ¬(f.nd = true ∧ f.dst.toNat ≤ r ∧ r < f.dst.toNat + regs)) : (c.resultRegs f regs res).vget r = c.vget r := by
  cases hnd : f.nd with
  | false => rw [Crew.resultRegs_of_nd_false res hnd]
  | true =>
    have hr : ¬(f.dst.toNat ≤ r ∧ r < f.dst.toNat + regs) := fun hr => h ⟨hnd, hr⟩
    have h0 : r ≠ f.dst.toNat := by omega
    by_cases h2 : regs = 2
    · subst h2
      rw [Crew.resultRegs_of_two res hnd, Crew.vget_writeV_other _ _ (by omega), c.vget_writeV_other _ h0]
    · rw [Crew.resultRegs_of_one res hnd h2, c.vget_writeV_other _ h0]

theorem Crew.laneOf_resultRegs_inactive (c : Crew) (f : Form) (regs r : Nat) (res : Nat → DWord) {l : Nat} (hl : l < 32)
    (ha : c.isActive l = false) : laneOf ((c.resultRegs f regs res).vget r) l = laneOf (c.vget r) l := by
  cases hnd : f.nd with
  | false => rw [Crew.resultRegs_of_nd_false res hnd]
  | true =>
    by_cases h2 : regs = 2
    · subst h2
      rw [Crew.resultRegs_of_two res hnd]
      rw [Crew.laneOf_writeV_inactive _ _ r _ hl (by rwa [Crew.isActive_writeV]), c.laneOf_writeV_inactive _ r _ hl ha]
    · rw [Crew.resultRegs_of_one res hnd h2, c.laneOf_writeV_inactive _ r _ hl ha]

/-! ### The history -/

/-- The value of a lane in the entry that a per-lane result pushes (R116). -/
theorem Crew.pushed_pushLanes (c : Crew) (res : Nat → DWord) {l : Nat} (hl : l < 32) :
    pushed (c.pushLanes res) l = if c.isActive l then res l else 0 :=
  laneOf_lanesBy (fun l => if c.isActive l then res l else 0) hl

theorem laneOf_lanesAll {w : Nat} (x : BitVec w) {l : Nat} (hl : l < 32) : laneOf (lanesAll x) l = x := by
  rw [laneOf, lanesAll, List.getD_eq_getElem _ _ (by simpa using hl), List.getElem_replicate]

/-! ### Completion -/

/-- A word that changes its crew alone: the crew, changed, has passed the word. -/
theorem runLocal_after {g : Crew → Crew} (hr : Runs s id c) (hp : Ready c i f) :
    runLocal i f s g = .next (After s id (past (g c) f)) := runLocal_next hr.curCrew hp

/-- Nothing of the crew but its registers, masks, history and sticky flags has changed. -/
def Inner (c d : Crew) : Prop :=
  d = { c with v := d.v, k := d.k, m := d.m, em := d.em, hist := d.hist, fxs := d.fxs }

theorem Inner.refl (c : Crew) : Inner c c := rfl

theorem Inner.trans {e : Crew} (h1 : Inner c d) (h2 : Inner d e) : Inner c e :=
  Eq.trans h2 (by rw [show d = _ from h1])

theorem Inner.passed (h : Inner c d) (f : Form) : Passed c (past d f) f := by
  rw [show d = _ from h]
  exact ⟨rfl, rfl, rfl, rfl, rfl⟩

theorem Inner.crewRest (h : Inner c d) (f : Form) : CrewRest c (past d f) := by
  rw [CrewRest, show d = _ from h]
  rfl

theorem Crew.resultLanes_inner (c : Crew) (f : Form) (regs : Nat) (res : Nat → DWord) : Inner c (c.resultLanes f regs res) := by
  rw [Crew.resultLanes_eq, Crew.resultRegs_rest]
  rfl

theorem Crew.resultUniform_inner (c : Crew) (f : Form) (v : DWord) : Inner c (c.resultUniform f v) := by
  unfold Crew.resultUniform
  split <;> rfl

theorem Crew.mset_inner (c : Crew) (n : Nat) (x : Word) : Inner c (c.mset n x) := by
  unfold Crew.mset
  split <;> rfl

theorem Crew.resultMask_inner (c : Crew) (f : Form) (p : Nat → Bool) : Inner c (c.resultMask f p) := by
  unfold Crew.resultMask
  split
  · exact (c.mset_inner _ _).trans rfl
  · rfl

theorem Crew.resultLanes_laneResult (c : Crew) (f : Form) (regs : Nat) (res : Nat → DWord) :
    LaneResult c (past (c.resultLanes f regs res) f) f regs res := by
  refine ⟨fun l hl => ?_, fun l hl => c.laneOf_resultRegs_low f regs res hl, fun h2 l hl => ?_⟩
  · have h := (c.resultRegs f regs res).pushed_pushLanes res hl
    rwa [Crew.resultRegs_isActive] at h
  · subst h2
    exact c.laneOf_resultRegs_high f res hl

/-- A word with a per-lane result completes with it. -/
theorem lanes_complete {regs : Nat} {g : Crew → Crew} {r : Nat → DWord} (hr : Runs s id c) (hp : Ready c i f)
    (hexec : exec i s = runLocal i f s g) (hg : g c = c.resultLanes f regs r) :
    ∃ d, exec i s = .next (After s id d) ∧ Passed c d f ∧ LaneResult c d f regs r := by
  refine ⟨_, hexec.trans (runLocal_after hr hp), ?_⟩
  rw [hg]
  exact ⟨(c.resultLanes_inner f regs r).passed f, c.resultLanes_laneResult f regs r⟩

/-- A word with a uniform result completes with it (R54). -/
theorem uniform_complete {g : Crew → Crew} {r : DWord} (hr : Runs s id c) (hp : Ready c i f)
    (hexec : exec i s = runLocal i f s g) (hg : g c = c.resultUniform f r) :
    ∃ d, exec i s = .next (After s id d) ∧ Passed c d f ∧
      d.kget f.dst.toNat = (if f.nd then r else c.kget f.dst.toNat) ∧ ∀ l < 32, pushed d l = r := by
  refine ⟨_, hexec.trans (runLocal_after hr hp), ?_⟩
  rw [hg]
  refine ⟨(c.resultUniform_inner f r).passed f, ?_, fun l hl => laneOf_lanesAll r hl⟩
  change (if f.nd then c.kset f.dst.toNat r else c).kget f.dst.toNat = _
  split
  · exact c.kget_kset_same _ r
  · rfl

end Sys2Proof.Machine
end

section
/-! SUPPORT. Integer words at the width of their type (R53, R55): what a value of a type is as a number of w bits, how a result is
stored into w bits, and from there the per-lane and the uniform form of a word at once. -/

namespace Sys2Proof.Machine
open Sys2Proof Sys2Proof.Stated

/-! ### Values of a type -/

/-- The number that w bits hold under a type: two's complement for s types (R53). -/
def valAt (ty : Nat) {w : Nat} (a : BitVec w) : Int := if isS ty then a.toInt else a.toNat

theorem valAt_signed {ty w : Nat} (h : isS ty = true) (a : BitVec w) : valAt ty a = a.toInt := if_pos h

theorem valAt_unsigned {ty w : Nat} (h : isS ty = false) (a : BitVec w) : valAt ty a = a.toNat := by simp [valAt, h]

@[simp] theorem ofInt_valAt (ty : Nat) {w : Nat} (a : BitVec w) : BitVec.ofInt w (valAt ty a) = a := by
  unfold valAt
  split
  · exact BitVec.ofInt_toInt
  · simp [BitVec.ofInt_natCast]

theorem tyWidth_wide {ty : Nat} (h : regsOf ty = 2) : tyWidth ty = 64 := if_pos h
theorem tyWidth_narrow {ty : Nat} (h : regsOf ty ≠ 2) : tyWidth ty = 32 := if_neg h

theorem tyWidth_pos (ty : Nat) : 0 < tyWidth ty := by
  unfold tyWidth
  split <;> decide

theorem tyVal_wide {ty : Nat} (h : regsOf ty = 2) (x : DWord) : tyVal ty x = valAt ty x := by
  simp [tyVal, valAt, tySigned, isS, h]

theorem tyVal_narrow {ty : Nat} (h : regsOf ty ≠ 2) (x : DWord) : tyVal ty x = valAt ty (lowWord x) := by
  simp [tyVal, valAt, tySigned, isS, h]

theorem tyStore_wide {ty : Nat} (h : regsOf ty = 2) (r : Int) : tyStore ty false r = BitVec.ofInt 64 r := by
  apply BitVec.eq_of_toNat_eq
  have h0 : 0 ≤ r % 2 ^ 64 := Int.emod_nonneg _ (by decide)
  have h1 : r % 2 ^ 64 < 2 ^ 64 := Int.emod_lt_of_pos _ (by decide)
  simp only [tyStore, tyWidth_wide h, BitVec.toNat_ofInt, BitVec.toNat_ofNat]
  simp only [Bool.false_eq_true, if_false, Nat.cast_pow, Nat.cast_ofNat]
  omega

theorem tyStore_narrow {ty : Nat} (h : regsOf ty ≠ 2) (r : Int) : tyStore ty false r = (BitVec.ofInt 32 r).setWidth 64 := by
  apply BitVec.eq_of_toNat_eq
  simp only [tyStore, tyWidth_narrow h, BitVec.toNat_setWidth, BitVec.toNat_ofInt, BitVec.toNat_ofNat]
  simp only [Bool.false_eq_true, if_false, Nat.cast_pow, Nat.cast_ofNat]

/-- A count of at most 64 is the same number as a u32 and at any width (R55). -/
theorem tyStore_count (ty : Nat) {n : Nat} (h : n ≤ 64) : tyStore 0 false n = tyStore ty false n := by
  have h0 : regsOf 0 ≠ 2 := by decide
  rw [tyStore_narrow h0]
  by_cases hty : regsOf ty = 2
  · rw [tyStore_wide hty]
    apply BitVec.eq_of_toNat_eq
    simp only [BitVec.ofInt_natCast, BitVec.toNat_setWidth, BitVec.toNat_ofNat]
    omega
  · rw [tyStore_narrow hty]

/-- A value of a type of one register has zeros above it (R53). -/
def Fits (ty : Nat) (x : DWord) : Prop := regsOf ty ≠ 2 → x = (lowWord x).setWidth 64

theorem lowWord_setWidth (x : Word) : lowWord (x.setWidth 64) = x := by simp [lowWord]

theorem Crew.srcTy_fits (c : Crew) (f : Form) (ty : Nat) (o : Operand) (l : Nat) : Fits ty (c.srcTy f ty o l) := fun h => by
  rw [Crew.srcTy, if_neg h, lowWord_setWidth]

theorem Crew.uniTy_fits (c : Crew) (f : Form) (ty : Nat) (o : Operand) : Fits ty (c.uniTy f ty o) := fun h => by
  rw [Crew.uniTy, if_neg h, lowWord_setWidth]

/-- An operand that is a u32 whatever the word's type (R55, R56) is that number at the word's width. -/
theorem tyVal_u32 {x : DWord} (h : Fits 0 x) : tyVal 0 x = valAt 0 x := by
  have hx := h (by decide)
  rw [tyVal_narrow (by decide), valAt_unsigned rfl, valAt_unsigned rfl]
  conv_rhs => rw [hx, BitVec.toNat_setWidth_of_le (by decide)]

/-! ### Operations on numbers and on words -/

/-- An operation on numbers, stored into the w bits of a type, is one on words of w bits; `tb` and `tc` give the types of b and c. -/
def Computes (tys : Nat → Bool) (tb tc : Nat → Nat) (iop : Nat → Int → Int → Int → Int)
    (op : Nat → (w : Nat) → BitVec w → BitVec w → BitVec w → BitVec w) : Prop :=
  ∀ ty w, tys ty = true → tyWidth ty = w → ∀ a b x : BitVec w,
    BitVec.ofInt w (iop ty (valAt ty a) (valAt (tb ty) b) (valAt (tc ty) x)) = op ty w a b x

/-- The operand is of the word's type, or a u32. -/
def OwnOrU32 (t : Nat → Nat) : Prop := ∀ ty, t ty = ty ∨ t ty = 0

theorem ownType : OwnOrU32 (fun ty => ty) := fun _ => .inl rfl
theorem u32Type : OwnOrU32 (fun _ => 0) := fun _ => .inr rfl

theorem tyVal_operand {t : Nat → Nat} (ht : OwnOrU32 t) {ty : Nat} {x : DWord} (hx : Fits (t ty) x) :
    tyVal (t ty) x = if regsOf ty = 2 then valAt (t ty) x else valAt (t ty) (lowWord x) := by
  split
  · next h =>
    rcases ht ty with e | e <;> rw [e] at hx ⊢
    · exact tyVal_wide h x
    · exact tyVal_u32 hx
  · next h =>
    refine tyVal_narrow ?_ x
    rcases ht ty with e | e <;> rw [e]
    · exact h
    · decide

variable {tys : Nat → Bool} {tb tc : Nat → Nat} {iop : Nat → Int → Int → Int → Int}
  {op : Nat → (w : Nat) → BitVec w → BitVec w → BitVec w → BitVec w}

theorem Computes.atType (h : Computes tys tb tc iop op) (hb : OwnOrU32 tb) (hc : OwnOrU32 tc) {ty : Nat} (hty : tys ty = true)
    {a b x : DWord} (hfb : Fits (tb ty) b) (hfc : Fits (tc ty) x) :
    tyStore ty false (iop ty (tyVal ty a) (tyVal (tb ty) b) (tyVal (tc ty) x)) = atType (op ty) ty a b x := by
  rw [tyVal_operand hb hfb, tyVal_operand hc hfc, Stated.atType]
  by_cases hr : regsOf ty = 2
  · simp only [if_pos hr, tyVal_wide hr, tyStore_wide hr, h ty 64 hty (tyWidth_wide hr)]
  · simp only [if_neg hr, tyVal_narrow hr, tyStore_narrow hr, h ty 32 hty (tyWidth_narrow hr)]

/-- Both forms of an integer word whose operation on numbers is one on words. The result is of the word's type, or a count. -/
theorem Computes.intWord (h : Computes tys tb tc iop op) {mk : Form → Instr} (tr : Form → Nat)
    (hexec : ∀ f s, exec (mk f) s = runLocal (mk f) f s (aluEff f (tb f.ty) (tc f.ty) (tr f) (iop f.ty)))
    (hb : OwnOrU32 tb) (hc : OwnOrU32 tc)
    (hres : ∀ (f : Form) a b x, tyStore (tr f) false (iop f.ty a b x) = tyStore f.ty false (iop f.ty a b x)) :
    IntWord mk tys (fun f => tb f.ty) (fun f => tc f.ty) tr op := by
  refine ⟨fun f s id c hr hp hty h4 h5 => ?_, fun f s id c hr hp hty h4 h5 => ?_⟩
  · refine lanes_complete hr hp (hexec f s) ?_
    simp only [aluEff, h4, h5, Bool.false_eq_true, if_false, hres]
    congr 1
    funext l
    exact h.atType hb hc hty (c.srcTy_fits f _ f.b l) (c.srcTy_fits f _ f.c l)
  · refine uniform_complete hr hp (hexec f s) ?_
    simp only [aluEff, h4, h5, if_true, hres]
    congr 1
    exact h.atType hb hc hty (c.uniTy_fits f _ f.b) (c.uniTy_fits f _ f.c)

/-- The same for a result of the word's own type. -/
theorem Computes.intWord_own (h : Computes tys tb tc iop op) {mk : Form → Instr}
    (hexec : ∀ f s, exec (mk f) s = runLocal (mk f) f s (aluEff f (tb f.ty) (tc f.ty) f.ty (iop f.ty)))
    (hb : OwnOrU32 tb) (hc : OwnOrU32 tc) : IntWord mk tys (fun f => tb f.ty) (fun f => tc f.ty) Form.ty op :=
  h.intWord Form.ty hexec hb hc fun _ _ _ _ => rfl

end Sys2Proof.Machine
end

section
/-! PROOF. Logic, shifts, bit counts and bit fields (O1): each is an operation of the numbers that the model computes with on words. -/

namespace Sys2Proof.Machine
open Sys2Proof Sys2Proof.Stated

theorem isS_of_bitTys {ty : Nat} (h : bitTys ty = true) : isS ty = false := by
  simp only [bitTys, Bool.or_eq_true, beq_iff_eq] at h
  rcases h with rfl | rfl <;> rfl

theorem isS_of_sTys {ty : Nat} (h : sTys ty = true) : isS ty = true := h

theorem valAt_bits {ty w : Nat} (h : bitTys ty = true) (a : BitVec w) : valAt ty a = a.toNat := valAt_unsigned (isS_of_bitTys h) a

theorem valAt_u32 {w : Nat} (a : BitVec w) : valAt 0 a = a.toNat := valAt_unsigned rfl a

theorem ofInt_toNat {w : Nat} (a : BitVec w) : BitVec.ofInt w (a.toNat : Int) = a := by
  rw [BitVec.ofInt_natCast, BitVec.ofNat_toNat, BitVec.setWidth_eq]

/-! ### Logic -/

theorem and_computes : Computes bitTys (fun ty => ty) (fun ty => ty) (fun _ a b _ => ((a.toNat &&& b.toNat : Nat) : Int))
    (fun _ _ a b _ => a &&& b) := by
  intro ty w hty _ a b _
  simp only [valAt_bits hty, Int.toNat_natCast, ← BitVec.toNat_and, ofInt_toNat]

theorem or_computes : Computes bitTys (fun ty => ty) (fun ty => ty) (fun _ a b _ => ((a.toNat ||| b.toNat : Nat) : Int))
    (fun _ _ a b _ => a ||| b) := by
  intro ty w hty _ a b _
  simp only [valAt_bits hty, Int.toNat_natCast, ← BitVec.toNat_or, ofInt_toNat]

theorem xor_computes : Computes bitTys (fun ty => ty) (fun ty => ty) (fun _ a b _ => ((a.toNat ^^^ b.toNat : Nat) : Int))
    (fun _ _ a b _ => a ^^^ b) := by
  intro ty w hty _ a b _
  simp only [valAt_bits hty, Int.toNat_natCast, ← BitVec.toNat_xor, ofInt_toNat]

theorem not_computes : Computes bitTys (fun ty => ty) (fun ty => ty) (fun ty a _ _ => 2 ^ tyWidth ty - 1 - a)
    (fun _ _ a _ _ => ~~~a) := by
  intro ty w hty hw a _ _
  have h : (2 ^ w - 1 - (a.toNat : Int)) = ((~~~a).toNat : Int) := by
    have ha := a.isLt
    rw [BitVec.toNat_not, Nat.cast_sub (by omega), Nat.cast_sub (Nat.two_pow_pos w)]
    push_cast
    rfl
  simp only [valAt_bits hty, hw, h, ofInt_toNat]

theorem integerLogic : IntegerLogic :=
  ⟨and_computes.intWord_own (fun _ _ => rfl) ownType ownType, or_computes.intWord_own (fun _ _ => rfl) ownType ownType,
    xor_computes.intWord_own (fun _ _ => rfl) ownType ownType, not_computes.intWord_own (fun _ _ => rfl) ownType ownType⟩

/-! ### Shifts -/

theorem shl_computes : Computes bitTys (fun _ => 0) (fun _ => 0)
    (fun ty a b _ => if tyWidth ty ≤ shiftN b then 0 else a * 2 ^ shiftN b) (fun _ _ a b _ => a <<< (b.toNat % 256)) := by
  intro ty w hty hw a b _
  simp only [valAt_bits hty, valAt_u32, hw, shiftN, Int.toNat_natCast]
  split
  · next h => simp [BitVec.shiftLeft_eq_zero h]
  · have h : (a.toNat : Int) * 2 ^ (b.toNat % 256) = ((a.toNat <<< (b.toNat % 256) : Nat) : Int) := by
      rw [Nat.shiftLeft_eq]
      push_cast
      rfl
    apply BitVec.eq_of_toNat_eq
    simp only [h, BitVec.ofInt_natCast, BitVec.toNat_ofNat, BitVec.toNat_shiftLeft]

theorem shr_computes : Computes bitTys (fun _ => 0) (fun _ => 0)
    (fun ty a b _ => if tyWidth ty ≤ shiftN b then 0 else a / 2 ^ shiftN b) (fun _ _ a b _ => a >>> (b.toNat % 256)) := by
  intro ty w hty hw a b _
  simp only [valAt_bits hty, valAt_u32, hw, shiftN, Int.toNat_natCast]
  split
  · next h => simp [BitVec.ushiftRight_eq_zero h]
  · have h : (a.toNat : Int) / 2 ^ (b.toNat % 256) = ((a >>> (b.toNat % 256)).toNat : Int) := by
      rw [BitVec.toNat_ushiftRight, Nat.shiftRight_eq_div_pow]
      push_cast
      rfl
    rw [h, ofInt_toNat]

theorem sra_computes : Computes sTys (fun _ => 0) (fun _ => 0)
    (fun ty a b _ => a / 2 ^ min (shiftN b) (tyWidth ty - 1)) (fun _ w a b _ => a.sshiftRight (min (b.toNat % 256) (w - 1))) := by
  intro ty w hty hw a b _
  simp only [valAt_signed (isS_of_sTys hty), valAt_u32, hw, shiftN, Int.toNat_natCast]
  rw [← BitVec.ofInt_toInt (x := a.sshiftRight _), BitVec.toInt_sshiftRight, Int.shiftRight_eq_div_pow]
  norm_cast

theorem mul_two_pow_mod (x r m : Nat) : x * 2 ^ r % 2 ^ (r + m) = 2 ^ r * (x % 2 ^ m) := by
  rw [Nat.mul_comm, Nat.pow_add, Nat.mul_mod_mul_left]

/-- The two parts of a rotation stand in different bits. -/
theorem rotateLeft_toNat {w : Nat} (hw : 0 < w) (a : BitVec w) (n : Nat) :
    (a.rotateLeft n).toNat = a.toNat * 2 ^ (n % w) % 2 ^ w + a.toNat / 2 ^ (w - n % w) := by
  obtain ⟨m, hm⟩ : ∃ m, w = n % w + m := ⟨w - n % w, by have := Nat.mod_lt n hw; omega⟩
  rw [BitVec.toNat_rotateLeft, Nat.shiftLeft_eq, Nat.shiftRight_eq_div_pow]
  have hlow : a.toNat / 2 ^ (w - n % w) < 2 ^ (n % w) := by
    rw [Nat.div_lt_iff_lt_mul (Nat.two_pow_pos _), ← Nat.pow_add]
    exact a.isLt.trans_le (Nat.pow_le_pow_right (by decide) (by omega))
  have hhigh : a.toNat * 2 ^ (n % w) % 2 ^ w = 2 ^ (n % w) * (a.toNat % 2 ^ m) := by
    have h := mul_two_pow_mod a.toNat (n % w) m
    rwa [← hm] at h
  rw [hhigh, Nat.two_pow_add_eq_or_of_lt hlow]

theorem rotl_computes : Computes bitTys (fun _ => 0) (fun _ => 0)
    (fun ty a b _ => a * 2 ^ (shiftN b % tyWidth ty) % 2 ^ tyWidth ty + a / 2 ^ (tyWidth ty - shiftN b % tyWidth ty))
    (fun _ _ a b _ => a.rotateLeft (b.toNat % 256)) := by
  intro ty w hty hw a b _
  simp only [valAt_bits hty, valAt_u32, hw, shiftN, Int.toNat_natCast]
  have h := rotateLeft_toNat (hw ▸ tyWidth_pos ty) a (b.toNat % 256)
  rw [← ofInt_toNat (a.rotateLeft _), h]
  push_cast
  rfl

theorem integerShifts : IntegerShifts :=
  ⟨shl_computes.intWord_own (fun _ _ => rfl) u32Type u32Type, shr_computes.intWord_own (fun _ _ => rfl) u32Type u32Type,
    sra_computes.intWord_own (fun _ _ => rfl) u32Type u32Type, rotl_computes.intWord_own (fun _ _ => rfl) u32Type u32Type⟩

/-! ### Counts -/

/-- Leading zeros of the low w bits, by the highest bit that is set. -/
theorem clzBits_eq {w a : Nat} (h : a < 2 ^ w) : clzBits w a = if a = 0 then w else w - 1 - a.log2 := by
  induction w with
  | zero => simp [clzBits]
  | succ w ih =>
    simp only [clzBits]
    split
    · next hb =>
      have hle : 2 ^ w ≤ a := Nat.ge_two_pow_of_testBit hb
      have h0 : a ≠ 0 := Nat.ne_of_gt ((Nat.two_pow_pos w).trans_le hle)
      simp [h0, (Nat.log2_eq_iff h0).2 ⟨hle, h⟩]
    · next hb =>
      have hlt : a < 2 ^ w := by
        simp only [Nat.testBit_eq_decide_div_mod_eq, decide_eq_true_eq] at hb
        have hq : a / 2 ^ w < 2 := Nat.div_lt_of_lt_mul (by rwa [← Nat.pow_succ])
        rw [Nat.mod_eq_of_lt hq] at hb
        exact (Nat.div_eq_zero_iff_lt (Nat.two_pow_pos w)).1 (Nat.lt_one_iff.1 (Nat.lt_of_le_of_ne (Nat.le_of_lt_succ hq) hb))
      rw [ih hlt]
      split
      · rfl
      · next h0 =>
        have := (Nat.log2_lt h0).2 hlt
        omega

theorem clzBits_le (w a : Nat) : clzBits w a ≤ w := by
  induction w with
  | zero => exact Nat.le_refl 0
  | succ w ih =>
    simp only [clzBits]
    split <;> omega

theorem popBits_eq (w a : Nat) : popBits w a = (List.range w).countP (fun i => a.testBit i) := by
  induction w with
  | zero => rfl
  | succ w ih =>
    simp only [popBits, ih, List.range_succ, List.countP_append, List.countP_singleton]

theorem popBits_le (w a : Nat) : popBits w a ≤ w := by
  rw [popBits_eq]
  exact List.countP_le_length.trans (by simp)

theorem tyWidth_le (ty : Nat) : tyWidth ty ≤ 64 := by
  unfold tyWidth
  split <;> decide

theorem clz_computes : Computes bitTys (fun ty => ty) (fun ty => ty) (fun ty a _ _ => (clzBits (tyWidth ty) a.toNat : Nat))
    (fun _ w a _ _ => BitVec.ofNat w (if a = 0 then w else w - 1 - a.toNat.log2)) := by
  intro ty w hty hw a _ _
  simp only [valAt_bits hty, hw, Int.toNat_natCast, BitVec.ofInt_natCast, clzBits_eq a.isLt, ← BitVec.toNat_inj (x := a),
    BitVec.ofNat_eq_ofNat, BitVec.toNat_ofNat, Nat.zero_mod]

theorem popc_computes : Computes bitTys (fun ty => ty) (fun ty => ty) (fun ty a _ _ => (popBits (tyWidth ty) a.toNat : Nat))
    (fun _ w a _ _ => BitVec.ofNat w ((List.range w).countP (fun i => a.getLsbD i))) := by
  intro ty w hty hw a _ _
  simp only [valAt_bits hty, hw, Int.toNat_natCast, BitVec.ofInt_natCast, popBits_eq, BitVec.testBit_toNat]

theorem sum_bits (w a : Nat) : ∑ i ∈ Finset.range w, (if a.testBit i then 2 ^ i else 0) = a % 2 ^ w := by
  induction w with
  | zero => simp [Nat.mod_one]
  | succ w ih =>
    rw [Finset.sum_range_succ, ih, Nat.mod_pow_succ, Nat.testBit_eq_decide_div_mod_eq]
    rcases Nat.mod_two_eq_zero_or_one (a / 2 ^ w) with h | h <;> simp [h]

theorem revBits_eq {w : Nat} (a : BitVec w) : revBits w a.toNat = a.reverse.toNat := by
  have hsum : revBits w a.toNat = ∑ i ∈ Finset.range w, (if a.toNat.testBit i then 2 ^ (w - 1 - i) else 0) := rfl
  rw [hsum, ← Nat.mod_eq_of_lt a.reverse.isLt, ← sum_bits, ← Finset.sum_range_reflect]
  refine Finset.sum_congr rfl fun i hi => ?_
  have hi' : i < w := Finset.mem_range.1 hi
  rw [BitVec.testBit_toNat, BitVec.testBit_toNat, BitVec.getLsbD_reverse, BitVec.getMsbD, decide_eq_true hi', Bool.true_and,
    show w - 1 - (w - 1 - i) = i from by omega]
theorem brev_computes : Computes bitTys (fun ty => ty) (fun ty => ty) (fun ty a _ _ => (revBits (tyWidth ty) a.toNat : Nat))
    (fun _ _ a _ _ => a.reverse) := by
  intro ty w hty hw a _ _
  simp only [valAt_bits hty, hw, Int.toNat_natCast, revBits_eq, ofInt_toNat]

theorem integerBits : IntegerBits :=
  ⟨clz_computes.intWord (fun _ => 0) (fun _ _ => rfl) ownType ownType fun f _ _ _ =>
      tyStore_count f.ty ((clzBits_le _ _).trans (tyWidth_le _)),
    popc_computes.intWord (fun _ => 0) (fun _ _ => rfl) ownType ownType fun f _ _ _ =>
      tyStore_count f.ty ((popBits_le _ _).trans (tyWidth_le _)),
    brev_computes.intWord_own (fun _ _ => rfl) ownType ownType⟩

/-! ### Fields (R56) -/

/-- A number whose low w bits are `a` (R53). -/
theorem valAt_eq_add {w : Nat} (ty : Nat) (a : BitVec w) : ∃ k : Int, valAt ty a = a.toNat + 2 ^ w * k := by
  unfold valAt
  split
  · rw [BitVec.toInt_eq_toNat_cond]
    split
    · exact ⟨0, by simp⟩
    · exact ⟨-1, by push_cast; ring⟩
  · exact ⟨0, by simp⟩

/-- A field of a number whose low w bits are `a` is that field of `a` (R56). -/
theorem div_mod_eq_extract {w : Nat} (ty : Nat) (a : BitVec w) {p n : Nat} (h : p + n ≤ w) :
    valAt ty a / 2 ^ p % 2 ^ n = ((a.extractLsb' p n).toNat : Int) := by
  obtain ⟨k, hk⟩ := valAt_eq_add ty a
  obtain ⟨m, rfl⟩ := Nat.exists_eq_add_of_le h
  have hp : (2 : Int) ^ (p + n + m) * k = 2 ^ p * (2 ^ n * (2 ^ m * k)) := by ring
  rw [hk, hp, Int.add_mul_ediv_left _ _ (by positivity), Int.add_mul_emod_self_left, BitVec.extractLsb'_toNat,
    Nat.shiftRight_eq_div_pow]
  push_cast
  rfl

/-- Sign extension from the top bit of a field that is not empty (R56). -/
theorem ofInt_signed_field {w n : Nat} (hn : n ≠ 0) (y : BitVec n) :
    BitVec.ofInt w (if (2 : Int) ^ (n - 1) ≤ y.toNat then (y.toNat : Int) - 2 ^ n else y.toNat) = y.signExtend w := by
  obtain ⟨m, rfl⟩ := Nat.exists_eq_succ_of_ne_zero hn
  rw [BitVec.signExtend, BitVec.toInt_eq_toNat_cond]
  have h2 : 2 ^ (m + 1) = 2 * 2 ^ m := by ring
  by_cases h : 2 ^ m ≤ y.toNat
  · rw [if_pos (by exact_mod_cast h), if_neg (by simp only [Nat.succ_eq_add_one, h2]; omega)]
    push_cast
    rfl
  · rw [if_neg (by exact_mod_cast h), if_pos (by simp only [Nat.succ_eq_add_one, h2]; omega)]

theorem bfe_computes : Computes intTys (fun _ => 0) (fun _ => 0)
    (fun ty a p n => bfeVal (tyWidth ty) (tySigned ty) a (p.toNat % 128) (n.toNat % 128)) (fun ty w a p n =>
    let p := p.toNat % 128
    let n := min (n.toNat % 128) (w - p)
    if w ≤ p ∨ n = 0 then 0 else if isS ty then (a.extractLsb' p n).signExtend w else (a.extractLsb' p n).setWidth w) := by
  intro ty w hty hw a p n
  simp only [valAt_u32, hw, Int.toNat_natCast, bfeVal]
  generalize p.toNat % 128 = p
  generalize n.toNat % 128 = n
  by_cases hz : w ≤ p ∨ n = 0
  · have hz' : w ≤ p ∨ min n (w - p) = 0 := by omega
    rw [if_pos hz, if_pos hz']
    rfl
  · have hz' : ¬(w ≤ p ∨ min n (w - p) = 0) := by omega
    rw [if_neg hz, if_neg hz', div_mod_eq_extract ty a (show p + min n (w - p) ≤ w from by omega)]
    have hn : min n (w - p) ≠ 0 := fun h => hz' (.inr h)
    generalize min n (w - p) = m at hn
    generalize a.extractLsb' p m = y
    change BitVec.ofInt w (if (isS ty && _) = true then _ else _) = _
    cases isS ty
    · simp [BitVec.ofInt_natCast, BitVec.ofNat_toNat]
    · simpa using ofInt_signed_field hn y

/-- A field put into a number, as a number with the bits below it, of it and above it (R56). -/
theorem insert_field_eq (a b p n : Nat) :
    (a : Int) - a / 2 ^ p % 2 ^ n * 2 ^ p + b % 2 ^ n * 2 ^ p
      = ((2 ^ (p + n) * (a / 2 ^ (p + n)) + (2 ^ p * (b % 2 ^ n) + a % 2 ^ p) : Nat) : Int) := by
  have h : a = 2 ^ p * (2 ^ n * (a / 2 ^ (p + n)) + a / 2 ^ p % 2 ^ n) + a % 2 ^ p := by
    rw [Nat.pow_add, ← Nat.div_div_eq_div_mul, Nat.div_add_mod, Nat.div_add_mod]
  have hi : (a : Int) = 2 ^ p * (2 ^ n * (a / 2 ^ (p + n)) + a / 2 ^ p % 2 ^ n) + a % 2 ^ p := by exact_mod_cast h
  push_cast
  linear_combination hi

/-- The same bit by bit: those of the field come from the number put in. -/
theorem testBit_insert_field (a b p n i : Nat) :
    (2 ^ (p + n) * (a / 2 ^ (p + n)) + (2 ^ p * (b % 2 ^ n) + a % 2 ^ p)).testBit i
      = if p ≤ i ∧ i < p + n then b.testBit (i - p) else a.testBit i := by
  have hlow : a % 2 ^ p < 2 ^ p := Nat.mod_lt _ (Nat.two_pow_pos p)
  have hmid : 2 ^ p * (b % 2 ^ n) + a % 2 ^ p < 2 ^ (p + n) := by
    have hb : b % 2 ^ n + 1 ≤ 2 ^ n := Nat.mod_lt _ (Nat.two_pow_pos n)
    calc 2 ^ p * (b % 2 ^ n) + a % 2 ^ p < 2 ^ p * (b % 2 ^ n + 1) := by rw [Nat.mul_succ]; omega
      _ ≤ 2 ^ (p + n) := by rw [Nat.pow_add]; exact Nat.mul_le_mul_left _ hb
  rw [Nat.testBit_two_pow_mul_add _ hmid, Nat.testBit_two_pow_mul_add _ hlow]
  rcases Nat.lt_or_ge i p with hp | hp
  · simp [hp, Nat.not_le.2 hp, Nat.lt_add_right n hp, Nat.testBit_mod_two_pow]
  · rcases Nat.lt_or_ge i (p + n) with hn | hn
    · simp [hp, Nat.not_lt.2 hp, hn, Nat.testBit_mod_two_pow, show i - p < n from by omega]
    · simp [hp, Nat.not_lt.2 hn, Nat.testBit_div_two_pow, Nat.sub_add_cancel hn]

theorem bfi_computes : Computes bitTys (fun ty => ty) (fun _ => 0)
    (fun ty a b ctl => bfiVal (tyWidth ty) a b (ctl.toNat % 128) (ctl.toNat / 256 % 128)) (fun _ w a b ctl =>
    let p := ctl.toNat % 128
    let n := min (ctl.toNat / 256 % 128) (w - p)
    if w ≤ p ∨ n = 0 then a
    else
      let mask : BitVec w := BitVec.ofNat w (2 ^ n - 1) <<< p
      (a &&& ~~~mask) ||| (b <<< p &&& mask)) := by
  intro ty w hty hw a b ctl
  simp only [valAt_u32, valAt_bits hty, hw, Int.toNat_natCast, bfiVal]
  generalize ctl.toNat % 128 = p
  generalize ctl.toNat / 256 % 128 = n
  by_cases hz : w ≤ p ∨ n = 0
  · have hz' : w ≤ p ∨ min n (w - p) = 0 := by omega
    rw [if_pos hz, if_pos hz', ofInt_toNat]
  · have hz' : ¬(w ≤ p ∨ min n (w - p) = 0) := by omega
    have hpn : p + min n (w - p) ≤ w := by omega
    rw [if_neg hz, if_neg hz']
    generalize min n (w - p) = m at hpn
    rw [insert_field_eq, BitVec.ofInt_natCast]
    apply BitVec.eq_of_getLsbD_eq
    intro i hi
    rw [BitVec.getLsbD_ofNat, decide_eq_true hi, Bool.true_and, testBit_insert_field]
    simp only [BitVec.getLsbD_or, BitVec.getLsbD_and, BitVec.getLsbD_not, BitVec.getLsbD_shiftLeft, BitVec.getLsbD_ofNat,
      Nat.testBit_two_pow_sub_one, decide_eq_true hi, Bool.true_and, BitVec.testBit_toNat]
    rcases Nat.lt_or_ge i p with hp | hp
    · simp [hp, Nat.not_le.2 hp]
    · rcases Nat.lt_or_ge i (p + m) with hm | hm
      · simp [hp, Nat.not_lt.2 hp, hm, show i - p < m from by omega, show i - p < w from by omega]
      · simp [Nat.not_lt.2 hm, show ¬i - p < m from by omega]

theorem integerFields : IntegerFields :=
  ⟨bfe_computes.intWord_own (fun _ _ => rfl) u32Type u32Type, bfi_computes.intWord_own (fun _ _ => rfl) ownType u32Type⟩

/-- Settles O1: each word is the common lane or uniform result of its operation (R55, R56). -/
theorem integerBitWords : Obligations.IntegerBitWords := ⟨integerLogic, integerShifts, integerBits, integerFields⟩

end Sys2Proof.Machine
end

section
/-! PROOF. Integer arithmetic (O3): sums, products and orders as operations on words, and results clamped to a type's range. -/

namespace Sys2Proof.Machine
open Sys2Proof Sys2Proof.Stated

/-! ### Sums and products -/

theorem add_computes : Computes intTys (fun ty => ty) (fun ty => ty) (fun _ a b _ => a + b) (fun _ _ a b _ => a + b) := by
  intro ty w _ _ a b _
  beta_reduce
  rw [BitVec.ofInt_add, ofInt_valAt, ofInt_valAt]

theorem sub_computes : Computes intTys (fun ty => ty) (fun ty => ty) (fun _ a b _ => a - b) (fun _ _ a b _ => a - b) := by
  intro ty w _ _ a b _
  beta_reduce
  rw [sub_eq_add_neg, BitVec.ofInt_add, BitVec.ofInt_neg, ofInt_valAt, ofInt_valAt, ← BitVec.sub_eq_add_neg]

theorem mul_computes : Computes intTys (fun ty => ty) (fun ty => ty) (fun _ a b _ => a * b) (fun _ _ a b _ => a * b) := by
  intro ty w _ _ a b _
  beta_reduce
  rw [BitVec.ofInt_mul, ofInt_valAt, ofInt_valAt]

theorem mad_computes : Computes intTys (fun ty => ty) (fun ty => ty) (fun _ a b x => a * b + x) (fun _ _ a b x => a * b + x) := by
  intro ty w _ _ a b x
  beta_reduce
  rw [BitVec.ofInt_add, BitVec.ofInt_mul, ofInt_valAt, ofInt_valAt, ofInt_valAt]

theorem integerSumsAndProducts : IntegerSumsAndProducts :=
  ⟨add_computes.intWord_own (fun _ _ => rfl) ownType ownType, sub_computes.intWord_own (fun _ _ => rfl) ownType ownType,
    mul_computes.intWord_own (fun _ _ => rfl) ownType ownType, mad_computes.intWord_own (fun _ _ => rfl) ownType ownType⟩

/-! ### Order -/

/-- The order of a type is that of the numbers (R55, R60). -/
theorem lessAt_eq {ty w : Nat} (a b : BitVec w) : lessAt ty w a b = decide (valAt ty a < valAt ty b) := by
  unfold lessAt valAt
  split
  · exact BitVec.slt_eq_decide
  · simp [BitVec.ult]

theorem abs_computes : Computes sTys (fun ty => ty) (fun ty => ty) (fun _ a _ _ => a.natAbs)
    (fun _ _ a _ _ => if a.msb then -a else a) := by
  intro ty w hty _ a _ _
  beta_reduce
  rw [valAt_signed (isS_of_sTys hty), BitVec.msb_eq_toInt]
  by_cases h : a.toInt < 0
  · rw [decide_eq_true h, if_pos rfl, Int.ofNat_natAbs_of_nonpos (Int.le_of_lt h), BitVec.ofInt_neg, BitVec.ofInt_toInt]
  · rw [decide_eq_false h, if_neg Bool.false_ne_true, Int.natAbs_of_nonneg (Int.not_lt.1 h), BitVec.ofInt_toInt]

theorem min_computes : Computes intTys (fun ty => ty) (fun ty => ty) (fun _ a b _ => min a b)
    (fun ty w a b _ => if lessAt ty w b a then b else a) := by
  intro ty w _ _ a b _
  beta_reduce
  rw [lessAt_eq, min_comm, min_def_lt]
  split <;> simp_all

theorem max_computes : Computes intTys (fun ty => ty) (fun ty => ty) (fun _ a b _ => max a b)
    (fun ty w a b _ => if lessAt ty w a b then b else a) := by
  intro ty w _ _ a b _
  beta_reduce
  rw [lessAt_eq, max_def_lt]
  split <;> simp_all

/-- The high half of a product of double width (R55). -/
theorem ofInt_high_half {w : Nat} (p : Int) : BitVec.ofInt w (p / 2 ^ w) = (BitVec.ofInt (2 * w) p).extractLsb' w w := by
  have h2 : (2 : Int) ^ (2 * w) = 2 ^ w * 2 ^ w := by rw [two_mul, pow_add]
  have hp : p % 2 ^ (2 * w) / 2 ^ w % 2 ^ w = p / 2 ^ w % 2 ^ w := by
    conv_rhs => rw [← Int.emod_add_mul_ediv p (2 ^ (2 * w)), h2, mul_assoc, Int.add_mul_ediv_left _ _ (by positivity),
      Int.add_mul_emod_self_left, ← h2]
  apply BitVec.eq_of_toNat_eq
  have hnn : 0 ≤ p % 2 ^ (2 * w) := Int.emod_nonneg _ (by positivity)
  rw [BitVec.extractLsb'_toNat, BitVec.toNat_ofInt, BitVec.toNat_ofInt, Nat.shiftRight_eq_div_pow, ← Int.natCast_inj]
  push_cast [Int.toNat_of_nonneg hnn, Int.toNat_of_nonneg (Int.emod_nonneg (p / 2 ^ w) (by positivity : (2 : Int) ^ w ≠ 0))]
  exact hp.symm

theorem mulh_computes : Computes intTys (fun ty => ty) (fun ty => ty) (fun ty a b _ => a * b / 2 ^ tyWidth ty)
    (fun ty w a b _ => if isS ty then (a.signExtend (2 * w) * b.signExtend (2 * w)).extractLsb' w w
      else (a.setWidth (2 * w) * b.setWidth (2 * w)).extractLsb' w w) := by
  intro ty w _ hw a b _
  beta_reduce
  rw [hw, ofInt_high_half, BitVec.ofInt_mul]
  unfold valAt
  split
  · rfl
  · simp only [BitVec.ofInt_natCast, BitVec.ofNat_toNat]

theorem integerOrder : IntegerOrder :=
  ⟨abs_computes.intWord_own (fun _ _ => rfl) ownType ownType, min_computes.intWord_own (fun _ _ => rfl) ownType ownType,
    max_computes.intWord_own (fun _ _ => rfl) ownType ownType, mulh_computes.intWord_own (fun _ _ => rfl) ownType ownType⟩

/-! ### Saturation -/

theorem lt_four_of_intTys {ty : Nat} (h : intTys ty = true) : ty = 0 ∨ ty = 1 ∨ ty = 2 ∨ ty = 3 := by
  have : ty < 4 := by simpa [intTys] using h
  omega

theorem number_eq_tyVal {ty : Nat} (h : intTys ty = true) (x : DWord) : number ty x = tyVal ty x := by
  rcases lt_four_of_intTys h with rfl | rfl | rfl | rfl <;> rfl

/-- A result stored with `.sat` is clamped to the range of its type (R55). -/
theorem tyStore_sat {ty : Nat} (h : intTys ty = true) (r : Int) : tyStore ty true r = clampedTo ty r := by
  change tyStore ty false (max (tyMin ty) (min (tyMax ty) r)) = _
  rcases lt_four_of_intTys h with rfl | rfl | rfl | rfl
  · exact tyStore_narrow (by decide) _
  · exact tyStore_narrow (by decide) _
  · exact tyStore_wide (by decide) _
  · exact tyStore_wide (by decide) _

/-- The clamped forms of a word: its exact operation in each active lane, or once (R54, R55). -/
def Saturates (mk : Form → Instr) (tys : Nat → Bool) (op : Int → Int → Int → Int) : Prop :=
  ∀ f : Form, tys f.ty = true → f.m4 = true →
    (f.m5 = false → LaneWord (mk f) f (regsOf f.ty) (fun _ => True) (fun c l =>
      clampedTo f.ty (op (number f.ty (c.srcTy f f.ty f.a l)) (number f.ty (c.srcTy f f.ty f.b l))
        (number f.ty (c.srcTy f f.ty f.c l))))) ∧
    (f.m5 = true → UniformWord (mk f) f (fun c =>
      clampedTo f.ty (op (number f.ty (c.uniTy f f.ty f.a)) (number f.ty (c.uniTy f f.ty f.b))
        (number f.ty (c.uniTy f f.ty f.c)))))

theorem saturates_of_aluEff {mk : Form → Instr} {tys : Nat → Bool} {op : Int → Int → Int → Int}
    (htys : ∀ ty, tys ty = true → intTys ty = true)
    (hexec : ∀ f s, exec (mk f) s = runLocal (mk f) f s (aluEff f f.ty f.ty f.ty op)) : Saturates mk tys op := by
  refine fun f hty h4 => ⟨fun h5 s id c hr hp _ => lanes_complete hr hp (hexec f s) ?_,
    fun h5 s id c hr hp => uniform_complete hr hp (hexec f s) ?_⟩
  · simp [aluEff, h4, h5, tyStore_sat (htys _ hty), number_eq_tyVal (htys _ hty)]
  · simp [aluEff, h4, h5, tyStore_sat (htys _ hty), number_eq_tyVal (htys _ hty)]

theorem intTys_of_sTys (ty : Nat) (h : sTys ty = true) : intTys ty = true := by
  simp only [sTys, Bool.or_eq_true, beq_iff_eq] at h
  rcases h with rfl | rfl <;> rfl

theorem natAbs_eq_ite (a : Int) : (a.natAbs : Int) = if a < 0 then -a else a := by
  split <;> omega

theorem add_saturates : Saturates .add intTys (fun a b _ => a + b) := saturates_of_aluEff (fun _ h => h) fun _ _ => rfl
theorem sub_saturates : Saturates .sub intTys (fun a b _ => a - b) := saturates_of_aluEff (fun _ h => h) fun _ _ => rfl
theorem mul_saturates : Saturates .mul intTys (fun a b _ => a * b) := saturates_of_aluEff (fun _ h => h) fun _ _ => rfl
theorem mad_saturates : Saturates .mad intTys (fun a b x => a * b + x) := saturates_of_aluEff (fun _ h => h) fun _ _ => rfl

theorem abs_saturates : Saturates .abs sTys (fun a _ _ => if a < 0 then -a else a) :=
  saturates_of_aluEff intTys_of_sTys fun f s => by
    simp only [← natAbs_eq_ite]
    rfl

theorem integerSaturation : IntegerSaturation := by
  intro p hp
  simp only [List.mem_cons, List.not_mem_nil, or_false] at hp
  rcases hp with rfl | rfl | rfl | rfl | rfl
  · exact add_saturates
  · exact sub_saturates
  · exact mul_saturates
  · exact mad_saturates
  · exact abs_saturates

/-- Settles O3: each word is the common lane or uniform result of its operation (R55). -/
theorem integerArithmetic : Obligations.IntegerArithmetic := ⟨integerSumsAndProducts, integerOrder, integerSaturation⟩

end Sys2Proof.Machine
end

section
/-! PROOF. Moves, addresses, selects and compares (O2). -/

namespace Sys2Proof.Machine
open Sys2Proof Sys2Proof.Stated

/-! ### Moves and selects -/

theorem atType_first {ty : Nat} {a : DWord} (h : Fits ty a) (b x : DWord) : atType (fun _ a _ _ => a) ty a b x = a := by
  unfold atType
  split
  · rfl
  · next hr => exact (h hr).symm

theorem mov_intWord : IntWord .mov bitTys Form.ty Form.ty Form.ty (fun _ _ a _ _ => a) := by
  refine ⟨fun f s id c hr hp _ _ h5 => lanes_complete hr hp (show exec (.mov f) s = execMov f s from rfl) ?_,
    fun f s id c hr hp _ _ h5 => uniform_complete hr hp (show exec (.mov f) s = execMov f s from rfl) ?_⟩
  · simp [h5, atType_first (c.srcTy_fits f f.ty f.a _)]
  · simp [h5, atType_first (c.uniTy_fits f f.ty f.a)]

theorem Crew.ea_eq_address (c : Crew) (f : Form) : c.ea f = address c f (if f.xBit 0 then 16 else 2 ^ f.hi) := by
  funext l
  simp only [Crew.ea, Crew.eaScaled, address, memScale, ite_mul, zero_mul]
  rfl

theorem movesAndSelects : MovesAndSelects := by
  refine ⟨mov_intWord, fun f h0 s id c hr hp _ => ?_, fun f h0 s id c hr hp => ?_, fun f h5 h4 s id c hr hp _ => ?_,
    fun f h5 h4 s id c hr hp _ => ?_, fun f h5 s id c hr hp => ?_⟩
  · exact lanes_complete hr hp (show exec (.lea f) s = execLea f s from rfl)
      ((if_neg (ne_true_of_eq_false h0)).trans (by rw [c.ea_eq_address]))
  · exact uniform_complete hr hp (show exec (.lea f) s = execLea f s from rfl) ((if_pos h0).trans rfl)
  · exact lanes_complete hr hp (show exec (.sel f) s = execSel f s from rfl) (by simp [h4, h5])
  · exact lanes_complete hr hp (show exec (.sel f) s = execSel f s from rfl) (by simp [h4, h5])
  · exact uniform_complete hr hp (show exec (.sel f) s = execSel f s from rfl) (by simp [h5])

/-! ### Compares -/

theorem getLsbD_foldr_or (p : Nat → Bool) (ls : List Nat) {l : Nat} (hl : l < 32) :
    (ls.foldr (fun j acc => (if p j then BitVec.ofNat 32 (2 ^ j) else 0) ||| acc) 0 : Word).getLsbD l
      = ls.any (fun j => p j && j == l) := by
  induction ls with
  | nil => simp
  | cons j ls ih =>
    rw [List.foldr_cons, BitVec.getLsbD_or, ih, List.any_cons]
    cases p j with
    | false => simp
    | true => rw [if_pos rfl, BitVec.getLsbD_ofNat, Nat.testBit_two_pow, decide_eq_true hl, Bool.true_and, Bool.true_and, beq_eq_decide]

/-- A mask built lane by lane (R60). -/
theorem getLsbD_maskBy (p : Nat → Bool) {l : Nat} (hl : l < 32) : (maskBy p).getLsbD l = p l := by
  rw [maskBy, getLsbD_foldr_or p _ hl, Bool.eq_iff_iff, List.any_eq_true]
  simp [hl]

theorem Crew.mget_mset_same (c : Crew) {n : Nat} (x : Word) (h : n ≠ 8) : (c.mset n x).mget n = x := by
  simp [Crew.mset, Crew.mget, h]

theorem Crew.isActive_mset (c : Crew) {n : Nat} (x : Word) (h : n ≠ 8) (l : Nat) : (c.mset n x).isActive l = c.isActive l := by
  simp [Crew.mset, Crew.isActive, h]

/-- The mask register of a compare's result (R60). -/
def Crew.resultMreg (c : Crew) (f : Form) (p : Nat → Bool) : Crew :=
  if f.nd then c.mset f.dst.toNat (maskBy (fun l => c.isActive l && p l)) else c

theorem Crew.isActive_resultMreg (c : Crew) {f : Form} (p : Nat → Bool) (h : f.dst.toNat ≠ 8) (l : Nat) :
    (c.resultMreg f p).isActive l = c.isActive l := by
  unfold Crew.resultMreg
  split
  · exact c.isActive_mset _ h l
  · rfl

/-- A word that makes a mask completes with it (R60). -/
theorem mask_complete {s : State} {id : Nat} {c : Crew} {i : Instr} {f : Form} {g : Crew → Crew} {p : Nat → Bool}
    (hr : Runs s id c) (hp : Ready c i f) (hd : f.dst.toNat ≤ 7) (hexec : exec i s = runLocal i f s g)
    (hg : g c = c.resultMask f p) :
    ∃ d, exec i s = .next (After s id d) ∧ Passed c d f ∧
      (f.nd = true → ∀ l < 32, (d.mget f.dst.toNat).getLsbD l = (c.isActive l && p l)) ∧
      (f.nd = false → d.m = c.m) ∧ ∀ l < 32, pushed d l = if c.isActive l && p l then 1 else 0 := by
  have h8 : f.dst.toNat ≠ 8 := by omega
  refine ⟨_, hexec.trans (runLocal_after hr hp), ?_⟩
  rw [hg]
  refine ⟨(c.resultMask_inner f p).passed f, fun hnd l hl => ?_, fun hnd => ?_, fun l hl => ?_⟩
  · change ((c.resultMreg f p).mget f.dst.toNat).getLsbD l = _
    rw [Crew.resultMreg, if_pos hnd, c.mget_mset_same _ h8, getLsbD_maskBy _ hl]
  · change (c.resultMreg f p).m = _
    rw [Crew.resultMreg, if_neg (ne_true_of_eq_false hnd)]
  · have h := (c.resultMreg f p).pushed_pushLanes (fun l => if p l then 1 else 0) hl
    rw [c.isActive_resultMreg p h8] at h
    refine h.trans ?_
    cases c.isActive l <;> simp

/-- Equal numbers of a type are equal words. -/
theorem valAt_inj {ty w : Nat} {a b : BitVec w} : valAt ty a = valAt ty b ↔ a = b :=
  ⟨fun h => by rw [← ofInt_valAt ty a, h, ofInt_valAt], fun h => h ▸ rfl⟩

/-- Conditions on numbers and on words (R60). -/
theorem cmpCond_valAt {ty w : Nat} (cond : Nat) (a b : BitVec w) :
    cmpCond cond (valAt ty a) (valAt ty b) = condAt ty cond w a b := by
  match cond with
  | 0 => simp [cmpCond, condAt, valAt_inj, beq_eq_decide]
  | 1 => simp [cmpCond, condAt, valAt_inj, bne, beq_eq_decide]
  | 2 => simp [cmpCond, condAt, lessAt_eq]
  | n + 3 =>
    change decide (valAt ty a ≤ valAt ty b) = !lessAt ty w b a
    rw [lessAt_eq, ← decide_not, decide_eq_decide, Int.not_lt]

theorem integerCompare : IntegerCompare := by
  intro f hty s id c hr hp hd
  refine mask_complete hr hp hd (show exec (.cmp f) s = execCmp f s from rfl) ?_
  congr 1
  funext l
  beta_reduce
  by_cases h : regsOf f.ty = 2
  · rw [if_pos h, tyVal_wide h, tyVal_wide h, cmpCond_valAt, Crew.srcTy, if_pos h, Crew.srcTy, if_pos h]
  · rw [if_neg h, tyVal_narrow h, tyVal_narrow h, cmpCond_valAt, Crew.srcTy, if_neg h, Crew.srcTy, if_neg h, lowWord_setWidth,
      lowWord_setWidth]

/-- Settles O2, word by word: what each writes to its destination and pushes. -/
theorem movesAndCompares : Obligations.MovesAndCompares := ⟨movesAndSelects, integerCompare⟩

end Sys2Proof.Machine
end

section
/-! PROOF. Frames of the words that work on their crew alone (O4): each effect is one of a few shapes, and each shape changes its
destination, the history and, where it may, the sticky flags. -/

namespace Sys2Proof.Machine
open Sys2Proof Sys2Proof.Stated
variable {s : State} {id : Nat} {c d : Crew} {f : Form} {i : Instr}

/-! ### The shapes of effects -/

/-- What a word's effect on its crew leaves, before the crew passes the word (R51, R54, R116, R126). -/
structure Keeps (i : Instr) (f : Form) (c d : Crew) : Prop where
  inner : Inner c d
  hist : HistBy i c d
  dest : DestOnly i f c d
  em : setsEm i f = false → d.em = c.em

theorem Keeps.localFrame (h : Keeps i f c d) : LocalFrame i f c (past d f) :=
  ⟨h.inner.passed f, h.inner.crewRest f, h.hist, h.dest, h.em⟩

/-- Flags may be raised behind an effect (R80). -/
theorem Keeps.raiseFlags (h : Keeps i f c d) (x : FFlags) : Keeps i f c (d.raiseFlags x) :=
  ⟨h.inner.trans rfl, h.hist, h.dest, h.em⟩

/-- One entry is pushed, with no value awaited (R116). -/
theorem histBy_of_push (hi : pushesNone i = false) {h : Hist} (hh : h.pend = none) (hd : d.hist = h :: c.hist.take 15) :
    HistBy i c d := by
  rw [HistBy, hi]
  exact ⟨h, hh, hd⟩

theorem histBy_of_same (hi : pushesNone i = true) (hd : d.hist = c.hist) : HistBy i c d := by
  rwa [HistBy, if_pos hi]

theorem keeps_resultLanes {n regs : Nat} (res : Nat → DWord) (hdst : i.desc.dst = .v n) (h1 : 1 ≤ regs) (hn : regs ≤ n)
    (hi : pushesNone i = false) : Keeps i f c (c.resultLanes f regs res) := by
  have hfields : c.resultLanes f regs res
      = ({ c with v := (c.resultRegs f regs res).v } : Crew).pushLanes res := by
    rw [Crew.resultLanes_eq, ← Crew.resultRegs_rest]
  refine ⟨c.resultLanes_inner f regs res, histBy_of_push hi rfl (by rw [hfields]; rfl), ?_, fun _ => by rw [hfields]; rfl⟩
  rw [DestOnly, hdst]
  refine ⟨by rw [hfields]; rfl, by rw [hfields]; rfl, fun r hr => ?_, fun r l hl ha => ?_⟩
  · exact c.vget_resultRegs_other f res h1 fun ⟨hnd, hlo, hhi⟩ => hr ⟨hnd, hlo, by omega⟩
  · exact c.laneOf_resultRegs_inactive f regs r res hl ha

theorem keeps_resultUniform {req : Bool} (v : DWord) (hdst : i.desc.dst = .k req) (hi : pushesNone i = false) :
    Keeps i f c (c.resultUniform f v) := by
  have hfields : c.resultUniform f v = ({ c with k := (c.resultUniform f v).k } : Crew).pushUniform v := by
    unfold Crew.resultUniform
    split <;> rfl
  refine ⟨c.resultUniform_inner f v, histBy_of_push hi rfl (by rw [hfields]; rfl), ?_, fun _ => by rw [hfields]; rfl⟩
  rw [DestOnly, hdst]
  refine ⟨by rw [hfields]; rfl, by rw [hfields]; rfl, fun r hr => ?_⟩
  change (if f.nd then c.kset f.dst.toNat v else c).kget r = _
  split
  · next hnd => exact c.kget_kset_other v fun h => hr ⟨hnd, h⟩
  · rfl

/-- A word with a uniform form and a per-lane form (R54). -/
theorem keeps_either {n regs : Nat} {u : Bool} (v : DWord) (res : Nat → DWord) (hdst : i.desc.dst = dstOf u n) (h1 : 1 ≤ regs)
    (hn : regs ≤ n) (hi : pushesNone i = false) :
    Keeps i f c (if u then c.resultUniform f v else c.resultLanes f regs res) := by
  cases u
  · exact keeps_resultLanes res hdst h1 hn hi
  · exact keeps_resultUniform v hdst hi

theorem Crew.mset_low (c : Crew) {n : Nat} (x : Word) (h : n ≠ 8) : c.mset n x = { c with m := pset 0 c.m n x } := if_neg h

theorem Crew.mset_em (c : Crew) (x : Word) : c.mset 8 x = { c with em := x } := rfl

/-- A write to a mask register leaves the others (R126). -/
theorem Crew.mget_mset_other (c : Crew) {n r : Nat} (x : Word) (hr : r < 8) (h : r ≠ n) : (c.mset n x).mget r = c.mget r := by
  have h8 : r ≠ 8 := by omega
  by_cases hn : n = 8
  · subst hn
    simp [Crew.mset_em, Crew.mget, h8]
  · simp [c.mset_low x hn, Crew.mget, h8, pget_pset_other _ _ _ h]

/-- A mask register below `em`, written where nd says so, and an entry pushed (R60, R132). -/
theorem keeps_mask_push {req : Bool} {top : Nat} (x : Word) (h : Hist) (hdst : i.desc.dst = .m req top) (h8 : f.dst.toNat ≠ 8)
    (hh : h.pend = none) (hi : pushesNone i = false) :
    Keeps i f c ((if f.nd then c.mset f.dst.toNat x else c).push h) := by
  cases hnd : f.nd
  · refine ⟨rfl, histBy_of_push hi hh rfl, ?_, fun _ => rfl⟩
    rw [DestOnly, hdst]
    exact ⟨rfl, rfl, fun _ _ => rfl, fun _ _ _ => rfl⟩
  · rw [if_pos rfl]
    refine ⟨(c.mset_inner _ x).trans rfl, histBy_of_push hi hh (by rw [c.mset_low x h8]; rfl), ?_,
      fun _ => by rw [c.mset_low x h8]; rfl⟩
    rw [DestOnly, hdst]
    exact ⟨by rw [c.mset_low x h8]; rfl, by rw [c.mset_low x h8]; rfl, fun h => absurd h (by simp [hnd]),
      fun r hr hne => c.mget_mset_other x hr hne⟩

/-- A mask word writes its mask register, or `em`, and pushes nothing (R117, R137). -/
theorem keeps_mset {top : Nat} (x : Word) (hdst : i.desc.dst = .m true top) (hi : pushesNone i = true)
    (hem : setsEm i f = (f.dst.toNat == 8)) : Keeps i f c (c.mset f.dst.toNat x) := by
  by_cases h8 : f.dst.toNat = 8
  · rw [h8, Crew.mset_em]
    refine ⟨rfl, histBy_of_same hi rfl, ?_, fun h => ?_⟩
    · rw [DestOnly, hdst]
      exact ⟨rfl, rfl, fun _ h => absurd h (by decide), fun r hr _ => by simp [Crew.mget, Nat.ne_of_lt hr]⟩
    · rw [hem, h8] at h
      exact absurd h (by decide)
  · rw [c.mset_low x h8]
    refine ⟨rfl, histBy_of_same hi rfl, ?_, fun _ => rfl⟩
    rw [DestOnly, hdst]
    exact ⟨rfl, rfl, fun _ h => absurd h (by decide), fun r hr hne => by rw [← c.mset_low x h8, c.mget_mset_other x hr hne]⟩

/-- The execution mask changes, the old one saved in a mask register below it (R136). -/
theorem keeps_save_em {top : Nat} (x : Word) (hdst : i.desc.dst = .m true top) (h8 : f.dst.toNat ≠ 8)
    (hi : pushesNone i = true) (hem : setsEm i f = true) : Keeps i f c { c.mset f.dst.toNat c.em with em := x } := by
  rw [c.mset_low _ h8]
  refine ⟨rfl, histBy_of_same hi rfl, ?_, fun h => absurd h (by simp [hem])⟩
  rw [DestOnly, hdst]
  refine ⟨rfl, rfl, fun _ h => absurd h (by decide), fun r hr hne => ?_⟩
  simp [Crew.mget, Nat.ne_of_lt hr, pget_pset_other _ _ _ hne]

/-- The execution mask changes alone (R136). -/
theorem keeps_em (x : Word) (hdst : i.desc.dst = .no) (hi : pushesNone i = true) (hem : setsEm i f = true) :
    Keeps i f c { c with em := x } := by
  refine ⟨rfl, histBy_of_same hi rfl, ?_, fun h => absurd h (by simp [hem])⟩
  rw [DestOnly, hdst]
  exact ⟨rfl, rfl, rfl⟩

theorem keeps_nothing (hdst : i.desc.dst = .no) (hi : pushesNone i = true) : Keeps i f c c := by
  refine ⟨rfl, histBy_of_same hi rfl, ?_, fun _ => rfl⟩
  rw [DestOnly, hdst]
  exact ⟨rfl, rfl, rfl⟩

/-- A uniform register written with no push (R117, R137). -/
theorem keeps_kset {req : Bool} (v : DWord) (hdst : i.desc.dst = .k req) (hi : pushesNone i = true) :
    Keeps i f c (if f.nd then c.kset f.dst.toNat v else c) := by
  cases hnd : f.nd
  · refine ⟨rfl, histBy_of_same hi rfl, ?_, fun _ => rfl⟩
    rw [DestOnly, hdst]
    exact ⟨rfl, rfl, fun _ _ => rfl⟩
  · refine ⟨rfl, histBy_of_same hi rfl, ?_, fun _ => rfl⟩
    rw [DestOnly, hdst]
    exact ⟨rfl, rfl, fun r hr => c.kget_kset_other v fun h => hr ⟨hnd, h⟩⟩

/-! ### Words -/

/-- The word completes, changes nothing but its crew, and keeps its frame; `flags` says what may become of the sticky flags. -/
def CrewFrame (mk : Form → Instr) (flags : DWord → DWord → Prop) : Prop :=
  ∀ (f : Form) (s : State) (id : Nat) (c : Crew), Runs s id c → Ready c (mk f) f → Accepts (mk f) f →
    ∃ d, exec (mk f) s = .next (After s id d) ∧ LocalFrame (mk f) f c d ∧ flags c.fxs d.fxs

/-- The sticky flags stay, or some are added to them (R80). -/
def SameFlags (x y : DWord) : Prop := y = x
def AddedFlags (x y : DWord) : Prop := ∃ a : FFlags, y = x ||| a.setWidth 64

theorem crewFrame_of {mk : Form → Instr} {flags : DWord → DWord → Prop} {g : Form → Crew → Crew}
    (hexec : ∀ f s, exec (mk f) s = runLocal (mk f) f s (g f))
    (h : ∀ f c, Accepts (mk f) f → Keeps (mk f) f c (g f c) ∧ flags c.fxs (g f c).fxs) : CrewFrame mk flags :=
  fun f s _ c hr hp ha => ⟨_, (hexec f s).trans (runLocal_after hr hp), (h f c ha).1.localFrame, (h f c ha).2⟩

theorem Crew.resultLanes_fxs (c : Crew) (f : Form) (regs : Nat) (res : Nat → DWord) : (c.resultLanes f regs res).fxs = c.fxs := by
  rw [Crew.resultLanes_eq, Crew.resultRegs_rest]
  rfl

theorem Crew.resultUniform_fxs (c : Crew) (f : Form) (v : DWord) : (c.resultUniform f v).fxs = c.fxs := by
  unfold Crew.resultUniform
  split <;> rfl

theorem Crew.mset_fxs (c : Crew) (n : Nat) (x : Word) : (c.mset n x).fxs = c.fxs := by
  unfold Crew.mset
  split <;> rfl

theorem one_le_regsOf (ty : Nat) : 1 ≤ regsOf ty := by
  unfold regsOf
  split <;> decide

section
variable {mk : Form → Instr}

/-- A word with a per-lane result. -/
theorem frame_lanes {n regs : Form → Nat} {res : Form → Crew → Nat → DWord}
    (hexec : ∀ f s, exec (mk f) s = runLocal (mk f) f s (fun c => c.resultLanes f (regs f) (res f c)))
    (hdst : ∀ f, (mk f).desc.dst = .v (n f)) (h1 : ∀ f, 1 ≤ regs f) (hn : ∀ f, regs f ≤ n f) (hi : ∀ f, pushesNone (mk f) = false) :
    CrewFrame mk SameFlags :=
  crewFrame_of hexec fun f c _ => ⟨keeps_resultLanes _ (hdst f) (h1 f) (hn f) (hi f), c.resultLanes_fxs ..⟩

/-- A word with a per-lane result of one register. -/
theorem frame_lane {res : Form → Crew → Nat → DWord}
    (hexec : ∀ f s, exec (mk f) s = runLocal (mk f) f s (fun c => c.resultLanes f 1 (res f c)))
    (hdst : ∀ f, (mk f).desc.dst = .v 1) (hi : ∀ f, pushesNone (mk f) = false) : CrewFrame mk SameFlags :=
  frame_lanes hexec hdst (fun _ => Nat.le_refl 1) (fun _ => Nat.le_refl 1) hi

/-- A word with a uniform result. -/
theorem frame_uniform {req : Bool} {v : Form → Crew → DWord}
    (hexec : ∀ f s, exec (mk f) s = runLocal (mk f) f s (fun c => c.resultUniform f (v f c)))
    (hdst : ∀ f, (mk f).desc.dst = .k req) (hi : ∀ f, pushesNone (mk f) = false) : CrewFrame mk SameFlags :=
  crewFrame_of hexec fun f c _ => ⟨keeps_resultUniform _ (hdst f) (hi f), c.resultUniform_fxs ..⟩

/-- A word with both forms. -/
theorem frame_either {u : Form → Bool} {n regs : Form → Nat} {v : Form → Crew → DWord} {res : Form → Crew → Nat → DWord}
    (hexec : ∀ f s, exec (mk f) s = runLocal (mk f) f s (fun c =>
      if u f then c.resultUniform f (v f c) else c.resultLanes f (regs f) (res f c)))
    (hdst : ∀ f, (mk f).desc.dst = dstOf (u f) (n f)) (h1 : ∀ f, 1 ≤ regs f) (hn : ∀ f, regs f ≤ n f)
    (hi : ∀ f, pushesNone (mk f) = false) : CrewFrame mk SameFlags :=
  crewFrame_of hexec fun f c _ => ⟨keeps_either _ _ (hdst f) (h1 f) (hn f) (hi f), by
    split
    · exact c.resultUniform_fxs ..
    · exact c.resultLanes_fxs ..⟩

/-- An integer word of R55. -/
theorem frame_alu {tb tc tr : Form → Nat} {op : Form → Int → Int → Int → Int}
    (hexec : ∀ f s, exec (mk f) s = runLocal (mk f) f s (aluEff f (tb f) (tc f) (tr f) (op f)))
    (hdst : ∀ f, (mk f).desc.dst = dstOf f.m5 (regsOf (tr f))) (hi : ∀ f, pushesNone (mk f) = false) : CrewFrame mk SameFlags :=
  frame_either (u := Form.m5) hexec hdst (fun f => one_le_regsOf (tr f)) (fun _ => Nat.le_refl _) hi

/-- A word that writes a mask register or `em` (R137). -/
theorem frame_mset {top : Nat} {x : Form → Crew → Word}
    (hexec : ∀ f s, exec (mk f) s = runLocal (mk f) f s (fun c => c.mset f.dst.toNat (x f c)))
    (hdst : ∀ f, (mk f).desc.dst = .m true top) (hi : ∀ f, pushesNone (mk f) = true)
    (hem : ∀ f, setsEm (mk f) f = (f.dst.toNat == 8)) : CrewFrame mk SameFlags :=
  crewFrame_of hexec fun f c _ => ⟨keeps_mset _ (hdst f) (hi f) (hem f), c.mset_fxs ..⟩

end

/-- A mask destination that the word accepts is below `em`. -/
theorem dst_ne_em_of_accepts {req : Bool} (h : Accepts i f) (hd : i.desc.dst = .m req 7) : f.dst.toNat ≠ 8 := by
  have := h.2 req 7 hd
  omega

/-! ### Words that raise no flag -/

theorem frame_nop : CrewFrame .nop SameFlags := by
  intro f s id c hr hp _
  have hexec : exec (.nop f) s = runLocal (.nop f) f s (fun c => c) := by
    change execNop f s = _
    simp only [execNop, hr.1]
    rfl
  exact ⟨_, hexec.trans (runLocal_after hr hp), (keeps_nothing rfl rfl).localFrame, rfl⟩

/-- The integer and bit words of R55 and R56. -/
def aluWords : List (Form → Instr) :=
  [.add, .sub, .mul, .mulh, .mad, .abs, .min, .max, .and, .or, .xor, .not, .shl, .shr, .sra, .rotl, .clz, .popc, .brev, .bfe, .bfi]

theorem frame_aluWords : ∀ mk ∈ aluWords, CrewFrame mk SameFlags := by
  simp only [aluWords, List.forall_mem_cons, List.not_mem_nil, false_imp_iff, implies_true, and_true]
  repeat' apply And.intro
  all_goals exact frame_alu (fun _ _ => rfl) (fun _ => rfl) fun _ => rfl

theorem frame_mov : CrewFrame .mov SameFlags :=
  frame_either (fun _ _ => rfl) (fun _ => rfl) (fun f => one_le_regsOf f.ty) (fun _ => Nat.le_refl _) fun _ => rfl

theorem frame_lea : CrewFrame .lea SameFlags :=
  frame_either (fun _ _ => rfl) (fun _ => rfl) (fun _ => by decide) (fun _ => Nat.le_refl _) fun _ => rfl

theorem frame_sel : CrewFrame .sel SameFlags :=
  frame_either (fun _ _ => rfl) (fun _ => rfl) (fun f => one_le_regsOf f.ty) (fun _ => Nat.le_refl _) fun _ => rfl

theorem Crew.resultMask_fxs (c : Crew) (f : Form) (p : Nat → Bool) : (c.resultMask f p).fxs = c.fxs := by
  unfold Crew.resultMask
  split
  · exact c.mset_fxs ..
  · rfl

theorem frame_cmp : CrewFrame .cmp SameFlags :=
  crewFrame_of (fun _ _ => rfl) fun _ c ha => ⟨keeps_mask_push _ _ rfl (dst_ne_em_of_accepts ha rfl) rfl rfl, c.resultMask_fxs ..⟩

theorem frame_perm : CrewFrame .perm SameFlags :=
  frame_lanes (fun _ _ => rfl) (fun _ => rfl) (fun f => one_le_regsOf f.ty) (fun _ => Nat.le_refl _) fun _ => rfl

theorem frame_voteAny : CrewFrame .voteAny SameFlags := frame_uniform (fun _ _ => rfl) (fun _ => rfl) fun _ => rfl
theorem frame_voteAll : CrewFrame .voteAll SameFlags := frame_uniform (fun _ _ => rfl) (fun _ => rfl) fun _ => rfl
theorem frame_mcnt : CrewFrame .mcnt SameFlags := frame_uniform (fun _ _ => rfl) (fun _ => rfl) fun _ => rfl

/-- `vote.ballot` writes a mask register or a uniform one (R132). -/
theorem frame_voteBallot : CrewFrame .voteBallot SameFlags := by
  refine crewFrame_of (fun _ _ => rfl) fun f c ha => ?_
  cases h4 : f.m4
  · have hdst : (Instr.voteBallot f).desc.dst = .k false := by simp [Instr.desc, h4]
    exact ⟨keeps_resultUniform _ hdst rfl, c.resultUniform_fxs ..⟩
  · have hdst : (Instr.voteBallot f).desc.dst = .m true 7 := by simp [Instr.desc, h4]
    refine ⟨keeps_mask_push _ _ hdst (dst_ne_em_of_accepts ha hdst) rfl rfl, ?_⟩
    simp only [if_true]
    cases f.nd
    · rfl
    · exact c.mset_fxs ..

theorem frame_mskIf : CrewFrame .mskIf SameFlags :=
  crewFrame_of (fun _ _ => rfl) fun _ c ha => ⟨keeps_save_em _ rfl (dst_ne_em_of_accepts ha rfl) rfl rfl, c.mset_fxs ..⟩

theorem frame_mskIfM : CrewFrame .mskIfM SameFlags :=
  crewFrame_of (fun _ _ => rfl) fun _ c ha => ⟨keeps_save_em _ rfl (dst_ne_em_of_accepts ha rfl) rfl rfl, c.mset_fxs ..⟩

theorem frame_mskElse : CrewFrame .mskElse SameFlags :=
  crewFrame_of (fun _ _ => rfl) fun _ _ _ => ⟨keeps_em _ rfl rfl rfl, rfl⟩

theorem frame_mskEnd : CrewFrame .mskEnd SameFlags :=
  crewFrame_of (fun _ _ => rfl) fun _ _ _ => ⟨keeps_em _ rfl rfl rfl, rfl⟩

theorem frame_mmovToUniform : CrewFrame .mmovToUniform SameFlags :=
  crewFrame_of (fun _ _ => rfl) fun f _ _ => ⟨keeps_kset _ rfl rfl, by split <;> rfl⟩

/-- The words with a result of one register in each lane (R128, R135, R138 to R144). -/
theorem frame_laneWords : CrewFrame .acs2 SameFlags ∧ CrewFrame .mspl SameFlags ∧ CrewFrame .scmp SameFlags ∧
    CrewFrame .sfnd SameFlags ∧ CrewFrame .shash SameFlags ∧ CrewFrame .hmix SameFlags ∧ CrewFrame .part SameFlags := by
  refine ⟨?_, ?_, ?_, ?_, ?_, ?_, ?_⟩
  all_goals exact frame_lane (fun _ _ => rfl) (fun _ => rfl) fun _ => rfl

theorem frame_fcls : CrewFrame .fcls SameFlags :=
  frame_lane (fun _ _ => rfl) (fun f => by simp [Instr.desc, fltDesc, dstOf]) fun _ => rfl

/-- The words on masks (R137). -/
theorem frame_maskWords : CrewFrame .mand SameFlags ∧ CrewFrame .mor SameFlags ∧ CrewFrame .mxor SameFlags ∧
    CrewFrame .mnot SameFlags ∧ CrewFrame .mmovMask SameFlags ∧ CrewFrame .mmovFromUniform SameFlags := by
  refine ⟨?_, ?_, ?_, ?_, ?_, ?_⟩
  all_goals exact frame_mset (fun _ _ => rfl) (fun _ => rfl) (fun _ => rfl) fun _ => rfl

/-! ### Words that may raise flags -/

theorem Crew.raiseFlags_zero (c : Crew) : c.raiseFlags 0 = c := by simp [Crew.raiseFlags]

/-- No lane raises a flag. -/
theorem Crew.laneFlags_zero (c : Crew) : c.laneFlags (fun _ => 0) = 0 := by
  unfold Crew.laneFlags
  exact List.foldlRecOn _ _ (motive := fun x : FFlags => x = 0) rfl fun x hx l _ => by simp [hx]

/-- A scalar float word is a per-lane or a uniform result with the flags raised (R81). -/
theorem fltEff_eq (f : Form) (op : Fmt → Nat → Nat → Nat → Nat × FFlags) (c : Crew) :
    ∃ (v : DWord) (res : Nat → DWord) (x : FFlags), ((∀ F a b y, (op F a b y).2 = 0) → x = 0) ∧
      fltEff f op c = (if f.m5 then c.resultUniform f v else c.resultLanes f 1 res).raiseFlags x := by
  unfold fltEff
  cases f.m5
  · exact ⟨0, _, _, fun h => by simp only [natPair, h]; exact c.laneFlags_zero, rfl⟩
  · exact ⟨_, fun _ => 0, _, fun h => h .., rfl⟩

theorem fltResult_fxs (c : Crew) (f : Form) (v : DWord) (res : Nat → DWord) :
    (if f.m5 then c.resultUniform f v else c.resultLanes f 1 res).fxs = c.fxs := by
  split
  · exact c.resultUniform_fxs ..
  · exact c.resultLanes_fxs ..

section
variable {mk : Form → Instr}

/-- A scalar float word (R81). -/
theorem frame_flt {op : Form → Fmt → Nat → Nat → Nat → Nat × FFlags}
    (hexec : ∀ f s, exec (mk f) s = runLocal (mk f) f s (fltEff f (op f)))
    (hdst : ∀ f, (mk f).desc.modOk = true → (mk f).desc.dst = dstOf f.m5 1) (hi : ∀ f, pushesNone (mk f) = false) :
    CrewFrame mk AddedFlags := by
  refine crewFrame_of hexec fun f c ha => ?_
  obtain ⟨v, res, x, -, heq⟩ := fltEff_eq f (op f) c
  rw [heq]
  refine ⟨(keeps_either v res (hdst f ha.1) (Nat.le_refl 1) (Nat.le_refl 1) (hi f)).raiseFlags x, x, ?_⟩
  simp only [Crew.raiseFlags, fltResult_fxs]

/-- One that raises no flag. -/
theorem frame_flt_quiet {op : Form → Fmt → Nat → Nat → Nat → Nat × FFlags}
    (hexec : ∀ f s, exec (mk f) s = runLocal (mk f) f s (fltEff f (op f))) (hop : ∀ f F a b y, (op f F a b y).2 = 0)
    (hdst : ∀ f, (mk f).desc.modOk = true → (mk f).desc.dst = dstOf f.m5 1) (hi : ∀ f, pushesNone (mk f) = false) :
    CrewFrame mk SameFlags := by
  refine crewFrame_of hexec fun f c ha => ?_
  obtain ⟨v, res, x, hx, heq⟩ := fltEff_eq f (op f) c
  rw [heq, hx (hop f), Crew.raiseFlags_zero]
  exact ⟨keeps_either v res (hdst f ha.1) (Nat.le_refl 1) (Nat.le_refl 1) (hi f), fltResult_fxs ..⟩

/-- A per-lane word with the flags of its active lanes. -/
theorem frame_fltLanes {n regs : Form → Nat} {op : Form → Crew → Nat → DWord × FFlags}
    (hexec : ∀ f s, exec (mk f) s = runLocal (mk f) f s (fun c => c.fltLanes f (regs f) (op f c)))
    (hdst : ∀ f, (mk f).desc.modOk = true → (mk f).desc.dst = .v (n f)) (h1 : ∀ f, 1 ≤ regs f) (hn : ∀ f, regs f ≤ n f)
    (hi : ∀ f, pushesNone (mk f) = false) : CrewFrame mk AddedFlags :=
  crewFrame_of hexec fun f c ha =>
    ⟨(keeps_resultLanes _ (hdst f ha.1) (h1 f) (hn f) (hi f)).raiseFlags _, c.laneFlags (fun l => (op f c l).2), by
      simp only [Crew.fltLanes, Crew.raiseFlags, Crew.resultLanes_fxs]⟩

end

/-- The destination of a scalar float word whose mod field is accepted: it has a uniform form, or mod[5] is clear (R81). -/
theorem fltDesc_dst {f : Form} {n : Nat} {u : Bool} (h : (fltDesc f n u).modOk = true) : (fltDesc f n u).dst = dstOf f.m5 1 := by
  cases u
  · have h5 : f.m5 = false := by
      simp only [fltDesc, Bool.false_or, Bool.and_eq_true, Bool.not_eq_true'] at h
      exact h.2
    simp [fltDesc, h5]
  · simp [fltDesc]

theorem frame_fneg : CrewFrame .fneg SameFlags :=
  frame_flt_quiet (fun _ _ => rfl) (fun _ _ _ _ _ => rfl) (fun _ => fltDesc_dst) fun _ => rfl

theorem frame_fabs : CrewFrame .fabs SameFlags :=
  frame_flt_quiet (fun _ _ => rfl) (fun _ _ _ _ _ => rfl) (fun _ => fltDesc_dst) fun _ => rfl

/-- The words behind those of R55 and R56 that raise no flag. -/
def otherQuietWords : List (Form → Instr) :=
  [.mov, .lea, .sel, .cmp, .fneg, .fabs, .fcls, .acs2, .perm, .voteAny, .voteAll, .voteBallot, .mspl, .mskIf, .mskIfM, .mskElse,
    .mskEnd, .mand, .mor, .mxor, .mnot, .mcnt, .mmovMask, .mmovFromUniform, .mmovToUniform, .scmp, .sfnd, .shash, .hmix, .part]

theorem quietWords_eq : quietWords = .nop :: (aluWords ++ otherQuietWords) := rfl

theorem frame_quietWords : ∀ mk ∈ quietWords, CrewFrame mk SameFlags := by
  obtain ⟨hacs2, hmspl, hscmp, hsfnd, hshash, hhmix, hpart⟩ := frame_laneWords
  obtain ⟨hmand, hmor, hmxor, hmnot, hmmovMask, hmmovFrom⟩ := frame_maskWords
  simp only [quietWords_eq, otherQuietWords, List.forall_mem_append, List.forall_mem_cons, List.not_mem_nil, false_imp_iff, implies_true, and_true]
  exact ⟨frame_nop, frame_aluWords, frame_mov, frame_lea, frame_sel, frame_cmp, frame_fneg, frame_fabs, frame_fcls, hacs2,
    frame_perm, frame_voteAny, frame_voteAll, frame_voteBallot, hmspl, frame_mskIf, frame_mskIfM, frame_mskElse, frame_mskEnd,
    hmand, hmor, hmxor, hmnot, frame_mcnt, hmmovMask, hmmovFrom, frame_mmovToUniform, hscmp, hsfnd, hshash, hhmix, hpart⟩

theorem quietWordsFrame : QuietWordsFrame := frame_quietWords

/-- The scalar float words of two or three sources (R81, R82, R85). -/
theorem frame_scalarWords : CrewFrame .fadd AddedFlags ∧ CrewFrame .fsub AddedFlags ∧ CrewFrame .fmul AddedFlags ∧
    CrewFrame .ffma AddedFlags ∧ CrewFrame .fmin AddedFlags ∧ CrewFrame .fmax AddedFlags ∧ CrewFrame .fclamp AddedFlags := by
  refine ⟨?_, ?_, ?_, ?_, ?_, ?_, ?_⟩
  all_goals exact frame_flt (fun _ _ => rfl) (fun _ => fltDesc_dst) fun _ => rfl

theorem frame_frnd : CrewFrame .frnd AddedFlags :=
  frame_flt (fun _ _ => rfl) (fun _ => fltDesc_dst (n := 1) (u := false)) fun _ => rfl

/-- The per-lane words of one register with flags that have no uniform form (R86 to R88, R127, R129). -/
theorem frame_flagLaneWords : CrewFrame .fsqrt AddedFlags ∧ CrewFrame .fscl AddedFlags ∧ CrewFrame .fxtr AddedFlags ∧
    CrewFrame .hadd2 AddedFlags ∧ CrewFrame .hsub2 AddedFlags ∧ CrewFrame .hmul2 AddedFlags ∧ CrewFrame .hmin2 AddedFlags ∧
    CrewFrame .hmax2 AddedFlags ∧ CrewFrame .hfma2 AddedFlags ∧ CrewFrame .bfma2 AddedFlags ∧ CrewFrame .hcmp2 AddedFlags := by
  refine ⟨?_, ?_, ?_, ?_, ?_, ?_, ?_, ?_, ?_, ?_, ?_⟩
  all_goals exact frame_fltLanes (fun _ _ => rfl) (fun _ _ => rfl) (fun _ => Nat.le_refl 1) (fun _ => Nat.le_refl 1) fun _ => rfl

theorem one_le_cvtRegs {m ns nr : Nat} (h : cvtRegs m = some (ns, nr)) : 1 ≤ nr := by
  unfold cvtRegs at h
  split_ifs at h <;> simp only [Option.some.injEq, Prod.mk.injEq] at h <;> omega

/-- `cvt` writes as many registers as its pairing says (R89). -/
theorem frame_cvt : CrewFrame .cvt AddedFlags := by
  have hexec : ∀ f s, exec (.cvt f) s = execCvt f s := fun _ _ => rfl
  refine frame_fltLanes (n := fun f => ((cvtRegs f.modN).getD (1, 1)).2) (regs := fun f => ((cvtRegs f.modN).getD (1, 1)).2)
    (op := fun f c l => cvtOne f.modN (modeOf f)
      (if ((cvtRegs f.modN).getD (1, 1)).1 = 2 then c.src64 f (cvtImmTy (cvtPair f.modN).2) f.a l
        else (c.src32 f (cvtImmTy (cvtPair f.modN).2) f.a l).setWidth 64))
    hexec (fun f hok => ?_) (fun f => ?_) (fun _ => Nat.le_refl _) fun _ => rfl
  · simp only [Instr.desc] at hok ⊢
    split at hok
    · exact absurd hok Bool.false_ne_true
    · next h => simp [h]
  · rcases h : cvtRegs f.modN with _ | ⟨ns, nr⟩
    · exact Nat.le_refl 1
    · exact one_le_cvtRegs h

theorem frame_fcmp : CrewFrame .fcmp AddedFlags :=
  crewFrame_of (fun _ _ => rfl) fun f c ha =>
    ⟨(keeps_mask_push _ _ rfl (dst_ne_em_of_accepts ha rfl) rfl rfl).raiseFlags _, _, by
      simp only [Crew.raiseFlags, Crew.resultMask_fxs]
      rfl⟩

theorem frame_lred : CrewFrame .lred AddedFlags :=
  crewFrame_of (fun _ _ => rfl) fun f c _ =>
    ⟨(keeps_resultUniform _ rfl rfl).raiseFlags _, _, by
      simp only [Crew.raiseFlags, Crew.resultUniform_fxs]
      rfl⟩

theorem frame_lscan : CrewFrame .lscan AddedFlags :=
  crewFrame_of (fun _ _ => rfl) fun f c _ =>
    ⟨(keeps_resultLanes _ rfl (one_le_regsOf f.ty) (Nat.le_refl _) rfl).raiseFlags _, _, by
      simp only [Crew.raiseFlags, Crew.resultLanes_fxs]
      rfl⟩

theorem frame_floatWords : ∀ mk ∈ floatWords, CrewFrame mk AddedFlags := by
  obtain ⟨hfadd, hfsub, hfmul, hffma, hfmin, hfmax, hfclamp⟩ := frame_scalarWords
  obtain ⟨hfsqrt, hfscl, hfxtr, hhadd2, hhsub2, hhmul2, hhmin2, hhmax2, hhfma2, hbfma2, hhcmp2⟩ := frame_flagLaneWords
  simp only [floatWords, List.forall_mem_cons, List.not_mem_nil, false_imp_iff, implies_true, and_true]
  exact ⟨hfadd, hfsub, hfmul, hffma, hfmin, hfmax, frame_frnd, hfsqrt, hfscl, hfxtr, frame_cvt, frame_fcmp, hfclamp, hhadd2,
    hhsub2, hhmul2, hhmin2, hhmax2, hhfma2, hbfma2, hhcmp2, frame_lred, frame_lscan⟩

theorem floatWordsFrame : FloatWordsFrame := frame_floatWords

/-! ### The approximate units -/

/-- A unit's results for the lanes at a draw of the free values (R86). -/
def unitLanes (f : Form) (op : Nat → Nat → Nat × FFlags) (c : Crew) (draw : Nat) : Crew :=
  c.fltLanes f 1 (fun l => natPair (op (c.src32 f 8 f.a l).toNat (draw + l)))

theorem runUnit_after {op : Nat → Nat → Nat × FFlags} (hr : Runs s id c) (hp : Ready c i f) :
    runUnit i f s op = .next { After s id (past (unitLanes f op c s.free) f) with free := s.free + 32 } := by
  rw [runUnit, runCrew_next hr.curCrew hp]
  simp only [Eff.finish, State.modCrew, State.setCrew, pmod, pfind_pput_same, pput_pput]
  rfl

theorem unitLanes_fxs (f : Form) (op : Nat → Nat → Nat × FFlags) (c : Crew) (draw : Nat) :
    AddedFlags c.fxs (unitLanes f op c draw).fxs :=
  ⟨c.laneFlags (fun l => (natPair (op (c.src32 f 8 f.a l).toNat (draw + l))).2), by
    simp only [unitLanes, Crew.fltLanes, Crew.raiseFlags, Crew.resultLanes_fxs]⟩

/-- An approximate unit takes a free value for each lane (R86, log entry 2). -/
theorem frame_unit {mk : Form → Instr} {op : Nat → Nat → Nat × FFlags}
    (hexec : ∀ f s, exec (mk f) s = runUnit (mk f) f s op) (hdst : ∀ f, (mk f).desc.dst = .v 1)
    (hi : ∀ f, pushesNone (mk f) = false) (f : Form) (s : State) (id : Nat) (c : Crew) (hr : Runs s id c)
    (hp : Ready c (mk f) f) :
    ∃ d, exec (mk f) s = .next { After s id d with free := s.free + 32 } ∧ LocalFrame (mk f) f c d ∧
      ∃ x : FFlags, d.fxs = c.fxs ||| x.setWidth 64 :=
  ⟨_, (hexec f s).trans (runUnit_after hr hp),
    ((keeps_resultLanes _ (hdst f) (Nat.le_refl 1) (Nat.le_refl 1) (hi f)).raiseFlags _).localFrame, unitLanes_fxs f op c s.free⟩

theorem unitWordsFrame : UnitWordsFrame := by
  intro mk hmem f s id c hr hp _
  simp only [unitWords, List.mem_cons, List.not_mem_nil, or_false] at hmem
  rcases hmem with rfl | rfl | rfl | rfl
  all_goals exact frame_unit (fun _ _ => rfl) (fun _ => rfl) (fun _ => rfl) f s id c hr hp

/-- Settles O4: each word has one of a few shapes of effect, and each shape leaves all but its destination, the history and its flags. -/
theorem wordFrames : Obligations.WordFrames := ⟨quietWordsFrame, floatWordsFrame, unitWordsFrame⟩

end Sys2Proof.Machine
end

section
/-! SUPPORT. The places of the active lanes' accesses, the values that lanes have read, and the issue of an operation (R30, R65,
R75, R118). -/

namespace Sys2Proof.Machine
open Sys2Proof Sys2Proof.Stated
variable {s s1 : State} {id : Nat} {c : Crew} {f : Form}

/-! ### The active lanes -/

theorem Crew.mem_lanes {l : Nat} : l ∈ c.lanes ↔ l < 32 ∧ c.isActive l = true := by
  simp only [Crew.lanes, List.mem_filter, List.mem_range]

theorem Crew.lanes_rising (c : Crew) : c.lanes.Pairwise (· < ·) := List.pairwise_lt_range.filter _

theorem Crew.length_lanes_le (c : Crew) : c.lanes.length ≤ 32 :=
  (List.length_filter_le c.isActive (List.range 32)).trans_eq List.length_range

/-- The places of lanes none of which faults (R75). -/
theorem laneLocs_ok {α : Type} {check : Nat → Except Cause α} {place : Nat → α} {ls : List Nat}
    (h : ∀ l ∈ ls, check l = .ok (place l)) : laneLocs check ls = .ok (ls.map fun l => (l, place l)) := by
  induction ls with
  | nil => rfl
  | cons l ls ih =>
    simp only [laneLocs, h l (List.mem_cons_self ..), ih fun x hx => h x (List.mem_cons_of_mem _ hx), List.map_cons]

theorem Crew.laneLocs_ok {α : Type} {check : Nat → Except Cause α} {place : Nat → α}
    (h : ∀ l < 32, c.isActive l = true → check l = .ok (place l)) :
    laneLocs check c.lanes = .ok (c.lanes.map fun l => (l, place l)) :=
  Machine.laneLocs_ok fun l hl => h l (Crew.mem_lanes.1 hl).1 (Crew.mem_lanes.1 hl).2

/-- The value of a lane among those of a list of lanes. -/
theorem laneVal_map {ls : List Nat} (g : Nat → Nat) {l : Nat} (h : l ∈ ls) : laneVal (ls.map fun x => (x, g x)) l = g l := by
  induction ls with
  | nil => exact absurd h (List.not_mem_nil)
  | cons a ls ih =>
    by_cases ha : a = l
    · subst ha
      simp [laneVal]
    · have hl : l ∈ ls := (List.mem_cons.1 h).resolve_left (Ne.symm ha)
      simpa [laneVal, ha] using ih hl

/-! ### Writes of several lanes, the highest lane last (R70, R72) -/

/-- Lanes write one after another: what no lane covers is as it was, and of what a lane hits, its value stands unless a higher lane
covers it. `inv n` is what `n` more writes need. -/
theorem foldl_lanes {σ κ β : Type} {step : σ → Nat → σ} {view : σ → κ → β} {inv : Nat → σ → Prop} {dom : κ → Prop}
    {covers hits : Nat → κ → Prop} {val : Nat → κ → β} {ls : List Nat} {x : σ} (hrising : ls.Pairwise (· < ·))
    (hinv : ∀ n x, ∀ l ∈ ls, inv (n + 1) x → inv n (step x l))
    (hout : ∀ n x, ∀ l ∈ ls, inv (n + 1) x → ∀ k, dom k → ¬covers l k → view (step x l) k = view x k)
    (hhit : ∀ n x, ∀ l ∈ ls, inv (n + 1) x → ∀ k, dom k → hits l k → view (step x l) k = val l k) (hx : inv ls.length x) :
    (∀ k, dom k → (∀ l ∈ ls, ¬covers l k) → view (ls.foldl step x) k = view x k) ∧
    ∀ l ∈ ls, ∀ k, dom k → hits l k → (∀ h ∈ ls, l < h → ¬covers h k) → view (ls.foldl step x) k = val l k := by
  induction ls generalizing x with
  | nil => exact ⟨fun _ _ _ => rfl, fun _ hl => absurd hl List.not_mem_nil⟩
  | cons a ls ih =>
    obtain ⟨ha, hrest⟩ := List.pairwise_cons.1 hrising
    have hmem : ∀ l ∈ ls, l ∈ a :: ls := fun l hl => List.mem_cons_of_mem _ hl
    have haa : a ∈ a :: ls := List.mem_cons_self ..
    obtain ⟨ihout, ihhit⟩ := ih hrest (fun n x l hl => hinv n x l (hmem l hl)) (fun n x l hl => hout n x l (hmem l hl))
      (fun n x l hl => hhit n x l (hmem l hl)) (hinv _ x a haa hx)
    refine ⟨fun k hk hcov => ?_, fun l hl k hk hkl hcov => ?_⟩
    · rw [List.foldl_cons, ihout k hk fun l hl => hcov l (hmem l hl), hout _ x a haa hx k hk (hcov a haa)]
    · rw [List.foldl_cons]
      rcases List.mem_cons.1 hl with rfl | hl
      · rw [ihout k hk fun h hh => hcov h (hmem h hh) (ha h hh), hhit _ x l haa hx k hk hkl]
      · exact ihhit l hl k hk hkl fun h hh => hcov h (hmem h hh)

theorem getD_leBytes (n v j : Nat) (h : j < n) : (leBytes n v).getD j 0 = BitVec.ofNat 8 (v / 256 ^ j) := by
  induction n generalizing v j with
  | zero => omega
  | succ n ih =>
    cases j with
    | zero => simp [leBytes]
    | succ j =>
      rw [leBytes, List.getD_cons_succ, ih _ _ (Nat.lt_of_succ_lt_succ h), Nat.div_div_eq_div_mul, Nat.pow_succ']

/-! ### The issue of an operation -/

/-- A path with room and an entry of the table for it let a word issue (R121, R220). -/
theorem not_issueWaits {p : Path} (h : MayIssue s c p) (needs : Bool) : s.issueWaits c p needs = false := by
  obtain ⟨hcount, hott⟩ := h
  simp only [State.issueWaits, decide_eq_false (Nat.not_le.2 hcount), Bool.false_or, Bool.and_eq_false_iff]
  exact .inr (Option.isNone_eq_false_iff.2 hott)

/-- A crew with one more operation outstanding, for whose value a history entry may be reserved. -/
def Crew.issuing (c : Crew) (o : Op) : Crew :=
  { c with ops := c.ops ++ [o], hist := if o.hvals.isSome then ⟨lanesAll 0, some o.id⟩ :: c.hist.take 15 else c.hist }

/-- A state after its crew, with its record as given, has issued an operation and passed the word. -/
def Issuing (s1 : State) (id : Nat) (c : Crew) (f : Form) (o : Op) : State :=
  { s1 with
    nextId := s1.nextId + 1, crews := pput s1.crews id (past (c.issuing { o with id := s1.nextId }) f), cur := none }

/-- Issuing an operation gives it the next number and adds it to its crew, which passes the word. -/
theorem finish_issueOp (hc : pfind s1.crews id = some c) (o : Op) :
    (Eff.ok (s1.issueOp id o (o.hvals.map fun _ => pendHist))).finish s id f.len.bytes =
      Issuing s1 id c f o := by
  simp only [Issuing, Eff.finish, State.issueOp, State.modCrew, pmod, hc, pfind_pput_same, pput_pput, State.issued]
  cases o.hvals <;> rfl

theorem Crew.issuing_issued {p : Path} {o : Op} {t : State} (hid : o.id = s.nextId) (hpath : o.path = p)
    (hflag : o.flag = c.flagOf f) (hdone : o.done = false) (hfrozen : o.frozen = false) (hcur : t.cur = none)
    (hcrews : t.crews = pput s.crews id (past (c.issuing o) f)) : Issued s t id c f p o := by
  refine ⟨hcur, fun x hx => by rw [hcrews, pfind_pput_other _ _ hx], past (c.issuing o) f, by rw [hcrews, pfind_pput_same],
    ⟨rfl, rfl, rfl, rfl, rfl⟩, rfl, hid, hpath, hflag, hdone, hfrozen, rfl, rfl, rfl, rfl, rfl, fun h => ?_, fun h => ?_⟩
  · simp [past, Crew.issuing, h]
  · simp [past, Crew.issuing, Option.isSome_iff_ne_none.2 h]

theorem issuing_issued {o : Op} (hcrews : s1.crews = s.crews) (hnext : s1.nextId = s.nextId) (hflag : o.flag = c.flagOf f)
    (hdone : o.done = false) (hfrozen : o.frozen = false) :
    Issued s (Issuing s1 id c f o) id c f o.path { o with id := s.nextId } :=
  Crew.issuing_issued rfl rfl hflag hdone hfrozen rfl (by simp only [Issuing, hcrews, hnext])

/-- The operation of a late result per lane (R31, R69). -/
def laneOp (s : State) (c : Crew) (f : Form) (p : Path) (needs : Bool) (regs : Nat) (after : List Nat)
    (val : Nat → BitVec 128) : Op :=
  { blankOp with
    path := p, flag := c.flagOf f, mask := c.em, vreg := if f.nd then some f.dst.toNat else none
    vvals := if f.nd then (List.range regs).map (fun j => lanesBy (fun l => (val l).extractLsb' (32 * j) 32)) else []
    hvals := some (lanesBy (fun l => if c.isActive l then (val l).setWidth 64 else 0))
    ott := s.ottFor c needs, after := after }

/-- The operation of a word without a result (R30). -/
def bareOp (s : State) (c : Crew) (f : Form) (p : Path) (needs : Bool) : Op :=
  { blankOp with path := p, flag := c.flagOf f, ott := s.ottFor c needs }

theorem finish_lateLanes (hc : pfind s1.crews id = some c) (p : Path) (needs : Bool) (regs : Nat) (after : List Nat)
    (val : Nat → BitVec 128) :
    (Eff.ok (s1.lateLanes id c f p needs regs false after val)).finish s id f.len.bytes =
      Issuing s1 id c f (laneOp s1 c f p needs regs after val) :=
  finish_issueOp hc (laneOp s1 c f p needs regs after val)

theorem finish_lateNone (hc : pfind s1.crews id = some c) (d : Crew) (p : Path) (needs : Bool) :
    (Eff.ok (s1.lateNone id d f p needs false)).finish s id f.len.bytes = Issuing s1 id c f (bareOp s1 d f p needs) :=
  finish_issueOp hc (bareOp s1 d f p needs)

/-- A late result per lane brings each active lane its value (R69, R118). -/
theorem laneOp_brings {p : Path} {needs : Bool} {regs : Nat} {after : List Nat} {val res : Nat → BitVec 128} {n : Nat}
    (h : ∀ l < 32, c.isActive l = true → val l = res l) :
    BringsLanes c f { laneOp s c f p needs regs after val with id := n } regs res := by
  refine ⟨rfl, rfl, rfl, fun hnd => ?_, fun hnd j hj l hl ha => ?_, _, rfl, fun l hl => ?_⟩
  · simp [laneOp, hnd]
  · simp [laneOp, hnd, hj, laneOf_lanesBy _ hl, h l hl ha]
  · rw [laneOf_lanesBy _ hl]
    split
    · next ha => rw [h l hl ha]
    · rfl

end Sys2Proof.Machine
end

section
/-! PROOF. Slab loads and stores (O17): what a lane reads of a window, and the windows after the lanes have written one after another. -/

namespace Sys2Proof.Machine
open Sys2Proof Sys2Proof.Stated
variable {s : State} {id : Nat} {c : Crew} {f : Form}

/-! ### Loads -/

/-- A byte of a window is read as its own value, or as one that an unfinished job has overwritten (R181). -/
theorem sldByte_cases (s : State) (t a draw : Nat) : s.sldByte t a draw = (s.team t).win.read a ∨
    ∃ e ∈ (s.team t).prior, e.1 = a ∧ s.sldByte t a draw = e.2.2 := by
  cases h : (s.team t).prior.find? (fun e => e.1 == a) with
  | none => exact .inl (by simp only [State.sldByte, h])
  | some e =>
    cases hd : Config.freeBit draw with
    | false => exact .inl (by simp [State.sldByte, h, hd])
    | true => exact .inr ⟨e, List.mem_of_find?_eq_some h, by simpa using List.find?_some h, by simp [State.sldByte, h, hd]⟩

theorem getD_sldBytes (s : State) (t off n draw : Nat) {j : Nat} (h : j < n) :
    (s.sldBytes t off n draw).getD j 0 = s.sldByte t (off + j) (draw + j) := by
  simp [State.sldBytes, h]

/-- The bytes that a lane's slab load brings. -/
def slabBytes (s : State) (f : Form) (place : Nat → Nat × Nat) (l : Nat) : List Byte :=
  s.sldBytes (place l).1 (place l).2 (memWidth f.ty (wideMem f)) (s.free + memWidth f.ty (wideMem f) * l)

theorem exec_sld {place : Nat → Nat × Nat} (hr : Runs s id c) (hp : Ready c (.sld f) f) (hm : MayIssue s c .sl)
    (hplace : ∀ l < 32, c.isActive l = true → s.slabAt c (c.ea f l) (memWidth f.ty (wideMem f)) = .ok (place l)) :
    ∃ needs, exec (.sld f) s = .next (Issuing { s with free := s.free + memWidth f.ty (wideMem f) * 32 } id c f
      (laneOp { s with free := s.free + memWidth f.ty (wideMem f) * 32 } c f .sl needs (memRegs f (wideMem f)) [] fun l =>
        loadExt f.ty (laneVal (c.lanes.map fun l => (l, leNat (slabBytes s f place l))) l))) := by
  refine ⟨(c.lanes.map fun l => (l, place l)).any (fun e => e.2.1 != c.team), ?_⟩
  rw [← finish_lateLanes (s := s) (s1 := { s with free := s.free + memWidth f.ty (wideMem f) * 32 }) hr.2]
  change execSld f s = _
  rw [execSld, runCrew_next hr.curCrew hp]
  simp only [Crew.laneLocs_ok hplace, not_issueWaits hm, Bool.false_eq_true, if_false, List.map_map]
  rfl

/-! ### Stores -/

/-- A write in a window changes the bytes it names of that window, and no other byte of any. -/
theorem read_winWrite {u : Nat} (h : (pfind s.teams u).isSome = true) (off : Nat) (bs : List Byte) (v a : Nat) :
    ((s.winWrite u off bs).team v).win.read a =
      if v = u ∧ off ≤ a ∧ a < off + bs.length then bs.getD (a - off) 0 else (s.team v).win.read a := by
  by_cases hv : v = u
  · subst hv
    simp only [State.winWrite, State.team_modTeam_same _ h, Memory.read_writeBytes, true_and]
  · simp only [State.winWrite, State.team, State.modTeam_teams, pget, pfind_pmod_other _ _ hv, hv, false_and, if_false]

/-- The write of one lane. -/
def slabStep (n : Nat) (val : Nat → Nat) (place : Nat → Nat × Nat) (s : State) (l : Nat) : State :=
  s.winWrite (place l).1 (place l).2 (leBytes n (val l))

theorem storeSlab_eq (n : Nat) (val : Nat → Nat) (place : Nat → Nat × Nat) (ls : List Nat) (s : State) :
    s.storeSlab n val (ls.map fun l => (l, place l)) = ls.foldl (slabStep n val place) s := by
  induction ls generalizing s with
  | nil => rfl
  | cons l ls ih => exact ih _

theorem isSome_pfind_pmod {β : Type} {m : PMap β} {k j : Nat} (g : β → β) (h : (pfind m j).isSome = true) :
    (pfind (pmod m k g) j).isSome = true := by
  by_cases hj : j = k
  · subst hj
    obtain ⟨x, hx⟩ := Option.isSome_iff_exists.1 h
    simp [pfind_pmod_same g hx]
  · rwa [pfind_pmod_other m g hj]

/-- The machine after the stores of the active lanes. -/
def slabStored (s : State) (c : Crew) (f : Form) (place : Nat → Nat × Nat) : State :=
  c.lanes.foldl (slabStep (memWidth f.ty (wideMem f)) (c.storeVal f) place) s

theorem foldl_slabStep (n : Nat) (val : Nat → Nat) (place : Nat → Nat × Nat) (ls : List Nat) (s : State) :
    ls.foldl (slabStep n val place) s = { s with teams := (ls.foldl (slabStep n val place) s).teams } := by
  induction ls generalizing s with
  | nil => rfl
  | cons l ls ih => exact (ih _).trans rfl

/-- Slab stores change teams alone. -/
theorem slabStored_frame (s : State) (c : Crew) (f : Form) (place : Nat → Nat × Nat) :
    slabStored s c f place = { s with teams := (slabStored s c f place).teams } := foldl_slabStep ..

/-- A byte of a team's window lies where a lane writes. -/
def inSlab (place : Nat → Nat × Nat) (n l : Nat) (k : Nat × Nat) : Prop :=
  (place l).1 = k.1 ∧ (place l).2 ≤ k.2 ∧ k.2 < (place l).2 + n

/-- The windows after the active lanes' stores: the highest lane's byte stands (R70, R72). -/
theorem read_slabStored {place : Nat → Nat × Nat} (hteam : ∀ l < 32, c.isActive l = true → (pfind s.teams (place l).1).isSome = true) :
    (∀ k : Nat × Nat, True → (∀ l ∈ c.lanes, ¬inSlab place (memWidth f.ty (wideMem f)) l k) →
      ((slabStored s c f place).team k.1).win.read k.2 = (s.team k.1).win.read k.2) ∧
    ∀ l ∈ c.lanes, ∀ k : Nat × Nat, True → inSlab place (memWidth f.ty (wideMem f)) l k →
      (∀ h ∈ c.lanes, l < h → ¬inSlab place (memWidth f.ty (wideMem f)) h k) →
      ((slabStored s c f place).team k.1).win.read k.2 =
        (leBytes (memWidth f.ty (wideMem f)) (c.storeVal f l)).getD (k.2 - (place l).2) 0 := by
  refine foldl_lanes (view := fun (x : State) (k : Nat × Nat) => (x.team k.1).win.read k.2)
    (val := fun l (k : Nat × Nat) => (leBytes (memWidth f.ty (wideMem f)) (c.storeVal f l)).getD (k.2 - (place l).2) 0)
    (inv := fun _ x => ∀ l ∈ c.lanes, (pfind x.teams (place l).1).isSome = true) c.lanes_rising ?_ ?_ ?_
    fun l hl => hteam l (Crew.mem_lanes.1 hl).1 (Crew.mem_lanes.1 hl).2
  · exact fun _ x l hl hx h hh => isSome_pfind_pmod _ (hx h hh)
  · intro _ x l hl hx k _ hk
    rw [slabStep, read_winWrite (hx l hl), length_leBytes, if_neg]
    exact fun h => hk ⟨h.1.symm, h.2⟩
  · intro _ x l hl hx k _ hk
    rw [slabStep, read_winWrite (hx l hl), length_leBytes, if_pos ⟨hk.1.symm, hk.2⟩]

theorem exec_sst {place : Nat → Nat × Nat} (hr : Runs s id c) (hp : Ready c (.sst f) f) (hm : MayIssue s c .sl)
    (hplace : ∀ l < 32, c.isActive l = true → s.slabAt c (c.ea f l) (memWidth f.ty (wideMem f)) = .ok (place l)) :
    ∃ needs, exec (.sst f) s =
      .next (Issuing (slabStored s c f place) id c f (bareOp (slabStored s c f place) c f .sl needs)) := by
  refine ⟨(c.lanes.map fun l => (l, place l)).any (fun e => e.2.1 != c.team), ?_⟩
  rw [← finish_lateNone (s := s) (by rw [slabStored_frame]; exact hr.2), slabStored, ← storeSlab_eq]
  change execSst f s = _
  rw [execSst, runCrew_next hr.curCrew hp]
  simp only [Crew.laneLocs_ok hplace, not_issueWaits hm, Bool.false_eq_true, if_false]

/-- Settles O17: the bytes of a window that lanes read, and the windows after the lanes have written one after another. -/
theorem slabAccesses : Obligations.SlabAccesses := by
  refine ⟨fun f s id c place hr hp hm hplace => ?_, fun f s id c place hr hp hm hplace hteam => ?_⟩
  · obtain ⟨needs, hexec⟩ := exec_sld hr hp hm hplace
    refine ⟨_, _, slabBytes s f place, hexec, issuing_issued rfl rfl rfl rfl rfl, rfl, rfl, rfl,
      laneOp_brings fun l hl ha => by rw [laneVal_map _ (Crew.mem_lanes.2 ⟨hl, ha⟩)],
      fun l hl ha => ⟨by simp [slabBytes, State.sldBytes], fun j hj => ?_⟩⟩
    rw [slabBytes, getD_sldBytes _ _ _ _ _ hj]
    exact sldByte_cases s _ _ _
  · obtain ⟨needs, hexec⟩ := exec_sst hr hp hm hplace
    obtain ⟨hout, hhit⟩ := read_slabStored (f := f) hteam
    have hframe := slabStored_frame s c f place
    have hmem : (slabStored s c f place).mem = s.mem := by rw [hframe]
    have hcores : (slabStored s c f place).cores = s.cores := by rw [hframe]
    refine ⟨_, _, hexec, issuing_issued (by rw [hframe]) (by rw [hframe]) rfl rfl rfl, rfl, rfl, hmem, hcores,
      fun l hl ha j hj hhigh => ?_, fun u a hno => ?_⟩
    · refine (hhit l (Crew.mem_lanes.2 ⟨hl, ha⟩) ((place l).1, (place l).2 + j) trivial
        ⟨rfl, Nat.le_add_right .., Nat.add_lt_add_left hj _⟩ fun h hh hlt hin => ?_).trans ?_
      · obtain ⟨hh32, hactive⟩ := Crew.mem_lanes.1 hh
        exact hhigh h hh32 hlt hactive hin.1 hin.2
      · rw [Nat.add_sub_cancel_left, getD_leBytes _ _ _ hj]
    · refine hout (u, a) trivial fun l hl hin => ?_
      obtain ⟨hl32, hactive⟩ := Crew.mem_lanes.1 hl
      exact hno l hl32 hactive hin.1 hin.2

end Sys2Proof.Machine
end

section
/-! PROOF. The loads: a segment load of a handler crew can touch 65 lines, and the 65th fill of an L1 that had room for 64
evicts a dirty line, which writes memory. -/

namespace Sys2Proof.Machine

open Sys2Proof Sys2Proof.Stated

theorem eq_ok_of_toOption {ε α : Type} {e : Except ε α} {a : α} (h : e.toOption = some a) : e = .ok a := by
  cases e with
  | error x => exact absurd h (Option.some_ne_none a).symm
  | ok b => exact congrArg Except.ok (Option.some.inj h)

/-- A core whose L1 has room for 64 lines, its first line dirty in one byte. The only translation maps the page at 0x10000. -/
def straddleCore : Core :=
  { Core.fresh with
    lines := (0, ⟨[0x5A], 1, false, none, none, false, false, none⟩) ::
      (List.range 4031).map (fun n => (2 ^ 53 + n, ⟨[], 0, false, none, none, false, false, none⟩))
    tlb := [(tlbKey 1 16 0x10000, ⟨16, 0x1000F⟩)] }

/-- A crew in its handler whose trap slot begins in the middle of a line: 16 bytes from 0x1003C are two of the page and 14 of
the slot, which are two lines of their own. From every other lane's address 16 bytes are two lines. -/
def straddleCrew : Crew :=
  { Crew.fresh with
    team := 1, nreg := 32, handler := true, slot := 0x1003E, k := [(6, 0x10000)]
    v := [(8, lanesBy (fun l => if l = 0 then 0x3C else BitVec.ofNat 32 (0x38 + 128 * l))), (10, lanesAll 16)] }

/-- `sseg` of 16 bytes in each lane. -/
def straddleForm : Form := { Form.zero with a := ⟨.k 6, .none⟩, b := ⟨.v 8, .none⟩, c := ⟨.v 10, .none⟩ }

def straddle : State :=
  { State.reset with
    cur := some (.crew 1), crews := [(1, straddleCrew)], teams := [(1, { blankTeam with launch := 1 })]
    launches := [(1, { blankLaunch with asid := 1, ranges := [⟨0, 2 ^ 57, true, true⟩] })], cores := [(0, straddleCore)] }

/-- Where a lane's bytes lie. -/
def straddlePlace (l : Nat) : List Loc := (straddle.bytesAt straddleCrew .read (straddleCrew.ea straddleForm l) 16).toOption.getD []

theorem straddle_reach : ∀ l < 32, (straddle.bytesAt straddleCrew .read (straddleCrew.ea straddleForm l)
    (min ((straddleCrew.src32 straddleForm 0 straddleForm.c l).toNat % 256) 16)).toOption = some (straddlePlace l) := by
  decide +kernel

/-- The byte of the evicted line has reached memory. -/
theorem straddle_evicts : (match exec (.sseg straddleForm) straddle with
    | .next t => t.mem.read 0
    | _ => 0) = 0x5A := by
  decide +kernel

/-- Refutes O15: its segment load asks for room for two lines a lane, but 16 bytes that straddle the start of an unaligned trap
slot lie in three lines. -/
theorem not_loads : ¬ Obligations.Loads := by
  rintro ⟨-, -, hseg⟩
  obtain ⟨t, -, hexec, -, -, hmem, -⟩ := hseg straddleForm straddle 1 straddleCrew straddlePlace
    (by delta Runs; decide +kernel) (by delta Ready; decide +kernel) (by delta MayIssue; decide +kernel)
    (fun l hl _ => eq_ok_of_toOption (straddle_reach l hl)) (by delta Room; decide +kernel)
  have hread := straddle_evicts
  rw [hexec] at hread
  change t.mem.read 0 = 0x5A at hread
  rw [hmem] at hread
  exact absurd hread (by decide)

end Sys2Proof.Machine
end

section
/-! SUPPORT. What an access leaves of memory and the caches, and the bytes that a core reads after it (R248, R249, R255, R263,
R304): fills and stores of an L1 that has room evict nothing. -/

namespace Sys2Proof.Machine
open Sys2Proof Sys2Proof.Stated
variable {s t u : State} {ck : Nat}

/-! ### What an access leaves alone -/

/-- An access of a core has touched memory and caches alone (R248, R304), and which bytes held writes have lost (R284). -/
def AccessStep (s t : State) (ck : Nat) : Prop :=
  t = { s with cores := t.cores, isls := t.isls, mem := t.mem } ∧ (∀ k, k ≠ ck → t.core k = s.core k) ∧
  { t.core ck with lines := [], tlb := [] } = { s.core ck with lines := [], tlb := [] } ∧
  ∀ i, { t.isl i with upper := [], convs := (t.isl i).convs.map bareConv }
    = { s.isl i with upper := [], convs := (s.isl i).convs.map bareConv }

theorem AccessStep.refl (s : State) (ck : Nat) : AccessStep s s ck := ⟨rfl, fun _ _ => rfl, rfl, fun _ => rfl⟩

theorem AccessStep.trans (h : AccessStep s t ck) (h' : AccessStep t u ck) : AccessStep s u ck := by
  obtain ⟨hst, hother, hcore, hisl⟩ := h
  obtain ⟨htu, hother', hcore', hisl'⟩ := h'
  refine ⟨?_, fun k hk => (hother' k hk).trans (hother k hk), hcore'.trans hcore, fun i => (hisl' i).trans (hisl i)⟩
  rw [hst] at htu
  exact htu

theorem AccessStep.crews (h : AccessStep s t ck) : t.crews = s.crews := by rw [h.1]
theorem AccessStep.nextId (h : AccessStep s t ck) : t.nextId = s.nextId := by rw [h.1]
theorem AccessStep.teams (h : AccessStep s t ck) : t.teams = s.teams := by rw [h.1]

theorem AccessStep.modCore {g : Core → Core} (h : { g (s.core ck) with lines := [], tlb := [] } = { s.core ck with lines := [], tlb := [] }) :
    AccessStep s (s.modCore ck g) ck :=
  ⟨rfl, fun _ hk => State.core_modCore_other g hk, by rw [State.core_modCore_same, h], fun _ => rfl⟩

theorem AccessStep.homeWrite (s : State) (i a : Nat) (bs : List Byte) : AccessStep s (s.homeWrite i a bs) ck :=
  ⟨rfl, fun _ _ => rfl, rfl, fun _ => rfl⟩

theorem AccessStep.modIsl {i : Nat} {g : Island → Island}
    (h : { g (s.isl i) with upper := [], convs := (g (s.isl i)).convs.map bareConv }
      = { s.isl i with upper := [], convs := (s.isl i).convs.map bareConv }) : AccessStep s (s.modIsl i g) ck := by
  refine ⟨rfl, fun _ _ => rfl, rfl, fun j => ?_⟩
  by_cases hj : j = i
  · subst hj
    rw [State.isl_modIsl_same, h]
  · rw [State.isl_modIsl_other g hj]

/-- The TLB takes a translation and the shared cache table entries (R304): no line and no byte changes. -/
theorem State.fillTlb_step (s : State) (ck : Nat) (l : Launch) (va : Nat) :
    AccessStep s (s.fillTlb ck l va) ck ∧ ((s.fillTlb ck l va).core ck).lines = (s.core ck).lines ∧
      (s.fillTlb ck l va).mem = s.mem ∧ ∀ i, ((s.fillTlb ck l va).isl i).convs = (s.isl i).convs := by
  have hcached := s.fillTlb_cached ck l va
  refine ⟨?_, by rw [hcached.2.1], by rw [hcached.1], fun i => by rw [hcached.2.2]⟩
  unfold State.fillTlb
  split
  · exact .refl ..
  · split
    · exact .refl ..
    · exact (AccessStep.modIsl (s := s) rfl).trans (.modCore rfl)

theorem State.fillTlbs_step (s : State) (c : Crew) (as : List DWord) :
    AccessStep s (s.fillTlbs c as) c.core ∧ ((s.fillTlbs c as).core c.core).lines = (s.core c.core).lines ∧
      (s.fillTlbs c as).mem = s.mem ∧ ∀ i, ((s.fillTlbs c as).isl i).convs = (s.isl i).convs := by
  induction as generalizing s with
  | nil => exact ⟨.refl .., rfl, rfl, fun _ => rfl⟩
  | cons a as ih =>
    obtain ⟨hstep, hlines, hmem, hconvs⟩ := s.fillTlb_step c.core (s.launchOf c) a.toNat
    obtain ⟨hstep', hlines', hmem', hconvs'⟩ := ih (s.fillTlb c.core (s.launchOf c) a.toNat)
    exact ⟨hstep.trans hstep', hlines'.trans hlines, hmem'.trans hmem, fun i => (hconvs' i).trans (hconvs i)⟩

/-! ### The bytes of a line -/

theorem getD_lineFull (old : List Byte) (o : Nat) : (lineFull old).getD o 0 = old.getD o 0 := by
  simp only [lineFull, List.getD_eq_getElem?_getD, List.getElem?_append, List.getElem?_replicate]
  split
  · rfl
  · next h => rw [List.getElem?_eq_none (Nat.not_lt.1 h)]; split <;> rfl

theorem le_length_lineFull (old : List Byte) : 64 ≤ (lineFull old).length := by
  simp only [lineFull, List.length_append, List.length_replicate]
  omega

theorem getD_overlay (dirty : BitVec 64) (own other : List Byte) {o : Nat} (h : o < 64) :
    (overlay dirty own other).getD o 0 = if dirty.getLsbD o then own.getD o 0 else other.getD o 0 := by
  simp [overlay, h]

theorem getD_putBytes (old : List Byte) {off : Nat} {bs : List Byte} (hoff : off + bs.length ≤ 64) (o : Nat) :
    (putBytes old off bs).getD o 0 = if off ≤ o ∧ o < off + bs.length then bs.getD (o - off) 0 else old.getD o 0 := by
  have hlen := le_length_lineFull old
  have htake : ((lineFull old).take off).length = off := by simp; omega
  rw [← getD_lineFull old o]
  simp only [putBytes, List.getD_eq_getElem?_getD, List.append_assoc]
  by_cases ho : o < off
  · rw [List.getElem?_append_left (by omega), List.getElem?_take_of_lt ho, if_neg (by omega)]
  · rw [List.getElem?_append_right (by omega), htake]
    by_cases hin : o < off + bs.length
    · rw [List.getElem?_append_left (by omega), if_pos (by omega)]
    · rw [List.getElem?_append_right (by omega), if_neg (by omega), List.getElem?_drop]
      congr 2
      omega

theorem getLsbD_lineBits (off n : Nat) {o : Nat} (h : o < 64) :
    (lineBits off n).getLsbD o = (decide (off ≤ o) && decide (o < off + n)) := by
  rw [lineBits, BitVec.getLsbD_ofNat, Nat.testBit_mul_two_pow, Nat.testBit_two_pow_sub_one]
  rw [Bool.eq_iff_iff]
  simp only [h, decide_true, Bool.true_and, Bool.and_eq_true, decide_eq_true_eq]
  omega

/-- Whether all of one byte is dirty. -/
theorem and_lineBits_one (dirty : BitVec 64) {o : Nat} (h : o < 64) :
    (dirty &&& lineBits o 1 == lineBits o 1) = dirty.getLsbD o := by
  rw [Bool.eq_iff_iff, beq_iff_eq]
  constructor
  · intro heq
    have hbit := congrArg (fun x => x.getLsbD o) heq
    simpa [getLsbD_lineBits _ _ h] using hbit
  · intro hd
    refine BitVec.eq_of_getLsbD_eq fun j hj => ?_
    rw [BitVec.getLsbD_and, getLsbD_lineBits _ _ hj]
    by_cases hoj : j = o
    · subst hoj
      simp [hd]
    · have hout : (decide (o ≤ j) && decide (j < o + 1)) = false := by
        simp only [Bool.and_eq_false_iff, decide_eq_false_iff_not]
        omega
      simp only [hout, Bool.and_false]

/-! ### The bytes that a core reads -/

/-- A byte of a line that an L1 holds, as its core reads it: its own where it is fresh or dirty, else the home's (R255). -/
def lineByte (c : Core) (ln : Line) (o : Nat) (home : Byte) : Byte :=
  if ln.stamp == some (c.genOf ln.cxl) || ln.dirty.getLsbD o then ln.bytes.getD o 0 else home

/-- A byte at the home of its line. -/
def homeByte (s : State) (ck la : Nat) : Byte := s.mem.read (s.homeKey (coreIsl ck) (64 * (la / 64)) + la % 64)

/-- A byte of memory as a core reads it through its L1 (R248). -/
def coreByte (s : State) (ck la : Nat) : Byte :=
  match pfind (s.core ck).lines (la / 64) with
  | some ln => lineByte (s.core ck) ln (la % 64) (homeByte s ck la)
  | none => homeByte s ck la

/-- The line that a fill of an absent line makes (R248). -/
def freshLine (s : State) (ck li : Nat) : Line :=
  ⟨s.homeRead (coreIsl ck) (64 * li) 64, 0, isCxl (64 * li), some ((s.core ck).genOf (isCxl (64 * li))), none, false, false, none⟩

/-- A line that an L1 holds, filled again (R255, R256). -/
def refilled (s : State) (ck li : Nat) (ln : Line) : Line :=
  { ln with
    bytes := overlay ln.dirty ln.bytes (s.homeRead (coreIsl ck) (64 * li) 64)
    stamp := some ((s.core ck).genOf (isCxl (64 * li))) }

/-- The line of a core's L1 after a fill. -/
def filledLine (s : State) (ck li : Nat) : Line :=
  match pfind (s.core ck).lines li with
  | some ln => refilled s ck li ln
  | none => freshLine s ck li

/-- A core's L1 with one line put. -/
def putLine (s : State) (ck li : Nat) (ln : Line) : State := s.modCore ck (fun c => { c with lines := pput c.lines li ln })

theorem putLine_putLine (s : State) (ck li : Nat) (ln ln' : Line) : putLine (putLine s ck li ln) ck li ln' = putLine s ck li ln' := by
  simp only [putLine, State.modCore, State.setCore, State.core, pfind_pput_same, pput_pput]

theorem putLine_step (s : State) (ck li : Nat) (ln : Line) : AccessStep s (putLine s ck li ln) ck := .modCore rfl

theorem length_pput_le {β : Type} (m : PMap β) (k : Nat) (v : β) : (pput m k v).length ≤ m.length + 1 := by
  induction m with
  | nil => exact Nat.le_refl 1
  | cons e m ih =>
    obtain ⟨a, b⟩ := e
    simp only [pput]
    split_ifs <;> simp only [List.length_cons] <;> omega

theorem putLine_length_le (s : State) (ck li : Nat) (ln : Line) :
    ((putLine s ck li ln).core ck).lines.length ≤ (s.core ck).lines.length + 1 := by
  simpa only [putLine, State.core_modCore_same] using length_pput_le ..

/-- A fill of an L1 with room evicts nothing (R248). -/
theorem fill_of_room (h : (s.core ck).lines.length < l1Capacity) (li : Nat) :
    s.fill ck li = putLine s ck li (filledLine s ck li) := by
  simp only [State.fill, decide_eq_false (Nat.not_le.2 h), Bool.false_and, Bool.false_eq_true, if_false]
  rfl

theorem coreByte_of_some {ln : Line} {la : Nat} (h : pfind (s.core ck).lines (la / 64) = some ln) :
    coreByte s ck la = lineByte (s.core ck) ln (la % 64) (homeByte s ck la) := by
  simp only [coreByte, h]

theorem coreByte_of_none {la : Nat} (h : pfind (s.core ck).lines (la / 64) = none) : coreByte s ck la = homeByte s ck la := by
  simp only [coreByte, h]

theorem coreByte_putLine (s : State) (ck li : Nat) (ln : Line) (la : Nat) :
    coreByte (putLine s ck li ln) ck la =
      if la / 64 = li then lineByte (s.core ck) ln (la % 64) (homeByte s ck la) else coreByte s ck la := by
  by_cases hli : la / 64 = li
  · subst hli
    rw [if_pos rfl, coreByte_of_some (ln := ln) (by simp [putLine])]
    simp only [putLine, State.core_modCore_same]
    rfl
  · simp only [if_neg hli, coreByte, putLine, State.core_modCore_same, pfind_pput_other _ _ hli]
    rfl

/-- The home's byte among those that a fill reads. -/
theorem getD_homeRead (s : State) (ck la : Nat) :
    (s.homeRead (coreIsl ck) (64 * (la / 64)) 64).getD (la % 64) 0 = homeByte s ck la := by
  simp [State.homeRead, Memory.readBytes, homeByte, Nat.mod_lt la (show 64 > 0 by decide)]

theorem lineByte_freshLine (s : State) (ck la : Nat) (home : Byte) :
    lineByte (s.core ck) (freshLine s ck (la / 64)) (la % 64) home = homeByte s ck la := by
  simp only [lineByte, freshLine, beq_self_eq_true, Bool.true_or, if_true]
  exact getD_homeRead s ck la

/-- A line that is not fresh reads after a fill as before it (R256). -/
theorem lineByte_refilled {ln : Line} (h : (ln.stamp == some ((s.core ck).genOf ln.cxl)) = false) (la : Nat) :
    lineByte (s.core ck) (refilled s ck (la / 64) ln) (la % 64) (homeByte s ck la) =
      lineByte (s.core ck) ln (la % 64) (homeByte s ck la) := by
  have hlt : la % 64 < 64 := Nat.mod_lt _ (by decide)
  simp only [lineByte, h, refilled, getD_overlay _ _ _ hlt, getD_homeRead, Bool.false_or]
  cases ln.dirty.getLsbD (la % 64) <;> simp

/-- A fill changes no byte as its core reads it. -/
theorem coreByte_fill (hroom : (s.core ck).lines.length < l1Capacity) {li : Nat}
    (hstale : ∀ ln, pfind (s.core ck).lines li = some ln → (ln.stamp == some ((s.core ck).genOf ln.cxl)) = false) (la : Nat) :
    coreByte (s.fill ck li) ck la = coreByte s ck la := by
  rw [fill_of_room hroom, coreByte_putLine]
  split
  · next hli =>
    subst hli
    cases hf : pfind (s.core ck).lines (la / 64) with
    | none => rw [filledLine, hf, lineByte_freshLine, coreByte_of_none hf]
    | some ln => rw [filledLine, hf, lineByte_refilled (hstale ln hf), coreByte_of_some hf]
  · rfl

/-! ### Loads -/

/-- The machine after the line of a load is there (R248). -/
def loadState (s : State) (ck li off n : Nat) : State :=
  match pfind (s.core ck).lines li with
  | some ln => if lineServes (s.core ck) ln off n then s else s.fill ck li
  | none => s.fill ck li

theorem l1Load_fst {p : Loc} (hp : p.ah = false) (ck n : Nat) :
    (s.l1Load ck p n).1 = loadState s ck (p.la / 64) (p.la % 64) n := by
  simp only [State.l1Load, hp, Bool.false_eq_true, if_false]
  split <;> rfl

theorem loadState_cases (s : State) (ck li off n : Nat) : loadState s ck li off n = s ∨ loadState s ck li off n = s.fill ck li ∧
    ∀ ln, pfind (s.core ck).lines li = some ln → (ln.stamp == some ((s.core ck).genOf ln.cxl)) = false := by
  cases hf : pfind (s.core ck).lines li with
  | none => exact .inr ⟨by simp only [loadState, hf], fun _ h => nomatch h⟩
  | some ln =>
    cases hserves : lineServes (s.core ck) ln off n with
    | true => exact .inl (by simp only [loadState, hf, hserves, if_true])
    | false =>
      refine .inr ⟨by simp only [loadState, hf, hserves, Bool.false_eq_true, if_false], fun ln' h => ?_⟩
      obtain rfl := Option.some.inj h
      exact (Bool.or_eq_false_iff.1 hserves).1

/-- A load through an L1 with room takes at most one line, and no byte changes as the core reads it (R248). -/
theorem l1Load_frame (hroom : (s.core ck).lines.length < l1Capacity) {p : Loc} (hp : p.ah = false) (n : Nat) :
    AccessStep s (s.l1Load ck p n).1 ck ∧ (s.l1Load ck p n).1.mem = s.mem ∧
      ((s.l1Load ck p n).1.core ck).lines.length ≤ (s.core ck).lines.length + 1 ∧
      ∀ la, coreByte (s.l1Load ck p n).1 ck la = coreByte s ck la := by
  rw [l1Load_fst hp]
  rcases loadState_cases s ck (p.la / 64) (p.la % 64) n with h | ⟨h, hstale⟩
  · rw [h]
    exact ⟨.refl .., rfl, Nat.le_succ _, fun _ => rfl⟩
  · have hbyte := coreByte_fill hroom hstale
    rw [fill_of_room hroom] at h hbyte
    rw [h]
    exact ⟨putLine_step .., rfl, putLine_length_le .., hbyte⟩

theorem headD_take_drop (bytes : List Byte) (o : Nat) : (((lineFull bytes).drop o).take 1).headD 0 = bytes.getD o 0 := by
  rw [← getD_lineFull, List.headD_eq_head?_getD, List.head?_take, if_neg Nat.one_ne_zero, List.head?_drop,
    List.getD_eq_getElem?_getD]

/-- The byte that a core reads in memory, where its L1 has room. -/
theorem seenByte_eq (hroom : (s.core ck).lines.length < l1Capacity) {p : Loc} (hp : p.ah = false) :
    seenByte s ck p = coreByte s ck p.la := by
  have hlt : p.la % 64 < 64 := Nat.mod_lt _ (by decide)
  cases hf : pfind (s.core ck).lines (p.la / 64) with
  | none =>
    have hline : pfind ((s.fill ck (p.la / 64)).core ck).lines (p.la / 64) = some (freshLine s ck (p.la / 64)) := by
      simp [fill_of_room hroom, putLine, filledLine, hf]
    simp only [seenByte, State.l1Load, hp, hf, hline, Bool.false_eq_true, if_false, headD_take_drop]
    rw [coreByte_of_none hf]
    exact getD_homeRead s ck p.la
  | some ln =>
    rw [coreByte_of_some hf]
    cases hserves : lineServes (s.core ck) ln (p.la % 64) 1 with
    | true =>
      simp only [seenByte, State.l1Load, hp, hf, hserves, Bool.false_eq_true, if_false, if_true, headD_take_drop]
      rw [lineServes, and_lineBits_one _ hlt] at hserves
      rw [lineByte, if_pos hserves]
    | false =>
      have hline : pfind ((s.fill ck (p.la / 64)).core ck).lines (p.la / 64) = some (refilled s ck (p.la / 64) ln) := by
        simp [fill_of_room hroom, putLine, filledLine, hf]
      simp only [seenByte, State.l1Load, hp, hf, hserves, hline, Bool.false_eq_true, if_false, headD_take_drop]
      rw [lineServes, and_lineBits_one _ hlt] at hserves
      rw [lineByte, if_neg (by simp [hserves]), refilled, getD_overlay _ _ _ hlt, getD_homeRead,
        (Bool.or_eq_false_iff.1 hserves).2]
      rfl

/-- The byte that a core reads on an atomic-home page (R263). -/
theorem seenByte_ah {p : Loc} (hp : p.ah = true) : seenByte s ck p = s.mem.read (s.homeKey (coreIsl ck) p.la) := by
  simp [seenByte, State.l1Load, hp, State.homeRead, Memory.readBytes]

/-! ### Steps that change no byte -/

theorem AccessStep.genOf (h : AccessStep s t ck) (b : Bool) : (t.core ck).genOf b = (s.core ck).genOf b := by
  obtain ⟨-, -, hcore, -⟩ := h
  have hgen := congrArg (fun c => Core.genOf c b) hcore
  exact hgen

theorem AccessStep.homeKey (h : AccessStep s t ck) (i la : Nat) : t.homeKey i la = s.homeKey i la := by
  rw [h.1]
  rfl

/-- With the same lines and the same memory a core reads the same bytes. -/
theorem coreByte_congr (h : AccessStep s t ck) (hlines : (t.core ck).lines = (s.core ck).lines) (hmem : t.mem = s.mem) (la : Nat) :
    coreByte t ck la = coreByte s ck la := by
  simp only [coreByte, lineByte, homeByte, hlines, hmem, h.homeKey, h.genOf]

theorem seenByte_congr (h : AccessStep s t ck) (hmem : t.mem = s.mem) (hbyte : ∀ la, coreByte t ck la = coreByte s ck la)
    (hs : (s.core ck).lines.length < l1Capacity) (ht : (t.core ck).lines.length < l1Capacity) (q : Loc) :
    seenByte t ck q = seenByte s ck q := by
  cases hq : q.ah with
  | true => rw [seenByte_ah hq, seenByte_ah hq, hmem, h.homeKey]
  | false => rw [seenByte_eq ht hq, seenByte_eq hs hq, hbyte]

/-- What a core reads depends on the core and on memory alone. -/
theorem seenByte_of_core (hcore : t.core ck = s.core ck) (hmem : t.mem = s.mem) (hkey : ∀ i la, t.homeKey i la = s.homeKey i la)
    (hroom : (s.core ck).lines.length < l1Capacity) (q : Loc) : seenByte t ck q = seenByte s ck q := by
  cases hq : q.ah with
  | true => rw [seenByte_ah hq, seenByte_ah hq, hmem, hkey]
  | false =>
    rw [seenByte_eq (by rwa [hcore]) hq, seenByte_eq hroom hq]
    simp only [coreByte, homeByte, hcore, hmem, hkey]

theorem seenByte_after (id : Nat) (d : Crew) (hroom : (s.core ck).lines.length < l1Capacity) (q : Loc) :
    seenByte (After s id d) ck q = seenByte s ck q :=
  seenByte_of_core (s := s) (t := After s id d) rfl rfl (fun _ _ => rfl) hroom q

theorem seenByte_issuing (id : Nat) (c : Crew) (f : Form) (o : Op) (hroom : (s.core ck).lines.length < l1Capacity) (q : Loc) :
    seenByte (Issuing s id c f o) ck q = seenByte s ck q :=
  seenByte_of_core (s := s) (t := Issuing s id c f o) rfl rfl (fun _ _ => rfl) hroom q

/-! ### Stores -/

/-- A line with some bytes stored (R249). -/
def storedLine (ln : Line) (off : Nat) (bs : List Byte) : Line :=
  { ln with
    bytes := putBytes ln.bytes off bs, dirty := ln.dirty ||| lineBits off bs.length
    mark := if ln.dirty = 0 then none else ln.mark }

/-- A core's line, or the one that a fill makes. -/
def lineOrFresh (s : State) (ck li : Nat) : Line := (pfind (s.core ck).lines li).getD (freshLine s ck li)

/-- A store through an L1 with room (R248, R249). -/
theorem l1Store_eq (hroom : (s.core ck).lines.length < l1Capacity) {p : Loc} (hp : p.ah = false) (bs : List Byte) :
    s.l1Store ck p bs = putLine s ck (p.la / 64) (storedLine (lineOrFresh s ck (p.la / 64)) (p.la % 64) bs) := by
  cases hf : pfind (s.core ck).lines (p.la / 64) with
  | none =>
    rw [← putLine_putLine s ck _ (freshLine s ck (p.la / 64))]
    simp only [State.l1Store, hp, hf, fill_of_room hroom, filledLine, lineOrFresh, Option.isSome_none, Option.getD_none,
      Bool.false_eq_true, if_false]
    simp only [putLine, State.modCore, State.setCore, State.core, pmod, pfind_pput_same]
    rfl
  | some ln =>
    simp only [State.l1Store, hp, hf, lineOrFresh, Option.isSome_some, Option.getD_some, Bool.false_eq_true, if_false, if_true, putLine,
      State.modCore, pmod]
    rfl

theorem lineByte_storedLine (c : Core) (ln : Line) {off : Nat} {bs : List Byte} (hoff : off + bs.length ≤ 64) {o : Nat} (ho : o < 64)
    (home : Byte) : lineByte c (storedLine ln off bs) o home =
      if off ≤ o ∧ o < off + bs.length then bs.getD (o - off) 0 else lineByte c ln o home := by
  simp only [lineByte, storedLine, BitVec.getLsbD_or, getLsbD_lineBits _ _ ho, getD_putBytes _ hoff]
  by_cases h : off ≤ o ∧ o < off + bs.length
  · simp [h]
  · have hbits : (decide (off ≤ o) && decide (o < off + bs.length)) = false := by simpa using h
    simp only [hbits, h, Bool.or_false, if_false]

theorem lineByte_lineOrFresh (s : State) (ck la : Nat) :
    lineByte (s.core ck) (lineOrFresh s ck (la / 64)) (la % 64) (homeByte s ck la) = coreByte s ck la := by
  cases hf : pfind (s.core ck).lines (la / 64) with
  | none => rw [lineOrFresh, hf, Option.getD_none, lineByte_freshLine, coreByte_of_none hf]
  | some ln => rw [lineOrFresh, hf, Option.getD_some, coreByte_of_some hf]

/-- A store of bytes of one line changes these as the core reads them, and no other (R70, R249). -/
theorem coreByte_l1Store (hroom : (s.core ck).lines.length < l1Capacity) {p : Loc} (hp : p.ah = false) {bs : List Byte}
    (hoff : p.la % 64 + bs.length ≤ 64) (la : Nat) : coreByte (s.l1Store ck p bs) ck la =
      if p.la ≤ la ∧ la < p.la + bs.length then bs.getD (la - p.la) 0 else coreByte s ck la := by
  rw [l1Store_eq hroom hp, coreByte_putLine]
  by_cases hli : la / 64 = p.la / 64
  · rw [if_pos hli, ← hli, lineByte_storedLine _ _ hoff (Nat.mod_lt _ (by decide)), lineByte_lineOrFresh]
    rw [show la % 64 - p.la % 64 = la - p.la from by omega]
    refine ite_congr (propext ?_) (fun _ => rfl) fun _ => rfl
    omega
  · rw [if_neg hli, if_neg (by omega)]

/-- A store on an atomic-home page changes memory alone (R263). -/
theorem l1Store_ah {p : Loc} (hp : p.ah = true) (bs : List Byte) : s.l1Store ck p bs = s.homeWrite (coreIsl ck) p.la bs := by
  simp only [State.l1Store, hp, if_true]

end Sys2Proof.Machine
end

section
/-! PROOF. Prefetch and indirect registers (O18). -/

namespace Sys2Proof.Machine
open Sys2Proof Sys2Proof.Stated
variable {s : State} {id : Nat} {c : Crew} {f : Form}

/-! ### Prefetch (R73) -/

/-- The prefetch of one lane. -/
def prefStep (s : State) (c : Crew) (f : Form) (l : Nat) : State :=
  match s.accessAt c .read (c.ea f l) 1 with
  | .ok p =>
    if f.mod.getLsbD 0 || p.ah then s.fillTlb c.core (s.launchOf c) (c.ea f l).toNat
    else ((s.fillTlb c.core (s.launchOf c) (c.ea f l).toNat).l1Load c.core ⟨p.la / 64 * 64, false⟩ 64).1
  | .error _ => s

theorem prefLanes_cons (s : State) (c : Crew) (f : Form) (l : Nat) (ls : List Nat) :
    s.prefLanes c f (l :: ls) = (prefStep s c f l).prefLanes c f ls := rfl

/-- With `.l2` the L1 takes no line. -/
theorem prefStep_l2 (s : State) (h : f.mod.getLsbD 0 = true) (l : Nat) :
    AccessStep s (prefStep s c f l) c.core ∧ ((prefStep s c f l).core c.core).lines = (s.core c.core).lines ∧
      (prefStep s c f l).mem = s.mem := by
  obtain ⟨hstep, hlines, hmem, -⟩ := s.fillTlb_step c.core (s.launchOf c) (c.ea f l).toNat
  unfold prefStep
  split
  · rw [h, Bool.true_or, if_pos rfl]
    exact ⟨hstep, hlines, hmem⟩
  · exact ⟨.refl .., rfl, rfl⟩

theorem prefLanes_l2 (s : State) (h : f.mod.getLsbD 0 = true) (ls : List Nat) :
    AccessStep s (s.prefLanes c f ls) c.core ∧ ((s.prefLanes c f ls).core c.core).lines = (s.core c.core).lines ∧
      (s.prefLanes c f ls).mem = s.mem := by
  induction ls generalizing s with
  | nil => exact ⟨.refl .., rfl, rfl⟩
  | cons l ls ih =>
    obtain ⟨hstep, hlines, hmem⟩ := prefStep_l2 s h l
    obtain ⟨hstep', hlines', hmem'⟩ := ih (prefStep s c f l)
    rw [prefLanes_cons]
    exact ⟨hstep.trans hstep', hlines'.trans hlines, hmem'.trans hmem⟩

/-- A lane's prefetch takes at most one line and changes no byte as the core reads it. -/
theorem prefStep_frame (hroom : (s.core c.core).lines.length < l1Capacity) (f : Form) (l : Nat) :
    AccessStep s (prefStep s c f l) c.core ∧ (prefStep s c f l).mem = s.mem ∧
      ((prefStep s c f l).core c.core).lines.length ≤ (s.core c.core).lines.length + 1 ∧
      ∀ la, coreByte (prefStep s c f l) c.core la = coreByte s c.core la := by
  obtain ⟨hstep, hlines, hmem, -⟩ := s.fillTlb_step c.core (s.launchOf c) (c.ea f l).toNat
  have hbyte := coreByte_congr hstep hlines hmem
  unfold prefStep
  split
  · next p _ =>
    split
    · exact ⟨hstep, hmem, by rw [hlines]; exact Nat.le_succ _, hbyte⟩
    · obtain ⟨hstep', hmem', hlen', hbyte'⟩ := l1Load_frame (s := s.fillTlb c.core (s.launchOf c) (c.ea f l).toNat) (ck := c.core)
        (by rwa [hlines]) (p := ⟨p.la / 64 * 64, false⟩) rfl 64
      exact ⟨hstep.trans hstep', hmem'.trans hmem, by rwa [hlines] at hlen', fun la => (hbyte' la).trans (hbyte la)⟩
  · exact ⟨.refl .., rfl, Nat.le_succ _, fun _ => rfl⟩

theorem prefLanes_frame (f : Form) (ls : List Nat) (hroom : (s.core c.core).lines.length + ls.length ≤ l1Capacity) :
    AccessStep s (s.prefLanes c f ls) c.core ∧ (s.prefLanes c f ls).mem = s.mem ∧
      ((s.prefLanes c f ls).core c.core).lines.length ≤ (s.core c.core).lines.length + ls.length ∧
      ∀ la, coreByte (s.prefLanes c f ls) c.core la = coreByte s c.core la := by
  induction ls generalizing s with
  | nil => exact ⟨.refl .., rfl, Nat.le_refl _, fun _ => rfl⟩
  | cons l ls ih =>
    rw [List.length_cons] at hroom
    obtain ⟨hstep, hmem, hlen, hbyte⟩ := prefStep_frame (s := s) (c := c) (by omega) f l
    obtain ⟨hstep', hmem', hlen', hbyte'⟩ := ih (s := prefStep s c f l) (by omega)
    rw [prefLanes_cons, List.length_cons]
    exact ⟨hstep.trans hstep', hmem'.trans hmem, by omega, fun la => (hbyte' la).trans (hbyte la)⟩

/-- `pref` passes. -/
theorem exec_pref (hr : Runs s id c) (hp : Ready c (.pref f) f) (hcrews : (s.prefLanes c f c.lanes).crews = s.crews) :
    exec (.pref f) s = .next (After (s.prefLanes c f c.lanes) id (past c f)) := by
  change execPref f s = _
  rw [execPref, runCrew_next hr.curCrew hp]
  simp only [Eff.finish, State.modCrew, State.issued, pmod, hcrews, hr.2, After]
  rfl

theorem prefetch : Prefetch := by
  refine ⟨fun f s id c hr hp hl2 => ?_, fun f s id c hr hp hroom => ?_⟩
  · obtain ⟨hstep, hlines, hmem⟩ := prefLanes_l2 (c := c) s hl2 c.lanes
    refine ⟨_, exec_pref hr hp hstep.crews, by rw [← hstep.crews]; rfl, hmem, hstep.teams, fun k => ?_⟩
    by_cases hk : k = c.core
    · subst hk
      exact hlines
    · exact congrArg Core.lines (hstep.2.1 k hk)
  · have hlanes := c.length_lanes_le
    have hcap : (s.core c.core).lines.length + 33 ≤ l1Capacity := hroom
    obtain ⟨hstep, hmem, hlen, hbyte⟩ := prefLanes_frame (s := s) (c := c) f c.lanes (by omega)
    refine ⟨_, exec_pref hr hp hstep.crews, by rw [← hstep.crews]; rfl, hmem, hstep.teams, fun q => ?_⟩
    rw [seenByte_after _ _ (by omega), seenByte_congr hstep hmem hbyte (by omega) (by omega)]

/-! ### Indirect registers (R74) -/

theorem Crew.awaitedBy_none (h : c.ops = []) (n l : Nat) : c.awaitedBy n l = none := by simp only [Crew.awaitedBy, h, List.find?_nil]

theorem Crew.settled_of_ops_nil (h : c.ops = []) (n l : Nat) : c.settled n l = laneOf (c.vget n) l := by
  simp only [Crew.settled, Crew.awaitedBy_none h]

theorem Crew.indirectAwaits_nil (h : c.ops = []) (regs : Nat) (ps : List (Nat × Nat)) : c.indirectAwaits regs ps = [] := by
  simp only [Crew.indirectAwaits, Crew.awaitedBy_none h, Option.map_none, List.filterMap_none, List.flatten_eq_nil_iff]
  simp

/-- The value that `vget` brings a lane: of one register, or of a pair. -/
def indirectVal (c : Crew) (f : Form) (l : Nat) : BitVec 128 :=
  if regsOf f.ty = 2 then ((c.settled (c.indirect f l + 1) l) ++ (c.settled (c.indirect f l) l) : DWord).setWidth 128
  else (c.settled (c.indirect f l) l).setWidth 128

theorem exec_vget (hr : Runs s id c) (hp : Ready c (.vget f) f)
    (hreg : ∀ l < 32, c.isActive l = true → c.indirectAt f l = .ok (c.indirect f l)) :
    ∃ after, exec (.vget f) s = .next (Issuing s id c f (laneOp s c f .none false (regsOf f.ty) after (indirectVal c f))) := by
  refine ⟨c.indirectAwaits (regsOf f.ty) (c.lanes.map fun l => (l, c.indirect f l)), ?_⟩
  rw [← finish_lateLanes (s := s) hr.2]
  change execVget f s = _
  rw [execVget, runCrew_next hr.curCrew hp]
  simp only [Crew.laneLocs_ok hreg]
  rfl

/-! ### Writing lane by lane -/

/-- One lane of one register. -/
def Crew.putLane (c : Crew) (l n : Nat) (w : Word) : Crew :=
  c.vset n (lanesBy (fun j => if j = l then w else laneOf (c.vget n) j))

theorem Crew.laneOf_putLane (c : Crew) (l n : Nat) (w : Word) (r : Nat) {j : Nat} (hj : j < 32) :
    laneOf ((c.putLane l n w).vget r) j = if j = l ∧ r = n then w else laneOf (c.vget r) j := by
  by_cases hn : r = n
  · subst hn
    simp only [Crew.putLane, Crew.vget_vset_same, laneOf_lanesBy _ hj, and_true]
  · simp only [Crew.putLane, Crew.vget_vset_other _ _ hn, hn, and_false, if_false]

/-- The registers of one lane of a `vput`. -/
def Crew.putPair (c : Crew) (f : Form) (d : Crew) (l n : Nat) : Crew :=
  if regsOf f.ty = 2 then (d.putLane l n (lowWord (c.srcTy f f.ty f.c l))).putLane l (n + 1) (highWord (c.srcTy f f.ty f.c l))
  else d.putLane l n (lowWord (c.srcTy f f.ty f.c l))

theorem Crew.putLanes_cons (c : Crew) (f : Form) (d : Crew) (l n : Nat) (r : List (Nat × Nat)) :
    c.putLanes f d ((l, n) :: r) = c.putLanes f (c.putPair f d l n) r := rfl

/-- What a lane's `vput` leaves in a register of a lane, `old` before it. -/
def putWord (c : Crew) (f : Form) (r l : Nat) (old : Word) : Word :=
  if r = c.indirect f l then lowWord (c.srcTy f f.ty f.c l)
  else if regsOf f.ty = 2 ∧ r = c.indirect f l + 1 then highWord (c.srcTy f f.ty f.c l)
  else old

theorem Crew.laneOf_putPair (c : Crew) (f : Form) (d : Crew) (l r : Nat) {j : Nat} (hj : j < 32) :
    laneOf ((c.putPair f d l (c.indirect f l)).vget r) j =
      if j = l then putWord c f r j (laneOf (d.vget r) j) else laneOf (d.vget r) j := by
  by_cases hjl : j = l
  · subst hjl
    by_cases hregs : regsOf f.ty = 2
    · simp only [Crew.putPair, hregs, if_true, Crew.laneOf_putLane _ _ _ _ _ hj, putWord, true_and]
      by_cases hr : r = c.indirect f j
      · simp [hr]
      · simp [hr]
    · simp only [Crew.putPair, hregs, if_false, Crew.laneOf_putLane _ _ _ _ _ hj, putWord, true_and, false_and, if_true]
  · unfold Crew.putPair
    split <;> simp only [Crew.laneOf_putLane _ _ _ _ _ hj, hjl, false_and, if_false]

theorem Crew.putLanes_frame (c : Crew) (f : Form) (d : Crew) (ps : List (Nat × Nat)) :
    c.putLanes f d ps = { d with v := (c.putLanes f d ps).v } := by
  induction ps generalizing d with
  | nil => rfl
  | cons e ps ih =>
    obtain ⟨l, n⟩ := e
    rw [Crew.putLanes_cons, ih, Crew.putPair]
    split <;> rfl

/-- Each lane of a list is written once, and no lane outside it. -/
theorem Crew.laneOf_putLanes (c : Crew) (f : Form) (d : Crew) {ls : List Nat} (hrising : ls.Pairwise (· < ·)) (r : Nat) {j : Nat}
    (hj : j < 32) : laneOf ((c.putLanes f d (ls.map fun l => (l, c.indirect f l))).vget r) j =
      if j ∈ ls then putWord c f r j (laneOf (d.vget r) j) else laneOf (d.vget r) j := by
  induction ls generalizing d with
  | nil => rfl
  | cons l ls ih =>
    obtain ⟨hl, hrest⟩ := List.pairwise_cons.1 hrising
    rw [List.map_cons, Crew.putLanes_cons, ih _ hrest, c.laneOf_putPair f d l r hj]
    by_cases hjl : j = l
    · subst hjl
      simp [show j ∉ ls from fun h => Nat.lt_irrefl _ (hl j h)]
    · simp [hjl]

/-- The crew after the writes of its `vput`. -/
def Crew.vputs (c : Crew) (f : Form) : Crew := c.putLanes f c (c.lanes.map fun l => (l, c.indirect f l))

theorem exec_vput (hr : Runs s id c) (hp : Ready c (.vput f) f)
    (hreg : ∀ l < 32, c.isActive l = true → c.indirectAt f l = .ok (c.indirect f l)) (hops : c.ops = []) :
    exec (.vput f) s = .next (Issuing (s.setCrew id (c.vputs f)) id (c.vputs f) f
      (bareOp (s.setCrew id (c.vputs f)) c f .none false)) := by
  rw [← finish_lateNone (s := s) (State.pfind_setCrew_same ..)]
  change execVput f s = _
  rw [execVput, runCrew_next hr.curCrew hp]
  simp only [Crew.laneLocs_ok hreg, Crew.indirectAwaits_nil hops, List.isEmpty_nil, Bool.not_true, Bool.false_eq_true, if_false]
  rfl

theorem indirectRegisters : IndirectRegisters := by
  refine ⟨fun f s id c hr hp hreg hops => ?_, fun f s id c hr hp hreg hops => ?_⟩
  · obtain ⟨after, hexec⟩ := exec_vget hr hp hreg
    refine ⟨_, _, hexec, issuing_issued rfl rfl rfl rfl rfl, rfl, rfl, laneOp_brings fun l _ _ => ?_⟩
    simp only [indirectVal, Crew.settled_of_ops_nil hops]
    rfl
  · have hframe := c.putLanes_frame f c (c.lanes.map fun l => (l, c.indirect f l))
    rw [← Crew.vputs] at hframe
    refine ⟨_, _, exec_vput hr hp hreg hops, pfind_pput_same .., ?_, ?_, ?_, ?_, rfl, rfl, fun r l hl => ?_⟩
    · rw [hframe]
      exact ⟨rfl, rfl, rfl, rfl, rfl⟩
    · rw [hframe]
      rfl
    · rw [hframe]
      rfl
    · rw [hframe]
      rfl
    · refine (c.laneOf_putLanes f c c.lanes_rising r hl).trans ?_
      simp only [Crew.mem_lanes, hl, true_and, putWord]
      cases c.isActive l <;> simp

/-- Settles O18: fills of an L1 with room change no byte, and indirect registers are read and written lane by lane. -/
theorem prefetchAndIndirect : Obligations.PrefetchAndIndirect := ⟨prefetch, indirectRegisters⟩

end Sys2Proof.Machine
end

section
/-! SUPPORT. The places of allowed accesses (R302, R303, R305): an aligned address has an aligned place, so an access lies in one
line of an L1, and no atomic-home page lies in a CXL window. -/

namespace Sys2Proof.Machine
open Sys2Proof Sys2Proof.Stated
variable {s : State} {ck : Nat}

/-- A leaf of a size of R302 with a well-formed entry (R303). -/
def WellFormedLeaf (t : Tlb) : Prop := t.bits ∈ [16, 21, 30, 35] ∧ malformed t.entry.toNat = false

theorem mem_of_pfind {β : Type} {m : PMap β} {k : Nat} {v : β} (h : pfind m k = some v) : (k, v) ∈ m := by
  induction m with
  | nil => exact nomatch h
  | cons e m ih =>
    obtain ⟨a, b⟩ := e
    rw [pfind] at h
    split at h
    · next hk =>
      obtain rfl := Option.some.inj h
      exact hk ▸ List.mem_cons_self ..
    · exact List.mem_cons_of_mem _ (ih h)

theorem mem_of_tlbFind {tlb : PMap Tlb} {asid va : Nat} {t : Tlb} (h : tlbFind tlb asid va = some t) : ∃ e ∈ tlb, e.2 = t := by
  obtain ⟨b, -, hb⟩ := List.exists_of_findSome?_eq_some h
  exact ⟨_, mem_of_pfind hb, rfl⟩

theorem leNat_lt (bs : List Byte) : leNat bs < 256 ^ bs.length := by
  induction bs with
  | nil => exact Nat.one_pos
  | cons b bs ih =>
    have hb := b.isLt
    rw [leNat, List.length_cons, Nat.pow_succ']
    omega

theorem levelBits_fst_mem {level : Nat} (h : level ≠ 4) : (levelBits level).1 ∈ [16, 21, 30, 35] := by
  match level with
  | 0 | 1 | 2 | 3 => simp [levelBits]
  | 4 => exact absurd rfl h
  | _ + 5 => simp [levelBits]

theorem wellFormed_of_read {m : Memory} {a bits : Nat} (hbits : bits ∈ [16, 21, 30, 35])
    (hmal : malformed (leNat (m.readBytes a 8)) = false) : WellFormedLeaf ⟨bits, BitVec.ofNat 64 (leNat (m.readBytes a 8))⟩ := by
  have hlt := leNat_lt (m.readBytes a 8)
  rw [Memory.length_readBytes] at hlt
  refine ⟨hbits, ?_⟩
  rwa [BitVec.toNat_ofNat, Nat.mod_eq_of_lt (show _ < 2 ^ 64 from hlt)]

/-- The entry that a walk reads at a level (R302). -/
def tableEntry (s : State) (i level table va : Nat) : Nat :=
  leNat (s.mem.readBytes (s.homeKey i (table + 8 * (va / 2 ^ (levelBits level).1 % 2 ^ (levelBits level).2))) 8)

theorem walk_zero (s : State) (i table va : Nat) : s.walk i 0 table va =
    if !(tableEntry s i 0 table va).testBit 0 || malformed (tableEntry s i 0 table va) then none
    else if (tableEntry s i 0 table va).testBit 1 then some ⟨16, BitVec.ofNat 64 (tableEntry s i 0 table va)⟩ else none := rfl

theorem walk_succ (s : State) (i n table va : Nat) : s.walk i (n + 1) table va =
    if !(tableEntry s i (n + 1) table va).testBit 0 || malformed (tableEntry s i (n + 1) table va) then none
    else if (tableEntry s i (n + 1) table va).testBit 1 then
      (if n + 1 = 4 then none else some ⟨(levelBits (n + 1)).1, BitVec.ofNat 64 (tableEntry s i (n + 1) table va)⟩)
    else s.walk i n (tableOf (tableEntry s i (n + 1) table va)) va := rfl

/-- A walk ends at a well-formed leaf, or at none. -/
theorem walk_wellFormed {i level table va : Nat} {t : Tlb} (h : s.walk i level table va = some t) : WellFormedLeaf t := by
  induction level generalizing table with
  | zero =>
    rw [walk_zero] at h
    split_ifs at h with hbad hleaf
    obtain rfl := Option.some.inj h
    simp only [Bool.or_eq_true, not_or, Bool.not_eq_true] at hbad
    exact wellFormed_of_read (by simp) hbad.2
  | succ n ih =>
    rw [walk_succ] at h
    split_ifs at h with hbad hleaf hfour
    · obtain rfl := Option.some.inj h
      simp only [Bool.or_eq_true, not_or, Bool.not_eq_true] at hbad
      exact wellFormed_of_read (levelBits_fst_mem hfour) hbad.2
    · exact ih h

theorem walkVa_wellFormed {i asid va : Nat} {t : Tlb} (h : s.walkVa i asid va = some t) : WellFormedLeaf t := by
  simp only [State.walkVa] at h
  split at h <;> exact walk_wellFormed h

theorem leaf_wellFormed (hpages : Pages s) {i asid va : Nat} {t : Tlb} (h : s.leaf i (s.core ck).tlb asid va = some t) :
    WellFormedLeaf t := by
  rw [State.leaf] at h
  split at h
  · next hfind =>
    obtain rfl := Option.some.inj h
    obtain ⟨e, he, rfl⟩ := mem_of_tlbFind hfind
    exact hpages ck e he
  · exact walkVa_wellFormed h

/-- The place of an access of n bytes: aligned, and no CXL memory where its page is atomic-home. -/
def Placed (n : Nat) (p : Loc) : Prop := n ∣ p.la ∧ (p.ah = true → p.la + n ≤ cxlBase)

theorem dvd_of_leafBits {n bits : Nat} (hn : n ∣ 16) (h : bits ∈ [16, 21, 30, 35]) : n ∣ 2 ^ bits := by
  simp only [List.mem_cons, List.not_mem_nil, or_false] at h
  rcases h with rfl | rfl | rfl | rfl
  all_goals exact hn.trans (by decide)

/-- A well-formed leaf of an atomic-home page names HBM (R303). -/
theorem mt_of_atomicHome {t : Tlb} (h : WellFormedLeaf t) (hah : t.entry.getLsbD 5 = true) : t.mt = 0 := by
  have hmal := h.2
  simp only [malformed, Bool.or_eq_false_iff, Bool.and_eq_false_iff, bne_eq_false_iff_eq] at hmal
  obtain ⟨⟨⟨hmt, -⟩, -⟩, -⟩ := hmal
  exact hmt.resolve_left (by rw [BitVec.testBit_toNat, hah]; exact Bool.noConfusion)

theorem loc_placed {t : Tlb} (h : WellFormedLeaf t) {n va : Nat} (hn : n ∣ 16) (hva : n ∣ va) : Placed n (t.loc va) := by
  have hpow := dvd_of_leafBits hn h.1
  have hpa : n ∣ t.entry.toNat % 2 ^ 52 / 2 ^ t.bits * 2 ^ t.bits + va % 2 ^ t.bits :=
    Nat.dvd_add (hpow.mul_left _) ((Nat.dvd_mod_iff hpow).2 hva)
  have hlpddr : n ∣ lpddrBase := hn.trans (by decide)
  have hcxl : n ∣ cxlBase := hn.trans (by decide)
  refine ⟨?_, fun hah => ?_⟩
  · simp only [Tlb.loc]
    split_ifs
    · exact Nat.dvd_add hlpddr hpa
    · exact Nat.dvd_add hcxl hpa
    · exact hpa
  · have hmt := mt_of_atomicHome h hah
    have hframe := Nat.div_mul_le_self (t.entry.toNat % 2 ^ 52) (2 ^ t.bits)
    have hentry : t.entry.toNat % 2 ^ 52 < 2 ^ 52 := Nat.mod_lt _ (by decide)
    have hoff : va % 2 ^ t.bits < 2 ^ t.bits := Nat.mod_lt _ (Nat.two_pow_pos _)
    have hbits : 2 ^ t.bits ≤ 2 ^ 35 := Nat.pow_le_pow_right (by decide) (by
      have hmem := h.1
      simp only [List.mem_cons, List.not_mem_nil, or_false] at hmem
      omega)
    have hle := Nat.le_of_dvd (by decide) hn
    simp only [Tlb.loc, hmt, cxlBase, Nat.zero_ne_one, if_false, show (0 : Nat) ≠ 2 from by decide]
    omega

theorem checkPlain_placed (hpages : Pages s) {l : Launch} {k : Acc} {va n : Nat} {p : Loc} (hn : n ∣ 16) (hva : n ∣ va)
    (h : s.checkPlain l (s.core ck).tlb k va n = .ok p) : Placed n p := by
  rw [State.checkPlain] at h
  split at h
  · exact nomatch h
  · split at h
    · exact nomatch h
    · next t hleaf =>
      split_ifs at h
      obtain rfl := Except.ok.inj h
      exact loc_placed (leaf_wellFormed hpages hleaf) hn hva

theorem accessAt_placed (hpages : Pages s) {c : Crew} {k : Acc} {ea : DWord} {n : Nat} {p : Loc} (hn : n ∣ 16)
    (h : s.accessAt c k ea n = .ok p) : Placed n p := by
  rw [State.accessAt] at h
  split_ifs at h with hal
  have hva : n ∣ ea.toNat := Nat.dvd_of_mod_eq_zero (not_not.1 hal)
  unfold State.checkAccess at h
  split at h
  · split_ifs at h
    · obtain rfl := Except.ok.inj h
      exact ⟨Nat.dvd_add (hn.trans (by decide)) hva, Bool.noConfusion⟩
    · exact checkPlain_placed hpages hn hva h
  · exact checkPlain_placed hpages hn hva h

theorem memWidth_dvd (ty : Nat) (wide : Bool) : memWidth ty wide ∣ 16 := by
  unfold memWidth
  split
  · exact Nat.dvd_refl 16
  · split <;> decide

/-- An aligned access lies in one line of an L1. -/
theorem Placed.line {n : Nat} {p : Loc} (h : Placed n p) (hn : n ∣ 16) : p.la % 64 + n ≤ 64 := by
  obtain ⟨k, hk⟩ := (Nat.dvd_mod_iff (hn.trans (by decide : 16 ∣ 64))).2 h.1
  obtain ⟨m, hm⟩ := hn.trans (by decide : 16 ∣ 64)
  have hlt : p.la % 64 < 64 := Nat.mod_lt _ (by decide)
  rw [hk] at hlt ⊢
  rw [hm] at hlt ⊢
  have hkm : k < m := Nat.lt_of_mul_lt_mul_left hlt
  calc n * k + n = n * (k + 1) := rfl
    _ ≤ n * m := Nat.mul_le_mul_left n hkm

end Sys2Proof.Machine
end

section
/-! PROOF. Stores (O16): the bytes that a core reads after its lanes have stored one after another, and what held writes lose. -/

namespace Sys2Proof.Machine
open Sys2Proof Sys2Proof.Stated
variable {s t : State} {id ck : Nat} {c : Crew} {f : Form}

/-! ### One store -/

theorem pos_of_dvd_sixteen {n : Nat} (h : n ∣ 16) : 0 < n := Nat.pos_of_dvd_of_pos h (by decide)

/-- The home of a byte that lies outside a run below the CXL windows is outside the run's (R248). -/
theorem homeKey_outside {i a b o n : Nat} (hi : i < 36) (ha : a + n ≤ cxlBase) (hn : 0 < n) (hout : ¬(a ≤ b + o ∧ b + o < a + n)) :
    ¬(s.homeKey i a ≤ s.homeKey i b + o ∧ s.homeKey i b + o < s.homeKey i a + n) := by
  have hkey : s.homeKey i a = i * 2 ^ 64 + a := by
    simp [State.homeKey, isCxl, show ¬cxlBase ≤ a from by omega]
  have hcxl : cxlBase = 2 ^ 54 := rfl
  rw [hkey, State.homeKey]
  split_ifs <;> omega

theorem State.homeKey_homeWrite (s : State) (i a : Nat) (bs : List Byte) (j la : Nat) :
    (s.homeWrite i a bs).homeKey j la = s.homeKey j la := rfl

theorem homeKey_inside {i a n : Nat} (ha : a + n ≤ cxlBase) {b : Nat} (hin : a ≤ b ∧ b < a + n) :
    s.homeKey i b = s.homeKey i a + (b - a) := by
  have hb : isCxl b = false := by simp [isCxl, show ¬cxlBase ≤ b from by omega]
  have ha' : isCxl a = false := by simp [isCxl, show ¬cxlBase ≤ a from by omega]
  simp only [State.homeKey, hb, ha', Bool.false_eq_true, if_false]
  omega

theorem l1Store_step (hroom : (s.core ck).lines.length < l1Capacity) (p : Loc) (bs : List Byte) :
    AccessStep s (s.l1Store ck p bs) ck ∧ (s.l1Store ck p bs).isls = s.isls ∧
      ((s.l1Store ck p bs).core ck).lines.length ≤ (s.core ck).lines.length + 1 ∧
      (p.ah = false → (s.l1Store ck p bs).mem = s.mem) := by
  cases hp : p.ah with
  | true =>
    rw [l1Store_ah hp]
    exact ⟨.homeWrite .., rfl, Nat.le_succ _, nofun⟩
  | false =>
    rw [l1Store_eq hroom hp]
    exact ⟨putLine_step .., rfl, putLine_length_le .., fun _ => rfl⟩

/-- A byte outside a store reads as before it. -/
theorem seenByte_l1Store_outside (hroom : (s.core ck).lines.length + 1 < l1Capacity) (hi : coreIsl ck < 36) {p : Loc} {n : Nat}
    (hn : n ∣ 16) (hp : Placed n p) {bs : List Byte} (hlen : bs.length = n) {q : Loc} (hq : ¬Inside p n q.la) :
    seenByte (s.l1Store ck p bs) ck q = seenByte s ck q := by
  have hs : (s.core ck).lines.length < l1Capacity := by omega
  subst hlen
  cases hah : p.ah with
  | true =>
    have hhome : ∀ b o, b + o = q.la → (s.homeWrite (coreIsl ck) p.la bs).mem.read (s.homeKey (coreIsl ck) b + o) =
        s.mem.read (s.homeKey (coreIsl ck) b + o) := fun b o hbo => by
      rw [State.homeWrite_mem, Memory.read_writeBytes, if_neg]
      exact homeKey_outside hi (hp.2 hah) (pos_of_dvd_sixteen hn) (by rw [hbo]; exact hq)
    rw [l1Store_ah hah]
    cases hqah : q.ah with
    | true =>
      rw [seenByte_ah hqah, seenByte_ah hqah]
      exact hhome q.la 0 rfl
    | false =>
      rw [seenByte_eq (s := s.homeWrite (coreIsl ck) p.la bs) hs hqah, seenByte_eq hs hqah]
      have hbyte : homeByte (s.homeWrite (coreIsl ck) p.la bs) ck q.la = homeByte s ck q.la :=
        hhome _ _ (Nat.div_add_mod q.la 64)
      simp only [coreByte, hbyte]
      rfl
  | false =>
    obtain ⟨hstep, -, hlines, hmem⟩ := l1Store_step hs p bs
    cases hqah : q.ah with
    | true => rw [seenByte_ah hqah, seenByte_ah hqah, hmem hah, hstep.homeKey]
    | false =>
      rw [seenByte_eq (by omega) hqah, seenByte_eq hs hqah, coreByte_l1Store hs hah (hp.line hn)]
      exact if_neg hq

/-- A byte of a store reads as stored. -/
theorem seenByte_l1Store_inside (hroom : (s.core ck).lines.length + 1 < l1Capacity) {p : Loc} {n : Nat}
    (hn : n ∣ 16) (hp : Placed n p) {bs : List Byte} (hlen : bs.length = n) {q : Loc} (hq : Inside p n q.la) (hah : q.ah = p.ah) :
    seenByte (s.l1Store ck p bs) ck q = bs.getD (q.la - p.la) 0 := by
  have hs : (s.core ck).lines.length < l1Capacity := by omega
  subst hlen
  cases hpah : p.ah with
  | true =>
    rw [l1Store_ah hpah, seenByte_ah (hah.trans hpah), State.homeWrite_mem, Memory.read_writeBytes, State.homeKey_homeWrite,
      homeKey_inside (hp.2 hpah) hq, Nat.add_sub_cancel_left, if_pos]
    obtain ⟨hle, hlt⟩ := hq
    omega
  | false =>
    obtain ⟨-, -, hlines, -⟩ := l1Store_step hs p bs
    rw [seenByte_eq (by omega) (hah.trans hpah), coreByte_l1Store hs hpah (hp.line hn)]
    exact if_pos hq

/-! ### The stores of several lanes -/

/-- The store of one lane. -/
def storeStep (ck n : Nat) (val : Nat → Nat) (place : Nat → Loc) (s : State) (l : Nat) : State :=
  s.l1Store ck (place l) (leBytes n (val l))

theorem storeStep_frame (hroom : (s.core ck).lines.length < l1Capacity) (n : Nat) (val : Nat → Nat) (place : Nat → Loc) (l : Nat) :
    AccessStep s (storeStep ck n val place s l) ck ∧ (storeStep ck n val place s l).isls = s.isls ∧
      ((storeStep ck n val place s l).core ck).lines.length ≤ (s.core ck).lines.length + 1 ∧
      ((place l).ah = false → (storeStep ck n val place s l).mem = s.mem) := l1Store_step hroom _ _

theorem storeLanes_eq (ck n : Nat) (val : Nat → Nat) (place : Nat → Loc) (ls : List Nat) (s : State) :
    s.storeLanes ck n val (ls.map fun l => (l, place l)) = ls.foldl (storeStep ck n val place) s := by
  induction ls generalizing s with
  | nil => rfl
  | cons l ls ih => exact ih _

theorem foldl_storeStep_frame (n : Nat) (val : Nat → Nat) (place : Nat → Loc) (ls : List Nat)
    (hroom : (s.core ck).lines.length + ls.length ≤ l1Capacity) :
    AccessStep s (ls.foldl (storeStep ck n val place) s) ck ∧ (ls.foldl (storeStep ck n val place) s).isls = s.isls ∧
      ((ls.foldl (storeStep ck n val place) s).core ck).lines.length ≤ (s.core ck).lines.length + ls.length ∧
      ((∀ l ∈ ls, (place l).ah = false) → (ls.foldl (storeStep ck n val place) s).mem = s.mem) := by
  induction ls generalizing s with
  | nil => exact ⟨.refl .., rfl, Nat.le_refl _, fun _ => rfl⟩
  | cons l ls ih =>
    rw [List.length_cons] at hroom
    obtain ⟨hstep, hisls, hlen, hmem⟩ := storeStep_frame (s := s) (ck := ck) (by omega) n val place l
    obtain ⟨hstep', hisls', hlen', hmem'⟩ := ih (s := storeStep ck n val place s l) (by omega)
    rw [List.foldl_cons, List.length_cons]
    exact ⟨hstep.trans hstep', hisls'.trans hisls, by omega, fun h =>
      (hmem' fun x hx => h x (List.mem_cons_of_mem _ hx)).trans (hmem (h l (List.mem_cons_self ..)))⟩

/-- The bytes that the core reads after the stores: the highest lane's stand (R70). -/
theorem seenByte_foldl_storeStep {n : Nat} {val : Nat → Nat} {place : Nat → Loc} {ls : List Nat} (hrising : ls.Pairwise (· < ·))
    (hn : n ∣ 16) (hplaced : ∀ l ∈ ls, Placed n (place l)) (hi : coreIsl ck < 36)
    (hroom : (s.core ck).lines.length + ls.length < l1Capacity) :
    (∀ q, True → (∀ l ∈ ls, ¬Inside (place l) n q.la) →
      seenByte (ls.foldl (storeStep ck n val place) s) ck q = seenByte s ck q) ∧
    ∀ l ∈ ls, ∀ q, True → (Inside (place l) n q.la ∧ q.ah = (place l).ah) → (∀ h ∈ ls, l < h → ¬Inside (place h) n q.la) →
      seenByte (ls.foldl (storeStep ck n val place) s) ck q = (leBytes n (val l)).getD (q.la - (place l).la) 0 := by
  refine foldl_lanes (view := fun x q => seenByte x ck q) (val := fun l q => (leBytes n (val l)).getD (q.la - (place l).la) 0)
    (inv := fun m x => (x.core ck).lines.length + m < l1Capacity) (covers := fun l q => Inside (place l) n q.la)
    (hits := fun l q => Inside (place l) n q.la ∧ q.ah = (place l).ah) hrising ?_ ?_ ?_ hroom
  · intro m x l hl hx
    obtain ⟨-, -, hlen, -⟩ := storeStep_frame (s := x) (ck := ck) (by omega) n val place l
    omega
  · exact fun m x l hl hx q _ hq => seenByte_l1Store_outside (by omega) hi hn (hplaced l hl) (length_leBytes ..) hq
  · exact fun m x l hl hx q _ hq => seenByte_l1Store_inside (by omega) hn (hplaced l hl) (length_leBytes ..) hq.1 hq.2

/-! ### What held writes lose (R70, R284) -/

/-- A held write of the crew after it has lost some bytes. -/
def losing (id : Nat) (mine : List Nat) (h : HeldWrite) : HeldWrite :=
  if h.ofCrew id then { h with lost := h.lost ++ mine } else h

theorem losing_ofCrew (id : Nat) (mine : List Nat) (h : HeldWrite) : (losing id mine h).ofCrew id = h.ofCrew id := by
  unfold losing
  split <;> rfl

theorem bareConv_losing (id : Nat) (mine : List Nat) (v : Conv) :
    bareConv { v with held := v.held.map (losing id mine) } = bareConv v := by
  have hbare : ∀ h : HeldWrite, { losing id mine h with lost := [] } = { h with lost := [] } := fun h => by
    unfold losing
    split <;> rfl
  simp only [bareConv, List.map_map, Function.comp_def, hbare]

/-- The bytes that a crew's write takes over from its held writes. -/
def takenOver (s : State) (i id : Nat) (as : List Nat) : List Nat := as.filter (fun a => (s.heldByte i id a).isSome)

theorem takeOver_eq (s : State) (i id : Nat) (as : List Nat) : s.takeOver i id as =
    if (takenOver s i id as).isEmpty then s
    else s.modIsl i (fun x =>
      { x with convs := x.convs.map (fun v => { v with held := v.held.map (losing id (takenOver s i id as)) }) }) := rfl

theorem takeOver_step (s : State) (ck i id : Nat) (as : List Nat) : AccessStep s (s.takeOver i id as) ck ∧
    (s.takeOver i id as).core ck = s.core ck ∧ (s.takeOver i id as).mem = s.mem := by
  rw [takeOver_eq]
  split
  · exact ⟨.refl .., rfl, rfl⟩
  · refine ⟨.modIsl ?_, rfl, rfl⟩
    simp only [List.map_map, Function.comp_def, bareConv_losing]

/-- A held write of the crew has lost each byte taken over. -/
theorem mem_lost_takeOver {i a : Nat} {as : List Nat} (ha : a ∈ as) (hheld : (s.heldByte i id a).isSome = true) :
    ∀ v ∈ ((s.takeOver i id as).isl i).convs, ∀ h ∈ v.held, h.ofCrew id = true → a ∈ h.lost := by
  have hmine : a ∈ takenOver s i id as := List.mem_filter.2 ⟨ha, hheld⟩
  rw [takeOver_eq, if_neg (by simpa using List.ne_nil_of_mem hmine), State.isl_modIsl_same]
  intro v hv h hh hown
  obtain ⟨w, -, rfl⟩ := List.mem_map.1 hv
  obtain ⟨g, -, rfl⟩ := List.mem_map.1 hh
  rw [losing_ofCrew] at hown
  rw [losing, if_pos hown]
  exact List.mem_append_right _ hmine

theorem mem_lanesBytes {n a : Nat} {place : Nat → Loc} {ls : List Nat} {l : Nat} (hl : l ∈ ls) (hin : Inside (place l) n a) :
    a ∈ lanesBytes n (ls.map fun l => (l, place l)) := by
  obtain ⟨hle, hlt⟩ := hin
  simp only [lanesBytes, locRun, List.map_map, List.mem_flatten, List.mem_map]
  refine ⟨_, ⟨l, hl, rfl⟩, ?_⟩
  simp only [Function.comp, List.mem_map, List.mem_range]
  exact ⟨a - (place l).la, by omega, by omega⟩

/-! ### A word that stores -/

/-- The machine before the first store of a word: held writes have lost their bytes, and the translations are there. -/
def storeBase (s : State) (id : Nat) (c : Crew) (n : Nat) (eas : List DWord) (place : Nat → Loc) (ls : List Nat) : State :=
  (s.takeOver c.isl id (lanesBytes n (ls.map fun l => (l, place l)))).fillTlbs c eas

/-- The machine after the stores of some lanes of a word. -/
def storedAt (s : State) (id : Nat) (c : Crew) (n : Nat) (eas : List DWord) (val : Nat → Nat) (place : Nat → Loc) (ls : List Nat) :
    State :=
  ls.foldl (storeStep c.core n val place) (storeBase s id c n eas place ls)

theorem storeBase_frame (s : State) (id : Nat) (c : Crew) (n : Nat) (eas : List DWord) (place : Nat → Loc) (ls : List Nat) :
    AccessStep s (storeBase s id c n eas place ls) c.core ∧
      ((storeBase s id c n eas place ls).core c.core).lines = (s.core c.core).lines ∧
      (storeBase s id c n eas place ls).mem = s.mem ∧ ∀ i, ((storeBase s id c n eas place ls).isl i).convs =
        ((s.takeOver c.isl id (lanesBytes n (ls.map fun l => (l, place l)))).isl i).convs := by
  obtain ⟨hstep, hcore, hmem⟩ := takeOver_step s c.core c.isl id (lanesBytes n (ls.map fun l => (l, place l)))
  obtain ⟨hstep', hlines', hmem', hconvs'⟩ :=
    (s.takeOver c.isl id (lanesBytes n (ls.map fun l => (l, place l)))).fillTlbs_step c eas
  exact ⟨hstep.trans hstep', hlines'.trans (congrArg Core.lines hcore), hmem'.trans hmem, hconvs'⟩

theorem storedAt_frame (n : Nat) (eas : List DWord) (val : Nat → Nat) (place : Nat → Loc) {ls : List Nat}
    (hroom : (s.core c.core).lines.length + ls.length ≤ l1Capacity) :
    AccessStep s (storedAt s id c n eas val place ls) c.core ∧
      (∀ i, ((storedAt s id c n eas val place ls).isl i).convs =
        ((s.takeOver c.isl id (lanesBytes n (ls.map fun l => (l, place l)))).isl i).convs) ∧
      ((∀ l ∈ ls, (place l).ah = false) → (storedAt s id c n eas val place ls).mem = s.mem) := by
  obtain ⟨hstep, hlines, hmem, hconvs⟩ := storeBase_frame s id c n eas place ls
  rw [← hlines] at hroom
  obtain ⟨hstep', hisls', -, hmem'⟩ := foldl_storeStep_frame n val place ls hroom
  refine ⟨hstep.trans hstep', fun i => ?_, fun hah => (hmem' hah).trans hmem⟩
  rw [← hconvs, storedAt, State.isl, State.isl, hisls']

theorem cachesOnly_issuing (h : AccessStep s t ck) (id : Nat) (c : Crew) (f : Form) (o : Op) : CachesOnly s (Issuing t id c f o) ck := by
  obtain ⟨hst, hother, hcore, hisl⟩ := h
  refine ⟨?_, hother, hcore, hisl⟩
  rw [hst]
  rfl

/-- The bytes of the highest lanes stand, and no other byte changes as the core reads it. -/
theorem storedAt_stored {n : Nat} {eas : List DWord} {val : Nat → Nat} {place : Nat → Loc} {ls : List Nat} {act : Nat → Bool}
    (hls : ∀ l, l ∈ ls ↔ l < 32 ∧ act l = true) (hrising : ls.Pairwise (· < ·)) (hn : n ∣ 16)
    (hplaced : ∀ l ∈ ls, Placed n (place l)) (hroom : (s.core c.core).lines.length + ls.length < l1Capacity)
    (hi : coreIsl c.core < 36) (o : Op) :
    Stated.Stored s (Issuing (storedAt s id c n eas val place ls) id c f o) c.core act place n val := by
  obtain ⟨hstep, hlines, hmem, -⟩ := storeBase_frame s id c n eas place ls
  rw [← hlines] at hroom
  obtain ⟨-, -, hlen, -⟩ := foldl_storeStep_frame n val place ls (Nat.le_of_lt hroom)
  obtain ⟨hout, hhit⟩ := seenByte_foldl_storeStep (val := val) hrising hn hplaced hi hroom
  have hend : ∀ q, seenByte (Issuing (storedAt s id c n eas val place ls) id c f o) c.core q =
      seenByte (storedAt s id c n eas val place ls) c.core q :=
    seenByte_issuing id c f o (Nat.lt_of_le_of_lt hlen hroom)
  have hstart : ∀ q, seenByte (storeBase s id c n eas place ls) c.core q = seenByte s c.core q :=
    seenByte_congr hstep hmem (coreByte_congr hstep hlines hmem) (by rw [← hlines]; omega) (by omega)
  refine ⟨fun l hl ha j hj hhigh => ?_, fun q _ hno => ?_⟩
  · rw [hend, storedAt, hhit l ((hls l).2 ⟨hl, ha⟩) ⟨(place l).la + j, (place l).ah⟩ trivial
      ⟨⟨Nat.le_add_right .., Nat.add_lt_add_left hj _⟩, rfl⟩ fun h hh hlt => hhigh h ((hls h).1 hh).1 hlt ((hls h).1 hh).2]
    rw [Nat.add_sub_cancel_left, getD_leBytes _ _ _ hj]
  · rw [hend, storedAt, hout q trivial fun l hl => hno l ((hls l).1 hl).1 ((hls l).1 hl).2, hstart]

/-- What a word that stores does (R70, R71, R284), for the lanes and the places that it has. -/
theorem stores_effect {i : Instr} {n : Nat} {eas : List DWord} {val : Nat → Nat} {place : Nat → Loc} {ls : List Nat}
    {act : Nat → Bool}
    (hexec : exec i s = .next (Issuing (storedAt s id c n eas val place ls) id c f
      (bareOp (storedAt s id c n eas val place ls) c f .st true)))
    (hls : ∀ l, l ∈ ls ↔ l < 32 ∧ act l = true) (hrising : ls.Pairwise (· < ·)) (hn : n ∣ 16)
    (hplaced : ∀ l ∈ ls, Placed n (place l)) (hroom : (s.core c.core).lines.length + ls.length < l1Capacity)
    (hi : coreIsl c.core < 36) :
    ∃ t o, exec i s = .next t ∧ Issued s t id c f .st o ∧ CachesOnly s t c.core ∧ o.vreg = none ∧ o.kreg = none ∧ o.hvals = none ∧
      Stated.Stored s t c.core act place n val ∧ HeldLose s t id c (fun a => ∃ l < 32, act l = true ∧ Inside (place l) n a) ∧
      ((∀ l < 32, act l = true → (place l).ah = false) → t.mem = s.mem) := by
  obtain ⟨hstep, hconvs, hmem⟩ := storedAt_frame n eas val place (id := id) (Nat.le_of_lt hroom)
  refine ⟨_, _, hexec, issuing_issued hstep.crews hstep.nextId rfl rfl rfl, cachesOnly_issuing hstep .., rfl, rfl, rfl,
    storedAt_stored hls hrising hn hplaced hroom hi _, ?_, fun hah => hmem fun l hl => hah l ((hls l).1 hl).1 ((hls l).1 hl).2⟩
  rintro a ⟨l, hl, ha, hin⟩ hheld
  have hlost := mem_lost_takeOver (mem_lanesBytes ((hls l).2 ⟨hl, ha⟩) hin) hheld
  rw [← hconvs] at hlost
  exact hlost

theorem exec_st {place : Nat → Loc} (hr : Runs s id c) (hp : Ready c (.st f) f) (hm : MayIssue s c .st)
    (hplace : LanesReach s c .write (c.ea f) (memWidth f.ty (wideMem f)) place)
    (hroom : (s.core c.core).lines.length + c.lanes.length ≤ l1Capacity) : exec (.st f) s = .next (Issuing
      (storedAt s id c (memWidth f.ty (wideMem f)) (c.lanes.map (c.ea f)) (c.storeVal f) place c.lanes) id c f
      (bareOp (storedAt s id c (memWidth f.ty (wideMem f)) (c.lanes.map (c.ea f)) (c.storeVal f) place c.lanes) c f .st true)) := by
  obtain ⟨hstep, -⟩ := storedAt_frame (memWidth f.ty (wideMem f)) (c.lanes.map (c.ea f)) (c.storeVal f) place (id := id) hroom
  rw [← finish_lateNone (s := s) (by rw [hstep.crews]; exact hr.2), storedAt, ← storeLanes_eq]
  change execSt f s = _
  rw [execSt, runCrew_next hr.curCrew hp]
  simp only [Crew.laneLocs_ok hplace, not_issueWaits hm, Bool.false_eq_true, if_false]
  rfl

theorem storeWritesBytes : StoreWritesBytes := by
  intro f s id c place hr hp hm hplace hpages hroom hi
  have hlanes := c.length_lanes_le
  have hcap : (s.core c.core).lines.length + 33 ≤ l1Capacity := hroom
  have hn := memWidth_dvd f.ty (wideMem f)
  exact stores_effect (exec_st hr hp hm hplace (by omega)) (fun _ => Crew.mem_lanes) c.lanes_rising hn
    (fun l hl => accessAt_placed hpages hn (hplace l (Crew.mem_lanes.1 hl).1 (Crew.mem_lanes.1 hl).2)) (by omega) hi

/-- The uniform store is one of a single lane. -/
theorem exec_stk {p : Loc} (hr : Runs s id c) (hp : Ready c (.stk f) f) (hm : MayIssue s c .st)
    (hplace : s.accessAt c .write (c.eaUniform f) (memWidth f.ty false) = .ok p)
    (hroom : (s.core c.core).lines.length + 1 ≤ l1Capacity) : exec (.stk f) s = .next (Issuing
      (storedAt s id c (memWidth f.ty false) [c.eaUniform f] (fun _ => (c.uni f f.ty f.c).toNat) (fun _ => p) [0]) id c f
      (bareOp (storedAt s id c (memWidth f.ty false) [c.eaUniform f] (fun _ => (c.uni f f.ty f.c).toNat) (fun _ => p) [0]) c f
        .st true)) := by
  obtain ⟨hstep, -⟩ := storedAt_frame (memWidth f.ty false) [c.eaUniform f] (fun _ => (c.uni f f.ty f.c).toNat) (fun _ => p)
    (id := id) (ls := [0]) hroom
  rw [← finish_lateNone (s := s) (by rw [hstep.crews]; exact hr.2)]
  change execStk f s = _
  rw [execStk, runCrew_next hr.curCrew hp]
  simp only [hplace, not_issueWaits hm, Bool.false_eq_true, if_false]
  rfl

theorem uniformStoreWritesBytes : UniformStoreWritesBytes := by
  intro f s id c p hr hp hm hplace hpages hroom hi
  have hcap : (s.core c.core).lines.length + 2 ≤ l1Capacity := hroom
  have hn := memWidth_dvd f.ty false
  obtain ⟨t, o, hexec, hissued, hcaches, hvreg, hkreg, hhvals, hstored, hlose, hmem⟩ :=
    stores_effect (act := fun l => l == 0) (exec_stk hr hp hm hplace (by omega))
      (fun l => by simp only [List.mem_singleton, beq_iff_eq]; omega) (List.pairwise_singleton ..) hn
      (fun _ _ => accessAt_placed hpages hn hplace) (by simp only [List.length_singleton]; omega) hi
  exact ⟨t, o, hexec, hissued, hcaches, hvreg, hkreg, hhvals, hstored, fun a ha => hlose a ⟨0, by decide, rfl, ha⟩,
    fun hah => hmem fun _ _ _ => hah⟩

/-- Settles O16: the lanes store one after another in an L1 that evicts nothing, or at the home of an atomic-home page. -/
theorem stores : Obligations.Stores := ⟨storeWritesBytes, uniformStoreWritesBytes⟩

end Sys2Proof.Machine
end

section
/-! SUPPORT. Exact reals (R99): the rational number that a `Dy` stands for, with its arithmetic, its order and its binary logarithm. -/

namespace Sys2Proof.Machine
open Sys2Proof

theorem two_zpow_pos (e : Int) : (0 : ℚ) < 2 ^ e := zpow_pos (by norm_num) e

theorem two_zpow_add (a b : Int) : (2 : ℚ) ^ (a + b) = 2 ^ a * 2 ^ b := zpow_add₀ (by norm_num) a b

theorem two_zpow_toNat {e : Int} (h : 0 ≤ e) : (2 : ℚ) ^ e.toNat = 2 ^ e := by
  rw [← zpow_natCast, Int.toNat_of_nonneg h]

theorem two_zpow_le {a b : Int} (h : a ≤ b) : (2 : ℚ) ^ a ≤ 2 ^ b := zpow_le_zpow_right₀ (by norm_num) h

theorem two_zpow_lt_iff {a b : Int} : (2 : ℚ) ^ a < 2 ^ b ↔ a < b := zpow_lt_zpow_iff_right₀ (by norm_num)

/-- The number m × 2^e. -/
def Dy.rat (x : Dy) : ℚ := x.m * 2 ^ x.e

theorem Dy.rat_mk (m e : Int) : (⟨m, e⟩ : Dy).rat = m * 2 ^ e := rfl

theorem shl2_mul_zpow (m : Int) {a b : Int} (h : b ≤ a) : (shl2 m (a - b) : ℚ) * 2 ^ b = m * 2 ^ a := by
  unfold shl2
  push_cast
  rw [two_zpow_toNat (by omega), mul_assoc, ← two_zpow_add, sub_add_cancel]

@[simp] theorem Dy.rat_zero : Dy.zero.rat = 0 := by simp [Dy.zero, Dy.rat]

@[simp] theorem Dy.rat_add (a b : Dy) : (a.add b).rat = a.rat + b.rat := by
  simp only [Dy.add, Dy.rat, Int.cast_add, add_mul]
  rw [shl2_mul_zpow _ (min_le_left _ _), shl2_mul_zpow _ (min_le_right _ _)]

@[simp] theorem Dy.rat_neg (a : Dy) : a.neg.rat = -a.rat := by simp [Dy.neg, Dy.rat]

@[simp] theorem Dy.rat_mul (a b : Dy) : (a.mul b).rat = a.rat * b.rat := by
  simp only [Dy.mul, Dy.rat, two_zpow_add]
  push_cast
  ring

@[simp] theorem Dy.rat_abs (a : Dy) : a.abs.rat = |a.rat| := by
  simp [Dy.abs, Dy.rat, abs_mul, abs_of_pos (two_zpow_pos _)]

theorem Dy.rat_neg_iff {a : Dy} : a.rat < 0 ↔ a.m < 0 := by
  simp only [Dy.rat, mul_neg_iff, two_zpow_pos, not_lt_of_gt (two_zpow_pos _), and_true, and_false, false_or, Int.cast_lt_zero]

theorem Dy.rat_eq_zero_iff {a : Dy} : a.rat = 0 ↔ a.m = 0 := by
  simp [Dy.rat, (two_zpow_pos _).ne']

theorem Dy.rat_nonpos_iff {a : Dy} : a.rat ≤ 0 ↔ a.m ≤ 0 := by
  rw [le_iff_lt_or_eq, le_iff_lt_or_eq, Dy.rat_neg_iff, Dy.rat_eq_zero_iff]

theorem Dy.lt_eq (a b : Dy) : a.lt b = decide (a.rat < b.rat) := by
  simp only [Dy.lt, ← Dy.rat_neg_iff, Dy.rat_add, Dy.rat_neg, ← sub_eq_add_neg, sub_neg]

theorem Dy.le_eq (a b : Dy) : a.le b = decide (a.rat ≤ b.rat) := by
  simp only [Dy.le, ← Dy.rat_nonpos_iff, Dy.rat_add, Dy.rat_neg, ← sub_eq_add_neg, sub_nonpos]

theorem Dy.eq_eq (a b : Dy) : a.eq b = decide (a.rat = b.rat) := by
  simp only [Dy.eq, ← Dy.rat_eq_zero_iff, Dy.rat_add, Dy.rat_neg, ← sub_eq_add_neg, sub_eq_zero]

theorem Dy.abs_rat (x : Dy) : |x.rat| = x.m.natAbs * 2 ^ x.e := by
  rw [Dy.rat, abs_mul, abs_of_pos (two_zpow_pos _), Nat.cast_natAbs, Int.cast_abs]

/-- `Dy.log2` is the floor of the binary logarithm. -/
theorem Dy.log2_spec {x : Dy} (h : x.m ≠ 0) : 2 ^ x.log2 ≤ |x.rat| ∧ |x.rat| < 2 ^ (x.log2 + 1) := by
  have hm : x.m.natAbs ≠ 0 := Int.natAbs_ne_zero.2 h
  have hlo : (2 : ℚ) ^ x.m.natAbs.log2 ≤ x.m.natAbs := by exact_mod_cast Nat.log2_self_le hm
  have hhi : (x.m.natAbs : ℚ) < 2 ^ (x.m.natAbs.log2 + 1) := by exact_mod_cast Nat.lt_log2_self
  rw [Dy.abs_rat, Dy.log2, add_right_comm, two_zpow_add, two_zpow_add, zpow_natCast,
    show ((x.m.natAbs.log2 : Int) + 1) = ((x.m.natAbs.log2 + 1 : Nat) : Int) by push_cast; rfl, zpow_natCast]
  exact ⟨mul_le_mul_of_nonneg_right hlo (two_zpow_pos _).le, mul_lt_mul_of_pos_right hhi (two_zpow_pos _)⟩

/-- The floor of a binary logarithm is the only exponent of its kind. -/
theorem Dy.log2_eq {x : Dy} {L : Int} (h : 2 ^ L ≤ |x.rat|) (h' : |x.rat| < 2 ^ (L + 1)) : x.log2 = L := by
  have h0 : x.m ≠ 0 := by
    intro h0
    rw [Dy.rat_eq_zero_iff.2 h0, abs_zero] at h
    exact absurd (two_zpow_pos L) (not_lt.2 h)
  obtain ⟨hlo, hhi⟩ := Dy.log2_spec h0
  have h1 := two_zpow_lt_iff.1 (hlo.trans_lt h')
  have h2 := two_zpow_lt_iff.1 (h.trans_lt hhi)
  omega

end Sys2Proof.Machine
end

section
/-! SUPPORT. Scalar patterns (R95, R96): the integer that a magnitude stands for, signs, and what `unpack` reads. -/

namespace Sys2Proof.Machine
open Sys2Proof Sys2Proof.Stated

/-! ### Magnitudes -/

/-- The number that a magnitude pattern with p fraction bits stands for, in least positive numbers (R96). -/
def magInt (p m : Nat) : Nat := if m / 2 ^ p = 0 then m % 2 ^ p else (2 ^ p + m % 2 ^ p) * 2 ^ (m / 2 ^ p - 1)

/-- A pattern as n units of 2^e: a subnormal one (e = 0), or one whose n has p + 1 bits; n = 2^(p + 1) opens the next binade. -/
theorem magInt_block {p e n : Nat} (hn : n ≤ 2 ^ (p + 1)) (he : e = 0 ∨ 2 ^ p ≤ n) : magInt p (e * 2 ^ p + n) = n * 2 ^ e := by
  have hp : 0 < 2 ^ p := Nat.two_pow_pos p
  have hp1 : 2 ^ (p + 1) = 2 * 2 ^ p := by ring
  rcases Nat.lt_or_ge n (2 ^ p) with h | h
  · obtain rfl : e = 0 := by omega
    simp [magInt, Nat.div_eq_of_lt h, Nat.mod_eq_of_lt h]
  · obtain ⟨r, rfl⟩ := Nat.exists_eq_add_of_le h
    rw [magInt, show e * 2 ^ p + (2 ^ p + r) = r + 2 ^ p * (e + 1) by ring, Nat.add_mul_div_left _ _ hp, Nat.add_mul_mod_self_left]
    rcases Nat.lt_or_ge r (2 ^ p) with hr | hr
    · simp [Nat.div_eq_of_lt hr, Nat.mod_eq_of_lt hr]
    · obtain rfl : r = 2 ^ p := by omega
      rw [Nat.div_self hp, Nat.mod_self, if_neg (by omega), show 1 + (e + 1) - 1 = e + 1 by omega]
      ring

/-- Every pattern is one of the blocks. -/
theorem exists_block (p m : Nat) : ∃ e n, m = e * 2 ^ p + n ∧ n < 2 ^ (p + 1) ∧ (e = 0 ∨ 2 ^ p ≤ n) := by
  have hp : 0 < 2 ^ p := Nat.two_pow_pos p
  have hp1 : 2 ^ (p + 1) = 2 * 2 ^ p := by ring
  have hm := Nat.div_add_mod m (2 ^ p)
  have hlt := Nat.mod_lt m hp
  rcases Nat.eq_zero_or_pos (m / 2 ^ p) with h | h
  · rw [h] at hm
    exact ⟨0, m, by omega, by omega, .inl rfl⟩
  · obtain ⟨e, he⟩ := Nat.exists_eq_add_of_lt h
    rw [he] at hm
    refine ⟨e, 2 ^ p + m % 2 ^ p, ?_, by omega, .inr (Nat.le_add_right _ _)⟩
    rw [← hm, Nat.mul_add_mod, Nat.mod_eq_of_lt hlt]
    ring

theorem magInt_lt_succ (p m : Nat) : magInt p m < magInt p (m + 1) := by
  obtain ⟨e, n, rfl, hn, he⟩ := exists_block p m
  rw [magInt_block hn.le he, add_assoc, magInt_block hn (by omega)]
  exact Nat.mul_lt_mul_of_pos_right (Nat.lt_succ_self n) (Nat.two_pow_pos e)

theorem magInt_strictMono (p : Nat) : StrictMono (magInt p) := strictMono_nat_of_lt_succ (magInt_lt_succ p)

theorem magInt_lt_iff {p a b : Nat} : magInt p a < magInt p b ↔ a < b := (magInt_strictMono p).lt_iff_lt

theorem magInt_le_iff {p a b : Nat} : magInt p a ≤ magInt p b ↔ a ≤ b := (magInt_strictMono p).le_iff_le

theorem magInt_inj {p a b : Nat} : magInt p a = magInt p b ↔ a = b := (magInt_strictMono p).injective.eq_iff

@[simp] theorem magInt_zero (p : Nat) : magInt p 0 = 0 := by simp [magInt]

theorem magInt_of_lt {p m : Nat} (h : m < 2 ^ p) : magInt p m = m := by
  simp [magInt, Nat.div_eq_of_lt h, Nat.mod_eq_of_lt h]

theorem magInt_eq_zero {p m : Nat} : magInt p m = 0 ↔ m = 0 := by
  simpa using magInt_inj (p := p) (a := m) (b := 0)

/-- A format's widths as the statements give them. -/
abbrev Fmt.fields (F : Fmt) : Nat × Nat := (F.wE, F.wF)

/-- Formats that the lemmas on rounding are about: those of R95 are of this kind. -/
structure Fmt.Usual (F : Fmt) : Prop where
  two_le_wE : 2 ≤ F.wE
  one_le_wF : 1 ≤ F.wF
  wF_lt : F.wF < 2 ^ (F.wE - 1)

theorem f32_usual : f32.Usual := ⟨by decide, by decide, by decide⟩
theorem f16_usual : f16.Usual := ⟨by decide, by decide, by decide⟩
theorem bf16_usual : bf16.Usual := ⟨by decide, by decide, by decide⟩

theorem fmtOf_fields (ty : Nat) : (fmtOf ty).fields = fieldsOf ty := by
  unfold fmtOf fieldsOf
  split
  · rfl
  · split <;> rfl

theorem fmtOf_usual (ty : Nat) : (fmtOf ty).Usual := by
  unfold fmtOf
  split
  · exact f16_usual
  · split
    · exact bf16_usual
    · exact f32_usual

variable {F : Fmt}

/-! ### Signs and fields -/

theorem signed_eq (neg : Bool) (m : Nat) : signed F neg m = fsign F.fields neg m := rfl
theorem infBits_eq (F : Fmt) : F.infBits = finf F.fields := rfl
theorem defaultNan_eq (F : Fmt) : F.defaultNan = fnan F.fields := rfl

theorem fint_eq (F : Nat × Nat) (x : Nat) :
    fint F x = if fneg F x then -(magInt F.2 (fmag F x) : Int) else magInt F.2 (fmag F x)  := rfl

theorem natAbs_fint (F : Nat × Nat) (x : Nat) : (fint F x).natAbs = magInt F.2 (fmag F x) := by
  rw [fint_eq]
  split <;> simp

theorem fint_eq_zero {F : Nat × Nat} {x : Nat} : fint F x = 0 ↔ fmag F x = 0 := by
  rw [← Int.natAbs_eq_zero, natAbs_fint, magInt_eq_zero]

theorem finf_lt (F : Nat × Nat) : finf F < 2 ^ (F.1 + F.2) := by
  rw [finf, pow_add]
  exact Nat.mul_lt_mul_of_pos_right (Nat.sub_lt (Nat.two_pow_pos _) one_pos) (Nat.two_pow_pos _)

theorem fmag_lt (F : Nat × Nat) (x : Nat) : fmag F x < 2 ^ (F.1 + F.2) := Nat.mod_lt _ (Nat.two_pow_pos _)

theorem fmag_fsign {F : Nat × Nat} {m : Nat} (neg : Bool) (h : m < 2 ^ (F.1 + F.2)) : fmag F (fsign F neg m) = m := by
  cases neg <;> simp [fsign, fmag, Nat.mod_eq_of_lt h]

theorem fneg_fsign {F : Nat × Nat} {m : Nat} (neg : Bool) (h : m < 2 ^ (F.1 + F.2)) : fneg F (fsign F neg m) = neg := by
  cases neg
  · exact Nat.testBit_lt_two_pow h
  · simp [fsign, fneg, Nat.testBit_two_pow_add_eq, Nat.testBit_lt_two_pow h]

theorem fsign_lt {F : Nat × Nat} {m : Nat} (neg : Bool) (h : m < 2 ^ (F.1 + F.2)) : fsign F neg m < 2 ^ (1 + F.1 + F.2) := by
  have h2 : 2 ^ (1 + F.1 + F.2) = 2 * 2 ^ (F.1 + F.2) := by rw [add_assoc, pow_add]; rfl
  cases neg <;> simp only [fsign, Bool.false_eq_true, if_false, if_true] <;> omega

theorem fneg_eq_decide_div (F : Nat × Nat) (x : Nat) : fneg F x = decide (x / 2 ^ (F.1 + F.2) % 2 = 1) :=
  Nat.testBit_eq_decide_div_mod_eq

/-- A pattern is its sign and its magnitude. -/
theorem fsign_fneg_fmag {F : Nat × Nat} {x : Nat} (h : x < 2 ^ (1 + F.1 + F.2)) : fsign F (fneg F x) (fmag F x) = x := by
  have hdiv : x / 2 ^ (F.1 + F.2) < 2 := by
    rw [add_assoc, pow_add] at h
    exact Nat.div_lt_of_lt_mul (by rwa [mul_comm] at h)
  have hx := Nat.div_add_mod x (2 ^ (F.1 + F.2))
  rw [fsign, fneg_eq_decide_div, fmag, Nat.mod_eq_of_lt hdiv]
  rcases Nat.lt_succ_iff_lt_or_eq.1 hdiv with h0 | h1
  · rw [Nat.lt_one_iff.1 h0] at hx ⊢
    simpa using hx
  · rw [h1] at hx ⊢
    simpa using hx

theorem fint_fsign {F : Nat × Nat} {m : Nat} (neg : Bool) (h : m < 2 ^ (F.1 + F.2)) :
    fint F (fsign F neg m) = if neg then -(magInt F.2 m : Int) else magInt F.2 m := by
  rw [fint_eq, fneg_fsign neg h, fmag_fsign neg h]

theorem fsign_mod_two {F : Nat × Nat} (hF : 1 ≤ F.2) (neg : Bool) (m : Nat) : fsign F neg m % 2 = m % 2 := by
  have h2 : 2 ^ (F.1 + F.2) = 2 * 2 ^ (F.1 + F.2 - 1) := by rw [← pow_succ', Nat.sub_add_cancel (by omega)]
  cases neg
  · rfl
  · simp only [fsign, if_true, h2, Nat.mul_add_mod]

/-! ### Kinds of patterns -/

/-- A pattern is a NaN, an infinity or a number. -/
theorem kind_cases (F : Nat × Nat) (x : Nat) :
    (fisNan F x = true ∧ fisInf F x = false ∧ ffin F x = false) ∨ (fisNan F x = false ∧ fisInf F x = true ∧ ffin F x = false) ∨
      (fisNan F x = false ∧ fisInf F x = false ∧ ffin F x = true) := by
  simp only [fisNan, fisInf, ffin, decide_eq_true_eq, decide_eq_false_iff_not]
  omega

theorem fisNan_fsign {F : Nat × Nat} {m : Nat} (neg : Bool) (h : m < 2 ^ (F.1 + F.2)) :
    fisNan F (fsign F neg m) = decide (finf F < m) := by rw [fisNan, fmag_fsign neg h]

theorem fisInf_fsign {F : Nat × Nat} {m : Nat} (neg : Bool) (h : m < 2 ^ (F.1 + F.2)) :
    fisInf F (fsign F neg m) = decide (m = finf F) := by rw [fisInf, fmag_fsign neg h]

theorem ffin_fsign {F : Nat × Nat} {m : Nat} (neg : Bool) (h : m < 2 ^ (F.1 + F.2)) :
    ffin F (fsign F neg m) = decide (m < finf F) := by rw [ffin, fmag_fsign neg h]

/-- An infinity is the signed pattern of infinity. -/
theorem eq_fsign_finf {F : Nat × Nat} {x : Nat} (hx : x < 2 ^ (1 + F.1 + F.2)) (h : fisInf F x = true) :
    fsign F (fneg F x) (finf F) = x := by
  rw [← of_decide_eq_true h, fsign_fneg_fmag hx]

theorem exponent_eq (x p w : Nat) : x / 2 ^ p % 2 ^ w = x % 2 ^ (w + p) / 2 ^ p := by
  rw [add_comm, pow_add, Nat.mod_mul_right_div_self]

theorem fraction_eq (x p w : Nat) : x % 2 ^ p = x % 2 ^ (w + p) % 2 ^ p := by
  rw [add_comm w p, pow_add, Nat.mod_mul_right_mod]

theorem quietBit_testBit (F : Nat × Nat) (hF : 1 ≤ F.2) (x : Nat) : x.testBit (F.2 - 1) = !decide (x % 2 ^ F.2 / 2 ^ (F.2 - 1) = 0) := by
  have hlt : x % 2 ^ F.2 / 2 ^ (F.2 - 1) < 2 := by
    refine Nat.div_lt_of_lt_mul ?_
    rw [← pow_succ, Nat.sub_add_cancel hF]
    exact Nat.mod_lt _ (Nat.two_pow_pos _)
  have h : x % 2 ^ F.2 / 2 ^ (F.2 - 1) = x / 2 ^ (F.2 - 1) % 2 := by
    have := exponent_eq x (F.2 - 1) 1
    rw [pow_one, show 1 + (F.2 - 1) = F.2 by omega] at this
    exact this.symm
  rw [Nat.testBit_eq_decide_div_mod_eq, ← h]
  interval_cases hq : x % 2 ^ F.2 / 2 ^ (F.2 - 1) <;> rfl

theorem finf_div (F : Nat × Nat) : finf F / 2 ^ F.2 = 2 ^ F.1 - 1 := Nat.mul_div_cancel _ (Nat.two_pow_pos _)

/-- The exponent field of a pattern that is no number is all ones. -/
theorem exponent_of_not_ffin {F : Nat × Nat} {x : Nat} (h : ffin F x = false) : fmag F x / 2 ^ F.2 = 2 ^ F.1 - 1 := by
  have h1 : finf F ≤ fmag F x := Nat.not_lt.1 (of_decide_eq_false h)
  have h2 := Nat.div_le_div_right (c := 2 ^ F.2) h1
  rw [finf_div] at h2
  have h3 : fmag F x / 2 ^ F.2 < 2 ^ F.1 := by
    refine Nat.div_lt_of_lt_mul ?_
    rw [← pow_add, add_comm F.2]
    exact fmag_lt F x
  omega

theorem exponent_of_ffin {F : Nat × Nat} {x : Nat} (h : ffin F x = true) : fmag F x / 2 ^ F.2 < 2 ^ F.1 - 1 := by
  refine Nat.div_lt_of_lt_mul ?_
  rw [mul_comm]
  exact of_decide_eq_true h

theorem fmag_of_not_ffin {F : Nat × Nat} {x : Nat} (h : ffin F x = false) : fmag F x = finf F + fmag F x % 2 ^ F.2 := by
  conv_lhs => rw [← Nat.div_add_mod (fmag F x) (2 ^ F.2), exponent_of_not_ffin h, mul_comm]
  rfl

/-! ### `unpack` (R96) -/

theorem unpack_nan (hF : F.Usual) {x : Nat} (h : fisNan F.fields x = true) : unpack F x = .nan (signals F.fields x) := by
  have hnum : ffin F.fields x = false := by
    have := of_decide_eq_true h
    exact decide_eq_false (by omega)
  have hexp := exponent_of_not_ffin hnum
  have hmag := fmag_of_not_ffin hnum
  have hlt := of_decide_eq_true h
  have hfr : ¬ x % 2 ^ F.wF = 0 := by
    rw [fraction_eq x F.wF F.wE]
    change ¬ fmag F.fields x % 2 ^ F.wF = 0
    simp only [] at hmag
    omega
  have hE : x / 2 ^ F.wF % 2 ^ F.wE = 2 ^ F.wE - 1 := (exponent_eq x F.wF F.wE).trans hexp
  simp only [unpack, hE, if_true, if_neg hfr, signals, h, Bool.true_and, quietBit_testBit F.fields hF.one_le_wF x, Bool.not_not]
  rfl

theorem unpack_inf {x : Nat} (h : fisInf F.fields x = true) : unpack F x = .inf (fneg F.fields x) := by
  have hnum : ffin F.fields x = false := by
    have := of_decide_eq_true h
    exact decide_eq_false (by omega)
  have hexp := exponent_of_not_ffin hnum
  have hmag := fmag_of_not_ffin hnum
  have hfr : x % 2 ^ F.wF = 0 := by
    rw [fraction_eq x F.wF F.wE]
    change fmag F.fields x % 2 ^ F.wF = 0
    have := of_decide_eq_true h
    simp only [] at hmag
    omega
  have hE : x / 2 ^ F.wF % 2 ^ F.wE = 2 ^ F.wE - 1 := (exponent_eq x F.wF F.wE).trans hexp
  simp only [unpack, hE, if_true, hfr, fneg_eq_decide_div]
  rfl

theorem unitExp_eq (hF : F.Usual) : (unitExp F.fields : Int) = F.wF - F.emin := by
  have h2 : 2 ≤ 2 ^ (F.wE - 1) := by
    calc 2 = 2 ^ 1 := rfl
      _ ≤ 2 ^ (F.wE - 1) := Nat.pow_le_pow_right (by decide) (by have := hF.two_le_wE; omega)
  simp only [unitExp, Fmt.emin, Fmt.bias]
  push_cast [Nat.cast_sub (show 2 ≤ F.wF + 2 ^ (F.wE - 1) by omega)]
  ring

/-- A finite pattern: its sign, and a significand of at most p + 1 bits at an exponent. -/
theorem unpack_fin (hF : F.Usual) {x : Nat} (h : ffin F.fields x = true) :
    ∃ m e : Nat, unpack F x = .fin (fneg F.fields x) m ((e : Int) - unitExp F.fields) ∧ m * 2 ^ e = magInt F.wF (fmag F.fields x) ∧
      m < 2 ^ (F.wF + 1) ∧ (m = 0 ↔ fmag F.fields x = 0) ∧ (m < 2 ^ F.wF ↔ fmag F.fields x < 2 ^ F.wF) ∧ e ≤ 2 ^ F.wE - 3 := by
  have hexp := exponent_of_ffin h
  have hpow : 0 < 2 ^ F.wF := Nat.two_pow_pos _
  have hfr : x % 2 ^ F.wF < 2 ^ F.wF := Nat.mod_lt _ hpow
  have hE : x / 2 ^ F.wF % 2 ^ F.wE = fmag F.fields x / 2 ^ F.wF := exponent_eq x F.wF F.wE
  have hfrac : x % 2 ^ F.wF = fmag F.fields x % 2 ^ F.wF := fraction_eq x F.wF F.wE
  have h2 : 2 ^ (F.wF + 1) = 2 * 2 ^ F.wF := by ring
  simp only [] at hexp
  rw [hfrac] at hfr
  by_cases h0 : fmag F.fields x / 2 ^ F.wF = 0
  · have hsub : fmag F.fields x < 2 ^ F.wF := (Nat.div_eq_zero_iff_lt hpow).1 h0
    have hu : unpack F x = .fin (fneg F.fields x) (fmag F.fields x) (F.emin - F.wF) := by
      simp only [unpack, hE, h0, hfrac, Nat.mod_eq_of_lt hsub, fneg_eq_decide_div]
      rw [if_neg (by omega)]
      rfl
    refine ⟨fmag F.fields x, 0, ?_, ?_, by omega, Iff.rfl, by omega, by omega⟩
    · rw [hu, unitExp_eq hF]
      congr 1
      push_cast
      ring
    · rw [magInt_of_lt hsub, pow_zero, mul_one]
  · have hge : 2 ^ F.wF ≤ fmag F.fields x := Nat.not_lt.1 fun hlt => h0 (Nat.div_eq_of_lt hlt)
    refine ⟨2 ^ F.wF + fmag F.fields x % 2 ^ F.wF, fmag F.fields x / 2 ^ F.wF - 1, ?_, ?_, by omega, by omega, by omega, by omega⟩
    · have hu : unpack F x = .fin (fneg F.fields x) (2 ^ F.wF + fmag F.fields x % 2 ^ F.wF)
          ((fmag F.fields x / 2 ^ F.wF : Nat) - F.bias - F.wF) := by
        simp only [unpack, hE, hfrac, fneg_eq_decide_div]
        rw [if_neg (by omega), if_neg h0]
        rfl
      rw [hu, unitExp_eq hF, Fmt.emin]
      congr 1
      push_cast [Nat.cast_sub (Nat.one_le_iff_ne_zero.2 h0)]
      ring
    · rw [magInt, if_neg h0]

/-- The exact value of a finite pattern. -/
theorem unpack_rat (hF : F.Usual) {x : Nat} (h : ffin F.fields x = true) :
    (unpack F x).dy.rat * 2 ^ unitExp F.fields = fint F.fields x := by
  obtain ⟨m, e, hu, hm, -⟩ := unpack_fin hF h
  have hz : (2 : ℚ) ^ ((e : Int) - unitExp F.fields) * 2 ^ unitExp F.fields = 2 ^ e := by
    rw [← zpow_natCast, ← two_zpow_add, sub_add_cancel, zpow_natCast]
  rw [hu, fint_eq, ← hm]
  cases fneg F.fields x <;> simp [FVal.dy, Dy.rat, mul_assoc, hz]

end Sys2Proof.Machine
end

section
/-! SUPPORT. Rounding (R78, R80, R99) on the line of patterns: a positive real lies between a pattern and the next one, and a mode
takes one of the two. -/

namespace Sys2Proof.Machine
open Sys2Proof Sys2Proof.Stated
variable {F : Fmt}

/-! ### Rounding to an integer -/

/-- Modes to nearest; and those that go away from zero on a side. The rest go toward zero. -/
def Rm.near : Rm → Bool
  | .rne | .rna => true
  | _ => false

def Rm.away (mode : Rm) (neg : Bool) : Bool :=
  match mode with
  | .rdn => neg
  | .rup => !neg
  | _ => false

/-- Whether a part t of 1 behind n goes up. -/
def roundsUp (mode : Rm) (neg : Bool) (n : Nat) (t : ℚ) : Bool :=
  match mode with
  | .rne => decide (1 / 2 < t) || (decide (t = 1 / 2) && decide (n % 2 = 1))
  | .rna => decide (1 / 2 ≤ t)
  | .rtz => false
  | .rdn => neg && decide (t ≠ 0)
  | .rup => !neg && decide (t ≠ 0)

def roundNat (mode : Rm) (neg : Bool) (q : ℚ) : Nat := ⌊q⌋₊ + if roundsUp mode neg ⌊q⌋₊ (q - ⌊q⌋₊) then 1 else 0

theorem roundsUp_directed {mode : Rm} (h : mode.near = false) (neg : Bool) (n : Nat) (t : ℚ) :
    roundsUp mode neg n t = (mode.away neg && decide (t ≠ 0)) := by
  cases mode with
  | rne => cases h
  | rna => cases h
  | rtz | rdn | rup => rfl

/-- To nearest: behind an odd number a tie goes up under both modes. -/
theorem roundsUp_near_odd {mode : Rm} (h : mode.near = true) (neg : Bool) {n : Nat} (hn : n % 2 = 1) (t : ℚ) :
    roundsUp mode neg n t = decide (1 / 2 ≤ t) := by
  cases mode with
  | rne => simp [roundsUp, hn, le_iff_lt_or_eq, eq_comm, Bool.decide_or]
  | rna => rfl
  | rtz | rdn | rup => cases h

theorem roundsUp_near_le {mode : Rm} (h : mode.near = true) {neg : Bool} {n : Nat} {t : ℚ} (hu : roundsUp mode neg n t = true) :
    1 / 2 ≤ t := by
  cases mode with
  | rne =>
    simp only [roundsUp, Bool.or_eq_true, Bool.and_eq_true, decide_eq_true_eq] at hu
    rcases hu with hu | ⟨hu, -⟩
    · exact hu.le
    · exact hu.ge
  | rna => exact of_decide_eq_true hu
  | rtz | rdn | rup => cases h

theorem le_roundsUp_near {mode : Rm} (h : mode.near = true) {neg : Bool} {n : Nat} {t : ℚ} (hu : roundsUp mode neg n t = false) :
    t ≤ 1 / 2 := by
  cases mode with
  | rne =>
    simp only [roundsUp, Bool.or_eq_false_iff, decide_eq_false_iff_not, not_lt] at hu
    exact hu.1
  | rna => exact (not_le.1 (of_decide_eq_false hu)).le
  | rtz | rdn | rup => cases h

theorem roundsUp_zero (mode : Rm) (neg : Bool) (n : Nat) : roundsUp mode neg n 0 = false := by
  cases mode <;> simp [roundsUp]

theorem roundsUp_parity {mode : Rm} {neg : Bool} {n n' : Nat} (h : n % 2 = n' % 2) (t : ℚ) :
    roundsUp mode neg n t = roundsUp mode neg n' t := by
  cases mode with
  | rne => simp only [roundsUp, h]
  | rna | rtz | rdn | rup => rfl

theorem div_pow_sub_floor (m s : Nat) : (m : ℚ) / 2 ^ s - (m / 2 ^ s : Nat) = (m % 2 ^ s : Nat) / 2 ^ s := by
  have h : (m : ℚ) = 2 ^ s * (m / 2 ^ s : Nat) + (m % 2 ^ s : Nat) := by exact_mod_cast (Nat.div_add_mod m (2 ^ s)).symm
  rw [sub_eq_iff_eq_add]
  conv_lhs => rw [h]
  field_simp
  ring

theorem floor_div_pow (m s : Nat) : ⌊(m : ℚ) / 2 ^ s⌋₊ = m / 2 ^ s := by
  have h := Nat.floor_div_natCast (m : ℚ) (2 ^ s)
  push_cast at h
  rw [h, Nat.floor_natCast]

/-- `roundMag` rounds the quotient of its number by its unit. -/
theorem roundMag_eq (neg : Bool) (mag : Nat) (ex qe : Int) (mode : Rm) :
    roundMag neg mag ex qe mode = (roundNat mode neg (mag * 2 ^ (ex - qe)),
      decide ((mag * 2 ^ (ex - qe) : ℚ) = ⌊(mag * 2 ^ (ex - qe) : ℚ)⌋₊)) := by
  unfold roundMag
  split
  · next h =>
    have hq : (mag * 2 ^ (ex - qe) : ℚ) = (mag * 2 ^ (ex - qe).toNat : Nat) := by
      push_cast
      rw [two_zpow_toNat (by omega)]
    rw [hq, roundNat, Nat.floor_natCast, sub_self, roundsUp_zero]
    simp
  · next h =>
    obtain ⟨s, hs⟩ : ∃ s : Nat, (qe - ex).toNat = s + 1 := ⟨(qe - ex).toNat - 1, by omega⟩
    have hq : (mag * 2 ^ (ex - qe) : ℚ) = mag / 2 ^ (s + 1) := by
      rw [← hs, two_zpow_toNat (by omega), ← neg_sub qe ex, zpow_neg, div_eq_mul_inv]
    have hpos : (0 : ℚ) < 2 ^ (s + 1) := by positivity
    have hp2 : (2 : ℚ) ^ (s + 1) = 2 * 2 ^ s := by ring
    have hlt : 1 / 2 < ((mag % 2 ^ (s + 1) : Nat) : ℚ) / 2 ^ (s + 1) ↔ 2 ^ s < mag % 2 ^ (s + 1) := by
      rw [lt_div_iff₀ hpos, hp2, ← mul_assoc, one_div, inv_mul_cancel₀ two_ne_zero, one_mul]
      exact_mod_cast Iff.rfl
    have heq : ((mag % 2 ^ (s + 1) : Nat) : ℚ) / 2 ^ (s + 1) = 1 / 2 ↔ mag % 2 ^ (s + 1) = 2 ^ s := by
      rw [div_eq_iff hpos.ne', hp2, ← mul_assoc, one_div, inv_mul_cancel₀ two_ne_zero, one_mul]
      exact_mod_cast Iff.rfl
    have hle : 1 / 2 ≤ ((mag % 2 ^ (s + 1) : Nat) : ℚ) / 2 ^ (s + 1) ↔ 2 ^ s ≤ mag % 2 ^ (s + 1) := by
      rw [le_iff_lt_or_eq, hlt, eq_comm, heq, le_iff_lt_or_eq, eq_comm (a := 2 ^ s)]
    have hz : ((mag % 2 ^ (s + 1) : Nat) : ℚ) / 2 ^ (s + 1) = 0 ↔ mag % 2 ^ (s + 1) = 0 := by
      rw [div_eq_zero_iff, or_iff_left hpos.ne', Nat.cast_eq_zero]
    have hex : (mag / 2 ^ (s + 1) : ℚ) = (mag / 2 ^ (s + 1) : Nat) ↔ mag % 2 ^ (s + 1) = 0 := by
      rw [← hz, ← div_pow_sub_floor, sub_eq_zero]
    simp only [hq, roundNat, floor_div_pow, div_pow_sub_floor, hs, Nat.add_sub_cancel, hex]
    cases mode <;> simp only [roundsUp, hlt, heq, hle, hz, ne_eq, Bool.false_eq_true, if_false, add_zero]
    all_goals split <;> rfl

/-- The next number is reached from the last one below it. -/
theorem roundNat_eq_succ {mode : Rm} {neg : Bool} {q : ℚ} {N : Nat} (hodd : N % 2 = 1) (h0 : 0 ≤ q) (hq : q < N + 1) :
    roundNat mode neg q = N + 1 ↔ if mode.near then (N : ℚ) + 1 / 2 ≤ q else mode.away neg = true ∧ (N : ℚ) < q := by
  have hfl : ⌊q⌋₊ ≤ N := Nat.lt_succ_iff.1 ((Nat.floor_lt h0).2 (by exact_mod_cast hq))
  have hle := Nat.floor_le h0
  rcases Nat.lt_or_eq_of_le hfl with hlt | heq
  · have hlt' : q < N := (Nat.floor_lt h0).1 hlt
    have hne : roundNat mode neg q ≠ N + 1 := by
      rw [roundNat]
      split <;> omega
    refine iff_of_false hne ?_
    split
    · linarith
    · rintro ⟨-, h⟩
      linarith
  · rw [heq] at hle
    have hr : roundNat mode neg q = N + 1 ↔ roundsUp mode neg N (q - N) = true := by
      rw [roundNat, heq]
      split <;> simp [*]
    rw [hr]
    cases hn : mode.near
    · rw [roundsUp_directed hn, Bool.and_eq_true, decide_eq_true_eq, if_neg (by decide), sub_ne_zero, hle.lt_iff_ne, ne_comm]
    · rw [roundsUp_near_odd hn neg hodd, decide_eq_true_eq, if_pos rfl, le_sub_iff_add_le, add_comm]

/-! ### Rounding to a pattern -/

/-- b is the pattern at or below a real Q, in least positive numbers. -/
def FloorPat (p : Nat) (Q : ℚ) (b : Nat) : Prop := (magInt p b : ℚ) ≤ Q ∧ Q < magInt p (b + 1)

/-- How far Q lies behind the pattern b, as a part of the step to the next one. -/
def partOf (p : Nat) (Q : ℚ) (b : Nat) : ℚ := (Q - magInt p b) / (magInt p (b + 1) - magInt p b)

/-- The pattern that a mode takes, with an unbounded exponent. -/
def roundPat (p : Nat) (mode : Rm) (neg : Bool) (Q : ℚ) (b : Nat) : Nat := b + if roundsUp mode neg b (partOf p Q b) then 1 else 0

theorem step_pos (p b : Nat) : (0 : ℚ) < magInt p (b + 1) - magInt p b := by
  rw [sub_pos, Nat.cast_lt]
  exact magInt_lt_succ p b

theorem FloorPat.le_iff {p b k : Nat} {Q : ℚ} (h : FloorPat p Q b) : k ≤ b ↔ (magInt p k : ℚ) ≤ Q := by
  refine ⟨fun hk => (Nat.cast_le.2 (magInt_le_iff.2 hk)).trans h.1, fun hk => ?_⟩
  have h1 : magInt p k < magInt p (b + 1) := by exact_mod_cast hk.trans_lt h.2
  exact Nat.lt_succ_iff.1 (magInt_lt_iff.1 h1)

theorem partOf_eq_zero {p b : Nat} {Q : ℚ} : partOf p Q b = 0 ↔ (magInt p b : ℚ) = Q := by
  rw [partOf, div_eq_zero_iff, or_iff_left (step_pos p b).ne', sub_eq_zero, eq_comm]

theorem half_le_partOf {p b : Nat} {Q : ℚ} : 1 / 2 ≤ partOf p Q b ↔ (magInt p b + magInt p (b + 1) : ℚ) ≤ 2 * Q := by
  rw [partOf, le_div_iff₀ (step_pos p b)]
  constructor <;> intro h <;> linarith

theorem partOf_le_half {p b : Nat} {Q : ℚ} : partOf p Q b ≤ 1 / 2 ↔ 2 * Q ≤ (magInt p b + magInt p (b + 1) : ℚ) := by
  rw [partOf, div_le_iff₀ (step_pos p b)]
  constructor <;> intro h <;> linarith

theorem partOf_eq_half {p b : Nat} {Q : ℚ} : partOf p Q b = 1 / 2 ↔ 2 * Q = (magInt p b + magInt p (b + 1) : ℚ) := by
  rw [partOf, div_eq_iff (step_pos p b).ne']
  constructor <;> intro h <;> linarith

theorem roundPat_cases (p : Nat) (mode : Rm) (neg : Bool) (Q : ℚ) (b : Nat) :
    (roundPat p mode neg Q b = b ∧ roundsUp mode neg b (partOf p Q b) = false) ∨
      (roundPat p mode neg Q b = b + 1 ∧ roundsUp mode neg b (partOf p Q b) = true) := by
  rw [roundPat]
  cases roundsUp mode neg b (partOf p Q b) <;> simp

/-- When a rounded magnitude reaches an even pattern. -/
theorem FloorPat.le_roundPat_iff {p b k : Nat} {Q : ℚ} (h : FloorPat p Q b) (mode : Rm) (neg : Bool) (hk : k % 2 = 1) :
    k + 1 ≤ roundPat p mode neg Q b ↔
      if mode.near then (magInt p k + magInt p (k + 1) : ℚ) ≤ 2 * Q
      else if mode.away neg then (magInt p k : ℚ) < Q
      else (magInt p (k + 1) : ℚ) ≤ Q := by
  have hstep : (magInt p k : ℚ) < magInt p (k + 1) := by exact_mod_cast magInt_lt_succ p k
  have hreach : k + 1 ≤ roundPat p mode neg Q b ↔
      (magInt p (k + 1) : ℚ) ≤ Q ∨ (b = k ∧ roundsUp mode neg b (partOf p Q b) = true) := by
    rw [← h.le_iff]
    rcases roundPat_cases p mode neg Q b with ⟨hr, hu⟩ | ⟨hr, hu⟩ <;> rw [hr, hu]
    · simp
    · simp only [and_true]
      omega
  rw [hreach]
  rcases lt_trichotomy b k with hlt | rfl | hgt
  · have hQ : Q < magInt p k := not_le.1 (mt h.le_iff.2 (by omega))
    refine iff_of_false (by rintro (hc | ⟨hc, -⟩) <;> [linarith; omega]) ?_
    split_ifs <;> linarith
  · have hQ : ¬(magInt p (b + 1) : ℚ) ≤ Q := mt h.le_iff.2 (by omega)
    cases hn : mode.near
    · simp only [hQ, true_and, false_or, roundsUp_directed hn, Bool.and_eq_true, decide_eq_true_eq, ne_eq, partOf_eq_zero,
        Bool.false_eq_true, if_false]
      cases mode.away neg
      · simp
      · simp [h.1.lt_iff_ne]
    · simp only [hQ, true_and, false_or, roundsUp_near_odd hn neg hk, decide_eq_true_eq, half_le_partOf, if_true]
  · have hQ := h.le_iff.1 (show k + 1 ≤ b from hgt)
    refine iff_of_true (.inl hQ) ?_
    split_ifs <;> linarith

/-- A positive real under its pattern: n of 2^e, with the rest as a part of 2^e. -/
theorem floorPat_block {p e : Nat} {q : ℚ} (h0 : 0 ≤ q) (hn : ⌊q⌋₊ < 2 ^ (p + 1)) (he : e = 0 ∨ 2 ^ p ≤ ⌊q⌋₊) :
    FloorPat p (q * 2 ^ e) (e * 2 ^ p + ⌊q⌋₊) ∧ partOf p (q * 2 ^ e) (e * 2 ^ p + ⌊q⌋₊) = q - ⌊q⌋₊ := by
  have hpos : (0 : ℚ) < 2 ^ e := by positivity
  rw [FloorPat, partOf, add_assoc, magInt_block hn.le he, magInt_block hn (by omega)]
  push_cast
  refine ⟨⟨mul_le_mul_of_nonneg_right (Nat.floor_le h0) hpos.le, mul_lt_mul_of_pos_right (Nat.lt_floor_add_one q) hpos⟩, ?_⟩
  field_simp
  ring

/-! ### `roundNz` -/

/-- Below the least normal number, after rounding with an unbounded exponent (R80). -/
def tinyAt (p : Nat) (mode : Rm) (neg : Bool) (Q : ℚ) : Bool := decide (
  if mode.near then 4 * Q < 2 ^ (p + 2) - 1 else if mode.away neg then 2 * Q ≤ 2 ^ (p + 1) - 1 else Q < 2 ^ p)

/-- What rounding gives for a positive real Q over its pattern b: the pattern with its sign, or the overflow; and the flags. -/
def roundedTo (F : Fmt) (mode : Rm) (neg : Bool) (Q : ℚ) (b : Nat) : Nat × FFlags :=
  if F.infBits ≤ roundPat F.wF mode neg Q b then (signed F neg (overflowMag F neg mode), flagOf ||| flagNx)
  else (signed F neg (roundPat F.wF mode neg Q b),
    if (magInt F.wF b : ℚ) = Q then 0 else if tinyAt F.wF mode neg Q then flagUf ||| flagNx else flagNx)

/-- A real without its sign, in least positive numbers of a format. -/
def Dy.units (F : Fmt) (x : Dy) : ℚ := |x.rat| * 2 ^ unitExp F.fields

theorem Dy.units_eq (hF : F.Usual) (x : Dy) : x.units F = |x.rat| * 2 ^ (F.wF - F.emin) := by
  rw [Dy.units, ← unitExp_eq hF, zpow_natCast]

theorem Dy.units_nonneg (F : Fmt) (x : Dy) : 0 ≤ x.units F := by
  unfold Dy.units
  positivity

/-- The unit in which `roundNz` rounds, and the number that it rounds. -/
theorem roundMag_units (hF : F.Usual) (x : Dy) {E : Int} (hE : F.emin ≤ E) :
    (x.m.natAbs * 2 ^ (x.e - (E - F.wF)) : ℚ) * 2 ^ (E - F.emin).toNat = x.units F := by
  rw [two_zpow_toNat (by omega), Dy.units_eq hF, Dy.abs_rat, mul_assoc, mul_assoc, ← two_zpow_add, ← two_zpow_add]
  congr 2
  ring

theorem roundPat_block (hF : F.Usual) {e : Nat} {q : ℚ} (h0 : 0 ≤ q) (hn : ⌊q⌋₊ < 2 ^ (F.wF + 1)) (he : e = 0 ∨ 2 ^ F.wF ≤ ⌊q⌋₊)
    (mode : Rm) (neg : Bool) :
    roundPat F.wF mode neg (q * 2 ^ e) (e * 2 ^ F.wF + ⌊q⌋₊) = e * 2 ^ F.wF + roundNat mode neg q := by
  have hpar : (e * 2 ^ F.wF + ⌊q⌋₊) % 2 = ⌊q⌋₊ % 2 := by
    obtain ⟨w, hw⟩ := Nat.exists_eq_add_of_le' hF.one_le_wF
    rw [hw, pow_succ, ← mul_assoc, Nat.mul_add_mod']
  rw [roundPat, (floorPat_block h0 hn he).2, roundsUp_parity hpar, roundNat, add_assoc]

theorem floor_lt_two_pow {q : ℚ} {n : Nat} (h0 : 0 ≤ q) (h : q < 2 ^ n) : ⌊q⌋₊ < 2 ^ n :=
  (Nat.floor_lt h0).2 (by push_cast; exact h)

theorem two_pow_le_floor {q : ℚ} {n : Nat} (h : 2 ^ n ≤ q) : 2 ^ n ≤ ⌊q⌋₊ := Nat.le_floor (by push_cast; exact h)

/-- The number that `roundNz` rounds has at most wF + 1 bits, and so many unless it is below the least normal number. -/
theorem units_bounds {x : Dy} (hx : x.m ≠ 0) {E : Int} (hE : E = max x.log2 F.emin) :
    (x.m.natAbs * 2 ^ (x.e - (E - F.wF)) : ℚ) < 2 ^ (F.wF + 1) ∧
      ((E - F.emin).toNat = 0 ∨ (2 : ℚ) ^ F.wF ≤ x.m.natAbs * 2 ^ (x.e - (E - F.wF))) := by
  obtain ⟨hlo, hhi⟩ := Dy.log2_spec hx
  have hq : (x.m.natAbs * 2 ^ (x.e - (E - F.wF)) : ℚ) = |x.rat| * 2 ^ (F.wF - E) := by
    rw [Dy.abs_rat, mul_assoc, ← two_zpow_add]
    congr 2
    ring
  have hpos := two_zpow_pos (F.wF - E)
  rw [hq]
  constructor
  · calc |x.rat| * 2 ^ (F.wF - E) < 2 ^ (x.log2 + 1) * 2 ^ (F.wF - E) := mul_lt_mul_of_pos_right hhi hpos
      _ = 2 ^ (x.log2 + 1 + (F.wF - E)) := (two_zpow_add _ _).symm
      _ ≤ 2 ^ ((F.wF + 1 : Nat) : Int) := two_zpow_le (by push_cast; omega)
      _ = 2 ^ (F.wF + 1) := zpow_natCast _ _
  · rcases le_or_gt x.log2 F.emin with h | h
    · exact .inl (by omega)
    · refine .inr ?_
      calc (2 : ℚ) ^ F.wF = 2 ^ (x.log2 + (F.wF - E)) := by
            rw [← zpow_natCast]
            congr 1
            omega
        _ = 2 ^ x.log2 * 2 ^ (F.wF - E) := two_zpow_add _ _
        _ ≤ |x.rat| * 2 ^ (F.wF - E) := mul_le_mul_of_nonneg_right hlo hpos.le

/-- The second rounding of `roundNz`, at full precision below the least normal number, tells whether the value is tiny. -/
theorem tiny_eq (hF : F.Usual) {x : Dy} (hx : x.m ≠ 0) (mode : Rm) (neg : Bool) :
    (decide (x.log2 < F.emin) && !(decide (x.log2 = F.emin - 1) &&
      decide (roundNat mode neg (x.m.natAbs * 2 ^ (x.e - (x.log2 - F.wF))) = 2 ^ (F.wF + 1)))) =
      tinyAt F.wF mode neg (x.units F) := by
  obtain ⟨hlo, hhi⟩ := Dy.log2_spec hx
  have hpos : (0 : ℚ) < 2 ^ (F.wF - F.emin) := two_zpow_pos _
  have hscale (L : Int) (n : Nat) (hn : L - F.emin + F.wF = n) : (2 : ℚ) ^ L * 2 ^ (F.wF - F.emin) = 2 ^ n := by
    rw [← two_zpow_add, ← zpow_natCast]
    congr 1
    omega
  have hp : (2 : ℚ) ^ (F.wF + 2) = 4 * 2 ^ F.wF := by ring
  have hp1 : (2 : ℚ) ^ (F.wF + 1) = 2 * 2 ^ F.wF := by ring
  have h1 : (1 : ℚ) ≤ 2 ^ F.wF := one_le_pow₀ (by norm_num)
  have hunits := Dy.units_eq hF x
  obtain ⟨w, hw⟩ := Nat.exists_eq_add_of_le' hF.one_le_wF
  rcases lt_trichotomy x.log2 (F.emin - 1) with hlt | heq | hgt
  · have hQ : x.units F < 2 ^ w := by
      rw [hunits, ← hscale (F.emin - 1) w (by omega)]
      refine mul_lt_mul_of_pos_right (hhi.trans_le (two_zpow_le (by omega))) hpos
    have hw2 : (2 : ℚ) ^ F.wF = 2 * 2 ^ w := by rw [hw]; ring
    have hw1 : (1 : ℚ) ≤ 2 ^ w := one_le_pow₀ (by norm_num)
    simp only [show x.log2 < F.emin by omega, show ¬x.log2 = F.emin - 1 by omega, decide_true, decide_false, Bool.false_and,
      Bool.not_false, Bool.and_true, tinyAt]
    refine (decide_eq_true ?_).symm
    split_ifs <;> linarith
  · have hq : (x.m.natAbs * 2 ^ (x.e - (x.log2 - F.wF)) : ℚ) = 2 * x.units F := by
      rw [hunits, Dy.abs_rat, mul_assoc, ← two_zpow_add, mul_left_comm, ← zpow_one_add₀ two_ne_zero]
      congr 2
      omega
    have hQ : x.units F < 2 ^ F.wF := by
      rw [hunits, ← hscale F.emin F.wF (by omega)]
      exact mul_lt_mul_of_pos_right (hhi.trans_le (two_zpow_le (by omega))) hpos
    have hN : (2 ^ (F.wF + 1) - 1) + 1 = 2 ^ (F.wF + 1) := Nat.sub_add_cancel (Nat.one_le_two_pow)
    have hcast : ((2 ^ (F.wF + 1) - 1 : Nat) : ℚ) = 2 ^ (F.wF + 1) - 1 := by
      rw [Nat.cast_sub Nat.one_le_two_pow]
      push_cast
      rfl
    have hodd : (2 ^ (F.wF + 1) - 1) % 2 = 1 := by rw [pow_succ]; omega
    have hnn := x.units_nonneg F
    have htop := roundNat_eq_succ (mode := mode) (neg := neg) (q := 2 * x.units F) hodd (by linarith) (by rw [hcast]; linarith)
    rw [hN, hcast] at htop
    rw [hq]
    simp only [heq, show F.emin - 1 < F.emin by omega, decide_true, Bool.true_and, ← decide_not, htop, tinyAt, decide_eq_decide]
    cases mode.near
    · cases mode.away neg
      · simpa using hQ
      · simp
    · simp only [if_true, not_le]
      constructor <;> intro h <;> linarith
  · have hQ : 2 ^ F.wF ≤ x.units F := by
      rw [hunits, ← hscale F.emin F.wF (by omega)]
      exact mul_le_mul_of_nonneg_right ((two_zpow_le (by omega)).trans hlo) hpos.le
    simp only [show ¬x.log2 < F.emin by omega, decide_false, Bool.false_and, tinyAt]
    refine (decide_eq_false ?_).symm
    split_ifs <;> linarith

/-- `roundNz` takes the pattern at or below its real or the next one, and raises its flags by the same real (R80, R99). -/
theorem roundNz_eq (hF : F.Usual) {x : Dy} (hx : x.m ≠ 0) (mode : Rm) :
    ∃ b, FloorPat F.wF (x.units F) b ∧ roundNz F x mode = roundedTo F mode (decide (x.m < 0)) (x.units F) b := by
  obtain ⟨E, hE⟩ : ∃ E, E = max x.log2 F.emin := ⟨_, rfl⟩
  obtain ⟨q, hq⟩ : ∃ q : ℚ, q = x.m.natAbs * 2 ^ (x.e - (E - F.wF)) := ⟨_, rfl⟩
  have h0 : 0 ≤ q := by rw [hq]; positivity
  have hle : F.emin ≤ E := by omega
  obtain ⟨hlt, hge⟩ := units_bounds (F := F) hx hE
  have hunits := roundMag_units hF x hle
  rw [← hq] at hlt hge hunits
  have hn := floor_lt_two_pow h0 hlt
  have he : (E - F.emin).toNat = 0 ∨ 2 ^ F.wF ≤ ⌊q⌋₊ := hge.imp_right two_pow_le_floor
  obtain ⟨hfloor, hpart⟩ := floorPat_block h0 hn he
  have hpat := roundPat_block hF h0 hn he mode (decide (x.m < 0))
  have hexact : (magInt F.wF ((E - F.emin).toNat * 2 ^ F.wF + ⌊q⌋₊) : ℚ) = x.units F ↔ q = ⌊q⌋₊ := by
    rw [← hunits, ← partOf_eq_zero, hpart, sub_eq_zero]
  have hbias : (E + F.bias - 1).toNat = (E - F.emin).toNat := by rw [Fmt.emin]; congr 1; ring
  rw [hunits] at hfloor hpat
  refine ⟨_, hfloor, ?_⟩
  rw [roundedTo, hpat, ← tiny_eq hF hx]
  simp only [hexact, roundNz, roundMag_eq, ← hE, ← hq, hbias, decide_eq_true_eq]

end Sys2Proof.Machine
end

section
/-! SUPPORT. `roundTo` rounds as R78 and R99 say, and raises the flags of R80: what the statements say in integers, from the line of
patterns. -/

namespace Sys2Proof.Machine
open Sys2Proof Sys2Proof.Stated
variable {F : Fmt} {x : Dy} {n : Int} {k : Nat}

/-- The number of a mode (R78). -/
def Rm.code : Rm → Nat
  | .rne => 0
  | .rtz => 1
  | .rdn => 2
  | .rup => 3
  | .rna => 4

theorem code_ofCode {m : Nat} (h : m < 5) : ((Rm.ofCode m).getD .rne).code = m := by
  interval_cases m <;> rfl

theorem near_iff_code (mode : Rm) : (mode.code = 0 ∨ mode.code = 4) ↔ mode.near = true := by
  cases mode <;> decide

/-! ### Overflow -/

theorem two_pow_wE (hF : F.Usual) : ∃ w, 2 ^ F.wE = w + 4 := by
  refine Nat.exists_eq_add_of_le' ?_
  calc 4 = 2 ^ 2 := rfl
    _ ≤ 2 ^ F.wE := Nat.pow_le_pow_right (by decide) hF.two_le_wE

theorem infBits_block (hF : F.Usual) : F.infBits = (2 ^ F.wE - 3) * 2 ^ F.wF + 2 ^ (F.wF + 1) := by
  obtain ⟨w, hw⟩ := two_pow_wE hF
  simp only [Fmt.infBits, hw, show w + 4 - 3 = w + 1 by omega, show w + 4 - 1 = w + 3 by omega]
  ring

theorem maxFinite_block (hF : F.Usual) : F.maxFinite = (2 ^ F.wE - 3) * 2 ^ F.wF + (2 ^ (F.wF + 1) - 1) := by
  rw [Fmt.maxFinite, infBits_block hF, Nat.add_sub_assoc Nat.one_le_two_pow]

theorem infBits_pos (hF : F.Usual) : 0 < F.infBits := by
  rw [infBits_block hF]
  positivity

theorem maxFinite_succ (hF : F.Usual) : F.maxFinite + 1 = F.infBits := Nat.sub_add_cancel (infBits_pos hF)

theorem infBits_even (hF : F.Usual) : F.infBits % 2 = 0 := by
  obtain ⟨w, hw⟩ := Nat.exists_eq_add_of_le' hF.one_le_wF
  rw [Fmt.infBits, hw, pow_succ, ← mul_assoc, Nat.mul_mod_left]

theorem magInt_maxFinite (hF : F.Usual) : magInt F.wF F.maxFinite = (2 ^ (F.wF + 1) - 1) * 2 ^ (2 ^ F.wE - 3) := by
  have h1 : 2 ^ (F.wF + 1) = 2 * 2 ^ F.wF := by ring
  have h2 : 1 ≤ 2 ^ F.wF := Nat.one_le_two_pow
  rw [maxFinite_block hF, magInt_block (Nat.sub_le _ _) (.inr (by omega))]

theorem magInt_infBits (hF : F.Usual) : magInt F.wF F.infBits = 2 ^ (F.wF + 1) * 2 ^ (2 ^ F.wE - 3) := by
  rw [infBits_block hF, magInt_block le_rfl (.inr (Nat.pow_le_pow_right (by decide) (Nat.le_succ _)))]

/-- The least number that a mode takes beyond the greatest finite one. -/
theorem overflow_iff (hF : F.Usual) {Q : ℚ} {b : Nat} (hb : FloorPat F.wF Q b) (mode : Rm) (neg : Bool) :
    F.infBits ≤ roundPat F.wF mode neg Q b ↔
      if mode.near then (((2 ^ (F.wF + 2) - 1) * 2 ^ (2 ^ F.wE - 4) : Nat) : ℚ) ≤ Q
      else if mode.away neg then (((2 ^ (F.wF + 1) - 1) * 2 ^ (2 ^ F.wE - 3) : Nat) : ℚ) < Q
      else ((2 ^ (F.wF + 1) * 2 ^ (2 ^ F.wE - 3) : Nat) : ℚ) ≤ Q := by
  have hodd : F.maxFinite % 2 = 1 := by
    have h1 := infBits_even hF
    have h2 := maxFinite_succ hF
    omega
  obtain ⟨w, hw⟩ := two_pow_wE hF
  have hmid : magInt F.wF F.maxFinite + magInt F.wF F.infBits = 2 * ((2 ^ (F.wF + 2) - 1) * 2 ^ (2 ^ F.wE - 4)) := by
    have h1 : 1 ≤ 2 ^ F.wF := Nat.one_le_two_pow
    have h2 : 2 ^ (F.wF + 2) - 1 = (2 ^ (F.wF + 1) - 1) + 2 ^ (F.wF + 1) := by
      rw [show 2 ^ (F.wF + 2) = 2 * 2 ^ (F.wF + 1) by ring, show 2 ^ (F.wF + 1) = 2 * 2 ^ F.wF by ring]
      omega
    rw [magInt_maxFinite hF, magInt_infBits hF, h2, hw, show w + 4 - 3 = w + 1 by omega, Nat.add_sub_cancel, pow_succ 2 w]
    ring
  have h := hb.le_roundPat_iff mode neg hodd
  rw [maxFinite_succ hF, ← Nat.cast_add, hmid, magInt_maxFinite hF, magInt_infBits hF, Nat.cast_mul, Nat.cast_two,
    mul_le_mul_iff_right₀ two_pos] at h
  exact h

theorem overflowMag_near {mode : Rm} (h : mode.near = true) (neg : Bool) : overflowMag F neg mode = F.infBits := by
  cases mode with
  | rne | rna => rfl
  | rtz | rdn | rup => cases h

theorem overflowMag_directed {mode : Rm} (h : mode.near = false) (neg : Bool) :
    overflowMag F neg mode = if mode.away neg then F.infBits else F.maxFinite := by
  cases mode with
  | rne | rna => cases h
  | rtz => rfl
  | rdn => rfl
  | rup => cases neg <;> rfl

/-! ### The two neighbours -/

/-- Toward zero: the greatest magnitude that is not greater. -/
theorem FloorPat.toward {p b m : Nat} {Q : ℚ} (h : FloorPat p Q b) (hm : (magInt p m : ℚ) ≤ Q) : magInt p m ≤ magInt p b :=
  magInt_le_iff.2 (h.le_iff.2 hm)

/-- Away from zero: the least magnitude that is not less. -/
theorem FloorPat.away {p b : Nat} {Q : ℚ} (h : FloorPat p Q b) {mode : Rm} {neg : Bool} (hn : mode.near = false)
    (ha : mode.away neg = true) : Q ≤ magInt p (roundPat p mode neg Q b) ∧
      ∀ m, Q ≤ magInt p m → magInt p (roundPat p mode neg Q b) ≤ magInt p m := by
  have hup : roundsUp mode neg b (partOf p Q b) = decide ((magInt p b : ℚ) ≠ Q) := by
    simp only [roundsUp_directed hn, ha, Bool.true_and, ne_eq, partOf_eq_zero]
  rcases roundPat_cases p mode neg Q b with ⟨hr, hu⟩ | ⟨hr, hu⟩ <;> rw [hup] at hu <;> rw [hr]
  · have hQ : (magInt p b : ℚ) = Q := not_not.1 (of_decide_eq_false hu)
    exact ⟨hQ.ge, fun m hm => by exact_mod_cast hQ.trans_le hm⟩
  · have hQ : (magInt p b : ℚ) < Q := h.1.lt_of_ne (of_decide_eq_true hu)
    refine ⟨h.2.le, fun m hm => magInt_le_iff.2 ?_⟩
    exact magInt_lt_iff.1 (by exact_mod_cast hQ.trans_le hm)

theorem roundPat_toward {p b : Nat} {Q : ℚ} {mode : Rm} {neg : Bool} (hn : mode.near = false) (ha : mode.away neg = false) :
    roundPat p mode neg Q b = b := by
  rw [roundPat, roundsUp_directed hn, ha]
  rfl

/-- No other number is nearer than the one that a mode to nearest takes; of two at the same distance it takes the even pattern, or
the one away from zero. -/
theorem FloorPat.nearest {p b m : Nat} {Q u : ℚ} (h : FloorPat p Q b) {mode : Rm} {neg : Bool} (hn : mode.near = true)
    (hu : u = magInt p m ∨ u = -magInt p m) {B : Nat} (hB : B = roundPat p mode neg Q b) :
    |(magInt p B : ℚ) - Q| ≤ |u - Q| ∧
      (|u - Q| = |(magInt p B : ℚ) - Q| → u ≠ magInt p B → if mode = .rne then B % 2 = 0 else |u| < magInt p B) := by
  obtain ⟨hlo, hhi⟩ := h
  have hb0 : (0 : ℚ) ≤ magInt p b := Nat.cast_nonneg _
  have hside : u ≤ magInt p b ∨ (magInt p (b + 1) : ℚ) ≤ u := by
    rcases hu with rfl | rfl
    · rcases Nat.lt_or_ge b m with hm | hm
      · exact .inr (Nat.cast_le.2 (magInt_le_iff.2 hm))
      · exact .inl (Nat.cast_le.2 (magInt_le_iff.2 hm))
    · exact .inl ((neg_nonpos.2 (Nat.cast_nonneg _)).trans hb0)
  rcases roundPat_cases p mode neg Q b with ⟨hr, hup⟩ | ⟨hr, hup⟩ <;> rw [hr] at hB <;> rw [hB]
  · have hhalf := partOf_le_half.1 (le_roundsUp_near hn hup)
    rw [abs_of_nonpos (sub_nonpos.2 hlo)]
    rcases hside with hs | hs
    · rw [abs_of_nonpos (by linarith)]
      exact ⟨by linarith, fun he hne => absurd (by linarith) hne⟩
    · rw [abs_of_nonneg (by linarith)]
      refine ⟨by linarith, fun he _ => ?_⟩
      have htie : partOf p Q b = 1 / 2 := partOf_eq_half.2 (by linarith)
      rw [htie] at hup
      cases mode with
      | rne => simpa [roundsUp] using hup
      | rna => simp [roundsUp] at hup
      | rtz | rdn | rup => cases hn
  · have hhalf := half_le_partOf.1 (roundsUp_near_le hn hup)
    rw [abs_of_pos (sub_pos.2 hhi)]
    rcases hside with hs | hs
    · rw [abs_of_nonpos (by linarith)]
      refine ⟨by linarith, fun he _ => ?_⟩
      have hub : u = magInt p b := by linarith
      have htie : partOf p Q b = 1 / 2 := partOf_eq_half.2 (by linarith)
      rw [htie] at hup
      cases mode with
      | rne =>
        have : b % 2 = 1 := by simpa [roundsUp] using hup
        rw [if_pos rfl]
        omega
      | rna =>
        rw [if_neg (by decide), hub, abs_of_nonneg hb0, Nat.cast_lt]
        exact magInt_lt_succ p b
      | rtz | rdn | rup => cases hn
    · rw [abs_of_nonneg (by linarith)]
      exact ⟨by linarith, fun he hne => absurd (by linarith) hne⟩

/-! ### Integers for reals -/

/-- The real is n / 2^k in least positive numbers. -/
def Stands (F : Fmt) (x : Dy) (n : Int) (k : Nat) : Prop := x.rat * 2 ^ unitExp F.fields * 2 ^ k = n

theorem scale_pos (F : Fmt) (k : Nat) : (0 : ℚ) < 2 ^ unitExp F.fields * 2 ^ k := by positivity

theorem Stands.neg_iff (h : Stands F x n k) : n < 0 ↔ x.m < 0 := by
  rw [← Int.cast_lt_zero (R := ℚ), ← h, ← Dy.rat_neg_iff, mul_assoc, mul_neg_iff]
  simp [scale_pos, not_lt_of_gt]

theorem Stands.zero_iff (h : Stands F x n k) : n = 0 ↔ x.m = 0 := by
  rw [← Int.cast_eq_zero (α := ℚ), ← h, ← Dy.rat_eq_zero_iff, mul_assoc, mul_eq_zero, or_iff_left (scale_pos F k).ne']

theorem Stands.natAbs (h : Stands F x n k) : (n.natAbs : ℚ) = x.units F * 2 ^ k := by
  rw [Nat.cast_natAbs, Int.cast_abs, ← h, abs_mul, abs_mul, abs_of_pos (show (0 : ℚ) < 2 ^ k by positivity),
    abs_of_pos (show (0 : ℚ) < 2 ^ unitExp F.fields by positivity), Dy.units]

theorem Stands.le_natAbs (h : Stands F x n k) (N : Nat) : N * 2 ^ k ≤ n.natAbs ↔ (N : ℚ) ≤ x.units F := by
  rw [← Nat.cast_le (α := ℚ), h.natAbs]
  push_cast
  exact mul_le_mul_iff_left₀ (by positivity)

theorem Stands.lt_natAbs (h : Stands F x n k) (N : Nat) : N * 2 ^ k < n.natAbs ↔ (N : ℚ) < x.units F := by
  rw [← Nat.cast_lt (α := ℚ), h.natAbs]
  push_cast
  exact mul_lt_mul_iff_left₀ (by positivity)

theorem Stands.mul_natAbs_lt (h : Stands F x n k) (a N : Nat) : a * n.natAbs < N * 2 ^ k ↔ (a * x.units F : ℚ) < N := by
  rw [← Nat.cast_lt (α := ℚ), Nat.cast_mul, h.natAbs, ← mul_assoc]
  push_cast
  exact mul_lt_mul_iff_left₀ (by positivity)

theorem Stands.mul_natAbs_le (h : Stands F x n k) (a N : Nat) : a * n.natAbs ≤ N * 2 ^ k ↔ (a * x.units F : ℚ) ≤ N := by
  rw [← Nat.cast_le (α := ℚ), Nat.cast_mul, h.natAbs, ← mul_assoc]
  push_cast
  exact mul_le_mul_iff_left₀ (by positivity)

/-- The real with its sign, in least positive numbers. -/
theorem Stands.signed (h : Stands F x n k) : (n : ℚ) = (if n < 0 then -x.units F else x.units F) * 2 ^ k := by
  have habs : (n.natAbs : Int) = |n| := Int.natCast_natAbs n
  split
  · next hn =>
    rw [abs_of_neg hn] at habs
    rw [neg_mul, ← h.natAbs, ← Int.cast_natCast, habs]
    push_cast
    ring
  · next hn =>
    rw [abs_of_nonneg (not_lt.1 hn)] at habs
    rw [← h.natAbs, ← Int.cast_natCast, habs]

theorem Stands.le_iff (h : Stands F x n k) (i : Int) : i * 2 ^ k ≤ n ↔ (i : ℚ) ≤ if n < 0 then -x.units F else x.units F := by
  rw [← Int.cast_le (R := ℚ), h.signed]
  push_cast
  exact mul_le_mul_iff_left₀ (by positivity)

theorem Stands.ge_iff (h : Stands F x n k) (i : Int) : n ≤ i * 2 ^ k ↔ (if n < 0 then -x.units F else x.units F) ≤ (i : ℚ) := by
  rw [← Int.cast_le (R := ℚ), h.signed]
  push_cast
  exact mul_le_mul_iff_left₀ (by positivity)

/-- The distance from a number, in least positive numbers. -/
theorem Stands.far (h : Stands F x n k) (i : Int) :
    ((i * 2 ^ k - n).natAbs : ℚ) = |(if n < 0 then -(i : ℚ) else i) - x.units F| * 2 ^ k := by
  rw [Nat.cast_natAbs, Int.cast_abs]
  push_cast
  rw [h.signed, ← sub_mul, abs_mul, abs_of_pos (show (0 : ℚ) < 2 ^ k by positivity)]
  split
  · rw [← abs_neg]
    congr 2
    ring
  · rfl

/-! ### The magnitude of a result -/

/-- The magnitude that rounding gives: that of the overflow, or a finite pattern. -/
def roundedMag (F : Fmt) (mode : Rm) (neg : Bool) (Q : ℚ) (b : Nat) : Nat :=
  if F.infBits ≤ roundPat F.wF mode neg Q b then overflowMag F neg mode else roundPat F.wF mode neg Q b

theorem roundedTo_fst (F : Fmt) (mode : Rm) (neg : Bool) (Q : ℚ) (b : Nat) :
    (roundedTo F mode neg Q b).1 = fsign F.fields neg (roundedMag F mode neg Q b) := by
  unfold roundedTo roundedMag
  split <;> rfl

section
variable {mode : Rm} {neg : Bool} {Q : ℚ} {b : Nat}

theorem roundedMag_le (F : Fmt) (mode : Rm) (neg : Bool) (Q : ℚ) (b : Nat) : roundedMag F mode neg Q b ≤ F.infBits := by
  have hmax : F.maxFinite ≤ F.infBits := Nat.sub_le _ _
  unfold roundedMag
  split
  · cases hn : mode.near
    · rw [overflowMag_directed hn]
      split
      · exact le_rfl
      · exact hmax
    · exact (overflowMag_near hn neg).le
  · omega

theorem roundedMag_lt (F : Fmt) (mode : Rm) (neg : Bool) (Q : ℚ) (b : Nat) : roundedMag F mode neg Q b < 2 ^ (F.wE + F.wF) :=
  (roundedMag_le F mode neg Q b).trans_lt (finf_lt F.fields)

theorem roundedMag_near (hF : F.Usual) (hb : FloorPat F.wF Q b) (hn : mode.near = true) :
    if (((2 ^ (F.wF + 2) - 1) * 2 ^ (2 ^ F.wE - 4) : Nat) : ℚ) ≤ Q then roundedMag F mode neg Q b = F.infBits
    else roundedMag F mode neg Q b < F.infBits ∧ roundedMag F mode neg Q b = roundPat F.wF mode neg Q b := by
  have h := overflow_iff hF hb mode neg
  rw [if_pos hn] at h
  simp only [← h, roundedMag, overflowMag_near hn]
  split
  · rfl
  · exact ⟨by omega, rfl⟩

/-- Toward zero: the greatest finite magnitude that is not greater. -/
theorem roundedMag_toward (hF : F.Usual) (hb : FloorPat F.wF Q b) (hn : mode.near = false) (ha : mode.away neg = false) :
    roundedMag F mode neg Q b < F.infBits ∧ (magInt F.wF (roundedMag F mode neg Q b) : ℚ) ≤ Q ∧
      ∀ m < F.infBits, (magInt F.wF m : ℚ) ≤ Q → magInt F.wF m ≤ magInt F.wF (roundedMag F mode neg Q b) := by
  have hmax := maxFinite_succ hF
  rw [roundedMag, overflowMag_directed hn, roundPat_toward hn ha, ha]
  split
  · next h =>
    simp only [Bool.false_eq_true, if_false]
    exact ⟨by omega, hb.le_iff.1 (by omega), fun m hm _ => magInt_le_iff.2 (by omega)⟩
  · exact ⟨by omega, hb.1, fun m _ hQ => hb.toward hQ⟩

/-- Away from zero: the least magnitude that is not less, infinity beyond the greatest finite one. -/
theorem roundedMag_away (hF : F.Usual) (hb : FloorPat F.wF Q b) (hn : mode.near = false) (ha : mode.away neg = true) :
    if (((2 ^ (F.wF + 1) - 1) * 2 ^ (2 ^ F.wE - 3) : Nat) : ℚ) < Q then roundedMag F mode neg Q b = F.infBits
    else roundedMag F mode neg Q b < F.infBits ∧ Q ≤ magInt F.wF (roundedMag F mode neg Q b) ∧
      ∀ m, Q ≤ magInt F.wF m → magInt F.wF (roundedMag F mode neg Q b) ≤ magInt F.wF m := by
  have h := overflow_iff hF hb mode neg
  rw [if_neg (by simp [hn]), if_pos ha] at h
  simp only [← h, roundedMag, overflowMag_directed hn, ha, if_true]
  split
  · rfl
  · exact ⟨by omega, hb.away hn ha⟩

end

/-! ### `roundTo` and the statements -/

theorem roundTo_zero (mode : Rm) (z : Bool) (hx : x.m = 0) : roundTo F x mode z = (fsign F.fields z 0, 0) := by
  rw [roundTo, if_pos hx, signed_eq]

/-- `roundTo` of a number that is not zero. -/
theorem roundTo_eq (hF : F.Usual) (mode : Rm) (z : Bool) (hx : x.m ≠ 0) :
    ∃ b, FloorPat F.wF (x.units F) b ∧ roundTo F x mode z = roundedTo F mode (decide (x.m < 0)) (x.units F) b := by
  rw [roundTo, if_neg hx]
  exact roundNz_eq hF hx mode

theorem fint_cases (F : Nat × Nat) (y : Nat) :
    (fneg F y = false ∧ fint F y = magInt F.2 (fmag F y)) ∨ (fneg F y = true ∧ fint F y = -(magInt F.2 (fmag F y) : Int)) := by
  rw [fint_eq]
  cases fneg F y <;> simp

section
variable {mode : Rm} {b : Nat} {r : Nat}

/-- To nearest, seen from the sign of the number. -/
theorem roundsTo_nearest (hF : F.Usual) (h : Stands F x n k) (hb : FloorPat F.wF (x.units F) b) (hn : mode.near = true)
    (hr : r = fsign F.fields (decide (n < 0)) (roundedMag F mode (decide (n < 0)) (x.units F) b)) :
    if (2 ^ (F.wF + 2) - 1) * 2 ^ (2 ^ F.wE - 4) * 2 ^ k ≤ n.natAbs then fisInf F.fields r = true
    else ffin F.fields r = true ∧ ∀ y, ffin F.fields y = true →
      (fint F.fields r * 2 ^ k - n).natAbs ≤ (fint F.fields y * 2 ^ k - n).natAbs ∧
      ((fint F.fields y * 2 ^ k - n).natAbs = (fint F.fields r * 2 ^ k - n).natAbs → fint F.fields y ≠ fint F.fields r →
        if mode = .rne then r % 2 = 0 else (fint F.fields y).natAbs < (fint F.fields r).natAbs) := by
  have hlt : roundedMag F mode (decide (n < 0)) (x.units F) b < 2 ^ (F.fields.1 + F.fields.2) := roundedMag_lt ..
  have hmag := roundedMag_near (neg := decide (n < 0)) hF hb hn
  simp only [h.le_natAbs]
  split
  · next hover =>
    rw [if_pos hover] at hmag
    rw [hr, fisInf_fsign _ hlt, hmag]
    exact decide_eq_true rfl
  · next hover =>
    rw [if_neg hover] at hmag
    have hrint := fint_fsign (decide (n < 0)) hlt
    have hpar := fsign_mod_two (F := F.fields) hF.one_le_wF (decide (n < 0)) (roundedMag F mode (decide (n < 0)) (x.units F) b)
    refine ⟨by rw [hr, ffin_fsign _ hlt]; exact decide_eq_true hmag.1, fun y _ => ?_⟩
    obtain ⟨u, hu⟩ : ∃ u : ℚ, u = if n < 0 then -(fint F.fields y : ℚ) else fint F.fields y := ⟨_, rfl⟩
    have hurel : u = magInt F.wF (fmag F.fields y) ∨ u = -magInt F.wF (fmag F.fields y) := by
      rw [hu]
      rcases fint_cases F.fields y with ⟨-, hy⟩ | ⟨-, hy⟩ <;> rw [hy] <;> split <;> simp
    have hR : (if n < 0 then -(fint F.fields r : ℚ) else fint F.fields r)
        = magInt F.wF (roundedMag F mode (decide (n < 0)) (x.units F) b) := by
      rw [hr, hrint]
      simp only [decide_eq_true_eq]
      split <;> simp
    obtain ⟨hle, htie⟩ := hb.nearest (neg := decide (n < 0)) hn hurel hmag.2
    have hp : (0 : ℚ) < 2 ^ k := by positivity
    rw [← Nat.cast_le (α := ℚ), ← Nat.cast_inj (R := ℚ), h.far, h.far, hR, ← hu]
    refine ⟨mul_le_mul_of_nonneg_right hle hp.le, fun he hne => ?_⟩
    have hne' : u ≠ magInt F.wF (roundedMag F mode (decide (n < 0)) (x.units F) b) := by
      rw [hu, ← hR]
      split <;> simpa using hne
    have ht := htie (mul_right_cancel₀ hp.ne' he) hne'
    split
    · next hm =>
      rw [if_pos hm] at ht
      rw [hr, hpar, ht]
    · next hm =>
      rw [if_neg hm] at ht
      rw [natAbs_fint, hr, natAbs_fint, fmag_fsign _ hlt, ← Nat.cast_lt (α := ℚ)]
      refine lt_of_eq_of_lt ?_ ht
      rcases hurel with h | h <;> rw [h] <;> simp

/-- Toward zero, from above it and from below. -/
theorem roundsTo_toward (hF : F.Usual) (h : Stands F x n k) (hb : FloorPat F.wF (x.units F) b) (hn : mode.near = false)
    (ha : mode.away (decide (n < 0)) = false)
    (hr : r = fsign F.fields (decide (n < 0)) (roundedMag F mode (decide (n < 0)) (x.units F) b)) :
    ffin F.fields r = true ∧
      (0 ≤ n → fint F.fields r * 2 ^ k ≤ n ∧
        ∀ y, ffin F.fields y = true → fint F.fields y * 2 ^ k ≤ n → fint F.fields y ≤ fint F.fields r) ∧
      (n < 0 → n ≤ fint F.fields r * 2 ^ k ∧
        ∀ y, ffin F.fields y = true → n ≤ fint F.fields y * 2 ^ k → fint F.fields r ≤ fint F.fields y) := by
  have hlt : roundedMag F mode (decide (n < 0)) (x.units F) b < 2 ^ (F.fields.1 + F.fields.2) := roundedMag_lt ..
  obtain ⟨hfin, hle, hmax⟩ := roundedMag_toward (neg := decide (n < 0)) hF hb hn ha
  have hrint := fint_fsign (decide (n < 0)) hlt
  rw [← hr] at hrint
  refine ⟨by rw [hr, ffin_fsign _ hlt]; exact decide_eq_true hfin, fun h0 => ?_, fun h0 => ?_⟩
  · rw [decide_eq_false (not_lt.2 h0), if_neg Bool.false_ne_true] at hrint
    rw [decide_eq_false (not_lt.2 h0)] at hle hmax
    simp only [h.le_iff, hrint, if_neg (not_lt.2 h0)]
    refine ⟨by exact_mod_cast hle, fun y hy hyQ => ?_⟩
    rcases fint_cases F.fields y with ⟨-, hf⟩ | ⟨-, hf⟩ <;> rw [hf] at hyQ ⊢
    · exact_mod_cast hmax _ (of_decide_eq_true hy) (by exact_mod_cast hyQ)
    · omega
  · rw [decide_eq_true h0, if_pos rfl] at hrint
    rw [decide_eq_true h0] at hle hmax
    simp only [h.ge_iff, hrint, if_pos h0]
    refine ⟨by push_cast; exact neg_le_neg hle, fun y hy hyQ => ?_⟩
    rcases fint_cases F.fields y with ⟨-, hf⟩ | ⟨-, hf⟩ <;> rw [hf] at hyQ ⊢
    · omega
    · push_cast at hyQ
      exact neg_le_neg (by exact_mod_cast hmax _ (of_decide_eq_true hy) (neg_le_neg_iff.1 hyQ))

/-- Away from zero, above it and below. -/
theorem roundsTo_away (hF : F.Usual) (h : Stands F x n k) (hb : FloorPat F.wF (x.units F) b) (hn : mode.near = false)
    (ha : mode.away (decide (n < 0)) = true) (hn0 : n ≠ 0)
    (hr : r = fsign F.fields (decide (n < 0)) (roundedMag F mode (decide (n < 0)) (x.units F) b)) :
    if (2 ^ (F.wF + 1) - 1) * 2 ^ (2 ^ F.wE - 3) * 2 ^ k < n.natAbs then fisInf F.fields r = true
    else ffin F.fields r = true ∧
      (0 < n → n ≤ fint F.fields r * 2 ^ k ∧
        ∀ y, ffin F.fields y = true → n ≤ fint F.fields y * 2 ^ k → fint F.fields r ≤ fint F.fields y) ∧
      (n < 0 → fint F.fields r * 2 ^ k ≤ n ∧
        ∀ y, ffin F.fields y = true → fint F.fields y * 2 ^ k ≤ n → fint F.fields y ≤ fint F.fields r) := by
  have hlt : roundedMag F mode (decide (n < 0)) (x.units F) b < 2 ^ (F.fields.1 + F.fields.2) := roundedMag_lt ..
  have hmag := roundedMag_away (neg := decide (n < 0)) hF hb hn ha
  have hpos : 0 < x.units F := by
    have hna : (0 : ℚ) < n.natAbs := by exact_mod_cast Int.natAbs_pos.2 hn0
    rw [h.natAbs] at hna
    exact pos_of_mul_pos_left hna (by positivity)
  simp only [h.lt_natAbs]
  split
  · next hover =>
    rw [if_pos hover] at hmag
    rw [hr, fisInf_fsign _ hlt, hmag]
    exact decide_eq_true rfl
  · next hover =>
    rw [if_neg hover] at hmag
    obtain ⟨hfin, hge, hmin⟩ := hmag
    have hrint := fint_fsign (decide (n < 0)) hlt
    rw [← hr] at hrint
    refine ⟨by rw [hr, ffin_fsign _ hlt]; exact decide_eq_true hfin, fun h0 => ?_, fun h0 => ?_⟩
    · rw [decide_eq_false (not_lt.2 h0.le), if_neg Bool.false_ne_true] at hrint
      rw [decide_eq_false (not_lt.2 h0.le)] at hge hmin
      simp only [h.ge_iff, hrint, if_neg (not_lt.2 h0.le)]
      refine ⟨by exact_mod_cast hge, fun y hy hyQ => ?_⟩
      rcases fint_cases F.fields y with ⟨-, hf⟩ | ⟨-, hf⟩ <;> rw [hf] at hyQ ⊢
      · exact_mod_cast hmin _ (by exact_mod_cast hyQ)
      · push_cast at hyQ
        have : (0 : ℚ) ≤ magInt F.wF (fmag F.fields y) := Nat.cast_nonneg _
        linarith
    · rw [decide_eq_true h0, if_pos rfl] at hrint
      rw [decide_eq_true h0] at hge hmin
      simp only [h.le_iff, hrint, if_pos h0]
      refine ⟨by push_cast; exact neg_le_neg hge, fun y hy hyQ => ?_⟩
      rcases fint_cases F.fields y with ⟨-, hf⟩ | ⟨-, hf⟩ <;> rw [hf] at hyQ ⊢
      · push_cast at hyQ
        have : (0 : ℚ) ≤ magInt F.wF (fmag F.fields y) := Nat.cast_nonneg _
        linarith
      · push_cast at hyQ
        exact neg_le_neg (by exact_mod_cast hmin _ (neg_le_neg_iff.1 hyQ))

end

/-- A directed mode goes down from a positive number toward zero, and from a negative one away from zero. -/
theorem down_iff {mode : Rm} (hn : mode.near = false) (hn0 : n ≠ 0) :
    (mode.code = 2 ∨ (mode.code = 1 ∧ 0 < n)) ↔ mode.away (decide (n < 0)) = decide (n < 0) := by
  rcases lt_or_gt_of_ne hn0 with h | h
  · have h' : ¬0 < n := by omega
    cases mode <;> simp_all [Rm.code, Rm.away, Rm.near]
  · have h' : ¬n < 0 := by omega
    cases mode <;> simp_all [Rm.code, Rm.away, Rm.near]

/-- `roundTo` gives the number that R99 asks for. -/
theorem roundTo_roundsTo (hF : F.Usual) (h : Stands F x n k) (mode : Rm) (z : Bool) :
    RoundsTo F.fields mode.code n k z (roundTo F x mode z).1 := by
  by_cases hx : x.m = 0
  · rw [roundTo_zero mode z hx, RoundsTo, if_pos (h.zero_iff.2 hx)]
    exact ⟨fsign_lt z (Nat.two_pow_pos _), rfl⟩
  have hn0 : n ≠ 0 := mt h.zero_iff.1 hx
  obtain ⟨b, hb, hr⟩ := roundTo_eq hF mode z hx
  obtain ⟨r, hrr⟩ : ∃ r, r = (roundTo F x mode z).1 := ⟨_, rfl⟩
  have hsign : decide (x.m < 0) = decide (n < 0) := by rw [decide_eq_decide, h.neg_iff]
  rw [hr, roundedTo_fst, hsign] at hrr
  have hlt : roundedMag F mode (decide (n < 0)) (x.units F) b < 2 ^ (F.fields.1 + F.fields.2) := roundedMag_lt ..
  rw [hr, roundedTo_fst, hsign, ← hrr, RoundsTo, if_neg hn0]
  refine ⟨hrr ▸ fsign_lt _ hlt, by rw [hrr, fneg_fsign _ hlt], ?_⟩
  cases hn : mode.near with
  | true =>
    have hnear := roundsTo_nearest hF h hb hn hrr
    rw [if_pos ((near_iff_code mode).2 hn)]
    cases mode with
    | rne | rna => simpa [Rm.code] using hnear
    | rtz | rdn | rup => cases hn
  | false =>
    rw [if_neg (mt (near_iff_code mode).1 (by simp [hn]))]
    simp only [down_iff hn hn0]
    cases ha : mode.away (decide (n < 0)) with
    | false =>
      obtain ⟨hfin, hdown, hup⟩ := roundsTo_toward hF h hb hn ha hrr
      rcases lt_or_gt_of_ne hn0 with h0 | h0
      · rw [if_neg (by simp [h0]), if_neg (not_lt.2 (h0.le.trans (Int.natCast_nonneg _)))]
        exact ⟨hfin, hup h0⟩
      · rw [if_pos (by simp [h0.le]), if_neg (not_lt.2 ((neg_nonpos.2 (Int.natCast_nonneg _)).trans h0.le))]
        exact ⟨hfin, hdown h0.le⟩
    | true =>
      have haway := roundsTo_away hF h hb hn ha hn0 hrr
      rcases lt_or_gt_of_ne hn0 with h0 | h0
      · rw [if_pos (by simp [h0])]
        simp only [show ∀ t : Nat, n < -(t : Int) ↔ t < n.natAbs by omega]
        split at haway
        · next hover => rwa [if_pos hover]
        · next hover =>
          rw [if_neg hover]
          exact ⟨haway.1, haway.2.2 h0⟩
      · rw [if_neg (by simp [h0.le])]
        simp only [show ∀ t : Nat, (t : Int) < n ↔ t < n.natAbs by omega]
        split at haway
        · next hover => rwa [if_pos hover]
        · next hover =>
          rw [if_neg hover]
          exact ⟨haway.1, haway.2.1 h0⟩

/-! ### Flags -/

theorem away_iff_code (mode : Rm) (hn0 : n ≠ 0) :
    ((mode.code = 2 ∧ n < 0) ∨ (mode.code = 3 ∧ 0 < n)) ↔ mode.away (decide (n < 0)) = true := by
  rcases lt_or_gt_of_ne hn0 with h | h
  · have h' : ¬0 < n := by omega
    cases mode <;> simp [Rm.code, Rm.away, h, h']
  · have h' : ¬n < 0 := by omega
    cases mode <;> simp [Rm.code, Rm.away, h, h']

/-- A pattern that rounding takes is exact where the pattern below its real is. -/
theorem FloorPat.exact_iff {p b : Nat} {Q : ℚ} (h : FloorPat p Q b) (mode : Rm) (neg : Bool) :
    (magInt p (roundPat p mode neg Q b) : ℚ) = Q ↔ (magInt p b : ℚ) = Q := by
  constructor
  · intro hB
    have hle : roundPat p mode neg Q b ≤ b := h.le_iff.2 hB.le
    have hge : b ≤ roundPat p mode neg Q b := Nat.le_add_right _ _
    rwa [Nat.le_antisymm hle hge] at hB
  · intro hb
    rw [roundPat, partOf_eq_zero.2 hb, roundsUp_zero]
    exact hb

/-- An exact zero raises no flag. -/
theorem roundFlags_zero (F : Nat × Nat) (m k : Nat) {r : Nat} (hr : fmag F r = 0) : roundFlags F m 0 k r = 0 := by
  have h2 : 2 ^ (F.2 + 2) - 1 ≠ 0 := Nat.sub_ne_zero_of_lt (Nat.one_lt_two_pow (Nat.succ_ne_zero _))
  simp [roundFlags, fint_eq_zero.2 hr, h2]

/-- `roundTo` raises the flags of R80. -/
theorem roundTo_flags (hF : F.Usual) (h : Stands F x n k) (mode : Rm) (z : Bool) :
    (roundTo F x mode z).2 = roundFlags F.fields mode.code n k (roundTo F x mode z).1 := by
  by_cases hx : x.m = 0
  · rw [roundTo_zero mode z hx, h.zero_iff.2 hx, roundFlags_zero _ _ _ (fmag_fsign z (Nat.two_pow_pos _))]
  have hn0 : n ≠ 0 := mt h.zero_iff.1 hx
  obtain ⟨b, hb, hr⟩ := roundTo_eq hF mode z hx
  have hsign : decide (x.m < 0) = decide (n < 0) := by rw [decide_eq_decide, h.neg_iff]
  rw [hr, hsign]
  have hbeyond : (if mode.code = 0 ∨ mode.code = 4 then (2 ^ (F.wF + 2) - 1) * 2 ^ (2 ^ F.wE - 4) * 2 ^ k ≤ n.natAbs
      else if (mode.code = 2 ∧ n < 0) ∨ (mode.code = 3 ∧ 0 < n) then (2 ^ (F.wF + 1) - 1) * 2 ^ (2 ^ F.wE - 3) * 2 ^ k < n.natAbs
      else 2 ^ (F.wF + 1) * 2 ^ (2 ^ F.wE - 3) * 2 ^ k ≤ n.natAbs) ↔
      F.infBits ≤ roundPat F.wF mode (decide (n < 0)) (x.units F) b := by
    simp only [near_iff_code, away_iff_code mode hn0, h.le_natAbs, h.lt_natAbs, overflow_iff hF hb mode]
  have htiny : tinyAt F.wF mode (decide (n < 0)) (x.units F) = decide (
      if mode.code = 0 ∨ mode.code = 4 then 4 * n.natAbs < (2 ^ (F.wF + 2) - 1) * 2 ^ k
      else if (mode.code = 2 ∧ n < 0) ∨ (mode.code = 3 ∧ 0 < n) then 2 * n.natAbs ≤ (2 ^ (F.wF + 1) - 1) * 2 ^ k
      else n.natAbs < 2 ^ F.wF * 2 ^ k) := by
    have h1 := h.mul_natAbs_lt 1 (2 ^ F.wF)
    rw [one_mul, Nat.cast_one, one_mul] at h1
    simp only [near_iff_code, away_iff_code mode hn0, h.mul_natAbs_lt, h.mul_natAbs_le, h1, tinyAt]
    push_cast [Nat.cast_sub (Nat.one_le_two_pow (n := F.wF + 2)), Nat.cast_sub (Nat.one_le_two_pow (n := F.wF + 1))]
    rfl
  simp only [roundFlags, hbeyond, ← htiny, decide_eq_true_eq]
  by_cases hinf : F.infBits ≤ roundPat F.wF mode (decide (n < 0)) (x.units F) b
  · rw [if_pos hinf, roundedTo, if_pos hinf]
  · have hlt : roundPat F.wF mode (decide (n < 0)) (x.units F) b < 2 ^ (F.fields.1 + F.fields.2) :=
      (not_le.1 hinf).trans (finf_lt F.fields)
    have hexact : fint F.fields (fsign F.fields (decide (n < 0)) (roundPat F.wF mode (decide (n < 0)) (x.units F) b)) * 2 ^ k = n ↔
        (magInt F.wF b : ℚ) = x.units F := by
      rw [fint_fsign _ hlt, ← hb.exact_iff mode (decide (n < 0)), ← Int.cast_inj (α := ℚ), Int.cast_mul, h.signed, Int.cast_pow,
        Int.cast_ofNat, mul_left_inj' (by positivity)]
      simp only [decide_eq_true_eq]
      split <;> simp
    rw [if_neg hinf, roundedTo, if_neg hinf, signed_eq]
    simp only [hexact]

end Sys2Proof.Machine
end

section
/-! SUPPORT. The operations of one lane (R79 to R90): results and flags of each as the statements say them, over patterns of a
format. -/

namespace Sys2Proof.Machine
open Sys2Proof Sys2Proof.Stated
variable {F : Fmt} {a b c : Nat}

/-! ### Single bits of a pattern -/

theorem or_two_pow_of_testBit {x i : Nat} (h : x.testBit i = true) : x ||| 2 ^ i = x := by
  refine Nat.eq_of_testBit_eq fun j => ?_
  rw [Nat.testBit_or, Nat.testBit_two_pow]
  by_cases hj : i = j
  · simp [← hj, h]
  · simp [hj]

theorem or_two_pow_of_not_testBit {x i : Nat} (h : x.testBit i = false) : x ||| 2 ^ i = x + 2 ^ i := by
  have hlow : x % 2 ^ (i + 1) < 2 ^ i := by
    have he := exponent_eq x i 1
    rw [pow_one, add_comm] at he
    rw [Nat.testBit_eq_decide_div_mod_eq, decide_eq_false_iff_not, he] at h
    refine (Nat.div_eq_zero_iff_lt (Nat.two_pow_pos i)).1 ?_
    have hlt : x % 2 ^ (i + 1) / 2 ^ i < 2 := Nat.div_lt_of_lt_mul (by rw [← pow_succ]; exact Nat.mod_lt _ (Nat.two_pow_pos _))
    omega
  have hmid : 2 ^ i + x % 2 ^ (i + 1) = 2 ^ i ||| x % 2 ^ (i + 1) := by
    simpa using Nat.two_pow_add_eq_or_of_lt hlow 1
  have hlt : 2 ^ i + x % 2 ^ (i + 1) < 2 ^ (i + 1) := by rw [pow_succ 2 i] at hlow ⊢; omega
  calc x ||| 2 ^ i = (2 ^ (i + 1) * (x / 2 ^ (i + 1)) ||| x % 2 ^ (i + 1)) ||| 2 ^ i := by
        rw [← Nat.two_pow_add_eq_or_of_lt (Nat.mod_lt _ (Nat.two_pow_pos _)), Nat.div_add_mod]
    _ = 2 ^ (i + 1) * (x / 2 ^ (i + 1)) ||| (2 ^ i + x % 2 ^ (i + 1)) := by rw [hmid, Nat.or_assoc, Nat.or_comm (2 ^ i)]
    _ = 2 ^ (i + 1) * (x / 2 ^ (i + 1)) + (2 ^ i + x % 2 ^ (i + 1)) := (Nat.two_pow_add_eq_or_of_lt hlt _).symm
    _ = x + 2 ^ i := by have := Nat.div_add_mod x (2 ^ (i + 1)); omega

theorem xor_two_pow_of_lt {m i : Nat} (h : m < 2 ^ i) : m ^^^ 2 ^ i = 2 ^ i + m := by
  refine Nat.eq_of_testBit_eq fun j => ?_
  rw [Nat.testBit_xor, Nat.testBit_two_pow]
  rcases lt_trichotomy j i with hj | rfl | hj
  · simp [Nat.testBit_two_pow_add_gt hj, hj.ne']
  · simp [Nat.testBit_two_pow_add_eq, Nat.testBit_lt_two_pow h]
  · have h2 : 2 ^ i + m < 2 ^ j := by
      calc 2 ^ i + m < 2 ^ (i + 1) := by rw [pow_succ]; omega
        _ ≤ 2 ^ j := Nat.pow_le_pow_right (by decide) hj
    rw [Nat.testBit_lt_two_pow h2, Nat.testBit_lt_two_pow (by omega)]
    simp [hj.ne]

theorem quiet_eq (F : Fmt) (x : Nat) : quiet F x = fquiet F.fields x := by
  have h : x.testBit (F.wF - 1) = decide (x / F.quietBit % 2 = 1) := Nat.testBit_eq_decide_div_mod_eq
  unfold quiet fquiet
  split
  · next hq => exact (or_two_pow_of_testBit (h.trans (decide_eq_true hq))).symm
  · next hq => exact (or_two_pow_of_not_testBit (h.trans (decide_eq_false hq))).symm

theorem fsign_xor {F : Nat × Nat} {m : Nat} (neg : Bool) (h : m < 2 ^ (F.1 + F.2)) :
    fsign F neg m ^^^ 2 ^ (F.1 + F.2) = fsign F (!neg) m := by
  cases neg
  · exact xor_two_pow_of_lt h
  · simp only [fsign, if_true, Bool.not_true, Bool.false_eq_true, if_false, ← xor_two_pow_of_lt h]
    rw [Nat.xor_assoc, Nat.xor_self, Nat.xor_zero]

/-- Patterns of a format. -/
abbrev Fmt.bound (F : Fmt) : Nat := 2 ^ (1 + F.wE + F.wF)

theorem fpNeg_eq (ha : a < F.bound) : fpNeg F a = a ^^^ 2 ^ (F.wE + F.wF) := by
  have hs := fsign_fneg_fmag (F := F.fields) ha
  have hm := fmag_lt F.fields a
  have hn : fneg F.fields a = decide (a / F.signBit % 2 = 1) := fneg_eq_decide_div F.fields a
  conv_rhs => rw [← hs]
  refine Eq.trans ?_ (fsign_xor _ hm).symm
  unfold fpNeg
  cases hneg : fneg F.fields a
  · rw [hneg] at hn hs
    rw [if_neg (of_decide_eq_false hn.symm), show fmag F.fields a = a from hs]
    exact add_comm ..
  · rw [hneg] at hn hs
    have hsum : F.signBit + fmag F.fields a = a := hs
    rw [if_pos (of_decide_eq_true hn.symm)]
    change a - F.signBit = fmag F.fields a
    omega

theorem fpNeg_lt (ha : a < F.bound) : fpNeg F a < F.bound := by
  have hs := fsign_xor (fneg F.fields a) (fmag_lt F.fields a)
  rw [fsign_fneg_fmag ha] at hs
  rw [fpNeg_eq ha]
  exact hs ▸ fsign_lt _ (fmag_lt F.fields a)

theorem fmag_fpNeg (ha : a < F.bound) : fmag F.fields (fpNeg F a) = fmag F.fields a := by
  have hs := fsign_xor (fneg F.fields a) (fmag_lt F.fields a)
  rw [fsign_fneg_fmag ha] at hs
  rw [fpNeg_eq ha]
  exact hs ▸ fmag_fsign _ (fmag_lt F.fields a)

theorem fisNan_fpNeg (ha : a < F.bound) : fisNan F.fields (fpNeg F a) = fisNan F.fields a := by
  rw [fisNan, fmag_fpNeg ha, fisNan]

theorem fpAbs_eq (F : Fmt) (a : Nat) : fpAbs F a = fmag F.fields a := rfl

/-! ### What `unpack` answers to the tests of the operations -/

theorem isNan_unpack (hF : F.Usual) (x : Nat) : isNan (unpack F x) = fisNan F.fields x := by
  rcases kind_cases F.fields x with ⟨hn, -, -⟩ | ⟨hn, hi, -⟩ | ⟨hn, -, hf⟩
  · rw [unpack_nan hF hn, hn]
    rfl
  · rw [unpack_inf hi, hn]
    rfl
  · obtain ⟨m, e, hu, -⟩ := unpack_fin hF hf
    rw [hu, hn]
    rfl

theorem isSnan_unpack (hF : F.Usual) (x : Nat) : isSnan (unpack F x) = signals F.fields x := by
  rcases kind_cases F.fields x with ⟨hn, -, -⟩ | ⟨hn, hi, -⟩ | ⟨hn, -, hf⟩
  · rw [unpack_nan hF hn]
    rfl
  · rw [unpack_inf hi, signals, hn]
    rfl
  · obtain ⟨m, e, hu, -⟩ := unpack_fin hF hf
    rw [hu, signals, hn]
    rfl

theorem fmag_ne_zero_of_not_ffin (hF : F.Usual) {x : Nat} (h : ffin F.fields x = false) : fmag F.fields x ≠ 0 := by
  have h1 : ¬fmag F.fields x < F.infBits := of_decide_eq_false h
  have h2 := infBits_pos hF
  omega

theorem isZero_unpack (hF : F.Usual) (x : Nat) : isZero (unpack F x) = decide (fmag F.fields x = 0) := by
  rcases kind_cases F.fields x with ⟨hn, -, hf⟩ | ⟨-, hi, hf⟩ | ⟨-, -, hf⟩
  · rw [unpack_nan hF hn, decide_eq_false (fmag_ne_zero_of_not_ffin hF hf)]
    rfl
  · rw [unpack_inf hi, decide_eq_false (fmag_ne_zero_of_not_ffin hF hf)]
    rfl
  · obtain ⟨m, e, hu, -, -, hz, -⟩ := unpack_fin hF hf
    rw [hu, isZero, decide_eq_decide, hz]

theorem isNeg_unpack (hF : F.Usual) {x : Nat} (h : fisNan F.fields x = false) : (unpack F x).isNeg = fneg F.fields x := by
  rcases kind_cases F.fields x with ⟨hn, -, -⟩ | ⟨-, hi, -⟩ | ⟨-, -, hf⟩
  · rw [h] at hn
    cases hn
  · rw [unpack_inf hi]
    rfl
  · obtain ⟨m, e, hu, -⟩ := unpack_fin hF hf
    rw [hu]
    rfl

theorem snanFlag_two (hF : F.Usual) (a b : Nat) :
    snanFlag [unpack F a, unpack F b] = invalidIf (signals F.fields a || signals F.fields b) := by
  simp [snanFlag, invalidIf, isSnan_unpack hF]

theorem snanFlag_three (hF : F.Usual) (a b c : Nat) :
    snanFlag [unpack F a, unpack F b, unpack F c] = invalidIf (signals F.fields a || signals F.fields b || signals F.fields c) := by
  simp [snanFlag, invalidIf, isSnan_unpack hF, or_assoc]

theorem firstNan_nil (F : Fmt) : firstNan F [] = none := rfl

theorem firstNan_cons (hF : F.Usual) (x : Nat) (xs : List Nat) :
    firstNan F (x :: xs) = if fisNan F.fields x then some (fquiet F.fields x) else firstNan F xs := by
  rw [firstNan, List.find?_cons, isNan_unpack hF]
  cases fisNan F.fields x
  · rfl
  · simp [quiet_eq]

theorem fquiet_lt {x : Nat} (hx : x < F.bound) : fquiet F.fields x < F.bound :=
  Nat.or_lt_two_pow hx (Nat.pow_lt_pow_right (by decide) (by simp only []; omega))

theorem fnan_lt (hF : F.Usual) : fnan F.fields < F.bound := by
  have h1 := finf_lt F.fields
  have h2 : 2 ^ (F.wF - 1) < 2 ^ F.wF := Nat.pow_lt_pow_right (by decide) (by have := hF.one_le_wF; omega)
  have h3 : 2 ^ F.wF ≤ 2 ^ (F.wE + F.wF) := Nat.pow_le_pow_right (by decide) (by omega)
  have h4 : F.bound = 2 * 2 ^ (F.wE + F.wF) := by
    rw [Fmt.bound, add_assoc, pow_add]
    rfl
  simp only [fnan] at h1 ⊢
  omega

/-- A result and its flags: what a statement allows, within the format. -/
def Gives (F : Fmt) (is : Nat → Prop) (fl : Nat → FFlags) (r : Nat × FFlags) : Prop := is r.1 ∧ r.2 = fl r.1 ∧ r.1 < F.bound

theorem roundTo_zero_sign {x : Dy} {mode : Rm} {z z' : Bool} (h : x.m = 0 → z = z') : roundTo F x mode z = roundTo F x mode z' := by
  unfold roundTo
  split
  · next hx => rw [h hx]
  · rfl

/-- `roundTo` as a result of an operation. -/
theorem roundTo_gives (hF : F.Usual) {x : Dy} {n : Int} {k : Nat} (h : Stands F x n k) (mode : Rm) (z : Bool) :
    Gives F (RoundsTo F.fields mode.code n k z) (roundFlags F.fields mode.code n k) (roundTo F x mode z) :=
  ⟨roundTo_roundsTo hF h mode z, roundTo_flags hF h mode z, (roundTo_roundsTo hF h mode z).1⟩

/-! ### Sums, products, fused products (R81) -/

theorem fint_nonpos {F : Nat × Nat} {x : Nat} (h : fneg F x = true) : fint F x ≤ 0 := by
  rw [fint_eq, if_pos h]
  omega

theorem fint_nonneg {F : Nat × Nat} {x : Nat} (h : fneg F x = false) : 0 ≤ fint F x := by
  rw [fint_eq, if_neg (by simp [h])]
  omega

theorem fpAdd_gives (hF : F.Usual) (ha : a < F.bound) (hb : b < F.bound) :
    Gives F (SumIs F.fields a b) (sumFlags F.fields a b) (fpAdd F a b) := by
  rcases kind_cases F.fields a with ⟨hna, hia, hfa⟩ | ⟨hna, hia, hfa⟩ | ⟨hna, hia, hfa⟩
  · simp [Gives, fpAdd, SumIs, sumFlags, firstNan_cons hF, hna, snanFlag_two hF, fquiet_lt ha]
  · have hA := eq_fsign_finf ha hia
    rcases kind_cases F.fields b with ⟨hnb, hib, hfb⟩ | ⟨hnb, hib, hfb⟩ | ⟨hnb, hib, hfb⟩
    · simp [Gives, fpAdd, SumIs, sumFlags, firstNan_cons hF, hna, hnb, snanFlag_two hF, fquiet_lt hb]
    · by_cases hs : fneg F.fields a = fneg F.fields b
      · simp [Gives, fpAdd, SumIs, sumFlags, firstNan_cons hF, firstNan_nil, hna, hnb, hia, hib, unpack_inf, signed_eq, infBits_eq,
          ← hs, hA, ha, invalidIf]
      · simp [Gives, fpAdd, SumIs, sumFlags, firstNan_cons hF, firstNan_nil, hna, hnb, hia, hib, unpack_inf, hs, defaultNan_eq,
          fnan_lt hF, invalidIf]
    · obtain ⟨m, e, hu, -⟩ := unpack_fin hF hfb
      simp [Gives, fpAdd, SumIs, sumFlags, firstNan_cons hF, firstNan_nil, hna, hnb, hia, hib, unpack_inf, hu, signed_eq, infBits_eq,
        hA, ha, invalidIf]
  · obtain ⟨ma, ea, hua, -⟩ := unpack_fin hF hfa
    rcases kind_cases F.fields b with ⟨hnb, hib, hfb⟩ | ⟨hnb, hib, hfb⟩ | ⟨hnb, hib, hfb⟩
    · simp [Gives, fpAdd, SumIs, sumFlags, firstNan_cons hF, hna, hnb, snanFlag_two hF, fquiet_lt hb]
    · simp [Gives, fpAdd, SumIs, sumFlags, firstNan_cons hF, firstNan_nil, hna, hnb, hia, hib, unpack_inf, hua, signed_eq, infBits_eq,
        eq_fsign_finf hb hib, hb, invalidIf]
    · obtain ⟨mb, eb, hub, -⟩ := unpack_fin hF hfb
      have hst : Stands F ((unpack F a).dy.add (unpack F b).dy) (fint F.fields a + fint F.fields b) 0 := by
        rw [Stands, Dy.rat_add, add_mul, unpack_rat hF hfa, unpack_rat hF hfb]
        push_cast
        ring
      have hfp : fpAdd F a b = roundTo F ((unpack F a).dy.add (unpack F b).dy) .rne (fneg F.fields a && fneg F.fields b) := by
        have hz : fpAdd F a b = roundTo F ((unpack F a).dy.add (unpack F b).dy) .rne
            ((unpack F a).isNeg && (unpack F b).isNeg && isZero (unpack F a) && isZero (unpack F b)) := by
          simp [fpAdd, firstNan_cons hF, firstNan_nil, hna, hnb, hua, hub]
        rw [hz]
        refine roundTo_zero_sign fun h0 => ?_
        have hsum := hst.zero_iff.2 h0
        rw [isNeg_unpack hF hna, isNeg_unpack hF hnb, isZero_unpack hF, isZero_unpack hF]
        by_cases hs : fneg F.fields a = true ∧ fneg F.fields b = true
        · have ha0 := fint_nonpos hs.1
          have hb0 := fint_nonpos hs.2
          simp [fint_eq_zero.1 (show fint F.fields a = 0 by omega), fint_eq_zero.1 (show fint F.fields b = 0 by omega)]
        · simp [Bool.eq_false_iff.2 (mt Bool.and_eq_true_iff.1 hs)]
      have h := roundTo_gives hF hst .rne (fneg F.fields a && fneg F.fields b)
      rw [hfp]
      simpa [Gives, SumIs, sumFlags, hna, hnb, hia, hib, Rm.code] using h

theorem signals_fpNeg (hF : F.Usual) (hb : b < F.bound) : signals F.fields (fpNeg F b) = signals F.fields b := by
  have hbit : (b ^^^ 2 ^ (F.wE + F.wF)).testBit (F.wF - 1) = b.testBit (F.wF - 1) := by
    have hne : F.wE + F.wF ≠ F.wF - 1 := by
      have := hF.two_le_wE
      omega
    simp [Nat.testBit_xor, hne]
  rw [signals, fisNan_fpNeg hb, fpNeg_eq hb, signals]
  simp only [hbit]

theorem fpSub_gives (hF : F.Usual) (ha : a < F.bound) (hb : b < F.bound) :
    Gives F (DifferenceIs F.fields a b) (differenceFlags F.fields a b) (fpSub F a b) := by
  have hx : b ^^^ 2 ^ (F.fields.1 + F.fields.2) = fpNeg F b := (fpNeg_eq hb).symm
  simp only [Gives, DifferenceIs, differenceFlags, hx]
  cases hna : fisNan F.fields a
  · cases hnb : fisNan F.fields b
    · have h := fpAdd_gives hF ha (fpNeg_lt hb)
      simpa [Gives, fpSub, firstNan_cons hF, firstNan_nil, hna, hnb] using h
    · simp [fpSub, SumIs, sumFlags, firstNan_cons hF, hna, hnb, snanFlag_two hF, fquiet_lt hb, fisNan_fpNeg hb,
        signals_fpNeg hF hb]
  · simp [fpSub, SumIs, sumFlags, firstNan_cons hF, hna, snanFlag_two hF, fquiet_lt ha, signals_fpNeg hF hb]

theorem fint_mul_nonpos {F : Nat × Nat} {x y : Nat} (h : (fneg F x != fneg F y) = true) : fint F x * fint F y ≤ 0 := by
  cases hx : fneg F x
  · exact mul_nonpos_of_nonneg_of_nonpos (fint_nonneg hx) (fint_nonpos (by simpa [hx] using h))
  · exact mul_nonpos_of_nonpos_of_nonneg (fint_nonpos hx) (fint_nonneg (by simpa [hx] using h))

theorem invalidIf_or (p q : Bool) : invalidIf p ||| invalidIf q = invalidIf (p || q) := by
  cases p <;> cases q <;> rfl

theorem fmag_ne_zero_of_fisInf (hF : F.Usual) {x : Nat} (h : fisInf F.fields x = true) : fmag F.fields x ≠ 0 := by
  rw [of_decide_eq_true h]
  exact (infBits_pos hF).ne'

theorem zeroTimesInf_unpack (hF : F.Usual) (a b : Nat) : zeroTimesInf (unpack F a) (unpack F b) =
    (fisInf F.fields a && fmag F.fields b == 0 || (fmag F.fields a == 0 && fisInf F.fields b)) := by
  have hnz : ∀ {x}, ffin F.fields x = false → (fmag F.fields x == 0) = false := fun h => by
    simpa using fmag_ne_zero_of_not_ffin hF h
  have hz : ∀ {x m : Nat}, (m = 0 ↔ fmag F.fields x = 0) → decide (m = 0) = (fmag F.fields x == 0) := fun h => by
    rw [beq_eq_decide, decide_eq_decide, h]
  rcases kind_cases F.fields a with ⟨hna, hia, hfa⟩ | ⟨-, hia, hfa⟩ | ⟨-, hia, hfa⟩
  · simp [unpack_nan hF hna, zeroTimesInf, hia, hnz hfa]
  · rcases kind_cases F.fields b with ⟨hnb, hib, hfb⟩ | ⟨-, hib, hfb⟩ | ⟨-, hib, hfb⟩
    · simp [unpack_inf hia, unpack_nan hF hnb, zeroTimesInf, hib, hnz hfb]
    · simp [unpack_inf hia, unpack_inf hib, zeroTimesInf, hnz hfa, hnz hfb]
    · obtain ⟨m, e, hu, -, -, hm, -⟩ := unpack_fin hF hfb
      simp [unpack_inf hia, hu, zeroTimesInf, hia, hib, hz hm]
  · obtain ⟨m, e, hu, -, -, hm, -⟩ := unpack_fin hF hfa
    rcases kind_cases F.fields b with ⟨hnb, hib, hfb⟩ | ⟨-, hib, hfb⟩ | ⟨-, hib, hfb⟩
    · simp [hu, unpack_nan hF hnb, zeroTimesInf, hia, hib]
    · simp [hu, unpack_inf hib, zeroTimesInf, hia, hib, hz hm]
    · obtain ⟨m', e', hu', -⟩ := unpack_fin hF hfb
      simp [hu, hu', zeroTimesInf, hia, hib]

theorem inf_lt (F : Fmt) (s : Bool) : fsign F.fields s (finf F.fields) < F.bound := fsign_lt s (finf_lt F.fields)

theorem fpMul_gives (hF : F.Usual) (ha : a < F.bound) (hb : b < F.bound) :
    Gives F (ProductIs F.fields a b) (productFlags F.fields a b) (fpMul F a b) := by
  have hinf : ∀ {x}, fisInf F.fields x = true → fmag F.fields x ≠ 0 := fun h => by
    rw [of_decide_eq_true h]
    exact (infBits_pos hF).ne'
  rcases kind_cases F.fields a with ⟨hna, hia, hfa⟩ | ⟨hna, hia, hfa⟩ | ⟨hna, hia, hfa⟩
  · simp [Gives, fpMul, ProductIs, productFlags, firstNan_cons hF, hna, snanFlag_two hF, fquiet_lt ha]
  · rcases kind_cases F.fields b with ⟨hnb, hib, hfb⟩ | ⟨hnb, hib, hfb⟩ | ⟨hnb, hib, hfb⟩
    · simp [Gives, fpMul, ProductIs, productFlags, firstNan_cons hF, hna, hnb, snanFlag_two hF, fquiet_lt hb]
    · simp [Gives, fpMul, ProductIs, productFlags, firstNan_cons hF, firstNan_nil, hna, hnb, hia, hib, unpack_inf, hinf, signed_eq,
        infBits_eq, FVal.isNeg, inf_lt, invalidIf]
    · have hz := isZero_unpack hF b
      obtain ⟨m, e, hu, -⟩ := unpack_fin hF hfb
      rw [hu] at hz
      by_cases h0 : fmag F.fields b = 0 <;>
        simp [Gives, fpMul, ProductIs, productFlags, firstNan_cons hF, firstNan_nil, hna, hnb, hia, hib, unpack_inf, hu, hinf, hz, h0,
          signed_eq, infBits_eq, defaultNan_eq, fnan_lt hF, FVal.isNeg, inf_lt, invalidIf]
  · have hza := isZero_unpack hF a
    obtain ⟨ma, ea, hua, -⟩ := unpack_fin hF hfa
    rw [hua] at hza
    rcases kind_cases F.fields b with ⟨hnb, hib, hfb⟩ | ⟨hnb, hib, hfb⟩ | ⟨hnb, hib, hfb⟩
    · simp [Gives, fpMul, ProductIs, productFlags, firstNan_cons hF, hna, hnb, snanFlag_two hF, fquiet_lt hb]
    · by_cases h0 : fmag F.fields a = 0 <;>
        simp [Gives, fpMul, ProductIs, productFlags, firstNan_cons hF, firstNan_nil, hna, hnb, hia, hib, unpack_inf, hua, hinf, hza, h0,
          signed_eq, infBits_eq, defaultNan_eq, fnan_lt hF, FVal.isNeg, inf_lt, invalidIf]
    · obtain ⟨mb, eb, hub, -⟩ := unpack_fin hF hfb
      have hst : Stands F ((unpack F a).dy.mul (unpack F b).dy) (fint F.fields a * fint F.fields b) (unitExp F.fields) := by
        rw [Stands, Dy.rat_mul, Int.cast_mul, ← unpack_rat hF hfa, ← unpack_rat hF hfb]
        ring
      have hfp : fpMul F a b = roundTo F ((unpack F a).dy.mul (unpack F b).dy) .rne (fneg F.fields a != fneg F.fields b) := by
        rw [← isNeg_unpack hF hna, ← isNeg_unpack hF hnb]
        simp [fpMul, firstNan_cons hF, firstNan_nil, hna, hnb, hua, hub]
      have h := roundTo_gives hF hst .rne (fneg F.fields a != fneg F.fields b)
      rw [hfp]
      simpa [Gives, ProductIs, productFlags, hna, hnb, hia, hib, Rm.code] using h

/-- With a NaN source the first is the result. -/
theorem fpFma_nan (hF : F.Usual) (ha : a < F.bound) (hb : b < F.bound) (hc : c < F.bound)
    (h : (fisNan F.fields a || fisNan F.fields b || fisNan F.fields c) = true) :
    Gives F (FusedIs F.fields a b c) (fusedFlags F.fields a b c) (fpFma F a b c) := by
  have hfl : snanFlag [unpack F a, unpack F b, unpack F c] ||| (if zeroTimesInf (unpack F a) (unpack F b) then flagNv else 0) =
      fusedFlags F.fields a b c (fpFma F a b c).1 := by
    rw [fusedFlags, if_pos h, snanFlag_three hF, zeroTimesInf_unpack hF]
    exact invalidIf_or ..
  cases hna : fisNan F.fields a
  · cases hnb : fisNan F.fields b
    · cases hnc : fisNan F.fields c
      · simp [hna, hnb, hnc] at h
      · simpa [Gives, fpFma, FusedIs, firstNan_cons hF, hna, hnb, hnc, fquiet_lt hc] using hfl
    · simpa [Gives, fpFma, FusedIs, firstNan_cons hF, hna, hnb, fquiet_lt hb] using hfl
  · simpa [Gives, fpFma, FusedIs, firstNan_cons hF, hna, fquiet_lt ha] using hfl

/-- A pattern that is no NaN, as `unpack` reads it. -/
theorem unpack_kind (hF : F.Usual) {x : Nat} (hn : fisNan F.fields x = false) :
    (fisInf F.fields x = true ∧ unpack F x = .inf (fneg F.fields x)) ∨
      (fisInf F.fields x = false ∧ ffin F.fields x = true ∧ ∃ m e, unpack F x = .fin (fneg F.fields x) m e) := by
  rcases kind_cases F.fields x with ⟨hn', -, -⟩ | ⟨-, hi, -⟩ | ⟨-, hi, hf⟩
  · simp [hn] at hn'
  · exact .inl ⟨hi, unpack_inf hi⟩
  · obtain ⟨m, e, hu, -⟩ := unpack_fin hF hf
    exact .inr ⟨hi, hf, m, _, hu⟩

/-- With an infinite factor, no NaN source and not 0 × ∞, the addend alone decides. -/
theorem fpFma_of_inf (hF : F.Usual) (hna : fisNan F.fields a = false) (hnb : fisNan F.fields b = false)
    (hnc : fisNan F.fields c = false) (h : fisInf F.fields a = true ∨ fisInf F.fields b = true)
    (hz : zeroTimesInf (unpack F a) (unpack F b) = false) :
    fpFma F a b c = if fisInf F.fields c = true ∧ (fneg F.fields a != fneg F.fields b) ≠ fneg F.fields c
      then (F.defaultNan, flagNv) else (signed F (fneg F.fields a != fneg F.fields b) F.infBits, 0) := by
  rw [← isNeg_unpack hF hna, ← isNeg_unpack hF hnb]
  rcases unpack_kind hF hnc with ⟨hic, huc⟩ | ⟨hic, -, mc, ec, huc⟩
  · have hsum : fpFma F a b c = if ((unpack F a).isNeg != (unpack F b).isNeg) = fneg F.fields c
        then (signed F ((unpack F a).isNeg != (unpack F b).isNeg) F.infBits, 0) else (F.defaultNan, flagNv) := by
      rcases h with hi | hi
      · rcases unpack_kind hF hnb with ⟨-, hub⟩ | ⟨-, -, mb, eb, hub⟩ <;> rw [unpack_inf hi, hub] at hz ⊢ <;>
          simp [fpFma, firstNan_cons hF, firstNan_nil, hna, hnb, hnc, unpack_inf hi, hub, huc, hz]
      · rcases unpack_kind hF hna with ⟨-, hua⟩ | ⟨-, -, ma, ea, hua⟩ <;> rw [unpack_inf hi, hua] at hz ⊢ <;>
          simp [fpFma, firstNan_cons hF, firstNan_nil, hna, hnb, hnc, unpack_inf hi, hua, huc, hz]
    rw [hsum]
    simp only [hic, true_and, ne_eq, ite_not]
  · rw [hic, if_neg (by simp)]
    rcases h with hi | hi
    · rcases unpack_kind hF hnb with ⟨-, hub⟩ | ⟨-, -, mb, eb, hub⟩ <;> rw [unpack_inf hi, hub] at hz ⊢ <;>
        simp [fpFma, firstNan_cons hF, firstNan_nil, hna, hnb, hnc, unpack_inf hi, hub, huc, hz]
    · rcases unpack_kind hF hna with ⟨-, hua⟩ | ⟨-, -, ma, ea, hua⟩ <;> rw [unpack_inf hi, hua] at hz ⊢ <;>
        simp [fpFma, firstNan_cons hF, firstNan_nil, hna, hnb, hnc, unpack_inf hi, hua, huc, hz]

theorem fpFma_of_zero_times_inf (hF : F.Usual) (hna : fisNan F.fields a = false) (hnb : fisNan F.fields b = false)
    (hnc : fisNan F.fields c = false) (hz : zeroTimesInf (unpack F a) (unpack F b) = true) :
    fpFma F a b c = (F.defaultNan, flagNv) := by
  simp [fpFma, firstNan_cons hF, firstNan_nil, hna, hnb, hnc, hz]

/-- An infinite factor. -/
theorem fpFma_inf (hF : F.Usual) (hna : fisNan F.fields a = false) (hnb : fisNan F.fields b = false)
    (hnc : fisNan F.fields c = false) (h : fisInf F.fields a = true ∨ fisInf F.fields b = true) :
    Gives F (FusedIs F.fields a b c) (fusedFlags F.fields a b c) (fpFma F a b c) := by
  have hzi := zeroTimesInf_unpack hF a b
  have hinf : (fisInf F.fields a || fisInf F.fields b) = true := by simpa using h
  have hsum : (fmag F.fields a = 0 ∨ fmag F.fields b = 0) ↔ zeroTimesInf (unpack F a) (unpack F b) = true := by
    rw [hzi]
    rcases h with hi | hi <;> simp [hi, fmag_ne_zero_of_fisInf hF hi]
  cases hz : zeroTimesInf (unpack F a) (unpack F b) with
  | true =>
    rw [fpFma_of_zero_times_inf hF hna hnb hnc hz]
    rw [hz] at hzi
    simp [Gives, FusedIs, fusedFlags, hna, hnb, hnc, hinf, ← or_assoc, hsum, hz, ← hzi, defaultNan_eq, fnan_lt hF, invalidIf]
  | false =>
    rw [fpFma_of_inf hF hna hnb hnc h hz]
    rw [hz] at hzi
    have hflag : ((fisInf F.fields a && fmag F.fields b == 0 || (fmag F.fields a == 0 && fisInf F.fields b)) ||
        (fisInf F.fields c && fneg F.fields c != (fneg F.fields a != fneg F.fields b))) =
        decide (fisInf F.fields c = true ∧ (fneg F.fields a != fneg F.fields b) ≠ fneg F.fields c) := by
      rw [← hzi, Bool.false_or, Bool.decide_and, Bool.decide_eq_true, bne_comm (a := fneg F.fields c), decide_not, bne,
        beq_eq_decide]
    have hor : (fmag F.fields a = 0 ∨ fmag F.fields b = 0 ∨
        (fisInf F.fields c = true ∧ fneg F.fields c ≠ (fneg F.fields a != fneg F.fields b))) ↔
        fisInf F.fields c = true ∧ (fneg F.fields a != fneg F.fields b) ≠ fneg F.fields c := by
      rw [← or_assoc, hsum, hz, ne_comm]
      simp
    by_cases hc : fisInf F.fields c = true ∧ (fneg F.fields a != fneg F.fields b) ≠ fneg F.fields c
    · simp only [Gives, FusedIs, fusedFlags, hna, hnb, hnc, hinf, hor, hflag, if_pos hc, decide_eq_true hc, Bool.or_self,
        Bool.false_eq_true, if_false, if_true]
      exact ⟨rfl, rfl, fnan_lt hF⟩
    · simp only [Gives, FusedIs, fusedFlags, hna, hnb, hnc, hinf, hor, hflag, if_neg hc, decide_eq_false hc, Bool.or_self,
        Bool.false_eq_true, if_false, if_true]
      exact ⟨rfl, rfl, inf_lt F _⟩

theorem fpFma_gives (hF : F.Usual) (ha : a < F.bound) (hb : b < F.bound) (hc : c < F.bound) :
    Gives F (FusedIs F.fields a b c) (fusedFlags F.fields a b c) (fpFma F a b c) := by
  by_cases hnan : (fisNan F.fields a || fisNan F.fields b || fisNan F.fields c) = true
  · exact fpFma_nan hF ha hb hc hnan
  obtain ⟨⟨hna, hnb⟩, hnc⟩ : (fisNan F.fields a = false ∧ fisNan F.fields b = false) ∧ fisNan F.fields c = false := by
    simpa using hnan
  rcases unpack_kind hF hna with ⟨hia, -⟩ | ⟨hia, hfa, ma, ea, hua⟩
  · exact fpFma_inf hF hna hnb hnc (.inl hia)
  rcases unpack_kind hF hnb with ⟨hib, -⟩ | ⟨hib, hfb, mb, eb, hub⟩
  · exact fpFma_inf hF hna hnb hnc (.inr hib)
  have hz := zeroTimesInf_unpack hF a b
  simp only [hia, hib, Bool.false_and, Bool.and_false, Bool.or_self] at hz
  rcases unpack_kind hF hnc with ⟨hic, huc⟩ | ⟨hic, hfc, mc, ec, huc⟩
  · have hfp : fpFma F a b c = (c, 0) := by
      rw [hua, hub] at hz
      simp [fpFma, firstNan_cons hF, firstNan_nil, hna, hnb, hnc, hua, hub, huc, hz]
    simp [hfp, Gives, FusedIs, fusedFlags, hna, hnb, hnc, hia, hib, hic, hc]
  · have hprod : Stands F ((unpack F a).dy.mul (unpack F b).dy) (fint F.fields a * fint F.fields b) (unitExp F.fields) := by
      rw [Stands, Dy.rat_mul, Int.cast_mul, ← unpack_rat hF hfa, ← unpack_rat hF hfb]
      ring
    have hst : Stands F (((unpack F a).dy.mul (unpack F b).dy).add (unpack F c).dy)
        (fint F.fields a * fint F.fields b + fint F.fields c * 2 ^ unitExp F.fields) (unitExp F.fields) := by
      rw [Stands, Dy.rat_add, add_mul, add_mul, show _ = _ from hprod, unpack_rat hF hfc]
      push_cast
      ring
    have hfp : fpFma F a b c = roundTo F (((unpack F a).dy.mul (unpack F b).dy).add (unpack F c).dy) .rne
        ((fneg F.fields a != fneg F.fields b) && fneg F.fields c) := by
      have hm : fpFma F a b c = roundTo F (((unpack F a).dy.mul (unpack F b).dy).add (unpack F c).dy) .rne
          (decide (((unpack F a).dy.mul (unpack F b).dy).m = 0) && isZero (unpack F c) &&
            ((unpack F a).isNeg != (unpack F b).isNeg) && (unpack F c).isNeg) := by
        rw [hua, hub] at hz
        simp [fpFma, firstNan_cons hF, firstNan_nil, hna, hnb, hnc, hua, hub, huc, hz]
      rw [hm]
      refine roundTo_zero_sign fun h0 => ?_
      have hsum := hst.zero_iff.2 h0
      rw [isNeg_unpack hF hna, isNeg_unpack hF hnb, isNeg_unpack hF hnc, isZero_unpack hF]
      by_cases hs : (fneg F.fields a != fneg F.fields b) = true ∧ fneg F.fields c = true
      · have hp0 := fint_mul_nonpos hs.1
        have hc0 : fint F.fields c * 2 ^ unitExp F.fields ≤ 0 :=
          mul_nonpos_of_nonpos_of_nonneg (fint_nonpos hs.2) (by positivity)
        have hc1 : fint F.fields c = 0 := by
          have : fint F.fields c * 2 ^ unitExp F.fields = 0 := by omega
          exact (mul_eq_zero.1 this).resolve_right (by positivity)
        simp [hprod.zero_iff.1 (by omega), fint_eq_zero.1 hc1]
      · simp [Bool.and_assoc, Bool.eq_false_iff.2 (mt Bool.and_eq_true_iff.1 hs)]
    have h := roundTo_gives hF hst .rne ((fneg F.fields a != fneg F.fields b) && fneg F.fields c)
    rw [hfp]
    simpa [Gives, FusedIs, fusedFlags, hna, hnb, hnc, hia, hib, hic, Rm.code] using h

end Sys2Proof.Machine
end

section
/-! SUPPORT. Order, compare and class of patterns (R82 to R84). -/

namespace Sys2Proof.Machine
open Sys2Proof Sys2Proof.Stated
variable {F : Fmt} {a b c : Nat}

theorem dy_rat_lt_iff (hF : F.Usual) (ha : ffin F.fields a = true) (hb : ffin F.fields b = true) :
    (unpack F a).dy.rat < (unpack F b).dy.rat ↔ fint F.fields a < fint F.fields b := by
  rw [← Int.cast_lt (R := ℚ), ← unpack_rat hF ha, ← unpack_rat hF hb]
  exact (mul_lt_mul_iff_left₀ (by positivity)).symm

theorem dy_rat_eq_iff (hF : F.Usual) (ha : ffin F.fields a = true) (hb : ffin F.fields b = true) :
    (unpack F a).dy.rat = (unpack F b).dy.rat ↔ fint F.fields a = fint F.fields b := by
  rw [← Int.cast_inj (α := ℚ), ← unpack_rat hF ha, ← unpack_rat hF hb]
  exact (mul_left_inj' (by positivity)).symm

/-- The order of two finite numbers, with −0 below +0, is that of their patterns. -/
theorem forder_lt_iff (F : Nat × Nat) (a b : Nat) : forder F a < forder F b ↔
    fint F a < fint F b ∨ (fint F a = fint F b ∧ fmag F a = 0 ∧ fneg F a = true ∧ fneg F b = false) := by
  have h1 : magInt F.2 (fmag F a) < magInt F.2 (fmag F b) ↔ fmag F a < fmag F b := magInt_lt_iff
  have h2 : magInt F.2 (fmag F b) < magInt F.2 (fmag F a) ↔ fmag F b < fmag F a := magInt_lt_iff
  have h3 : magInt F.2 (fmag F a) = 0 ↔ fmag F a = 0 := magInt_eq_zero
  have h4 : magInt F.2 (fmag F b) = 0 ↔ fmag F b = 0 := magInt_eq_zero
  rw [forder, forder, fint_eq, fint_eq]
  cases fneg F a <;> cases fneg F b <;> simp <;> omega

/-- The model's order is that of the patterns. -/
theorem fpBelow_eq (hF : F.Usual) (hna : fisNan F.fields a = false) (hnb : fisNan F.fields b = false) :
    fpBelow (unpack F a) (unpack F b) = decide (forder F.fields a < forder F.fields b) := by
  have hmag : ∀ {x}, fisInf F.fields x = true → fmag F.fields x = finf F.fields := of_decide_eq_true
  have hlt : ∀ {x}, ffin F.fields x = true → fmag F.fields x < finf F.fields := of_decide_eq_true
  rcases unpack_kind hF hna with ⟨hia, hua⟩ | ⟨hia, hfa, ma, ea, hua⟩
  · rcases unpack_kind hF hnb with ⟨hib, hub⟩ | ⟨hib, hfb, mb, eb, hub⟩
    · rw [hua, hub, forder, forder, hmag hia, hmag hib]
      cases fneg F.fields a <;> cases fneg F.fields b <;> simp [fpBelow] <;> omega
    · have := hlt hfb
      rw [hua, hub, forder, forder, hmag hia]
      cases fneg F.fields a <;> cases fneg F.fields b <;> simp [fpBelow] <;> omega
  · rcases unpack_kind hF hnb with ⟨hib, hub⟩ | ⟨hib, hfb, mb, eb, hub⟩
    · have := hlt hfa
      rw [hua, hub, forder, forder, hmag hib]
      cases fneg F.fields a <;> cases fneg F.fields b <;> simp [fpBelow] <;> omega
    · have hbelow : fpBelow (unpack F a) (unpack F b) = if (unpack F a).dy.eq (unpack F b).dy
          then isZero (unpack F a) && (unpack F a).isNeg && !(unpack F b).isNeg else (unpack F a).dy.lt (unpack F b).dy := by
        simp [hua, hub, fpBelow]
      rw [hbelow, Dy.eq_eq, Dy.lt_eq, isZero_unpack hF, isNeg_unpack hF hna, isNeg_unpack hF hnb, Bool.eq_iff_iff]
      simp only [decide_eq_true_eq, forder_lt_iff, dy_rat_eq_iff hF hfa hfb, dy_rat_lt_iff hF hfa hfb]
      split
      · next h => simp [h, and_assoc]
      · next h => simp [h]

/-! ### `fmin`, `fmax`, `fclamp` (R82) -/

theorem pick_lt {isMax : Bool} (ha : a < F.bound) (hb : b < F.bound) : pick F.fields isMax a b < F.bound := by
  unfold pick
  have hor : ∀ {p : Prop} [Decidable p], (if p then b else a) < F.bound := fun {p} _ => by
    split
    · exact hb
    · exact ha
  split
  · split
    · exact fquiet_lt ha
    · exact hb
  · split
    · exact ha
    · split
      · exact hor
      · exact hor

theorem fpMinMax_eq (hF : F.Usual) (isMax : Bool) (a b : Nat) :
    fpMinMax F isMax a b = (pick F.fields isMax a b, invalidIf (signals F.fields a || signals F.fields b)) := by
  simp only [fpMinMax, pick, isNan_unpack hF, snanFlag_two hF, quiet_eq]
  cases hna : fisNan F.fields a
  · cases hnb : fisNan F.fields b
    · simp only [fpBelow_eq hF hna hnb, fpBelow_eq hF hnb hna, decide_eq_true_eq]
      cases isMax <;> simp
    · simp
  · cases fisNan F.fields b <;> simp

theorem fpMinMax_gives (hF : F.Usual) (isMax : Bool) (ha : a < F.bound) (hb : b < F.bound) :
    Gives F (fun r => r = pick F.fields isMax a b) (fun _ => invalidIf (signals F.fields a || signals F.fields b))
      (fpMinMax F isMax a b) := by
  rw [fpMinMax_eq hF]
  exact ⟨rfl, rfl, pick_lt ha hb⟩

/-- `fclamp`'s result. -/
def clampBits (F : Nat × Nat) (a lo hi : Nat) : Nat :=
  if fisNan F a then fquiet F a else pick F false (pick F true a lo) hi

theorem fpClamp_gives (hF : F.Usual) (ha : a < F.bound) (hb : b < F.bound) (hc : c < F.bound) :
    Gives F (fun r => r = clampBits F.fields a b c)
      (fun _ => invalidIf (signals F.fields a || signals F.fields b || signals F.fields c)) (fpClamp F a b c) := by
  simp only [fpClamp, isNan_unpack hF, snanFlag_three hF, quiet_eq, fpMinMax_eq hF, clampBits]
  split
  · exact ⟨rfl, rfl, fquiet_lt ha⟩
  · exact ⟨rfl, rfl, pick_lt (pick_lt ha hb) hc⟩

/-! ### Compare and class (R83, R84) -/

/-- The number of a pattern in an order in which the zeros are equal. -/
def orderOf (F : Nat × Nat) (x : Nat) : Int := if fneg F x then -(fmag F x : Int) else fmag F x

/-- The model's equality and order, from those that tell −0 from +0. -/
theorem order_conds (F : Nat × Nat) (a b : Nat) :
    (decide (fmag F a = 0) && decide (fmag F b = 0) || (!decide (forder F a < forder F b) && !decide (forder F b < forder F a))) =
      decide (orderOf F a = orderOf F b) ∧
    (!(decide (fmag F a = 0) && decide (fmag F b = 0)) && decide (forder F a < forder F b)) =
      decide (orderOf F a < orderOf F b) := by
  constructor
  · rw [Bool.eq_iff_iff, orderOf, orderOf, forder, forder]
    cases fneg F a <;> cases fneg F b <;> simp <;> omega
  · rw [Bool.eq_iff_iff, orderOf, orderOf, forder, forder]
    cases fneg F a <;> cases fneg F b <;> simp <;> omega

theorem fpCmp_eq (hF : F.Usual) (cond a b : Nat) :
    fpCmp F cond a b = (fcond F.fields cond a b, compareFlags F.fields cond a b) := by
  obtain ⟨un, hun⟩ : ∃ un, un = (fisNan F.fields a || fisNan F.fields b) := ⟨_, rfl⟩
  obtain ⟨heq, hlt⟩ := order_conds F.fields a b
  have heq' : (!un && (isZero (unpack F a) && isZero (unpack F b) ||
      (!fpBelow (unpack F a) (unpack F b) && !fpBelow (unpack F b) (unpack F a)))) =
      (!un && decide (orderOf F.fields a = orderOf F.fields b)) := by
    cases un with
    | true => rfl
    | false =>
      obtain ⟨hna, hnb⟩ := Bool.or_eq_false_iff.1 hun.symm
      rw [isZero_unpack hF, isZero_unpack hF, fpBelow_eq hF hna hnb, fpBelow_eq hF hnb hna, heq]
  have hlt' : (!un && !(isZero (unpack F a) && isZero (unpack F b)) && fpBelow (unpack F a) (unpack F b)) =
      (!un && decide (orderOf F.fields a < orderOf F.fields b)) := by
    cases un with
    | true => rfl
    | false =>
      obtain ⟨hna, hnb⟩ := Bool.or_eq_false_iff.1 hun.symm
      rw [isZero_unpack hF, isZero_unpack hF, fpBelow_eq hF hna hnb, Bool.and_assoc, hlt]
  have hle : (!un && decide (orderOf F.fields a < orderOf F.fields b) || !un && decide (orderOf F.fields a = orderOf F.fields b)) =
      (!un && decide (orderOf F.fields a ≤ orderOf F.fields b)) := by
    rw [← Bool.and_or_distrib_left, ← Bool.decide_or, decide_eq_decide.2 le_iff_lt_or_eq]
  simp only [fpCmp, isNan_unpack hF, ← hun, snanFlag_two hF, heq', hlt', hle]
  match cond with
  | 0 => simp only [fcond, compareFlags, ← hun]; rfl
  | 1 => simp only [fcond, compareFlags, ← hun]; rfl
  | 2 => simp only [fcond, compareFlags, ← hun]; rfl
  | n + 3 => simp only [fcond, compareFlags, ← hun]; rfl

theorem fpClass_eq (hF : F.Usual) (a : Nat) : fpClass F a = 2 ^ classOf F.fields a := by
  rcases kind_cases F.fields a with ⟨hna, hia, hfa⟩ | ⟨hna, hia, hfa⟩ | ⟨hna, hia, hfa⟩
  · simp only [fpClass, unpack_nan hF hna, classOf, hna, if_true, signals, Bool.true_and]
    cases a.testBit (F.fields.2 - 1) <;> rfl
  · simp only [fpClass, unpack_inf hia, classOf, hna, hia, if_true, Bool.false_eq_true, if_false]
    cases fneg F.fields a <;> rfl
  · obtain ⟨m, e, hu, -, -, hz, hsub, -⟩ := unpack_fin hF hfa
    simp only [fpClass, hu, classOf, hna, hia, Bool.false_eq_true, if_false, hz, hsub]
    cases fneg F.fields a <;> split_ifs <;> rfl

end Sys2Proof.Machine
end

section
/-! SUPPORT. Rounding to integers, scaling, extraction and conversions (R85, R87 to R90). -/

namespace Sys2Proof.Machine
open Sys2Proof Sys2Proof.Stated
variable {F : Fmt} {x : Dy} {a : Nat}

/-! ### Exact results -/

/-- A number of at most p + 1 significant bits has a pattern. -/
theorem exists_magInt {p c : Nat} (hc : c < 2 ^ (p + 1)) (j : Nat) : ∃ B, magInt p B = c * 2 ^ j := by
  rcases Nat.eq_zero_or_pos c with rfl | hpos
  · exact ⟨0, by simp⟩
  have hlog : c.log2 ≤ p := Nat.lt_succ_iff.1 ((Nat.log2_lt hpos.ne').2 hc)
  have hlo : 2 ^ c.log2 ≤ c := Nat.log2_self_le hpos.ne'
  have hhi : c < 2 ^ (c.log2 + 1) := Nat.lt_log2_self
  rcases Nat.lt_or_ge (c.log2 + j) p with h | h
  · refine ⟨0 * 2 ^ p + c * 2 ^ j, (magInt_block ?_ (.inl rfl)).trans (by simp)⟩
    calc c * 2 ^ j ≤ 2 ^ (c.log2 + 1) * 2 ^ j := Nat.mul_le_mul_right _ hhi.le
      _ = 2 ^ (c.log2 + 1 + j) := (pow_add ..).symm
      _ ≤ 2 ^ (p + 1) := Nat.pow_le_pow_right (by decide) (by omega)
  · obtain ⟨e, he⟩ := Nat.exists_eq_add_of_le h
    obtain ⟨i, hi⟩ := Nat.exists_eq_add_of_le hlog
    have hj : j = i + e := by omega
    refine ⟨e * 2 ^ p + c * 2 ^ i, (magInt_block ?_ (.inr ?_)).trans ?_⟩
    · calc c * 2 ^ i ≤ 2 ^ (c.log2 + 1) * 2 ^ i := Nat.mul_le_mul_right _ hhi.le
        _ = 2 ^ (p + 1) := by rw [← pow_add]; congr 1; omega
    · calc 2 ^ p = 2 ^ c.log2 * 2 ^ i := by rw [← pow_add]; congr 1
        _ ≤ c * 2 ^ i := Nat.mul_le_mul_right _ hlo
    · rw [mul_assoc, ← pow_add, ← hj]

/-- A number that has a pattern stays as it is. -/
theorem roundTo_exact (hF : F.Usual) {B : Nat} (hx : x.m ≠ 0) (hB : (magInt F.wF B : ℚ) = x.units F) (hfin : B < F.infBits)
    (mode : Rm) (z : Bool) : roundTo F x mode z = (fsign F.fields (decide (x.m < 0)) B, 0) := by
  obtain ⟨b, hb, hr⟩ := roundTo_eq hF mode z hx
  have hle : B ≤ b := hb.le_iff.2 hB.le
  have hge : b ≤ B := magInt_le_iff.1 (by exact_mod_cast hb.1.trans_eq hB.symm)
  obtain rfl : b = B := Nat.le_antisymm hge hle
  have hpat : roundPat F.wF mode (decide (x.m < 0)) (x.units F) b = b := by
    rw [roundPat, partOf_eq_zero.2 hB, roundsUp_zero]
    rfl
  rw [hr, roundedTo, hpat, if_neg (by omega), if_pos hB, signed_eq]

/-- To nearest, a number far beyond the greatest finite one gives infinity. -/
theorem roundTo_huge (hF : F.Usual) (hx : x.m ≠ 0) (h : (((2 ^ (F.wF + 2) - 1) * 2 ^ (2 ^ F.wE - 4) : Nat) : ℚ) ≤ x.units F)
    (z : Bool) : roundTo F x .rne z = (fsign F.fields (decide (x.m < 0)) (finf F.fields), flagOf ||| flagNx) := by
  obtain ⟨b, hb, hr⟩ := roundTo_eq hF .rne z hx
  have hover := overflow_iff hF hb .rne (decide (x.m < 0))
  rw [if_pos (show Rm.near .rne = true from rfl)] at hover
  rw [hr, roundedTo, if_pos (hover.2 h)]
  rfl

/-- To nearest, a number below half the least positive one gives zero. -/
theorem roundTo_tiny (hF : F.Usual) (hx : x.m ≠ 0) (h : x.units F < 1 / 2) (z : Bool) :
    roundTo F x .rne z = (fsign F.fields (decide (x.m < 0)) 0, flagUf ||| flagNx) := by
  have hone : magInt F.wF 1 = 1 := magInt_of_lt (Nat.one_lt_two_pow (by have := hF.one_le_wF; omega))
  have hpos : 0 < x.units F := by
    refine (x.units_nonneg F).lt_of_ne' ?_
    rw [Dy.units]
    exact mul_ne_zero (abs_ne_zero.2 (mt Dy.rat_eq_zero_iff.1 hx)) (by positivity)
  obtain ⟨b, hb, hr⟩ := roundTo_eq hF .rne z hx
  obtain rfl : b = 0 := by
    by_contra h0
    have h1 : (magInt F.wF 1 : ℚ) ≤ x.units F := hb.le_iff.1 (by omega)
    rw [hone, Nat.cast_one] at h1
    linarith
  have hpart : partOf F.wF (x.units F) 0 = x.units F := by simp [partOf, hone]
  have hpat : roundPat F.wF .rne (decide (x.m < 0)) (x.units F) 0 = 0 := by
    rcases roundPat_cases F.wF .rne (decide (x.m < 0)) (x.units F) 0 with ⟨hp, -⟩ | ⟨-, hup⟩
    · exact hp
    · rw [hpart] at hup
      have := roundsUp_near_le rfl hup
      linarith
  have htiny : tinyAt F.wF .rne (decide (x.m < 0)) (x.units F) = true := by
    have h4 : (4 : ℚ) ≤ 2 ^ (F.wF + 2) := by
      have h1 : (1 : ℚ) ≤ 2 ^ F.wF := one_le_pow₀ (by norm_num)
      rw [pow_add]
      linarith
    simp only [tinyAt, Rm.near, if_true, decide_eq_true_eq]
    linarith
  have hinf := infBits_pos hF
  rw [hr, roundedTo, hpat, if_neg (by omega), magInt_zero, Nat.cast_zero, if_neg hpos.ne, htiny, signed_eq]
  rfl

/-! ### Rounding to an integer (R78) -/

theorem roundNat_cases (mode : Rm) (neg : Bool) {q : ℚ} (h0 : 0 ≤ q) :
    ∃ m : Nat, (m : ℚ) ≤ q ∧ q < m + 1 ∧
      ((roundNat mode neg q = m ∧ roundsUp mode neg m (q - m) = false) ∨
        (roundNat mode neg q = m + 1 ∧ roundsUp mode neg m (q - m) = true)) := by
  refine ⟨⌊q⌋₊, Nat.floor_le h0, Nat.lt_floor_add_one q, ?_⟩
  rw [roundNat]
  cases roundsUp mode neg ⌊q⌋₊ (q - ⌊q⌋₊) <;> simp

theorem roundNat_toward {mode : Rm} {neg : Bool} {q : ℚ} (h0 : 0 ≤ q) (hn : mode.near = false) (ha : mode.away neg = false) :
    (roundNat mode neg q : ℚ) ≤ q ∧ q < roundNat mode neg q + 1 := by
  obtain ⟨m, hlo, hhi, ⟨hr, -⟩ | ⟨-, hu⟩⟩ := roundNat_cases mode neg h0
  · rw [hr]
    exact ⟨hlo, hhi⟩
  · rw [roundsUp_directed hn, ha] at hu
    cases hu

theorem roundNat_away {mode : Rm} {neg : Bool} {q : ℚ} (h0 : 0 ≤ q) (hn : mode.near = false) (ha : mode.away neg = true) :
    (roundNat mode neg q : ℚ) - 1 < q ∧ q ≤ roundNat mode neg q := by
  obtain ⟨m, hlo, hhi, ⟨hr, hu⟩ | ⟨hr, hu⟩⟩ := roundNat_cases mode neg h0
  · rw [roundsUp_directed hn, ha] at hu
    have hq : q - m = 0 := by simpa using hu
    rw [hr]
    constructor <;> linarith
  · rw [roundsUp_directed hn, ha] at hu
    have hq : q - m ≠ 0 := by simpa using hu
    have : (m : ℚ) < q := hlo.lt_of_ne (fun h => hq (by linarith))
    rw [hr]
    push_cast
    constructor <;> linarith

theorem roundNat_near {mode : Rm} {neg : Bool} {q : ℚ} (h0 : 0 ≤ q) (hn : mode.near = true) :
    |(roundNat mode neg q : ℚ) - q| ≤ 1 / 2 ∧
      (|(roundNat mode neg q : ℚ) - q| = 1 / 2 → if mode = .rne then roundNat mode neg q % 2 = 0 else q < roundNat mode neg q) := by
  obtain ⟨m, hlo, hhi, ⟨hr, hu⟩ | ⟨hr, hu⟩⟩ := roundNat_cases mode neg h0
  · have hhalf := le_roundsUp_near hn hu
    rw [hr, abs_of_nonpos (by linarith)]
    refine ⟨by linarith, fun htie => ?_⟩
    rw [show q - m = 1 / 2 by linarith] at hu
    cases mode with
    | rne => simpa [roundsUp] using hu
    | rna => simp [roundsUp] at hu
    | rtz | rdn | rup => cases hn
  · have hhalf := roundsUp_near_le hn hu
    rw [hr]
    push_cast
    rw [abs_of_nonneg (by linarith)]
    refine ⟨by linarith, fun htie => ?_⟩
    rw [show q - m = 1 / 2 by linarith] at hu
    cases mode with
    | rne =>
      have : m % 2 = 1 := by simpa [roundsUp] using hu
      rw [if_pos rfl]
      omega
    | rna =>
      rw [if_neg (by decide)]
      linarith
    | rtz | rdn | rup => cases hn

theorem roundInt_eq (x : Dy) (mode : Rm) : roundInt x mode =
    if x.m < 0 then -(roundNat mode (decide (x.m < 0)) |x.rat| : Int) else roundNat mode (decide (x.m < 0)) |x.rat| := by
  simp only [roundInt, roundMag_eq, sub_zero, ← Dy.abs_rat]

section
variable {n : Int} {k : Nat} {mode : Rm}

theorem rat_neg_iff (h : x.rat * 2 ^ k = n) : x.m < 0 ↔ n < 0 := by
  rw [← Dy.rat_neg_iff, ← Int.cast_lt_zero (R := ℚ) (n := n), ← h, mul_neg_iff]
  simp [not_lt_of_gt]

/-- The integer with the sign of the number, and the number without it. -/
theorem roundInt_signed (h : x.rat * 2 ^ k = n) (mode : Rm) :
    ∃ N : Nat, ∃ q : ℚ, 0 ≤ q ∧ N = roundNat mode (decide (n < 0)) q ∧ roundInt x mode = (if n < 0 then -(N : Int) else N) ∧
      (n : ℚ) = (if n < 0 then -q else q) * 2 ^ k := by
  refine ⟨_, |x.rat|, abs_nonneg _, rfl, ?_, ?_⟩
  · rw [roundInt_eq]
    simp only [rat_neg_iff h]
  · rw [← h]
    congr 1
    split
    · next hn => rw [abs_of_neg (Dy.rat_neg_iff.2 ((rat_neg_iff h).2 hn)), neg_neg]
    · next hn => rw [abs_of_nonneg (not_lt.1 fun hx => hn ((rat_neg_iff h).1 (Dy.rat_neg_iff.1 hx)))]

theorem mul_two_pow_le {i n : Int} {r : ℚ} (h : (n : ℚ) = r * 2 ^ k) : i * 2 ^ k ≤ n ↔ (i : ℚ) ≤ r := by
  rw [← Int.cast_le (R := ℚ), h]
  push_cast
  exact mul_le_mul_iff_left₀ (by positivity)

theorem lt_mul_two_pow {i n : Int} {r : ℚ} (h : (n : ℚ) = r * 2 ^ k) : n < i * 2 ^ k ↔ r < i := by
  rw [← not_le, mul_two_pow_le h, not_le]

theorem le_mul_two_pow {i n : Int} {r : ℚ} (h : (n : ℚ) = r * 2 ^ k) : n ≤ i * 2 ^ k ↔ r ≤ i := by
  rw [← Int.cast_le (R := ℚ), h]
  push_cast
  exact mul_le_mul_iff_left₀ (by positivity)

theorem mul_two_pow_lt {i n : Int} {r : ℚ} (h : (n : ℚ) = r * 2 ^ k) : i * 2 ^ k < n ↔ (i : ℚ) < r := by
  rw [← not_le, le_mul_two_pow h, not_le]

theorem roundInt_down (h : x.rat * 2 ^ k = n) (hn : mode.near = false) (ha : mode.away (decide (n < 0)) = decide (n < 0)) :
    roundInt x mode * 2 ^ k ≤ n ∧ n < (roundInt x mode + 1) * 2 ^ k := by
  obtain ⟨N, q, h0, hN, hi, hq⟩ := roundInt_signed h mode
  rw [mul_two_pow_le hq, lt_mul_two_pow hq, hi]
  by_cases hneg : n < 0
  · rw [decide_eq_true hneg] at ha hN
    obtain ⟨h1, h2⟩ := roundNat_away h0 hn ha
    rw [← hN] at h1 h2
    simp only [if_pos hneg]
    push_cast
    constructor <;> linarith
  · rw [decide_eq_false hneg] at ha hN
    obtain ⟨h1, h2⟩ := roundNat_toward h0 hn ha
    rw [← hN] at h1 h2
    simp only [if_neg hneg]
    push_cast
    exact ⟨h1, h2⟩

theorem roundInt_up (h : x.rat * 2 ^ k = n) (hn : mode.near = false) (ha : mode.away (decide (n < 0)) = !decide (n < 0)) :
    (roundInt x mode - 1) * 2 ^ k < n ∧ n ≤ roundInt x mode * 2 ^ k := by
  obtain ⟨N, q, h0, hN, hi, hq⟩ := roundInt_signed h mode
  rw [mul_two_pow_lt hq, le_mul_two_pow hq, hi]
  by_cases hneg : n < 0
  · rw [decide_eq_true hneg] at ha hN
    obtain ⟨h1, h2⟩ := roundNat_toward h0 hn ha
    rw [← hN] at h1 h2
    simp only [if_pos hneg]
    push_cast
    constructor <;> linarith
  · rw [decide_eq_false hneg] at ha hN
    obtain ⟨h1, h2⟩ := roundNat_away h0 hn ha
    rw [← hN] at h1 h2
    simp only [if_neg hneg]
    push_cast
    exact ⟨h1, h2⟩

theorem roundInt_near (h : x.rat * 2 ^ k = n) (hn : mode.near = true) :
    2 * (roundInt x mode * 2 ^ k - n).natAbs ≤ 2 ^ k ∧ (2 * (roundInt x mode * 2 ^ k - n).natAbs = 2 ^ k →
      if mode = .rne then roundInt x mode % 2 = 0 else n.natAbs < (roundInt x mode).natAbs * 2 ^ k) := by
  obtain ⟨N, q, h0, hN, hi, hq⟩ := roundInt_signed h mode
  obtain ⟨h1, h2⟩ := roundNat_near (neg := decide (n < 0)) h0 hn
  rw [← hN] at h1 h2
  have hp : (0 : ℚ) < 2 ^ k := by positivity
  have hfar : ((roundInt x mode * 2 ^ k - n).natAbs : ℚ) = |(N : ℚ) - q| * 2 ^ k := by
    rw [Nat.cast_natAbs, Int.cast_abs]
    push_cast
    rw [hq, hi, ← sub_mul, abs_mul, abs_of_pos hp]
    congr 1
    split
    · push_cast
      rw [← abs_neg]
      congr 1
      ring
    · rfl
  rw [← Nat.cast_le (α := ℚ), ← Nat.cast_inj (R := ℚ)]
  push_cast
  rw [hfar]
  refine ⟨by nlinarith, fun htie => ?_⟩
  have ht := h2 (by
    have := mul_right_cancel₀ hp.ne' (show (2 * |(N : ℚ) - q|) * 2 ^ k = 1 * 2 ^ k by linarith)
    linarith)
  have hN' : (roundInt x mode).natAbs = N := by
    rw [hi]
    split <;> omega
  split
  · next hm =>
    rw [if_pos hm] at ht
    omega
  · next hm =>
    rw [if_neg hm] at ht
    have hnq : (n.natAbs : ℚ) = q * 2 ^ k := by
      rw [Nat.cast_natAbs, Int.cast_abs, hq, abs_mul, abs_of_pos hp]
      split
      · rw [abs_neg, abs_of_nonneg h0]
      · rw [abs_of_nonneg h0]
    rw [hN', ← Nat.cast_lt (α := ℚ), hnq]
    push_cast
    exact mul_lt_mul_of_pos_right ht hp

/-- `roundInt` rounds n / 2^k as R78 says. -/
theorem roundInt_intRounds (h : x.rat * 2 ^ k = n) (mode : Rm) : IntRounds mode.code n k (roundInt x mode) := by
  cases mode with
  | rne => simpa [IntRounds, Rm.code] using roundInt_near h (mode := .rne) rfl
  | rna => simpa [IntRounds, Rm.code] using roundInt_near h (mode := .rna) rfl
  | rdn => exact roundInt_down h rfl rfl
  | rup => exact roundInt_up h rfl rfl
  | rtz =>
    by_cases hn : 0 ≤ n
    · simpa [IntRounds, Rm.code, hn] using roundInt_down h (mode := .rtz) rfl (by simp [Rm.away, hn])
    · simpa [IntRounds, Rm.code, hn] using roundInt_up h (mode := .rtz) rfl (by simp [Rm.away, not_le.1 hn])

/-- An integer is rounded to itself. -/
theorem intRounds_exact (i : Int) (k m : Nat) : IntRounds m (i * 2 ^ k) k i := by
  have hp : (0 : Int) < 2 ^ k := by positivity
  have hpn : 2 ^ k ≠ 0 := (Nat.two_pow_pos k).ne'
  have hdown : i * 2 ^ k ≤ i * 2 ^ k ∧ i * 2 ^ k < (i + 1) * 2 ^ k := ⟨le_rfl, by nlinarith⟩
  have hup : (i - 1) * 2 ^ k < i * 2 ^ k ∧ i * 2 ^ k ≤ i * 2 ^ k := ⟨by nlinarith, le_rfl⟩
  unfold IntRounds
  split
  · split
    · exact hdown
    · exact hup
  · exact hdown
  · exact hup
  · simp [hpn.symm]

end

/-! ### `frnd` (R85) -/

/-- A finite pattern as its significand and exponent stand for its number. -/
theorem fin_rat (hF : F.Usual) {a m : Nat} {e : Int} (h : ffin F.fields a = true) (hu : unpack F a = .fin (fneg F.fields a) m e) :
    (FVal.dy (.fin (fneg F.fields a) m e)).rat * 2 ^ unitExp F.fields = fint F.fields a := by
  rw [← hu, unpack_rat hF h]

theorem fmag_lt_infBits (h : ffin F.fields a = true) : fmag F.fields a < F.infBits := of_decide_eq_true h

/-- An integer of at most wF bits, or the next power of two, is a number of the format. -/
theorem roundTo_int (hF : F.Usual) {i : Int} (hi : i.natAbs ≤ 2 ^ F.wF) {z : Bool} (hz : i ≠ 0 → z = decide (i < 0)) :
    ∃ B < F.infBits, (roundTo F ⟨i, 0⟩ .rne z).1 = fsign F.fields z B ∧ magInt F.wF B = i.natAbs * 2 ^ unitExp F.fields := by
  by_cases h0 : i = 0
  · refine ⟨0, infBits_pos hF, ?_, ?_⟩
    · rw [roundTo_zero _ _ (show (Dy.mk i 0).m = 0 from h0)]
    · simp [h0]
  have hlt : i.natAbs < 2 ^ (F.wF + 1) := hi.trans_lt (Nat.pow_lt_pow_right (by decide) (Nat.lt_succ_self _))
  obtain ⟨B, hB⟩ := exists_magInt hlt (unitExp F.fields)
  have hfin : B < F.infBits := by
    rw [← magInt_lt_iff (p := F.wF), hB, magInt_infBits hF]
    have h2 := hF.two_le_wE
    have h1 : 2 ^ F.wE = 2 * 2 ^ (F.wE - 1) := by rw [← pow_succ', Nat.sub_add_cancel (by omega)]
    have h3 : 2 ≤ 2 ^ (F.wE - 1) := by
      calc 2 = 2 ^ 1 := rfl
        _ ≤ 2 ^ (F.wE - 1) := Nat.pow_le_pow_right (by decide) (by omega)
    have hU : unitExp F.fields = F.wF + 2 ^ (F.wE - 1) - 2 := rfl
    have hr := hF.wF_lt
    calc i.natAbs * 2 ^ unitExp F.fields ≤ 2 ^ F.wF * 2 ^ unitExp F.fields := Nat.mul_le_mul_right _ hi
      _ = 2 ^ (F.wF + unitExp F.fields) := (pow_add ..).symm
      _ < 2 ^ (F.wF + 1 + (2 ^ F.wE - 3)) := Nat.pow_lt_pow_right (by decide) (by omega)
      _ = 2 ^ (F.wF + 1) * 2 ^ (2 ^ F.wE - 3) := pow_add ..
  have hunits : (magInt F.wF B : ℚ) = (Dy.mk i 0).units F := by
    rw [hB, Dy.units, Dy.abs_rat]
    push_cast
    simp
  refine ⟨B, hfin, ?_, hB⟩
  rw [roundTo_exact hF (show (Dy.mk i 0).m ≠ 0 from h0) hunits hfin, hz h0]

theorem roundNat_le {mode : Rm} {neg : Bool} {q : ℚ} {M : Nat} (h0 : 0 ≤ q) (h : q < M) : roundNat mode neg q ≤ M := by
  have := (Nat.floor_lt h0).2 h
  rw [roundNat]
  split <;> omega

/-- A finite number that is a multiple of 1. -/
theorem fint_of_dvd {F : Nat × Nat} {a k : Nat} (h : 2 ^ k ∣ magInt F.2 (fmag F a)) : ∃ i : Int, fint F a = i * 2 ^ k := by
  obtain ⟨t, ht⟩ := h
  rw [fint_eq, ht]
  split
  · exact ⟨-t, by push_cast; ring⟩
  · exact ⟨t, by push_cast; ring⟩

/-- The sign of a significand that is not zero. -/
theorem dy_m_neg {neg : Bool} {m : Nat} {e : Int} (h : m ≠ 0) : (FVal.dy (.fin neg m e)).m < 0 ↔ neg = true := by
  cases neg
  · simp [FVal.dy]
  · simp [FVal.dy]
    omega

/-- A number with a fraction is rounded to at most the next power of two. -/
theorem roundInt_fin {neg : Bool} {m p : Nat} {d : Int} (hm : m ≠ 0) (hlt : m < 2 ^ (p + 1)) (hd : d < 0) (mode : Rm) :
    ∃ N : Nat, N ≤ 2 ^ p ∧ roundInt (FVal.dy (.fin neg m d)) mode = if neg then -(N : Int) else N := by
  have hsmall : |(FVal.dy (.fin neg m d)).rat| < (2 ^ p : Nat) := by
    have habs : |(FVal.dy (.fin neg m d)).rat| = m * 2 ^ d := by
      rw [Dy.abs_rat]
      cases neg <;> simp [FVal.dy]
    have hmq : (m : ℚ) < 2 ^ (p + 1) := by exact_mod_cast hlt
    have hhalf : (2 : ℚ) ^ d ≤ 2 ^ (-1 : Int) := two_zpow_le (by omega)
    rw [habs]
    push_cast
    calc (m : ℚ) * 2 ^ d ≤ m * 2 ^ (-1 : Int) := mul_le_mul_of_nonneg_left hhalf (Nat.cast_nonneg _)
      _ < 2 ^ (p + 1) * 2 ^ (-1 : Int) := mul_lt_mul_of_pos_right hmq (two_zpow_pos _)
      _ = 2 ^ p := by rw [pow_succ, zpow_neg_one, mul_inv_cancel_right₀ two_ne_zero]
  refine ⟨roundNat mode neg |(FVal.dy (.fin neg m d)).rat|, roundNat_le (abs_nonneg _) hsmall, ?_⟩
  rw [roundInt_eq]
  simp only [dy_m_neg hm, Bool.decide_eq_true]

theorem fpRound_gives (hF : F.Usual) (mode : Rm) (ha : a < F.bound) :
    Gives F (RoundedIs F.fields mode.code a) (fun _ => invalidIf (signals F.fields a)) (fpRound F mode a) := by
  rcases kind_cases F.fields a with ⟨hna, hia, hfa⟩ | ⟨hna, hia, hfa⟩ | ⟨hna, hia, hfa⟩
  · simp [Gives, fpRound, unpack_nan hF hna, RoundedIs, hna, quiet_eq, fquiet_lt ha, invalidIf]
  · simp [Gives, fpRound, unpack_inf hia, RoundedIs, hna, hia, ha, signals, invalidIf]
  · obtain ⟨m, e, hu, hm, hmlt, -⟩ := unpack_fin hF hfa
    have hquiet : invalidIf (signals F.fields a) = 0 := by simp [signals, hna, invalidIf]
    have hint := roundInt_intRounds (fin_rat hF hfa hu) mode
    simp only [Gives, fpRound, hu, hquiet, RoundedIs, hna, hia, Bool.false_eq_true, if_false]
    split
    · next hwhole =>
      have hdvd : 2 ^ unitExp F.fields ∣ magInt F.wF (fmag F.fields a) := by
        rw [← hm]
        rcases hwhole with h0 | h0
        · simp [h0]
        · exact (Nat.pow_dvd_pow 2 (by omega)).mul_left m
      obtain ⟨i, hi⟩ := fint_of_dvd hdvd
      exact ⟨⟨ha, hfa, rfl, i, by rw [hi]; exact intRounds_exact i _ _, hi⟩, rfl, ha⟩
    · next hpart =>
      obtain ⟨hm1, he⟩ := not_or.1 hpart
      obtain ⟨N, hN, hi⟩ := roundInt_fin (neg := fneg F.fields a) hm1 hmlt (not_le.1 he) mode
      rw [hi] at hint ⊢
      have habs : (if fneg F.fields a then -(N : Int) else N).natAbs = N := by
        split <;> simp
      obtain ⟨B, hB, hr, hBi⟩ := roundTo_int hF (habs.trans_le hN) (z := fneg F.fields a) fun h0 => by
        cases fneg F.fields a <;> simp at h0 ⊢
        omega
      have hlt : B < 2 ^ (F.fields.1 + F.fields.2) := hB.trans (finf_lt F.fields)
      rw [hr]
      refine ⟨⟨fsign_lt _ hlt, by rw [ffin_fsign _ hlt]; exact decide_eq_true hB, fneg_fsign _ hlt, _, hint, ?_⟩, rfl, fsign_lt _ hlt⟩
      rw [fint_fsign _ hlt, hBi, habs]
      push_cast
      split
      · ring
      · rfl

/-! ### `fscl` (R87) -/

theorem roundTo_of_ne_zero {mode : Rm} (hx : x.m ≠ 0) (z z' : Bool) : roundTo F x mode z = roundTo F x mode z' :=
  roundTo_zero_sign fun h => absurd h hx

theorem units_scaled (F : Fmt) (M : Int) (e : Nat) (n : Int) :
    (Dy.mk M ((e : Int) - unitExp F.fields + n)).units F = M.natAbs * 2 ^ ((e : Int) + n) := by
  rw [Dy.units, Dy.abs_rat, mul_assoc, ← zpow_natCast, ← two_zpow_add]
  congr 2
  ring

/-- A number of f32 scaled by more than 1000 places either way is beyond every finite one, or below every positive one. -/
theorem roundTo_scaled {M : Int} {e : Nat} (hM : M ≠ 0) (hlt : M.natAbs < 2 ^ 24) (he : e ≤ 253) (n : Int) (z : Bool) :
    roundTo f32 ⟨M, (e : Int) - unitExp f32.fields + max (-1000) (min 1000 n)⟩ .rne z =
      roundTo f32 ⟨M, (e : Int) - unitExp f32.fields + n⟩ .rne z := by
  have hM1 : (1 : ℚ) ≤ M.natAbs := by exact_mod_cast Int.natAbs_pos.2 hM
  have hM2 : (M.natAbs : ℚ) < 2 ^ 24 := by exact_mod_cast hlt
  have hhuge : ∀ v : Int, 1000 ≤ v → roundTo f32 ⟨M, (e : Int) - unitExp f32.fields + v⟩ .rne z =
      (fsign f32.fields (decide (M < 0)) (finf f32.fields), flagOf ||| flagNx) := fun v hv => by
    refine roundTo_huge f32_usual (by exact hM) ?_ z
    rw [units_scaled]
    calc (((2 ^ (f32.wF + 2) - 1) * 2 ^ (2 ^ f32.wE - 4) : Nat) : ℚ) ≤ ((2 ^ 25 * 2 ^ 252 : Nat) : ℚ) := by
          exact_mod_cast Nat.mul_le_mul_right _ (by decide)
      _ = 2 ^ (277 : Int) := by
          rw [Nat.cast_mul, Nat.cast_pow, Nat.cast_pow, Nat.cast_ofNat, ← pow_add, ← zpow_natCast]
          rfl
      _ ≤ 2 ^ ((e : Int) + v) := two_zpow_le (by omega)
      _ ≤ M.natAbs * 2 ^ ((e : Int) + v) := le_mul_of_one_le_left (two_zpow_pos _).le hM1
  have htiny : ∀ v : Int, v ≤ -1000 → roundTo f32 ⟨M, (e : Int) - unitExp f32.fields + v⟩ .rne z =
      (fsign f32.fields (decide (M < 0)) 0, flagUf ||| flagNx) := fun v hv => by
    refine roundTo_tiny f32_usual (by exact hM) ?_ z
    rw [units_scaled]
    calc (M.natAbs : ℚ) * 2 ^ ((e : Int) + v) < 2 ^ 24 * 2 ^ ((e : Int) + v) := mul_lt_mul_of_pos_right hM2 (two_zpow_pos _)
      _ ≤ 2 ^ 24 * 2 ^ (-747 : Int) := mul_le_mul_of_nonneg_left (two_zpow_le (by omega)) (by positivity)
      _ = 2 ^ (-723 : Int) := by rw [← zpow_natCast, ← two_zpow_add]; rfl
      _ ≤ 2 ^ (-2 : Int) := two_zpow_le (by norm_num)
      _ < 1 / 2 := by norm_num
  rcases lt_or_ge n (-1000) with h1 | h1
  · rw [htiny n h1.le, htiny _ (by omega)]
  · rcases lt_or_ge 1000 n with h2 | h2
    · rw [hhuge n h2.le, hhuge _ (by omega)]
    · rw [show max (-1000) (min 1000 n) = n by omega]

theorem stands_scaled {M i : Int} {e : Nat} (h : (Dy.mk M ((e : Int) - unitExp F.fields)).rat * 2 ^ unitExp F.fields = i) (n : Int) :
    Stands F ⟨M, (e : Int) - unitExp F.fields + n⟩ (i * 2 ^ n.toNat) (-n).toNat := by
  have hn : (2 : ℚ) ^ n * 2 ^ (-n).toNat = 2 ^ n.toNat := by
    rw [← zpow_natCast, ← zpow_natCast, ← two_zpow_add]
    congr 1
    omega
  rw [Stands, Int.cast_mul, ← h, Dy.rat_mk, Dy.rat_mk, two_zpow_add]
  push_cast
  rw [← hn]
  ring

theorem fpScale_gives (ha : a < f32.bound) (n : Int) :
    Gives f32 (ScaledIs a n) (fun r => if fisNan f32.fields a then invalidIf (signals f32.fields a)
      else if fisInf f32.fields a = true ∨ fmag f32.fields a = 0 then 0
      else roundFlags f32.fields 0 (fint f32.fields a * 2 ^ n.toNat) (-n).toNat r) (fpScale a n) := by
  have hF := f32_usual
  have hfields : f32.fields = (8, 23) := rfl
  rcases kind_cases f32.fields a with ⟨hna, hia, hfa⟩ | ⟨hna, hia, hfa⟩ | ⟨hna, hia, hfa⟩
  · simp [Gives, fpScale, unpack_nan hF hna, ScaledIs, ← hfields, hna, quiet_eq, fquiet_lt ha, invalidIf]
  · simp [Gives, fpScale, unpack_inf hia, ScaledIs, ← hfields, hna, hia, ha]
  · obtain ⟨m, e, hu, -, hmlt, hm0, -, he⟩ := unpack_fin hF hfa
    by_cases h0 : m = 0
    · simp [Gives, fpScale, hu, h0, ScaledIs, ← hfields, hna, hia, ha, hm0.1 h0]
    · obtain ⟨M, hM⟩ : ∃ M, M = (FVal.dy (.fin (fneg f32.fields a) m ((e : Int) - unitExp f32.fields))).m := ⟨_, rfl⟩
      have hMabs : M.natAbs = m := by
        rw [hM]
        cases fneg f32.fields a <;> simp [FVal.dy]
      have hM0 : M ≠ 0 := by omega
      have hst := stands_scaled (M := M) (by rw [hM]; exact fin_rat hF hfa hu) n
      have hstep : fpScale a n = roundTo f32 ⟨M, (e : Int) - unitExp f32.fields + n⟩ .rne false := by
        rw [← roundTo_scaled hM0 (by rw [hMabs]; exact hmlt) he n, roundTo_of_ne_zero (by exact hM0) false (fneg f32.fields a)]
        simp [fpScale, hu, h0, hM]
      have h := roundTo_gives hF hst .rne false
      rw [hstep]
      simpa [Gives, ScaledIs, ← hfields, hna, hia, hm0.not.1 h0, Rm.code] using h

/-! ### `fxtr` (R88) -/

theorem unitExp_f32 : unitExp f32.fields = 149 := by decide

/-- The significand of a number that is not zero. -/
theorem fpExtract_significand {m e : Nat} {neg : Bool} (h0 : m ≠ 0) (hlt : m < 2 ^ 24) :
    ∃ B < f32.infBits, roundTo f32 ⟨(FVal.dy (.fin neg m ((e : Int) - 149))).m,
      (FVal.dy (.fin neg m ((e : Int) - 149))).e - (FVal.dy (.fin neg m ((e : Int) - 149))).log2⟩ .rne neg =
        (fsign f32.fields neg B, 0) ∧ magInt f32.wF B * 2 ^ (m.log2 + e) = m * 2 ^ e * 2 ^ 149 := by
  have hlog : m.log2 ≤ 23 := Nat.lt_succ_iff.1 ((Nat.log2_lt h0).2 hlt)
  have habs : (FVal.dy (.fin neg m ((e : Int) - 149))).m.natAbs = m := by cases neg <;> simp [FVal.dy]
  obtain ⟨B, hB⟩ := exists_magInt (p := 23) hlt (149 - m.log2)
  have hfin : B < f32.infBits := by
    rw [← magInt_lt_iff (p := f32.wF), magInt_infBits f32_usual, show f32.wF = 23 from rfl, hB]
    calc m * 2 ^ (149 - m.log2) < 2 ^ 24 * 2 ^ (149 - m.log2) := Nat.mul_lt_mul_of_pos_right hlt (Nat.two_pow_pos _)
      _ ≤ 2 ^ (23 + 1) * 2 ^ (2 ^ f32.wE - 3) := Nat.mul_le_mul_left _ (Nat.pow_le_pow_right (by decide) (by
          rw [show 2 ^ f32.wE = 256 from rfl]
          omega))
  refine ⟨B, hfin, ?_, ?_⟩
  · have hm : (FVal.dy (.fin neg m ((e : Int) - 149))).m ≠ 0 := by omega
    have hunits : (magInt f32.wF B : ℚ) = (Dy.mk (FVal.dy (.fin neg m ((e : Int) - 149))).m
        ((FVal.dy (.fin neg m ((e : Int) - 149))).e - (FVal.dy (.fin neg m ((e : Int) - 149))).log2)).units f32 := by
      rw [Dy.units, Dy.abs_rat, habs, Dy.log2, habs, show f32.wF = 23 from rfl, hB, unitExp_f32, mul_assoc, ← zpow_natCast,
        ← two_zpow_add]
      push_cast
      rw [← zpow_natCast]
      congr 2
      push_cast [Nat.cast_sub (show m.log2 ≤ 149 by omega)]
      ring
    rw [roundTo_exact f32_usual (by exact hm) hunits hfin]
    have hsign := dy_m_neg (neg := neg) (e := (e : Int) - 149) h0
    simp only [hsign, Bool.decide_eq_true]
  · rw [show f32.wF = 23 from rfl, hB, mul_assoc, mul_assoc, ← pow_add, ← pow_add]
    congr 2
    omega

theorem fpExtract_is (sig : Bool) (ha : a < f32.bound) :
    ExtractedIs sig a (fpExtract sig a).1 (fpExtract sig a).2 ∧ (fpExtract sig a).1 < f32.bound := by
  have hF := f32_usual
  have hfields : f32.fields = (8, 23) := rfl
  rcases kind_cases f32.fields a with ⟨hna, hia, hfa⟩ | ⟨hna, hia, hfa⟩ | ⟨hna, hia, hfa⟩
  · cases sig <;> simp [fpExtract, unpack_nan hF hna, ExtractedIs, ← hfields, hna, hfa, quiet_eq, fquiet_lt ha, invalidIf]
    decide
  · cases sig <;> simp [fpExtract, unpack_inf hia, ExtractedIs, ← hfields, hna, hia, hfa, signals, invalidIf, ha]
    decide
  · obtain ⟨m, e, hu, hm, hmlt, hm0, -, he⟩ := unpack_fin hF hfa
    rw [unitExp_f32, Nat.cast_ofNat] at hu
    by_cases h0 : m = 0
    · cases sig <;> simp [fpExtract, hu, h0, ExtractedIs, ← hfields, hna, hia, hfa, hm0.1 h0, signals, invalidIf, ha]
      decide
    · have hlog : (fint f32.fields a).natAbs.log2 = m.log2 + e := by
        rw [natAbs_fint, ← hm]
        refine (Nat.log2_eq_iff (by positivity)).2 ⟨?_, ?_⟩
        · rw [pow_add]
          exact Nat.mul_le_mul_right _ (Nat.log2_self_le h0)
        · rw [add_right_comm, pow_add]
          exact Nat.mul_lt_mul_of_pos_right Nat.lt_log2_self (Nat.two_pow_pos _)
      cases sig with
      | true =>
        obtain ⟨B, hB, hr, hval⟩ := fpExtract_significand (e := e) (neg := fneg f32.fields a) h0 hmlt
        have hlt : B < 2 ^ (f32.fields.1 + f32.fields.2) := hB.trans (finf_lt f32.fields)
        have hfp : fpExtract true a = (fsign f32.fields (fneg f32.fields a) B, 0) := by
          simp only [fpExtract, hu, if_neg h0, hr, if_true]
        have hfint : fint f32.fields (fsign f32.fields (fneg f32.fields a) B) * 2 ^ (m.log2 + e) = fint f32.fields a * 2 ^ 149 := by
          rw [fint_fsign _ hlt, fint_eq, ← hm]
          have hv : (magInt f32.wF B : Int) * 2 ^ (m.log2 + e) = m * 2 ^ e * 2 ^ 149 := by exact_mod_cast hval
          split
          · push_cast
            linear_combination -hv
          · push_cast
            linear_combination hv
        rw [hfp]
        have hff : ffin f32.fields (fsign f32.fields (fneg f32.fields a) B) = true := by
          rw [ffin_fsign _ hlt]
          exact decide_eq_true hB
        simp only [ExtractedIs, ← hfields, hna, hia, hm0.not.1 h0, hlog, hfint, unitExp_f32, hff, signals, invalidIf]
        exact ⟨⟨rfl, fsign_lt _ hlt, trivial, trivial⟩, fsign_lt _ hlt⟩
      | false =>
        have hl2 : (FVal.dy (.fin (fneg f32.fields a) m ((e : Int) - 149))).log2 = ((m.log2 + e : Nat) : Int) - 149 := by
          rw [Dy.log2]
          cases fneg f32.fields a <;> simp [FVal.dy] <;> ring
        have hfp : fpExtract false a = ((BitVec.ofInt 32 (((m.log2 + e : Nat) : Int) - 149)).toNat, 0) := by
          simp only [fpExtract, hu, if_neg h0, hl2, Bool.false_eq_true, if_false]
        rw [hfp]
        simp only [ExtractedIs, ← hfields, hfa, hm0.not.1 h0, hlog, unitExp_f32, Bool.true_eq_false, Bool.false_eq_true, if_false]
        exact ⟨⟨rfl, trivial⟩, BitVec.isLt _⟩

/-! ### Conversions (R90) -/

theorem fpConvert_gives {S D : Fmt} (hS : S.Usual) (hD : D.Usual) (mode : Rm) (a : Nat) :
    Gives D (ConvertedIs S.fields D.fields mode.code a) (convertFlags S.fields D.fields mode.code a) (fpConvert S D mode a) := by
  have hneg : decide (a / S.signBit % 2 = 1) = fneg S.fields a := (fneg_eq_decide_div S.fields a).symm
  rcases kind_cases S.fields a with ⟨hna, hia, hfa⟩ | ⟨hna, hia, hfa⟩ | ⟨hna, hia, hfa⟩
  · have hfrac : fmag S.fields a % 2 ^ S.wF = a % 2 ^ S.wF := (fraction_eq a S.wF S.wE).symm
    have hfr : a % 2 ^ S.wF < 2 ^ S.wF := Nat.mod_lt _ (Nat.two_pow_pos _)
    have hfrD : (if S.wF ≤ D.wF then a % 2 ^ S.wF * 2 ^ (D.wF - S.wF) else a % 2 ^ S.wF / 2 ^ (S.wF - D.wF)) < 2 ^ D.wF := by
      split
      · next hle =>
        calc a % 2 ^ S.wF * 2 ^ (D.wF - S.wF) < 2 ^ S.wF * 2 ^ (D.wF - S.wF) := Nat.mul_lt_mul_of_pos_right hfr (Nat.two_pow_pos _)
          _ = 2 ^ D.wF := by rw [← pow_add, Nat.add_sub_cancel' hle]
      · next hle =>
        refine Nat.div_lt_of_lt_mul ?_
        rwa [← pow_add, Nat.sub_add_cancel (by omega)]
    have hlt : ∀ x < 2 ^ D.wF, finf D.fields + x < 2 ^ (D.fields.1 + D.fields.2) := fun x hx => by
      calc finf D.fields + x < (2 ^ D.wE - 1) * 2 ^ D.wF + 2 ^ D.wF := Nat.add_lt_add_left hx _
        _ = 2 ^ (D.wE + D.wF) := by
          rw [← Nat.succ_mul, Nat.succ_eq_add_one, Nat.sub_add_cancel Nat.one_le_two_pow, pow_add]
    have hb := fquiet_lt (F := D) (fsign_lt (fneg S.fields a) (hlt _ hfrD))
    simp only [Gives, fpConvert, hneg, unpack_nan hS hna, ConvertedIs, convertFlags, hna, if_true, quiet_eq, signed_eq, infBits_eq,
      hfrac, invalidIf, true_and]
    exact hb
  · simp [Gives, fpConvert, hneg, unpack_inf hia, ConvertedIs, convertFlags, hna, hia, signed_eq, infBits_eq, inf_lt]
  · obtain ⟨m, e, hu, -⟩ := unpack_fin hS hfa
    have hst : Stands D (FVal.dy (.fin (fneg S.fields a) m ((e : Int) - unitExp S.fields))) (fint S.fields a * 2 ^ unitExp D.fields)
        (unitExp S.fields) := by
      rw [Stands, Int.cast_mul, ← fin_rat hS hfa hu]
      push_cast
      ring
    have hfp : fpConvert S D mode a =
        roundTo D (FVal.dy (.fin (fneg S.fields a) m ((e : Int) - unitExp S.fields))) mode (fneg S.fields a) := by
      simp only [fpConvert, hneg, hu]
    have h := roundTo_gives hD hst mode (fneg S.fields a)
    rw [hfp]
    simpa [Gives, ConvertedIs, convertFlags, hna, hia] using h

theorem fpOfInt_gives (hF : F.Usual) (mode : Rm) (i : Int) :
    Gives F (RoundsTo F.fields mode.code (i * 2 ^ unitExp F.fields) 0 false)
      (roundFlags F.fields mode.code (i * 2 ^ unitExp F.fields) 0) (fpOfInt F mode i) := by
  refine roundTo_gives hF ?_ mode false
  rw [Stands, Dy.rat_mk]
  push_cast
  simp

theorem fpToInt_is (hF : F.Usual) (mode : Rm) {lo hi : Int} (h : lo ≤ hi) (a : Nat) :
    TruncatedIs F.fields mode.code lo hi a (fpToInt F mode lo hi a).1 ∧
      TruncateFlags F.fields mode.code lo hi a (fpToInt F mode lo hi a).2 := by
  rcases kind_cases F.fields a with ⟨hna, hia, hfa⟩ | ⟨hna, hia, hfa⟩ | ⟨hna, hia, hfa⟩
  · simp [fpToInt, unpack_nan hF hna, TruncatedIs, TruncateFlags, hna]
  · simp [fpToInt, unpack_inf hia, TruncatedIs, TruncateFlags, hna, hia]
  · obtain ⟨m, e, hu, -⟩ := unpack_fin hF hfa
    have hrat := fin_rat hF hfa hu
    have hint := roundInt_intRounds hrat mode
    have hexact : (FVal.dy (.fin (fneg F.fields a) m ((e : Int) - unitExp F.fields))).eq
        ⟨roundInt (FVal.dy (.fin (fneg F.fields a) m ((e : Int) - unitExp F.fields))) mode, 0⟩ =
        decide (roundInt (FVal.dy (.fin (fneg F.fields a) m ((e : Int) - unitExp F.fields))) mode * 2 ^ unitExp F.fields
          = fint F.fields a) := by
      rw [Dy.eq_eq, decide_eq_decide, ← Int.cast_inj (α := ℚ), ← hrat, Int.cast_mul, Int.cast_pow, Int.cast_ofNat,
        mul_left_inj' (by positivity), eq_comm, Dy.rat_mk _ 0, zpow_zero, mul_one]
    simp only [fpToInt, hu, TruncatedIs, TruncateFlags, hna, hia, Bool.or_self, Bool.false_eq_true, if_false, hexact, decide_eq_true_eq]
    obtain ⟨i, hi'⟩ : ∃ i, i = roundInt (FVal.dy (.fin (fneg F.fields a) m ((e : Int) - unitExp F.fields))) mode := ⟨_, rfl⟩
    rw [← hi'] at hint ⊢
    refine ⟨⟨i, hint, ?_⟩, i, hint, ?_⟩
    · split_ifs <;> simp only [] <;> omega
    · by_cases h1 : i < lo
      · simp only [h1, true_or, if_true]
      · by_cases h2 : hi < i
        · simp only [h1, h2, or_true, if_true, if_false]
        · simp only [h1, h2, or_self, if_false]

end Sys2Proof.Machine
end

section
/-! SUPPORT. Roots and reciprocals (R86): reals known up to a sticky bit, which rounding and bracketing take for the true ones. -/

namespace Sys2Proof.Machine
open Sys2Proof Sys2Proof.Stated
variable {F : Fmt} {x : Dy} {a : Nat}

/-! ### Integer roots -/

theorem isqrtFrom_spec {i n r : Nat} (hlo : r * r ≤ n) (hhi : n < (r + 2 ^ (i + 1)) * (r + 2 ^ (i + 1))) :
    isqrtFrom i n r * isqrtFrom i n r ≤ n ∧ n < (isqrtFrom i n r + 1) * (isqrtFrom i n r + 1) := by
  induction i generalizing r with
  | zero =>
    rw [isqrtFrom]
    split
    · next h => exact ⟨h, hhi⟩
    · next h => exact ⟨hlo, not_le.1 h⟩
  | succ i ih =>
    rw [isqrtFrom]
    split
    · next h => exact ih h (by rwa [show r + 2 ^ (i + 1) + 2 ^ (i + 1) = r + 2 ^ (i + 1 + 1) by ring])
    · next h => exact ih hlo (not_le.1 h)

theorem isqrt_eq (n : Nat) : isqrt n = Nat.sqrt n := by
  have hlog : n < 2 ^ (n.log2 + 1) := Nat.lt_log2_self
  have h := isqrtFrom_spec (i := n.log2 / 2 + 1) (n := n) (r := 0) (Nat.zero_le _) (by
    rw [zero_add, ← pow_add]
    exact hlog.trans_le (Nat.pow_le_pow_right (by decide) (by omega)))
  exact Nat.eq_sqrt.2 h

/-! ### Sticky bits -/

/-- A number of few bits lies on one side of a real with a sticky bit as it does of every real that the bit stands for. -/
theorem short_cases {c q j : Nat} {w : Int} (hc : c < 2 ^ 25) (hq : 2 ^ 25 ≤ q) :
    ((c : ℝ) * 2 ^ j ≤ (2 * q : Nat) * 2 ^ w ∧ (c : ℝ) * 2 ^ j < (2 * q + 1 : Nat) * 2 ^ w) ∨
      (((2 * q + 2 : Nat) : ℝ) * 2 ^ w ≤ c * 2 ^ j ∧ ((2 * q + 1 : Nat) : ℝ) * 2 ^ w < c * 2 ^ j) := by
  have hw : (0 : ℝ) < 2 ^ w := zpow_pos (by norm_num) w
  have hstep : ((2 * q + 1 : Nat) : ℝ) * 2 ^ w < (2 * q + 2 : Nat) * 2 ^ w :=
    mul_lt_mul_of_pos_right (by exact_mod_cast Nat.lt_succ_self _) hw
  have hstep' : ((2 * q : Nat) : ℝ) * 2 ^ w < (2 * q + 1 : Nat) * 2 ^ w :=
    mul_lt_mul_of_pos_right (by exact_mod_cast Nat.lt_succ_self _) hw
  rcases le_or_gt w j with h | h
  · obtain ⟨d, hd⟩ : ∃ d : Nat, (j : Int) = d + w := ⟨(j - w).toNat, by omega⟩
    have hval : (c : ℝ) * 2 ^ j = (c * 2 ^ d : Nat) * 2 ^ w := by
      rw [← zpow_natCast, hd, zpow_add₀ (by norm_num), zpow_natCast]
      push_cast
      ring
    have hne : c * 2 ^ d ≠ 2 * q + 1 := by
      rcases Nat.eq_zero_or_pos d with rfl | hd0
      · simp only [pow_zero, mul_one]
        omega
      · obtain ⟨d', rfl⟩ := Nat.exists_eq_add_of_lt hd0
        rw [zero_add, pow_succ, ← mul_assoc]
        omega
    rw [hval]
    rcases Nat.lt_or_gt_of_ne hne with hlt | hgt
    · have hle : ((c * 2 ^ d : Nat) : ℝ) * 2 ^ w ≤ (2 * q : Nat) * 2 ^ w :=
        mul_le_mul_of_nonneg_right (by exact_mod_cast Nat.lt_succ_iff.1 hlt) hw.le
      exact .inl ⟨hle, hle.trans_lt hstep'⟩
    · have hle : ((2 * q + 2 : Nat) : ℝ) * 2 ^ w ≤ (c * 2 ^ d : Nat) * 2 ^ w :=
        mul_le_mul_of_nonneg_right (by exact_mod_cast hgt) hw.le
      exact .inr ⟨hle, hstep.trans_le hle⟩
  · have hle : (c : ℝ) * 2 ^ j ≤ (2 * q : Nat) * 2 ^ w := by
      have hjw : (2 : ℝ) ^ j ≤ 2 ^ w := by
        rw [← zpow_natCast]
        exact zpow_le_zpow_right₀ (by norm_num) h.le
      have hcq : (c : ℝ) ≤ (2 * q : Nat) := by exact_mod_cast (by omega : c ≤ 2 * q)
      exact mul_le_mul hcq hjw (by positivity) (Nat.cast_nonneg _)
    exact .inl ⟨hle, hle.trans_lt hstep'⟩

/-- T is the real that 2q + st stands for, in units of 2^w: q is its floor in units of 2^(w + 1), and st tells whether there is a rest. -/
def Sticky (q st : Nat) (w : Int) (T : ℝ) : Prop :=
  (st = 0 ∧ T = (2 * q : Nat) * 2 ^ w) ∨ (st = 1 ∧ (2 * q : Nat) * 2 ^ w < T ∧ T < (2 * q + 2 : Nat) * 2 ^ w)

/-- Numbers of few bits lie on the same side of the true real and of the one with the sticky bit, and equal both or none. -/
theorem Sticky.compare {q st j c : Nat} {w : Int} {T : ℝ} (h : Sticky q st w T) (hq : 2 ^ 25 ≤ q) (hc : c < 2 ^ 25) :
    ((c : ℝ) * 2 ^ j < (2 * q + st : Nat) * 2 ^ w ↔ (c : ℝ) * 2 ^ j < T) ∧
      ((c : ℝ) * 2 ^ j = (2 * q + st : Nat) * 2 ^ w ↔ (c : ℝ) * 2 ^ j = T) := by
  rcases h with ⟨rfl, rfl⟩ | ⟨rfl, hlo, hhi⟩
  · exact ⟨Iff.rfl, Iff.rfl⟩
  · rcases short_cases (j := j) (w := w) hc hq with ⟨h1, h2⟩ | ⟨h1, h2⟩
    · exact ⟨iff_of_true h2 (h1.trans_lt hlo), iff_of_false h2.ne (h1.trans_lt hlo).ne⟩
    · exact ⟨iff_of_false h2.not_gt (hhi.trans_le h1).not_gt, iff_of_false h2.ne' (hhi.trans_le h1).ne'⟩

theorem magInt_short (b : Nat) : ∃ c j, c < 2 ^ 24 ∧ magInt 23 b = c * 2 ^ j := by
  obtain ⟨e, n, rfl, hn, he⟩ := exists_block 23 b
  exact ⟨n, e, hn, magInt_block hn.le he⟩

/-- The sum of two neighbours, twice the middle between them. -/
theorem magInt_add_succ_short (b : Nat) :
    ∃ n j, n < 2 ^ 24 ∧ magInt 23 b = n * 2 ^ j ∧ magInt 23 b + magInt 23 (b + 1) = (2 * n + 1) * 2 ^ j ∧ (2 ^ 23 ≤ b → 2 ^ 23 ≤ n) := by
  obtain ⟨e, n, rfl, hn, he⟩ := exists_block 23 b
  refine ⟨n, e, hn, magInt_block hn.le he, ?_, fun hb => ?_⟩
  · rw [magInt_block hn.le he, add_assoc, magInt_block hn (by omega), Nat.succ_eq_add_one]
    ring
  · rcases he with rfl | he
    · omega
    · exact he

/-- The same for a rational with the sticky bit. -/
theorem Sticky.compare_rat {q st n : Nat} {w : Int} {T : ℝ} {Q : ℚ} (h : Sticky q st w T) (hq : 2 ^ 25 ≤ q)
    (hQ : Q = (2 * q + st : Nat) * 2 ^ w) (hn : ∃ c j, c < 2 ^ 25 ∧ n = c * 2 ^ j) :
    ((n : ℚ) < Q ↔ (n : ℝ) < T) ∧ ((n : ℚ) = Q ↔ (n : ℝ) = T) := by
  have hQR : (Q : ℝ) = (2 * q + st : Nat) * 2 ^ w := by
    rw [hQ]
    push_cast
    rfl
  obtain ⟨c, j, hc, rfl⟩ := hn
  obtain ⟨hlt, heq⟩ := h.compare (j := j) hq hc
  rw [← hQR] at hlt heq
  push_cast
  rw [← hlt, ← heq]
  constructor
  · exact_mod_cast Iff.rfl
  · exact_mod_cast Iff.rfl

theorem Sticky.compare_magInt {q st : Nat} {w : Int} {T : ℝ} {Q : ℚ} (h : Sticky q st w T) (hq : 2 ^ 25 ≤ q)
    (hQ : Q = (2 * q + st : Nat) * 2 ^ w) (y : Nat) :
    ((magInt 23 y : ℚ) < Q ↔ (magInt 23 y : ℝ) < T) ∧ ((magInt 23 y : ℚ) = Q ↔ (magInt 23 y : ℝ) = T) := by
  obtain ⟨c, j, hc, hy⟩ := magInt_short y
  exact h.compare_rat hq hQ ⟨c, j, by omega, hy⟩

/-- The pattern below a real with a sticky bit is the one below the true real. -/
theorem Sticky.floorPat {q st b : Nat} {w : Int} {T : ℝ} {Q : ℚ} (h : Sticky q st w T) (hq : 2 ^ 25 ≤ q)
    (hQ : Q = (2 * q + st : Nat) * 2 ^ w) (hb : FloorPat 23 Q b) :
    (magInt 23 b : ℝ) ≤ T ∧ T < magInt 23 (b + 1) ∧ ((magInt 23 b : ℚ) = Q ↔ (magInt 23 b : ℝ) = T) := by
  have hcmp := h.compare_magInt hq hQ
  obtain ⟨hlo, hhi⟩ := hb
  refine ⟨?_, ?_, (hcmp b).2⟩
  · rcases hlo.lt_or_eq with hlt | heq
    · exact ((hcmp b).1.1 hlt).le
    · exact ((hcmp b).2.1 heq).le
  · by_contra hle
    rcases (not_lt.1 hle).lt_or_eq with hlt | heq
    · exact absurd ((hcmp (b + 1)).1.2 hlt) hhi.not_gt
    · exact absurd ((hcmp (b + 1)).2.2 heq) hhi.ne'

/-! ### Bracketing -/

/-- Without overflow a directed mode takes the pattern at or below its real, and the next one where it goes away from zero. -/
theorem roundTo_directed (hx : x.m ≠ 0) {b : Nat} (hb : FloorPat 23 (x.units f32) b) (hfin : b + 1 < f32.infBits) {mode : Rm}
    (hn : mode.near = false) (z : Bool) : (roundTo f32 x mode z).1 = fsign f32.fields (decide (x.m < 0))
      (if mode.away (decide (x.m < 0)) = true ∧ (magInt 23 b : ℚ) ≠ x.units f32 then b + 1 else b) := by
  obtain ⟨b', hb', hr⟩ := roundTo_eq f32_usual mode z hx
  have hbb : b' = b := Nat.le_antisymm (hb.le_iff.2 hb'.1) (hb'.le_iff.2 hb.1)
  have hpat : roundPat 23 mode (decide (x.m < 0)) (x.units f32) b =
      if mode.away (decide (x.m < 0)) = true ∧ (magInt 23 b : ℚ) ≠ x.units f32 then b + 1 else b := by
    rw [roundPat, roundsUp_directed hn]
    simp only [ne_eq, partOf_eq_zero, Bool.and_eq_true, decide_eq_true_eq]
    split <;> rfl
  have hlt : roundPat f32.wF mode (decide (x.m < 0)) (x.units f32) b < f32.infBits := by
    rw [show f32.wF = 23 from rfl, hpat]
    split <;> omega
  rw [hr, roundedTo_fst, hbb, roundedMag, if_neg hlt.not_ge, ← hpat]
  rfl

/-- A value that brackets a real: the pattern at or below it, or the next one where it is not exact. -/
theorem pickBracket_cases (hx : x.m ≠ 0) {b : Nat} (hb : FloorPat 23 (x.units f32) b) (hfin : b + 1 < f32.infBits) (draw : Nat) :
    pickBracket x draw = fsign f32.fields (decide (x.m < 0)) b ∨
      (pickBracket x draw = fsign f32.fields (decide (x.m < 0)) (b + 1) ∧ (magInt 23 b : ℚ) ≠ x.units f32) := by
  have hlo := roundTo_directed hx hb hfin (mode := .rdn) rfl false
  have hhi := roundTo_directed hx hb hfin (mode := .rup) rfl false
  have hpick : pickBracket x draw = (roundTo f32 x .rdn false).1 ∨ pickBracket x draw = (roundTo f32 x .rup false).1 := by
    have hdef : pickBracket x draw = if (roundTo f32 x .rdn false).1 = (roundTo f32 x .rup false).1
        then (roundTo f32 x .rdn false).1
        else if Config.freeBit draw then (roundTo f32 x .rup false).1 else (roundTo f32 x .rdn false).1 := rfl
    rw [hdef]
    split
    · exact .inl rfl
    · split
      · exact .inr rfl
      · exact .inl rfl
  rcases hpick with h | h
  · rw [h, hlo]
    split
    · next hc => exact .inr ⟨rfl, hc.2⟩
    · exact .inl rfl
  · rw [h, hhi]
    split
    · next hc => exact .inr ⟨rfl, hc.2⟩
    · exact .inl rfl

theorem units_f32 (n : Nat) (w : Int) : (⟨n, w - 149⟩ : Dy).units f32 = n * 2 ^ w := by
  rw [Dy.units, Dy.abs_rat, mul_assoc, unitExp_f32, ← zpow_natCast, ← two_zpow_add, Int.natAbs_natCast]
  congr 2
  push_cast
  ring

/-- A bracketing value of a positive real with a sticky bit: its neighbours lie on both sides of the true real. -/
theorem pickBracket_sticky {q st : Nat} {w : Int} {T : ℝ} (h : Sticky q st w T) (hq : 2 ^ 25 ≤ q) {K : Nat} (hK : K + 1 < f32.infBits)
    (hT : T < magInt 23 K) (draw : Nat) :
    let r := pickBracket ⟨(2 * q + st : Nat), w - 149⟩ draw
    r ≤ K ∧ T < magInt 23 (r + 1) ∧ ∀ y < r, (magInt 23 y : ℝ) < T := by
  obtain ⟨D, hD⟩ : ∃ D : Dy, D = ⟨(2 * q + st : Nat), w - 149⟩ := ⟨_, rfl⟩
  have hm : D.m ≠ 0 := by
    rw [hD]
    simp only [ne_eq, Nat.cast_eq_zero]
    omega
  have hneg : decide (D.m < 0) = false := by
    rw [hD]
    simp
    omega
  have hQ : D.units f32 = (2 * q + st : Nat) * 2 ^ w := by
    rw [hD, units_f32]
  obtain ⟨b, hb, -⟩ := roundTo_eq f32_usual .rtz false hm
  obtain ⟨hlo, hhi, hexact⟩ := h.floorPat hq hQ hb
  have hbK : b < K := by
    have : (magInt 23 b : ℝ) < magInt 23 K := hlo.trans_lt hT
    exact magInt_lt_iff.1 (by exact_mod_cast this)
  have hpick := pickBracket_cases hm hb (by omega) draw
  rw [hneg, ne_eq, hexact] at hpick
  intro r
  have hr : r = pickBracket D draw := by rw [hD]
  rw [← hr] at hpick
  have hle : ∀ {y}, y < b → (magInt 23 y : ℝ) < T := fun hy => by
    have : (magInt 23 _ : ℝ) < magInt 23 b := Nat.cast_lt.2 (magInt_lt_iff.2 hy)
    exact this.trans_le hlo
  rcases hpick with hrb | ⟨hrb, hne⟩
  · have hrb' : r = b := hrb
    rw [hrb']
    exact ⟨hbK.le, hhi, fun y hy => hle hy⟩
  · have hrb' : r = b + 1 := hrb
    rw [hrb']
    refine ⟨hbK, hhi.trans (Nat.cast_lt.2 (magInt_lt_succ 23 (b + 1))), fun y hy => ?_⟩
    rcases Nat.lt_succ_iff_lt_or_eq.1 hy with hy | rfl
    · exact hle hy
    · exact lt_of_le_of_ne hlo hne

end Sys2Proof.Machine
end

section
/-! SUPPORT. `frcp`, `frsq` and `fsqrt` (R86). -/

namespace Sys2Proof.Machine
open Sys2Proof Sys2Proof.Stated
variable {a : Nat}

theorem sticky_of_floor {q st : Nat} {S : ℝ} (hlo : (q : ℝ) ≤ S) (hhi : S < q + 1)
    (hst : (st = 0 ∧ (q : ℝ) = S) ∨ (st = 1 ∧ (q : ℝ) ≠ S)) (w : Int) : Sticky q st w (S * 2 ^ (w + 1)) := by
  have hw : (0 : ℝ) < 2 ^ (w + 1) := zpow_pos (by norm_num) _
  have hdouble : ∀ n : Nat, ((2 * n : Nat) : ℝ) * 2 ^ w = n * 2 ^ (w + 1) := fun n => by
    rw [zpow_add_one₀ two_ne_zero]
    push_cast
    ring
  rcases hst with ⟨h, hS⟩ | ⟨h, hS⟩
  · exact .inl ⟨h, by rw [hdouble, hS]⟩
  · refine .inr ⟨h, ?_, ?_⟩
    · rw [hdouble]
      exact mul_lt_mul_of_pos_right (lt_of_le_of_ne hlo hS) hw
    · rw [show 2 * q + 2 = 2 * (q + 1) by ring, hdouble]
      exact mul_lt_mul_of_pos_right (by push_cast; exact hhi) hw

/-- A pattern without a sign. -/
theorem fint_of_lt {y : Nat} (h : y < 2 ^ 31) : fint (8, 23) y = magInt 23 y :=
  fint_fsign (F := (8, 23)) false h

/-- Numbers of f32 as statements about reals. -/
theorem fint_mul_lt {y : Nat} (h : y < 2 ^ 31) {T : ℝ} {n N : Nat} (hT : T * n = N) (hn : 0 < n) (hlt : (magInt 23 y : ℝ) < T) :
    fint (8, 23) y * n < N := by
  rw [fint_of_lt h]
  have : (magInt 23 y : ℝ) * n < N := by
    rw [← hT]
    exact mul_lt_mul_of_pos_right hlt (by exact_mod_cast hn)
  exact_mod_cast this

theorem lt_fint_mul {y : Nat} (h : y < 2 ^ 31) {T : ℝ} {n N : Nat} (hT : T * n = N) (hn : 0 < n) (hlt : T < magInt 23 y) :
    (N : Int) < fint (8, 23) y * n := by
  rw [fint_of_lt h]
  have : (N : ℝ) < magInt 23 y * n := by
    rw [← hT]
    exact mul_lt_mul_of_pos_right hlt (by exact_mod_cast hn)
  exact_mod_cast this

/-! ### `frcp` -/

/-- The model's quotient with its sticky bit stands for the reciprocal. -/
theorem sticky_rcp {m e : Nat} (hm : 0 < m) :
    Sticky (2 ^ 80 / m) (if 2 ^ 80 % m = 0 then 0 else 1) (217 - e) (2 ^ 298 / (m * 2 ^ e : Nat)) := by
  have hmR : (0 : ℝ) < m := by exact_mod_cast hm
  have hT : ((2 : ℝ) ^ 298 / (m * 2 ^ e : Nat)) = 2 ^ 80 / m * 2 ^ ((217 - e : Int) + 1) := by
    have hz : (2 : ℝ) ^ ((217 - e : Int) + 1) = 2 ^ 218 / 2 ^ e := by
      rw [show (217 - e : Int) + 1 = ((218 : Nat) : Int) - (e : Nat) by push_cast; ring, zpow_sub₀ two_ne_zero, zpow_natCast,
        zpow_natCast]
    rw [hz, div_mul_div_comm, ← pow_add]
    push_cast
    rfl
  have hdiv := Nat.div_add_mod (2 ^ 80) m
  have hmod := Nat.mod_lt (2 ^ 80) hm
  rw [hT]
  refine sticky_of_floor ?_ ?_ ?_ _
  · rw [le_div_iff₀ hmR]
    exact_mod_cast Nat.div_mul_le_self (2 ^ 80) m
  · rw [div_lt_iff₀ hmR]
    have : 2 ^ 80 < (2 ^ 80 / m + 1) * m := by rw [add_mul, mul_comm]; omega
    exact_mod_cast this
  · have heq : ((2 ^ 80 / m : Nat) : ℝ) = 2 ^ 80 / m ↔ 2 ^ 80 % m = 0 := by
      rw [eq_div_iff hmR.ne']
      constructor
      · intro h
        have : 2 ^ 80 / m * m = 2 ^ 80 := by exact_mod_cast h
        rw [mul_comm] at this
        omega
      · intro h
        exact_mod_cast Nat.div_mul_cancel (Nat.dvd_of_mod_eq_zero h)
    split
    · next h => exact .inl ⟨rfl, heq.2 h⟩
    · next h => exact .inr ⟨rfl, mt heq.1 h⟩

theorem finf_f32 : finf (8, 23) = 255 * 2 ^ 23 := rfl

/-- A number greater than 2^−128 whose reciprocal the model brackets. -/
theorem pickBracket_rcp {m e draw : Nat} (hm : 0 < m) (hlt : m < 2 ^ 24) (he : e ≤ 253) (hmin : 2 ^ 21 < m * 2 ^ e) :
    let r := pickBracket ⟨(2 * (2 ^ 80 / m) + (if 2 ^ 80 % m = 0 then 0 else 1) : Nat), -81 - ((e : Int) - 149)⟩ draw
    1 ≤ r ∧ r < finf (8, 23) ∧ fint (8, 23) (r - 1) * (m * 2 ^ e : Nat) < 2 ^ 298 ∧
      2 ^ 298 < fint (8, 23) (r + 1) * (m * 2 ^ e : Nat) := by
  have hn : 0 < m * 2 ^ e := by positivity
  have hq : 2 ^ 25 ≤ 2 ^ 80 / m := by
    rw [Nat.le_div_iff_mul_le hm]
    calc 2 ^ 25 * m ≤ 2 ^ 25 * 2 ^ 24 := Nat.mul_le_mul_left _ hlt.le
      _ ≤ 2 ^ 80 := by norm_num
  have hTn : ((2 : ℝ) ^ 298 / (m * 2 ^ e : Nat)) * (m * 2 ^ e : Nat) = (2 ^ 298 : Nat) := by
    rw [div_mul_cancel₀ _ (by exact_mod_cast hn.ne'), Nat.cast_pow, Nat.cast_ofNat]
  have hK : magInt 23 (254 * 2 ^ 23 + (2 ^ 23 - 2)) = (2 ^ 24 - 2) * 2 ^ 253 := by
    rw [show 254 * 2 ^ 23 + (2 ^ 23 - 2) = 253 * 2 ^ 23 + (2 ^ 24 - 2) by norm_num, magInt_block (by norm_num) (.inr (by norm_num))]
  have hTK : (2 : ℝ) ^ 298 / (m * 2 ^ e : Nat) < magInt 23 (254 * 2 ^ 23 + (2 ^ 23 - 2)) := by
    rw [hK, div_lt_iff₀ (by exact_mod_cast hn)]
    have : 2 ^ 298 < (2 ^ 24 - 2) * 2 ^ 253 * (m * 2 ^ e) := by
      calc 2 ^ 298 = 2 ^ 45 * 2 ^ 253 := pow_add 2 45 253
        _ < (2 ^ 24 - 2) * (2 ^ 21 + 1) * 2 ^ 253 := Nat.mul_lt_mul_of_pos_right (by norm_num) (Nat.two_pow_pos _)
        _ = (2 ^ 24 - 2) * 2 ^ 253 * (2 ^ 21 + 1) := Nat.mul_right_comm ..
        _ ≤ (2 ^ 24 - 2) * 2 ^ 253 * (m * 2 ^ e) := Nat.mul_le_mul_left _ hmin
    exact_mod_cast this
  have h := pickBracket_sticky (sticky_rcp (e := e) hm) hq (K := 254 * 2 ^ 23 + (2 ^ 23 - 2)) (by
    rw [show f32.infBits = 255 * 2 ^ 23 from rfl]; norm_num) hTK draw
  rw [show (217 - e : Int) - 149 = -81 - ((e : Int) - 149) by ring] at h
  intro r
  obtain ⟨hrK, hup, hdown⟩ := h
  have hr31 : r + 1 < 2 ^ 31 := by
    have hrK' : r ≤ 254 * 2 ^ 23 + (2 ^ 23 - 2) := hrK
    omega
  have hr1 : 1 ≤ r := by
    by_contra h0
    have hr0 : r = 0 := by omega
    have hone : (1 : ℝ) < 2 ^ 298 / (m * 2 ^ e : Nat) := by
      rw [lt_div_iff₀ (by exact_mod_cast hn), one_mul]
      have : m * 2 ^ e < 2 ^ 298 := by
        calc m * 2 ^ e < 2 ^ 24 * 2 ^ e := Nat.mul_lt_mul_of_pos_right hlt (Nat.two_pow_pos e)
          _ = 2 ^ (24 + e) := (pow_add ..).symm
          _ ≤ 2 ^ 298 := Nat.pow_le_pow_right (by decide) (by omega)
      rw [← Nat.cast_ofNat (R := ℝ) (n := 2), ← Nat.cast_pow]
      exact Nat.cast_lt.2 this
    have h1 : magInt 23 (r + 1) = 1 := by
      rw [hr0]
      exact magInt_of_lt (by norm_num)
    have hup' : (2 : ℝ) ^ 298 / (m * 2 ^ e : Nat) < magInt 23 (r + 1) := hup
    rw [h1, Nat.cast_one] at hup'
    exact hup'.not_gt hone
  refine ⟨hr1, ?_, ?_, ?_⟩
  · have hrK' : r ≤ 254 * 2 ^ 23 + (2 ^ 23 - 2) := hrK
    rw [finf_f32]
    omega
  · exact_mod_cast fint_mul_lt (by omega) hTn hn (hdown (r - 1) (by omega))
  · exact_mod_cast lt_fint_mul hr31 hTn hn hup

theorem fpRcp_is (ha : a < f32.bound) (draw : Nat) :
    ReciprocalIs a (fpRcp a draw).1 (fpRcp a draw).2 ∧ (fpRcp a draw).1 < f32.bound := by
  have hF := f32_usual
  have hfields : f32.fields = (8, 23) := rfl
  rcases kind_cases f32.fields a with ⟨hna, hia, hfa⟩ | ⟨hna, hia, hfa⟩ | ⟨hna, hia, hfa⟩
  · simp [fpRcp, unpack_nan hF hna, ReciprocalIs, ← hfields, hna, quiet_eq, fquiet_lt ha, invalidIf]
  · simp [fpRcp, unpack_inf hia, ReciprocalIs, ← hfields, hna, hia, signed_eq]
    exact fsign_lt _ (Nat.two_pow_pos _)
  · obtain ⟨m, e, hu, hm, hmlt, hm0, -, he⟩ := unpack_fin hF hfa
    rw [unitExp_f32, Nat.cast_ofNat] at hu
    by_cases h0 : m = 0
    · simp [fpRcp, hu, h0, ReciprocalIs, ← hfields, hna, hia, hm0.1 h0, signed_eq, infBits_eq, inf_lt]
    · have hsmall : Dy.le ⟨m, (e : Int) - 149⟩ ⟨1, -128⟩ = decide (fmag f32.fields a ≤ 0x00200000) := by
        have hz : (2 : ℚ) ^ ((e : Int) - 149) * 2 ^ (149 : Int) = 2 ^ e := by
          rw [← two_zpow_add, sub_add_cancel, zpow_natCast]
        rw [Dy.le_eq, decide_eq_decide, ← magInt_le_iff (p := f32.wF), ← hm, magInt_of_lt (show 0x00200000 < 2 ^ f32.wF by decide),
          ← mul_le_mul_iff_left₀ (two_zpow_pos 149), Dy.rat_mk, Dy.rat_mk, mul_assoc, hz, ← Nat.cast_le (α := ℚ)]
        rw [Int.cast_one, one_mul, ← two_zpow_add, Int.cast_natCast]
        push_cast
        norm_num
      by_cases hmin : fmag f32.fields a ≤ 0x00200000
      · simp [fpRcp, hu, h0, ReciprocalIs, ← hfields, hna, hia, hm0.not.1 h0, hsmall, hmin, signed_eq, infBits_eq, inf_lt]
      · have hmin' : 2 ^ 21 < m * 2 ^ e := by
          rw [hm]
          have h := magInt_lt_iff (p := f32.wF).2 (not_le.1 hmin)
          rwa [magInt_of_lt (show 0x00200000 < 2 ^ f32.wF by decide)] at h
        obtain ⟨h1, h2, h3, h4⟩ := pickBracket_rcp (draw := draw) (Nat.pos_of_ne_zero h0) hmlt he hmin'
        have hfp : fpRcp a draw = (fsign f32.fields (fneg f32.fields a)
            (pickBracket ⟨(2 * (2 ^ 80 / m) + (if 2 ^ 80 % m = 0 then 0 else 1) : Nat), -81 - ((e : Int) - 149)⟩ draw), 0) := by
          simp only [fpRcp, hu, if_neg h0, hsmall, decide_eq_true_eq, if_neg hmin, signed_eq]
        have hlt := h2.trans (finf_lt f32.fields)
        rw [hfp]
        simp only [ReciprocalIs, ← hfields, hna, hia, hm0.not.1 h0, hmin, fmag_fsign _ hlt, fneg_fsign _ hlt, natAbs_fint, unitExp_f32]
        exact ⟨⟨trivial, fsign_lt _ hlt, trivial, h1, h2, by rw [← hm]; exact h3, by rw [← hm]; exact h4⟩, fsign_lt _ hlt⟩

/-! ### Square roots -/

theorem sqrt_bounds (n : Nat) : ((Nat.sqrt n : Nat) : ℝ) ≤ √(n : ℝ) ∧ √(n : ℝ) < Nat.sqrt n + 1 :=
  ⟨Real.nat_sqrt_le_real_sqrt, Real.real_sqrt_lt_nat_sqrt_succ⟩

/-- An exponent in two halves: e = odd + 2h. -/
theorem zpow_half_sq (h : Int) : ((2 : ℝ) ^ h) ^ 2 = 2 ^ (2 * h) := by
  rw [← zpow_natCast, ← zpow_mul, mul_comm]
  rfl

/-- The model's root with its sticky bit stands for √(m × 2^e') × 2^(149 / 2), e' the exponent of the pattern. -/
theorem sticky_sqrt (m e : Nat) :
    let n := m * 2 ^ (2 * 64 + (((e : Int) - 149) % 2).toNat)
    Sticky (isqrt n) (if isqrt n * isqrt n = n then 0 else 1) ((((e : Int) - 149) - ((e : Int) - 149) % 2) / 2 - 64 - 1 + 149)
      √((m * 2 ^ e * 2 ^ 149 : Nat) : ℝ) := by
  intro n
  obtain ⟨hlo, hhi⟩ := sqrt_bounds n
  obtain ⟨h, hh⟩ : ∃ h : Int, h = (((e : Int) - 149) - ((e : Int) - 149) % 2) / 2 := ⟨_, rfl⟩
  have hT : √((m * 2 ^ e * 2 ^ 149 : Nat) : ℝ) = √(n : ℝ) * 2 ^ (h - 64 - 1 + 149 + 1) := by
    have hpos : (0 : ℝ) < 2 ^ (h - 64 - 1 + 149 + 1) := zpow_pos (by norm_num) _
    rw [← Real.sqrt_sq hpos.le, ← Real.sqrt_mul (Nat.cast_nonneg n), zpow_half_sq]
    congr 1
    have hz : (2 : ℝ) ^ e * 2 ^ 149 = 2 ^ (2 * 64 + (((e : Int) - 149) % 2).toNat) * 2 ^ (2 * (h - 64 - 1 + 149 + 1)) := by
      simp only [← zpow_natCast, ← zpow_add₀ (two_ne_zero (α := ℝ))]
      congr 1
      push_cast
      omega
    simp only [n, Nat.cast_mul, Nat.cast_pow, Nat.cast_ofNat]
    rw [mul_assoc, hz, mul_assoc]
  have hsq : (isqrt n : ℝ) = √(n : ℝ) ↔ isqrt n * isqrt n = n := by
    rw [eq_comm, Real.sqrt_eq_iff_mul_self_eq (Nat.cast_nonneg _) (Nat.cast_nonneg _), eq_comm]
    constructor
    · intro h
      exact_mod_cast h
    · intro h
      exact_mod_cast h
  rw [← hh, hT]
  refine sticky_of_floor (by rw [isqrt_eq]; exact hlo) (by rw [isqrt_eq]; exact hhi) ?_ _
  split
  · next h => exact .inl ⟨rfl, hsq.2 h⟩
  · next h => exact .inr ⟨rfl, mt hsq.1 h⟩

theorem div_rescale {x y z m p q : ℝ} (hm : m ≠ 0) (hp : p ≠ 0) (hq : q ≠ 0) (h : x * p = y * z * q) :
    x / (m * q) = y / (m * p) * z := by
  rw [div_mul_eq_mul_div, div_eq_div_iff (mul_ne_zero hm hq) (mul_ne_zero hm hp)]
  linear_combination m * h

/-- The model's root of the reciprocal with its sticky bit stands for √(2^447 / (m × 2^e')). -/
theorem sticky_rsq {m e : Nat} (hm : 0 < m) :
    let m' := m * 2 ^ (((e : Int) - 149) % 2).toNat
    let q := isqrt (2 ^ 160 / m')
    Sticky q (if q * q * m' = 2 ^ 160 then 0 else 1) (-81 - (((e : Int) - 149) - ((e : Int) - 149) % 2) / 2 + 149)
      √((2 : ℝ) ^ 447 / (m * 2 ^ e : Nat)) := by
  intro m' q
  have hm' : 0 < m' := Nat.mul_pos hm (Nat.two_pow_pos _)
  have hmR : (0 : ℝ) < m' := by exact_mod_cast hm'
  obtain ⟨h, hh⟩ : ∃ h : Int, h = (((e : Int) - 149) - ((e : Int) - 149) % 2) / 2 := ⟨_, rfl⟩
  have hT : √((2 : ℝ) ^ 447 / (m * 2 ^ e : Nat)) = √((2 : ℝ) ^ 160 / m') * 2 ^ (-81 - h + 149 + 1) := by
    have hpos : (0 : ℝ) < 2 ^ (-81 - h + 149 + 1) := zpow_pos (by norm_num) _
    have hz : (2 : ℝ) ^ 447 * 2 ^ (((e : Int) - 149) % 2).toNat = 2 ^ 160 * 2 ^ (2 * (-81 - h + 149 + 1)) * 2 ^ e := by
      simp only [← zpow_natCast, ← zpow_add₀ (two_ne_zero (α := ℝ))]
      congr 1
      push_cast
      omega
    have hsplit : (2 : ℝ) ^ 447 / (m * 2 ^ e : Nat) = 2 ^ 160 / m' * (2 ^ (-81 - h + 149 + 1)) ^ 2 := by
      rw [zpow_half_sq]
      simp only [m', Nat.cast_mul, Nat.cast_pow, Nat.cast_ofNat]
      exact div_rescale (by exact_mod_cast hm.ne') (pow_ne_zero _ two_ne_zero) (pow_ne_zero _ two_ne_zero) hz
    rw [hsplit, Real.sqrt_mul (by positivity), Real.sqrt_sq hpos.le]
  have hq0 : (0 : ℝ) ≤ q := Nat.cast_nonneg q
  have hqs : q = Nat.sqrt (2 ^ 160 / m') := isqrt_eq _
  have hle : q * q * m' ≤ 2 ^ 160 := by
    have := Nat.sqrt_le (2 ^ 160 / m')
    rw [← hqs] at this
    exact (Nat.mul_le_mul_right _ this).trans (Nat.div_mul_le_self _ _)
  have hlt : 2 ^ 160 < (q + 1) * (q + 1) * m' := by
    have h1 := Nat.lt_succ_sqrt (2 ^ 160 / m')
    rw [← hqs] at h1
    exact (Nat.div_lt_iff_lt_mul hm').1 h1
  have hsq : (q : ℝ) = √((2 : ℝ) ^ 160 / m') ↔ q * q * m' = 2 ^ 160 := by
    rw [eq_comm, Real.sqrt_eq_iff_mul_self_eq (by positivity) hq0, div_eq_iff hmR.ne', eq_comm]
    exact_mod_cast Iff.rfl
  rw [← hh, hT]
  refine sticky_of_floor ?_ ?_ ?_ _
  · refine Real.le_sqrt_of_sq_le ?_
    rw [le_div_iff₀ hmR, sq]
    exact_mod_cast hle
  · rw [Real.sqrt_lt' (by positivity), div_lt_iff₀ hmR, sq]
    exact_mod_cast hlt
  · split
    · next h => exact .inl ⟨rfl, hsq.2 h⟩
    · next h => exact .inr ⟨rfl, mt hsq.1 h⟩

/-! ### `frsq` -/

/-- Numbers of f32 as statements about squares of reals. -/
theorem fint_sq_mul_lt {y : Nat} (h : y < 2 ^ 31) {T : ℝ} {n N : Nat} (hT : T ^ 2 * n = N) (hn : 0 < n) (hlt : (magInt 23 y : ℝ) < T) :
    fint (8, 23) y ^ 2 * n < N := by
  rw [fint_of_lt h]
  have : (magInt 23 y : ℝ) ^ 2 * n < N := by
    rw [← hT]
    exact mul_lt_mul_of_pos_right (pow_lt_pow_left₀ hlt (Nat.cast_nonneg _) two_ne_zero) (by exact_mod_cast hn)
  exact_mod_cast this

theorem lt_fint_sq_mul {y : Nat} (h : y < 2 ^ 31) {T : ℝ} {n N : Nat} (hT : T ^ 2 * n = N) (hn : 0 < n) (h0 : 0 ≤ T)
    (hlt : T < magInt 23 y) : (N : Int) < fint (8, 23) y ^ 2 * n := by
  rw [fint_of_lt h]
  have : (N : ℝ) < (magInt 23 y : ℝ) ^ 2 * n := by
    rw [← hT]
    exact mul_lt_mul_of_pos_right (pow_lt_pow_left₀ hlt h0 two_ne_zero) (by exact_mod_cast hn)
  exact_mod_cast this

theorem magInt_two_pow (j : Nat) : magInt 23 (j * 2 ^ 23 + 2 ^ 23) = 2 ^ 23 * 2 ^ j :=
  magInt_block (by norm_num) (.inr le_rfl)

/-- A bracketing value of a root between 1 and 2^224. -/
theorem pickBracket_root {q st n N draw : Nat} {w : Int} {T : ℝ} (h : Sticky q st w T) (hq : 2 ^ 25 ≤ q) (hT : T ^ 2 * n = N)
    (h1 : 1 < T) (hlt : T < ((2 ^ 224 : Nat) : ℝ)) (hn : 0 < n) :
    let r := pickBracket ⟨(2 * q + st : Nat), w - 149⟩ draw
    1 ≤ r ∧ r < finf (8, 23) ∧ fint (8, 23) (r - 1) ^ 2 * n < N ∧ (N : Int) < fint (8, 23) (r + 1) ^ 2 * n := by
  have hK : magInt 23 (201 * 2 ^ 23 + 2 ^ 23) = 2 ^ 224 := by rw [magInt_two_pow, ← pow_add]
  have hbr := pickBracket_sticky h hq (K := 201 * 2 ^ 23 + 2 ^ 23) (by rw [show f32.infBits = 255 * 2 ^ 23 from rfl]; norm_num)
    (by rwa [hK]) draw
  intro r
  obtain ⟨hrK, hup, hdown⟩ : r ≤ 201 * 2 ^ 23 + 2 ^ 23 ∧ T < magInt 23 (r + 1) ∧ ∀ y < r, (magInt 23 y : ℝ) < T := hbr
  have hr1 : 1 ≤ r := by
    by_contra h0
    have hr0 : r = 0 := by omega
    rw [hr0, show magInt 23 (0 + 1) = 1 from magInt_of_lt (by norm_num), Nat.cast_one] at hup
    exact hup.not_gt h1
  refine ⟨hr1, ?_, fint_sq_mul_lt (by omega) hT hn (hdown (r - 1) (by omega)), lt_fint_sq_mul (by omega) hT hn (by linarith) hup⟩
  rw [finf_f32]
  omega

/-- A finite number of f32 in least positive numbers lies below 2^277. -/
theorem fin_f32_lt {m e : Nat} (hlt : m < 2 ^ 24) (he : e ≤ 253) : m * 2 ^ e < 2 ^ 277 := by
  calc m * 2 ^ e < 2 ^ 24 * 2 ^ e := Nat.mul_lt_mul_of_pos_right hlt (Nat.two_pow_pos e)
    _ = 2 ^ (24 + e) := (pow_add ..).symm
    _ ≤ 2 ^ 277 := Nat.pow_le_pow_right (by decide) (by omega)

theorem two_pow_25_le_isqrt {n : Nat} (h : 2 ^ 50 ≤ n) : 2 ^ 25 ≤ isqrt n := by
  rw [isqrt_eq, Nat.le_sqrt]
  exact h

/-- A positive number whose root's reciprocal the model brackets. -/
theorem pickBracket_rsq {m e draw : Nat} (hm : 0 < m) (hlt : m < 2 ^ 24) (he : e ≤ 253) :
    let m' := m * 2 ^ (((e : Int) - 149) % 2).toNat
    let q := isqrt (2 ^ 160 / m')
    let r := pickBracket ⟨(2 * q + (if q * q * m' = 2 ^ 160 then 0 else 1) : Nat),
      -81 - (((e : Int) - 149) - ((e : Int) - 149) % 2) / 2⟩ draw
    1 ≤ r ∧ r < finf (8, 23) ∧ fint (8, 23) (r - 1) ^ 2 * (m * 2 ^ e : Nat) < (2 ^ 447 : Nat) ∧
      ((2 ^ 447 : Nat) : Int) < fint (8, 23) (r + 1) ^ 2 * (m * 2 ^ e : Nat) := by
  intro m' q
  have hn : 0 < m * 2 ^ e := by positivity
  have hnR : (0 : ℝ) < (m * 2 ^ e : Nat) := Nat.cast_pos.2 hn
  have hm' : 0 < m' := Nat.mul_pos hm (Nat.two_pow_pos _)
  have hm'lt : m' < 2 ^ 25 := by
    have hodd : (((e : Int) - 149) % 2).toNat ≤ 1 := by omega
    calc m' ≤ m * 2 ^ 1 := Nat.mul_le_mul_left _ (Nat.pow_le_pow_right (by decide) hodd)
      _ < 2 ^ 25 := by omega
  have hq : 2 ^ 25 ≤ q := by
    refine two_pow_25_le_isqrt ((Nat.le_div_iff_mul_le hm').2 ?_)
    calc 2 ^ 50 * m' ≤ 2 ^ 50 * 2 ^ 25 := Nat.mul_le_mul_left _ hm'lt.le
      _ ≤ 2 ^ 160 := by norm_num
  have hpow : ∀ k : Nat, ((2 : ℝ) ^ k) = ((2 ^ k : Nat) : ℝ) := fun k => by rw [Nat.cast_pow, Nat.cast_ofNat]
  have hT : √((2 : ℝ) ^ 447 / (m * 2 ^ e : Nat)) ^ 2 * (m * 2 ^ e : Nat) = (2 ^ 447 : Nat) := by
    rw [Real.sq_sqrt (by positivity), div_mul_cancel₀ _ hnR.ne', hpow]
  have h1 : 1 < √((2 : ℝ) ^ 447 / (m * 2 ^ e : Nat)) := by
    rw [Real.lt_sqrt (by norm_num), one_pow, lt_div_iff₀ hnR, one_mul, hpow, Nat.cast_lt]
    exact (fin_f32_lt hlt he).trans (Nat.pow_lt_pow_right (by decide) (by decide))
  have h224 : √((2 : ℝ) ^ 447 / (m * 2 ^ e : Nat)) < ((2 ^ 224 : Nat) : ℝ) := by
    rw [Real.sqrt_lt' (Nat.cast_pos.2 (Nat.two_pow_pos _)), div_lt_iff₀ hnR, hpow, ← Nat.cast_pow, ← Nat.cast_mul, Nat.cast_lt, ← pow_mul]
    calc 2 ^ 447 < 2 ^ (224 * 2) := Nat.pow_lt_pow_right (by decide) (by decide)
      _ ≤ 2 ^ (224 * 2) * (m * 2 ^ e) := Nat.le_mul_of_pos_right _ hn
  have h := pickBracket_root (draw := draw) (sticky_rsq (e := e) hm) hq hT h1 h224 hn
  rwa [add_sub_cancel_right] at h

theorem fint_of_fneg_eq_false {F : Nat × Nat} {a : Nat} (h : fneg F a = false) : fint F a = (fint F a).natAbs :=
  (Int.natAbs_of_nonneg (fint_nonneg h)).symm

theorem fpRsq_is (ha : a < f32.bound) (draw : Nat) :
    InverseRootIs a (fpRsq a draw).1 (fpRsq a draw).2 ∧ (fpRsq a draw).1 < f32.bound := by
  have hF := f32_usual
  have hfields : f32.fields = (8, 23) := rfl
  rcases kind_cases f32.fields a with ⟨hna, hia, hfa⟩ | ⟨hna, hia, hfa⟩ | ⟨hna, hia, hfa⟩
  · simp [fpRsq, unpack_nan hF hna, InverseRootIs, ← hfields, hna, quiet_eq, fquiet_lt ha, invalidIf]
  · have hmag : fmag f32.fields a ≠ 0 := by
      rw [fisInf, decide_eq_true_eq] at hia
      rw [hia]
      decide
    cases hs : fneg f32.fields a with
    | true => simp [fpRsq, unpack_inf hia, InverseRootIs, ← hfields, hna, hs, hmag, defaultNan_eq, fnan_lt hF]
    | false => simp [fpRsq, unpack_inf hia, InverseRootIs, ← hfields, hna, hia, hs, hmag]
  · obtain ⟨m, e, hu, hm, hmlt, hm0, -, he⟩ := unpack_fin hF hfa
    rw [unitExp_f32, Nat.cast_ofNat] at hu
    by_cases h0 : m = 0
    · simp [fpRsq, hu, h0, InverseRootIs, ← hfields, hna, hm0.1 h0, signed_eq, infBits_eq, inf_lt]
    · cases hs : fneg f32.fields a with
      | true => simp [fpRsq, hu, h0, InverseRootIs, ← hfields, hna, hs, hm0.not.1 h0, defaultNan_eq, fnan_lt hF]
      | false =>
        obtain ⟨h1, h2, h3, h4⟩ := pickBracket_rsq (draw := draw) (Nat.pos_of_ne_zero h0) hmlt he
        have hfint : fint f32.fields a = (m * 2 ^ e : Nat) := by rw [fint_of_fneg_eq_false hs, natAbs_fint, hm]
        rw [Nat.cast_pow, Nat.cast_ofNat] at h3 h4
        simp only [InverseRootIs, ← hfields, hna, hm0.not.1 h0, hs, hia, hfint, unitExp_f32, fpRsq, hu, if_neg h0, Bool.false_eq_true,
          if_false]
        exact ⟨⟨trivial, h1, h2, h3, h4⟩, h2.trans (by decide)⟩

/-! ### `fsqrt` -/

theorem Sticky.double {q st : Nat} {w : Int} {T : ℝ} (h : Sticky q st w T) : Sticky q st (w + 1) (2 * T) := by
  have hw : ∀ x : ℝ, x * 2 ^ (w + 1) = 2 * (x * 2 ^ w) := fun x => by
    rw [zpow_add_one₀ two_ne_zero]
    ring
  rcases h with ⟨hst, hT⟩ | ⟨hst, hlo, hhi⟩
  · exact .inl ⟨hst, by rw [hw, hT]⟩
  · exact .inr ⟨hst, by rw [hw]; linarith, by rw [hw]; linarith⟩

/-- No root of a number of 24 bits is the middle between two neighbours. -/
theorem odd_sq_ne {n j m k : Nat} (hn : 2 ^ 12 ≤ n) (hm : 0 < m) (hlt : m < 2 ^ 24) : ((2 * n + 1) * 2 ^ j) ^ 2 ≠ m * 2 ^ k := by
  intro h
  have hdvd : (2 * n + 1) ^ 2 ∣ m * 2 ^ k := by
    rw [← h, mul_pow]
    exact Dvd.intro _ rfl
  have hcop : Nat.Coprime ((2 * n + 1) ^ 2) (2 ^ k) := by
    refine Nat.Coprime.pow _ _ ?_
    exact Nat.coprime_two_right.2 ⟨n, rfl⟩
  have hle := Nat.le_of_dvd hm (hcop.dvd_of_dvd_mul_right hdvd)
  nlinarith

/-- Rounded to nearest, a real with a sticky bit that is no middle lies strictly between the middles of the result. -/
theorem Sticky.between {q st b : Nat} {w : Int} {T : ℝ} {Q : ℚ} (h : Sticky q st w T) (hq : 2 ^ 25 ≤ q)
    (hQ : Q = (2 * q + st : Nat) * 2 ^ w) (hb : FloorPat 23 Q b) (hmid : 2 * T ≠ (magInt 23 b + magInt 23 (b + 1) : Nat)) (h1 : 1 ≤ b)
    {B : Nat} (hB : B = roundPat 23 .rne false Q b) :
    (magInt 23 (B - 1) + magInt 23 B : ℝ) < 2 * T ∧ 2 * T < magInt 23 B + magInt 23 (B + 1) := by
  obtain ⟨hlo, hhi, -⟩ := h.floorPat hq hQ hb
  obtain ⟨n, j, hn, -, hsum, -⟩ := magInt_add_succ_short b
  have hQ2 : 2 * Q = (2 * q + st : Nat) * 2 ^ (w + 1) := by
    rw [hQ, two_zpow_add, zpow_one]
    ring
  obtain ⟨hlt, heq⟩ := h.double.compare_rat hq hQ2 ⟨2 * n + 1, j, by omega, hsum⟩
  have hne : 2 * Q ≠ (magInt 23 b + magInt 23 (b + 1) : Nat) := fun he => hmid (heq.1 he.symm).symm
  have hpred : (magInt 23 (b - 1) : ℝ) < magInt 23 b := Nat.cast_lt.2 (magInt_lt_iff.2 (by omega))
  have hsucc : (magInt 23 (b + 1) : ℝ) < magInt 23 (b + 2) := Nat.cast_lt.2 (magInt_lt_succ 23 (b + 1))
  push_cast at hlt hne hmid
  rcases roundPat_cases 23 .rne false Q b with ⟨hr, hu⟩ | ⟨hr, hu⟩
  · rw [hr] at hB
    have hup : 2 * T ≤ magInt 23 b + magInt 23 (b + 1) := not_lt.1 fun hc =>
      (partOf_le_half.1 (le_roundsUp_near rfl hu)).not_gt (hlt.2 hc)
    rw [hB]
    exact ⟨by linarith, lt_of_le_of_ne hup hmid⟩
  · rw [hr] at hB
    have hdown : (magInt 23 b + magInt 23 (b + 1) : ℝ) < 2 * T :=
      hlt.1 (lt_of_le_of_ne (half_le_partOf.1 (roundsUp_near_le rfl hu)) hne.symm)
    rw [hB, Nat.add_sub_cancel]
    exact ⟨hdown, by linarith⟩

/-- The flags of `fsqrt`. -/
def rootFlags (a r : Nat) : FFlags :=
  let F := (8, 23)
  if fisNan F a then invalidIf (signals F a)
  else if fmag F a = 0 then 0
  else if fneg F a then flagNv
  else if fisInf F a = true ∨ fint F r ^ 2 = fint F a * 2 ^ unitExp F then 0
  else flagNx

/-- A natural number against a root. -/
theorem lt_sqrt_iff {k N : Nat} : (k : ℝ) < √(N : ℝ) ↔ k ^ 2 < N := by
  rw [Real.lt_sqrt (Nat.cast_nonneg k)]
  exact_mod_cast Iff.rfl

theorem sqrt_lt_iff {k N : Nat} : √(N : ℝ) < k ↔ N < k ^ 2 := by
  rw [Real.sqrt_lt (Nat.cast_nonneg N) (Nat.cast_nonneg k)]
  exact_mod_cast Iff.rfl

theorem eq_sqrt_iff {k N : Nat} : (k : ℝ) = √(N : ℝ) ↔ k ^ 2 = N := by
  rw [eq_comm, Real.sqrt_eq_iff_eq_sq (Nat.cast_nonneg N) (Nat.cast_nonneg k), eq_comm]
  exact_mod_cast Iff.rfl

/-- The root of a positive number is a real with a sticky bit. -/
theorem sqrtDy_sticky {m : Nat} (hm : 0 < m) (e : Nat) :
    ∃ (w : Int) (q st : Nat), sqrtDy m ((e : Int) - 149) = ⟨(2 * q + st : Nat), w - 149⟩ ∧ 2 ^ 25 ≤ q ∧
      Sticky q st w √((m * 2 ^ e * 2 ^ 149 : Nat) : ℝ) := by
  refine ⟨_, _, _, ?_, ?_, sticky_sqrt m e⟩
  · rw [add_sub_cancel_right]
    rfl
  · refine two_pow_25_le_isqrt ?_
    calc 2 ^ 50 ≤ 2 ^ (2 * 64 + (((e : Int) - 149) % 2).toNat) := Nat.pow_le_pow_right (by decide) (by omega)
      _ ≤ m * 2 ^ (2 * 64 + (((e : Int) - 149) % 2).toNat) := Nat.le_mul_of_pos_left _ hm

/-- The pattern below a root is that of a normal number, far below infinity. -/
theorem floor_sqrt_bounds {N b : Nat} (hlo : (magInt 23 b : ℝ) ≤ √(N : ℝ)) (hhi : √(N : ℝ) < magInt 23 (b + 1)) (hN : 2 ^ 149 ≤ N)
    (hN' : N < (2 ^ 213) ^ 2) : 2 ^ 23 ≤ b ∧ b < 190 * 2 ^ 23 + 2 ^ 23 := by
  constructor
  · by_contra hc
    have hle : magInt 23 (b + 1) ≤ magInt 23 (0 * 2 ^ 23 + 2 ^ 23) := magInt_le_iff.2 (by omega)
    rw [magInt_two_pow] at hle
    have h2 := (sqrt_lt_iff.1 hhi).trans_le (Nat.pow_le_pow_left hle 2)
    exact absurd (hN.trans_lt h2) (by norm_num)
  · rw [← magInt_lt_iff (p := 23), magInt_two_pow, ← pow_add]
    exact_mod_cast hlo.trans_lt (sqrt_lt_iff.2 hN')

/-- A root is no middle between two normal neighbours. -/
theorem two_sqrt_ne_middle {m e b : Nat} (hm : 0 < m) (hlt : m < 2 ^ 24) (hb : 2 ^ 23 ≤ b) :
    2 * √((m * 2 ^ e * 2 ^ 149 : Nat) : ℝ) ≠ (magInt 23 b + magInt 23 (b + 1) : Nat) := by
  obtain ⟨n, j, -, -, hsum, hn⟩ := magInt_add_succ_short b
  rw [hsum]
  intro h2
  refine odd_sq_ne (j := j) (k := e + 149 + 2) ((by norm_num : 2 ^ 12 ≤ 2 ^ 23).trans (hn hb)) hm hlt ?_
  have h3 : (((2 * n + 1) * 2 ^ j : Nat) : ℝ) ^ 2 = (4 * (m * 2 ^ e * 2 ^ 149) : Nat) := by
    rw [← h2, mul_pow, Real.sq_sqrt (Nat.cast_nonneg _)]
    push_cast
    ring
  have h4 : ((2 * n + 1) * 2 ^ j) ^ 2 = 4 * (m * 2 ^ e * 2 ^ 149) := by exact_mod_cast h3
  rw [h4, pow_add, pow_add]
  ring

theorem two_mul_sqrt_sq (N : Nat) : (2 * √(N : ℝ)) ^ 2 = (4 * N : Nat) := by
  rw [mul_pow, Real.sq_sqrt (Nat.cast_nonneg N)]
  push_cast
  norm_num

/-- The root of a positive number: its pattern and its flags. -/
theorem roundTo_sqrtDy {m e : Nat} (hm : 0 < m) (hlt : m < 2 ^ 24) (he : e ≤ 253) :
    let r := roundTo f32 (sqrtDy m ((e : Int) - 149)) .rne false
    let N := m * 2 ^ e * 2 ^ 149
    1 ≤ r.1 ∧ r.1 + 1 < finf (8, 23) ∧ (magInt 23 (r.1 - 1) + magInt 23 r.1) ^ 2 < 4 * N ∧
      4 * N < (magInt 23 r.1 + magInt 23 (r.1 + 1)) ^ 2 ∧ r.2 = if magInt 23 r.1 ^ 2 = N then 0 else flagNx := by
  intro r N
  obtain ⟨w, q, st, hD, hq, hS⟩ := sqrtDy_sticky hm e
  have hm0 : (sqrtDy m ((e : Int) - 149)).m ≠ 0 := by
    rw [hD]
    simp only [ne_eq, Nat.cast_eq_zero]
    omega
  have hneg : decide ((sqrtDy m ((e : Int) - 149)).m < 0) = false := by
    rw [hD, decide_eq_false_iff_not, not_lt]
    exact Int.natCast_nonneg _
  obtain ⟨Q, hQ⟩ : ∃ Q : ℚ, Q = (2 * q + st : Nat) * 2 ^ w := ⟨_, rfl⟩
  have hunits : (sqrtDy m ((e : Int) - 149)).units f32 = Q := by rw [hD, hQ, units_f32]
  obtain ⟨b, hb', hr⟩ := roundTo_eq f32_usual .rne false hm0
  rw [hunits, hneg] at hr
  rw [hunits] at hb'
  have hb : FloorPat 23 Q b := hb'
  obtain ⟨hlo, hhi, -⟩ := hS.floorPat hq hQ hb
  have hNlo : 2 ^ 149 ≤ N := Nat.le_mul_of_pos_left _ (by positivity)
  have hNhi : N < (2 ^ 213) ^ 2 := by
    calc N < 2 ^ 277 * 2 ^ 149 := Nat.mul_lt_mul_of_pos_right (fin_f32_lt hlt he) (Nat.two_pow_pos _)
      _ = (2 ^ 213) ^ 2 := by rw [← pow_add, ← pow_mul]
  obtain ⟨hbnormal, hbtop⟩ := floor_sqrt_bounds hlo hhi hNlo hNhi
  obtain ⟨hbelow, habove⟩ := hS.between hq hQ hb (two_sqrt_ne_middle hm hlt hbnormal) (by omega) rfl
  have hBle : roundPat 23 .rne false Q b ≤ b + 1 := by
    rcases roundPat_cases 23 .rne false Q b with ⟨h, -⟩ | ⟨h, -⟩ <;> omega
  have hbB : b ≤ roundPat 23 .rne false Q b := Nat.le_add_right _ _
  have hQlow : (2 : ℚ) ^ 23 ≤ Q := by
    have h2 : magInt 23 (0 * 2 ^ 23 + 2 ^ 23) ≤ magInt 23 b := magInt_le_iff.2 (by omega)
    rw [magInt_two_pow, pow_zero, mul_one] at h2
    have h3 : ((2 ^ 23 : Nat) : ℚ) ≤ magInt 23 b := Nat.cast_le.2 h2
    push_cast at h3
    exact h3.trans hb.1
  have htiny : tinyAt 23 .rne false Q = false := by
    simp only [tinyAt, Rm.near, if_true, decide_eq_false_iff_not, not_lt]
    norm_num at hQlow ⊢
    linarith
  have hflag : (magInt 23 b : ℚ) = Q ↔ magInt 23 (roundPat 23 .rne false Q b) ^ 2 = N := by
    rw [← hb.exact_iff .rne false, (hS.compare_magInt hq hQ _).2, eq_sqrt_iff]
  have hr' : r = (roundPat 23 .rne false Q b, if magInt 23 (roundPat 23 .rne false Q b) ^ 2 = N then 0 else flagNx) := by
    have hfin : ¬ f32.infBits ≤ roundPat f32.wF .rne false Q b := by
      rw [show f32.infBits = 255 * 2 ^ 23 from rfl, show f32.wF = 23 from rfl]
      omega
    rw [show r = _ from hr, roundedTo, if_neg hfin]
    simp only [show f32.wF = 23 from rfl, htiny, hflag]
    rfl
  rw [hr', finf_f32]
  refine ⟨by omega, by omega, ?_, ?_, rfl⟩
  · have h2 : ((magInt 23 (roundPat 23 .rne false Q b - 1) + magInt 23 (roundPat 23 .rne false Q b) : Nat) : ℝ) ^ 2 < (4 * N : Nat) := by
      rw [← two_mul_sqrt_sq]
      exact pow_lt_pow_left₀ (by exact_mod_cast hbelow) (Nat.cast_nonneg _) two_ne_zero
    exact_mod_cast h2
  · have h2 : ((4 * N : Nat) : ℝ) < ((magInt 23 (roundPat 23 .rne false Q b) + magInt 23 (roundPat 23 .rne false Q b + 1) : Nat) : ℝ) ^ 2 := by
      rw [← two_mul_sqrt_sq]
      exact pow_lt_pow_left₀ (by exact_mod_cast habove) (by positivity) two_ne_zero
    exact_mod_cast h2

theorem fpSqrt_is (ha : a < f32.bound) :
    RootIs a (fpSqrt a).1 ∧ (fpSqrt a).2 = rootFlags a (fpSqrt a).1 ∧ (fpSqrt a).1 < f32.bound := by
  have hF := f32_usual
  have hfields : f32.fields = (8, 23) := rfl
  rcases kind_cases f32.fields a with ⟨hna, hia, hfa⟩ | ⟨hna, hia, hfa⟩ | ⟨hna, hia, hfa⟩
  · simp [fpSqrt, unpack_nan hF hna, RootIs, rootFlags, ← hfields, hna, quiet_eq, fquiet_lt ha, invalidIf]
  · have hmag : fmag f32.fields a ≠ 0 := by
      rw [fisInf, decide_eq_true_eq] at hia
      rw [hia]
      decide
    cases hs : fneg f32.fields a with
    | true => simp [fpSqrt, unpack_inf hia, RootIs, rootFlags, ← hfields, hna, hs, hmag, defaultNan_eq, fnan_lt hF]
    | false => simp [fpSqrt, unpack_inf hia, RootIs, rootFlags, ← hfields, hna, hia, hs, hmag, ha]
  · obtain ⟨m, e, hu, hm, hmlt, hm0, -, he⟩ := unpack_fin hF hfa
    rw [unitExp_f32, Nat.cast_ofNat] at hu
    by_cases h0 : m = 0
    · simp [fpSqrt, hu, h0, RootIs, rootFlags, ← hfields, hna, hm0.1 h0, ha]
    · cases hs : fneg f32.fields a with
      | true => simp [fpSqrt, hu, h0, RootIs, rootFlags, ← hfields, hna, hs, hm0.not.1 h0, defaultNan_eq, fnan_lt hF]
      | false =>
        obtain ⟨h1, h2, h3, h4, h5⟩ := roundTo_sqrtDy (Nat.pos_of_ne_zero h0) hmlt he
        have hfint : fint f32.fields a = (m * 2 ^ e : Nat) := by rw [fint_of_fneg_eq_false hs, natAbs_fint, hm]
        have hfp : fpSqrt a = roundTo f32 (sqrtDy m ((e : Int) - 149)) .rne false := by simp [fpSqrt, hu, h0, hs]
        rw [hfp]
        generalize roundTo f32 (sqrtDy m ((e : Int) - 149)) .rne false = r at h1 h2 h3 h4 h5 ⊢
        have hlt : r.1 + 1 < 2 ^ 31 := h2.trans (by decide)
        have hn : (fint f32.fields a * 2 ^ 149 : Int) = (m * 2 ^ e * 2 ^ 149 : Nat) := by
          rw [hfint]
          push_cast
          rfl
        have hn4 : (4 * fint f32.fields a * 2 ^ 149 : Int) = (4 * (m * 2 ^ e * 2 ^ 149) : Nat) := by
          rw [mul_assoc, hn]
          push_cast
          rfl
        simp only [RootIs, rootFlags, ← hfields, hna, hm0.not.1 h0, hs, hia, unitExp_f32, if_false, Bool.false_eq_true, false_or, hn,
          hn4]
        rw [hfields, fint_of_lt (y := r.1 - 1) (by omega), fint_of_lt (y := r.1) (by omega), fint_of_lt hlt, h5]
        refine ⟨⟨h1, h2, by exact_mod_cast h3, by exact_mod_cast h4⟩, ?_, hlt.trans' (Nat.lt_succ_self _) |>.trans (by decide)⟩
        congr 1
        rw [eq_iff_iff]
        exact_mod_cast Iff.rfl

end Sys2Proof.Machine
end

section
/-! SUPPORT. Words that raise floating-point flags (R80, R81): what a completed per-lane or uniform word leaves in the sticky flags, and
its results and flags as those of its operation. -/

namespace Sys2Proof.Machine
open Sys2Proof Sys2Proof.Stated
variable {s : State} {id : Nat} {c d : Crew} {f : Form} {i : Instr} {mk : Form → Instr} {F : Fmt} {a b : Nat}

/-! ### Sticky flags -/

theorem getLsbD_foldl_or {w : Nat} (p : Nat → Bool) (g : Nat → BitVec w) (ls : List Nat) (x : BitVec w) (n : Nat) :
    (ls.foldl (fun acc l => if p l then acc ||| g l else acc) x).getLsbD n
      = (x.getLsbD n || ls.any (fun l => p l && (g l).getLsbD n)) := by
  induction ls generalizing x with
  | nil => simp
  | cons l ls ih =>
    rw [List.foldl_cons, ih, List.any_cons]
    cases p l with
    | false => simp
    | true => simp [Bool.or_assoc]

theorem Crew.getLsbD_laneFlags (c : Crew) (g : Nat → FFlags) (n : Nat) :
    (c.laneFlags g).getLsbD n = (List.range 32).any (fun l => c.isActive l && (g l).getLsbD n) := by
  rw [Crew.laneFlags, getLsbD_foldl_or]
  simp

theorem flagsAre_of_fxs {g : Nat → FFlags} (h : d.fxs = c.fxs ||| (c.laneFlags g).setWidth 64) : FlagsAre c d g := fun n hn => by
  rw [h, BitVec.getLsbD_or, BitVec.getLsbD_setWidth, c.getLsbD_laneFlags, decide_eq_true hn, Bool.true_and]

/-- Where no active lane raises a flag. -/
theorem flagsAre_zero (h : d.fxs = c.fxs) : FlagsAre c d (fun _ => 0) :=
  flagsAre_of_fxs (by rw [h, c.laneFlags_zero]; simp)

theorem Crew.raiseFlags_inner (c : Crew) (x : FFlags) : Inner c (c.raiseFlags x) := rfl

/-! ### Per-lane words -/

/-- A per-lane word that raises flags completes with its results and its flags. -/
theorem lanesRaised_complete {regs : Nat} {g : Crew → Crew} {r : Nat → DWord} {x : FFlags} (hr : Runs s id c) (hp : Ready c i f)
    (hexec : exec i s = runLocal i f s g) (hg : g c = (c.resultLanes f regs r).raiseFlags x) :
    ∃ d, exec i s = .next (After s id d) ∧ Passed c d f ∧ LaneResult c d f regs r ∧ d.fxs = c.fxs ||| x.setWidth 64 := by
  refine ⟨_, hexec.trans (runLocal_after hr hp), ?_⟩
  rw [hg]
  refine ⟨((c.resultLanes_inner f regs _).trans (Crew.raiseFlags_inner _ _)).passed f, c.resultLanes_laneResult f regs r, ?_⟩
  change (c.resultLanes f regs r).fxs ||| _ = _
  rw [c.resultLanes_fxs]

/-- The same where each lane raises its own flags. -/
theorem fltLanes_complete {regs : Nat} {g : Crew → Crew} {op : Nat → DWord × FFlags} (hr : Runs s id c) (hp : Ready c i f)
    (hexec : exec i s = runLocal i f s g) (hg : g c = c.fltLanes f regs op) :
    ∃ d, exec i s = .next (After s id d) ∧ Passed c d f ∧ LaneResult c d f regs (fun l => (op l).1) ∧ FlagsAre c d (fun l => (op l).2) := by
  obtain ⟨d, hd, hpass, hres, hfxs⟩ := lanesRaised_complete hr hp hexec hg
  exact ⟨d, hd, hpass, hres, flagsAre_of_fxs hfxs⟩

/-- A per-lane word whose operation is the same in each lane. -/
def LaneOp (i : Instr) (f : Form) (regs : Nat) (op : Crew → Nat → DWord × FFlags) : Prop :=
  ∃ g, (∀ s, exec i s = runLocal i f s g) ∧ ∀ c, g c = c.fltLanes f regs (op c)

theorem LaneOp.congr {regs : Nat} {op op' : Crew → Nat → DWord × FFlags} (h : LaneOp i f regs op) (he : ∀ c l, op c l = op' c l) :
    LaneOp i f regs op' := by rwa [← funext₂ he]

theorem LaneOp.lanesHave {regs : Nat} {op : Crew → Nat → DWord × FFlags} (h : LaneOp i f regs op) {allows : Crew → Nat → DWord → Prop}
    (hop : ∀ c l, allows c l (op c l).1) : LanesHave i f regs allows := by
  obtain ⟨g, hexec, hg⟩ := h
  intro s id c hr hp
  obtain ⟨d, hd, hpass, hres, -⟩ := fltLanes_complete hr hp (hexec s) (hg c)
  exact ⟨d, _, hd, hpass, hres, fun l _ _ => hop c l⟩

theorem LaneOp.lanesRaise {regs : Nat} {op : Crew → Nat → DWord × FFlags} (h : LaneOp i f regs op)
    {allows : Crew → Nat → Nat → FFlags → Prop} (hop : ∀ c l, allows c l (op c l).1.toNat (op c l).2) : LanesRaise i f allows := by
  obtain ⟨g, hexec, hg⟩ := h
  intro s id c hr hp
  obtain ⟨d, hd, -, ⟨hpush, -⟩, hfl⟩ := fltLanes_complete hr hp (hexec s) (hg c)
  refine ⟨d, _, hd, hfl, fun l hl ha => ?_⟩
  rw [hpush l hl, if_pos ha]
  exact hop c l

/-- A per-lane word without flags. -/
theorem lanesHave_of_result {regs : Nat} {g : Crew → Crew} {r : Crew → Nat → DWord} {allows : Crew → Nat → DWord → Prop}
    (hexec : ∀ s, exec i s = runLocal i f s g) (hg : ∀ c, g c = c.resultLanes f regs (r c)) (h : ∀ c, ∀ l < 32, c.isActive l = true → allows c l (r c l)) :
    LanesHave i f regs allows := by
  intro s id c hr hp
  obtain ⟨d, hd, hpass, hres⟩ := lanes_complete hr hp (hexec s) (hg c)
  exact ⟨d, r c, hd, hpass, hres, h c⟩

theorem uniformHas_of_result {g : Crew → Crew} {r : Crew → DWord} {allows : Crew → DWord → Prop}
    (hexec : ∀ s, exec i s = runLocal i f s g) (hg : ∀ c, g c = c.resultUniform f (r c)) (h : ∀ c, allows c (r c)) :
    UniformHas i f allows := by
  intro s id c hr hp
  obtain ⟨d, hd, hpass, hk, hpush⟩ := uniform_complete hr hp (hexec s) (hg c)
  exact ⟨d, r c, hd, hpass, h c, hk, hpush⟩

/-! ### Uniform words -/

/-- A uniform word with flags completes with its result and its flags. -/
theorem fltUniform_complete {g : Crew → Crew} {r : DWord} {x : FFlags} (hr : Runs s id c) (hp : Ready c i f)
    (hexec : exec i s = runLocal i f s g) (hg : g c = (c.resultUniform f r).raiseFlags x) :
    ∃ d, exec i s = .next (After s id d) ∧ Passed c d f ∧ d.kget f.dst.toNat = (if f.nd then r else c.kget f.dst.toNat) ∧
      (∀ l < 32, pushed d l = r) ∧ d.fxs = c.fxs ||| x.setWidth 64 := by
  refine ⟨_, hexec.trans (runLocal_after hr hp), ?_⟩
  rw [hg]
  refine ⟨((c.resultUniform_inner f r).trans (Crew.raiseFlags_inner _ _)).passed f, ?_, fun l hl => laneOf_lanesAll r hl, ?_⟩
  · change (if f.nd then c.kset f.dst.toNat r else c).kget f.dst.toNat = _
    split
    · exact c.kget_kset_same _ r
    · rfl
  · change (c.resultUniform f r).fxs ||| _ = _
    rw [c.resultUniform_fxs]

/-- A uniform word with one operation. -/
def UniOp (i : Instr) (f : Form) (op : Crew → DWord × FFlags) : Prop :=
  ∃ g, (∀ s, exec i s = runLocal i f s g) ∧ ∀ c, g c = (c.resultUniform f (op c).1).raiseFlags (op c).2

theorem UniOp.uniformHas {op : Crew → DWord × FFlags} (h : UniOp i f op) {allows : Crew → DWord → Prop} (hop : ∀ c, allows c (op c).1) :
    UniformHas i f allows := by
  obtain ⟨g, hexec, hg⟩ := h
  intro s id c hr hp
  obtain ⟨d, hd, hpass, hk, hpush, -⟩ := fltUniform_complete hr hp (hexec s) (hg c)
  exact ⟨d, _, hd, hpass, hop c, hk, hpush⟩

theorem UniOp.uniformRaises {op : Crew → DWord × FFlags} (h : UniOp i f op) {fl : Crew → Nat → FFlags}
    (hop : ∀ c, (op c).2 = fl c (op c).1.toNat) : UniformRaises i f fl := by
  obtain ⟨g, hexec, hg⟩ := h
  intro s id c hr hp
  obtain ⟨d, hd, -, -, hpush, hfxs⟩ := fltUniform_complete hr hp (hexec s) (hg c)
  exact ⟨d, hd, by rw [hfxs, hpush 0 (by decide), hop c]⟩

/-- A word that makes a mask and raises flags completes with its mask. -/
theorem maskFlags_complete {g : Crew → Crew} {p : Nat → Bool} {x : FFlags} (hr : Runs s id c) (hp : Ready c i f)
    (hd : f.dst.toNat ≤ 7) (hexec : exec i s = runLocal i f s g) (hg : g c = (c.resultMask f p).raiseFlags x) :
    ∃ d, exec i s = .next (After s id d) ∧ Passed c d f ∧
      (f.nd = true → ∀ l < 32, (d.mget f.dst.toNat).getLsbD l = (c.isActive l && p l)) ∧
      (f.nd = false → d.m = c.m) ∧ ∀ l < 32, pushed d l = if c.isActive l && p l then 1 else 0 := by
  have h8 : f.dst.toNat ≠ 8 := by omega
  refine ⟨_, hexec.trans (runLocal_after hr hp), ?_⟩
  rw [hg]
  refine ⟨((c.resultMask_inner f p).trans (Crew.raiseFlags_inner _ _)).passed f, fun hnd l hl => ?_, fun hnd => ?_, fun l hl => ?_⟩
  · change ((c.resultMreg f p).mget f.dst.toNat).getLsbD l = _
    rw [Crew.resultMreg, if_pos hnd, c.mget_mset_same _ h8, getLsbD_maskBy _ hl]
  · change (c.resultMreg f p).m = _
    rw [Crew.resultMreg, if_neg (ne_true_of_eq_false hnd)]
  · have h := (c.resultMreg f p).pushed_pushLanes (fun l => if p l then 1 else 0) hl
    rw [c.isActive_resultMreg p h8] at h
    refine h.trans ?_
    cases c.isActive l <;> simp

/-! ### Words of R81 -/

/-- The types of the float words. -/
abbrev floatTy (ty : Nat) : Prop := ty = 8 ∨ ty = 9 ∨ ty = 10

theorem bound_le_two_pow (ty : Nat) : (fmtOf ty).bound ≤ 2 ^ 32 := by
  unfold fmtOf
  split
  · decide
  · split <;> decide

theorem fbits_eq {ty : Nat} (h : floatTy ty) (x : Word) : fbits ty x = x.toNat % 2 ^ (1 + (fieldsOf ty).1 + (fieldsOf ty).2) := by
  rcases h with rfl | rfl | rfl
  · exact (Nat.mod_eq_of_lt x.isLt).symm
  · rfl
  · rfl

theorem bound_eq (ty : Nat) : (fmtOf ty).bound = 2 ^ (1 + (fieldsOf ty).1 + (fieldsOf ty).2) := by rw [← fmtOf_fields]

theorem fbitsAt_lt (c : Crew) (f : Form) (ty : Nat) (o : Operand) (l : Nat) : fbitsAt c f ty o l < (fmtOf ty).bound := by
  rw [bound_eq]
  exact Nat.mod_lt _ (Nat.two_pow_pos _)

theorem fbitsUni_lt (c : Crew) (f : Form) (o : Operand) : fbitsUni c f o < (fmtOf f.ty).bound := by
  rw [bound_eq]
  exact Nat.mod_lt _ (Nat.two_pow_pos _)

theorem toNat_ofNat_of_bound {ty r : Nat} (h : r < (fmtOf ty).bound) : (BitVec.ofNat 64 r).toNat = r := by
  rw [BitVec.toNat_ofNat, Nat.mod_eq_of_lt]
  exact h.trans_le ((bound_le_two_pow ty).trans (by decide))

section
variable {op : Fmt → Nat → Nat → Nat → Nat × FFlags} (hexec : ∀ s, exec i s = runLocal i f s (fltEff f op)) (hty : floatTy f.ty)
include hexec hty

theorem laneOp_of_fltEff (h5 : f.m5 = false) : LaneOp i f 1 (fun c l =>
    natPair (op (fmtOf f.ty) (fbitsAt c f f.ty f.a l) (fbitsAt c f f.ty f.b l) (fbitsAt c f f.ty f.c l))) :=
  ⟨_, hexec, fun c => by simp only [fltEff, h5, fbits_eq hty, fbitsAt, Bool.false_eq_true, if_false]⟩

theorem uniOp_of_fltEff (h5 : f.m5 = true) : UniOp i f (fun c =>
    natPair (op (fmtOf f.ty) (fbitsUni c f f.a) (fbitsUni c f f.b) (fbitsUni c f f.c))) :=
  ⟨_, hexec, fun c => by simp only [fltEff, h5, fbits_eq hty, fbitsUni, natPair, if_true]⟩

end

/-- An operation of R81 gives these results and these flags in every format. -/
def OpGives (op : Fmt → Nat → Nat → Nat → Nat × FFlags) (is : Nat × Nat → Nat → Nat → Nat → Nat → Prop)
    (fl : Nat × Nat → Nat → Nat → Nat → Nat → FFlags) : Prop :=
  ∀ ⦃F : Fmt⦄ ⦃a b c : Nat⦄, F.Usual → a < F.bound → b < F.bound → c < F.bound → Gives F (is F.fields a b c) (fl F.fields a b c) (op F a b c)

theorem OpGives.floatWord {op : Fmt → Nat → Nat → Nat → Nat × FFlags} {is : Nat × Nat → Nat → Nat → Nat → Nat → Prop}
    {fl : Nat × Nat → Nat → Nat → Nat → Nat → FFlags} (h : OpGives op is fl)
    (hexec : ∀ f s, exec (mk f) s = runLocal (mk f) f s (fltEff f op)) : FloatWord mk is := by
  intro f hty
  have hres : ∀ {a b c}, a < (fmtOf f.ty).bound → b < (fmtOf f.ty).bound → c < (fmtOf f.ty).bound →
      (BitVec.ofNat 64 (op (fmtOf f.ty) a b c).1).toNat < 2 ^ 32 ∧
        is (fieldsOf f.ty) a b c (BitVec.ofNat 64 (op (fmtOf f.ty) a b c).1).toNat := fun ha hb hc => by
    obtain ⟨h1, -, hlt⟩ := h (fmtOf_usual f.ty) ha hb hc
    rw [toNat_ofNat_of_bound hlt, ← fmtOf_fields]
    exact ⟨hlt.trans_le (bound_le_two_pow f.ty), h1⟩
  exact ⟨fun h5 => (laneOp_of_fltEff (hexec f) hty h5).lanesHave fun c l => hres (fbitsAt_lt ..) (fbitsAt_lt ..) (fbitsAt_lt ..),
    fun h5 => (uniOp_of_fltEff (hexec f) hty h5).uniformHas fun c => hres (fbitsUni_lt ..) (fbitsUni_lt ..) (fbitsUni_lt ..)⟩

theorem floatRaises_of_gives {op : Form → Fmt → Nat → Nat → Nat → Nat × FFlags} {is : Form → Nat × Nat → Nat → Nat → Nat → Nat → Prop}
    {fl : Form → Nat × Nat → Nat → Nat → Nat → Nat → FFlags} (h : ∀ f, OpGives (op f) (is f) (fl f))
    (hexec : ∀ f s, exec (mk f) s = runLocal (mk f) f s (fltEff f (op f))) : FloatRaises mk fl := by
  intro f hty
  have hfl : ∀ {a b c}, a < (fmtOf f.ty).bound → b < (fmtOf f.ty).bound → c < (fmtOf f.ty).bound →
      (op f (fmtOf f.ty) a b c).2 = fl f (fieldsOf f.ty) a b c (BitVec.ofNat 64 (op f (fmtOf f.ty) a b c).1).toNat := fun ha hb hc => by
    obtain ⟨-, h2, hlt⟩ := h f (fmtOf_usual f.ty) ha hb hc
    rw [toNat_ofNat_of_bound hlt, ← fmtOf_fields]
    exact h2
  exact ⟨fun h5 => (laneOp_of_fltEff (hexec f) hty h5).lanesRaise fun c l => hfl (fbitsAt_lt ..) (fbitsAt_lt ..) (fbitsAt_lt ..),
    fun h5 => (uniOp_of_fltEff (hexec f) hty h5).uniformRaises fun c => hfl (fbitsUni_lt ..) (fbitsUni_lt ..) (fbitsUni_lt ..)⟩

theorem fadd_opGives : OpGives (fun F a b _ => fpAdd F a b) (fun F a b _ => SumIs F a b) (fun F a b _ => sumFlags F a b) :=
  fun _ _ _ _ hF ha hb _ => fpAdd_gives hF ha hb
theorem fsub_opGives : OpGives (fun F a b _ => fpSub F a b) (fun F a b _ => DifferenceIs F a b) (fun F a b _ => differenceFlags F a b) :=
  fun _ _ _ _ hF ha hb _ => fpSub_gives hF ha hb
theorem fmul_opGives : OpGives (fun F a b _ => fpMul F a b) (fun F a b _ => ProductIs F a b) (fun F a b _ => productFlags F a b) :=
  fun _ _ _ _ hF ha hb _ => fpMul_gives hF ha hb
theorem ffma_opGives : OpGives fpFma FusedIs fusedFlags := fun _ _ _ _ hF ha hb hc => fpFma_gives hF ha hb hc
theorem fminmax_opGives (isMax : Bool) : OpGives (fun F a b _ => fpMinMax F isMax a b) (fun F a b _ r => r = pick F isMax a b)
    (fun F a b _ _ => invalidIf (signals F a || signals F b)) := fun _ _ _ _ hF ha hb _ => fpMinMax_gives hF isMax ha hb
theorem fclamp_opGives : OpGives fpClamp (fun F a b c r => r = clampBits F a b c)
    (fun F a b c _ => invalidIf (signals F a || signals F b || signals F c)) := fun _ _ _ _ hF ha hb hc => fpClamp_gives hF ha hb hc
theorem frnd_opGives (mode : Rm) : OpGives (fun F a _ _ => fpRound F mode a) (fun F a _ _ => RoundedIs F mode.code a)
    (fun F a _ _ _ => invalidIf (signals F a)) := fun _ _ _ _ hF ha _ _ => fpRound_gives hF mode ha
theorem fneg_opGives : OpGives (fun F a _ _ => (fpNeg F a, 0)) (fun _ _ _ _ _ => True) (fun _ _ _ _ _ => 0) :=
  fun _ _ _ _ _ ha _ _ => ⟨trivial, rfl, fpNeg_lt ha⟩
theorem fabs_opGives : OpGives (fun F a _ _ => (fpAbs F a, 0)) (fun _ _ _ _ _ => True) (fun _ _ _ _ _ => 0) :=
  fun _ _ _ _ _ ha _ _ => ⟨trivial, rfl, (Nat.mod_le _ _).trans_lt ha⟩

/-! ### Words of one float operand and a result (R84 to R88) -/

theorem modeOf_code (h : f.x.toNat % 8 < 5) : (modeOf f).code = f.x.toNat % 8 := code_ofCode h

theorem fclamp_lanes (hty : floatTy f.ty) (h5 : f.m5 = false) : LanesHave (.fclamp f) f 1 (fun c l v =>
    v.toNat = clampBits (fieldsOf f.ty) (fbitsAt c f f.ty f.a l) (fbitsAt c f f.ty f.b l) (fbitsAt c f f.ty f.c l)) := by
  refine (laneOp_of_fltEff (fun _ => rfl) hty h5).lanesHave fun c l => ?_
  obtain ⟨h1, -, hlt⟩ := fclamp_opGives (fmtOf_usual f.ty) (fbitsAt_lt c f f.ty f.a l) (fbitsAt_lt c f f.ty f.b l) (fbitsAt_lt c f f.ty f.c l)
  rw [← fmtOf_fields]
  exact (toNat_ofNat_of_bound hlt).trans h1

theorem frnd_lanes (hty : floatTy f.ty) (h5 : f.m5 = false) (hm : f.x.toNat % 8 < 5) : LanesHave (.frnd f) f 1 (fun c l v =>
    RoundedIs (fieldsOf f.ty) (f.x.toNat % 8) (fbitsAt c f f.ty f.a l) v.toNat) := by
  refine (laneOp_of_fltEff (fun _ => rfl) hty h5).lanesHave fun c l => ?_
  obtain ⟨h1, -, hlt⟩ := frnd_opGives (modeOf f) (fmtOf_usual f.ty) (fbitsAt_lt c f f.ty f.a l) (fbitsAt_lt c f f.ty f.b l)
    (fbitsAt_lt c f f.ty f.c l)
  rw [modeOf_code hm, fmtOf_fields] at h1
  exact (toNat_ofNat_of_bound hlt).symm ▸ h1

theorem fcls_lanes (hty : floatTy f.ty) : LanesHave (.fcls f) f 1 (fun c l v =>
    v.toNat = 2 ^ classOf (fieldsOf f.ty) (fbitsAt c f f.ty f.a l)) := by
  refine lanesHave_of_result (fun _ => rfl) (fun _ => rfl) fun c l _ _ => ?_
  have hclass : classOf (fieldsOf f.ty) (fbitsAt c f f.ty f.a l) < 64 := by
    unfold classOf
    split_ifs <;> decide
  rw [fpClass_eq (fmtOf_usual f.ty), fmtOf_fields, fbits_eq hty, BitVec.toNat_ofNat, Nat.mod_eq_of_lt]
  · rfl
  · exact Nat.pow_lt_pow_right (by decide) hclass

/-- What `fcmp` does to its crew. -/
theorem fcmp_effect (hty : floatTy f.ty) (s : State) : ∃ g, exec (.fcmp f) s = runLocal (.fcmp f) f s g ∧ ∀ c : Crew, g c =
    (c.resultMask f (fun l => fcond (fieldsOf f.ty) f.hi (fbitsAt c f f.ty f.a l) (fbitsAt c f f.ty f.b l) != f.xBit 0)).raiseFlags
      (c.laneFlags (fun l => compareFlags (fieldsOf f.ty) f.hi (fbitsAt c f f.ty f.a l) (fbitsAt c f f.ty f.b l))) :=
  ⟨_, rfl, fun c => by simp only [fpCmp_eq (fmtOf_usual f.ty), fmtOf_fields, fbits_eq hty, fbitsAt]⟩

theorem fcmp_mask (hty : floatTy f.ty) : MaskWord (.fcmp f) f (fun c l =>
    fcond (fieldsOf f.ty) f.hi (fbitsAt c f f.ty f.a l) (fbitsAt c f f.ty f.b l) != f.xBit 0) := by
  intro s id c hr hp hd
  obtain ⟨g, hexec, hg⟩ := fcmp_effect hty s
  exact maskFlags_complete hr hp hd hexec (hg c)

theorem fcmp_flags (hty : floatTy f.ty) : LanesRaise (.fcmp f) f (fun c l _ x =>
    x = compareFlags (fieldsOf f.ty) f.hi (fbitsAt c f f.ty f.a l) (fbitsAt c f f.ty f.b l)) := by
  intro s id c hr hp
  obtain ⟨g, hexec, hg⟩ := fcmp_effect hty s
  refine ⟨_, _, hexec.trans (runLocal_after hr hp), flagsAre_of_fxs ?_, fun _ _ _ => rfl⟩
  rw [hg]
  change (c.resultMask f _).fxs ||| _ = _
  rw [c.resultMask_fxs]

/-- A word of f32 alone. -/
theorem fbitsAt_f32 (c : Crew) (f : Form) (o : Operand) (l : Nat) : fbitsAt c f 8 o l = (c.src32 f 8 o l).toNat :=
  Nat.mod_eq_of_lt (c.src32 f 8 o l).isLt

end Sys2Proof.Machine
end

section
/-! PROOF. Values and flags of the floating-point words (R78 to R90, R99). -/

namespace Sys2Proof.Machine
open Sys2Proof Sys2Proof.Stated
variable {s : State} {id : Nat} {c d : Crew} {f : Form} {i : Instr} {mk : Form → Instr} {F : Fmt} {a b : Nat}

/-! ### Roots, scaling and parts (R86 to R88) -/

theorem src32_f32_lt (c : Crew) (f : Form) (ty : Nat) (o : Operand) (l : Nat) : (c.src32 f ty o l).toNat < f32.bound :=
  (c.src32 f ty o l).isLt

theorem toNat_ofNat_f32 {r : Nat} (h : r < f32.bound) : (BitVec.ofNat 64 r).toNat = r := toNat_ofNat_of_bound (ty := 8) h

theorem fsqrt_laneOp (f : Form) : LaneOp (.fsqrt f) f 1 (fun c l => natPair (fpSqrt (fbitsAt c f 8 f.a l))) :=
  ⟨_, fun _ => rfl, fun c => by simp only [fbitsAt_f32]⟩

theorem fscl_laneOp (f : Form) : LaneOp (.fscl f) f 1 (fun c l => natPair (fpScale (fbitsAt c f 8 f.a l) (c.src32 f 1 f.b l).toInt)) :=
  ⟨_, fun _ => rfl, fun c => by simp only [fbitsAt_f32]⟩

theorem fxtr_laneOp (f : Form) : LaneOp (.fxtr f) f 1 (fun c l => natPair (fpExtract f.m4 (c.src32 f 8 f.a l).toNat)) :=
  ⟨_, fun _ => rfl, fun _ => rfl⟩

theorem fsqrt_lanes (f : Form) : LanesHave (.fsqrt f) f 1 (fun c l v => RootIs (fbitsAt c f 8 f.a l) v.toNat) :=
  (fsqrt_laneOp f).lanesHave fun c l => by
    obtain ⟨h1, -, hlt⟩ := fpSqrt_is (fbitsAt_lt c f 8 f.a l)
    rwa [natPair, toNat_ofNat_f32 hlt]

theorem fsqrt_flags (f : Form) : LanesRaise (.fsqrt f) f (fun c l r x => x = rootFlags (fbitsAt c f 8 f.a l) r) :=
  (fsqrt_laneOp f).lanesRaise fun c l => by
    obtain ⟨-, h2, hlt⟩ := fpSqrt_is (fbitsAt_lt c f 8 f.a l)
    rwa [natPair, toNat_ofNat_f32 hlt]

theorem fscl_lanes (f : Form) :
    LanesHave (.fscl f) f 1 (fun c l v => ScaledIs (fbitsAt c f 8 f.a l) (c.src32 f 1 f.b l).toInt v.toNat) :=
  (fscl_laneOp f).lanesHave fun c l => by
    obtain ⟨h1, -, hlt⟩ := fpScale_gives (fbitsAt_lt c f 8 f.a l) (c.src32 f 1 f.b l).toInt
    rwa [natPair, toNat_ofNat_f32 hlt]

theorem fscl_flags (f : Form) : LanesRaise (.fscl f) f (fun c l r x =>
    let F := (8, 23)
    let a := fbitsAt c f 8 f.a l
    let n := (c.src32 f 1 f.b l).toInt
    x = if fisNan F a then invalidIf (signals F a)
      else if fisInf F a = true ∨ fmag F a = 0 then 0
      else roundFlags F 0 (fint F a * 2 ^ n.toNat) (-n).toNat r) :=
  (fscl_laneOp f).lanesRaise fun c l => by
    obtain ⟨-, h2, hlt⟩ := fpScale_gives (fbitsAt_lt c f 8 f.a l) (c.src32 f 1 f.b l).toInt
    rwa [natPair, toNat_ofNat_f32 hlt]

/-- R88: both parts that `fxtr` extracts, with their flags. -/
theorem floatParts : FloatParts := by
  intro f
  have hres : ∀ (c : Crew) (l : Nat), (BitVec.ofNat 64 (fpExtract f.m4 (c.src32 f 8 f.a l).toNat).1).toNat
      = (fpExtract f.m4 (c.src32 f 8 f.a l).toNat).1 := fun c l => toNat_ofNat_f32 (fpExtract_is f.m4 (src32_f32_lt c f 8 f.a l)).2
  refine ⟨(fxtr_laneOp f).lanesHave fun c l => ?_, (fxtr_laneOp f).lanesRaise fun c l => ?_⟩
  · obtain ⟨h1, hlt⟩ := fpExtract_is f.m4 (src32_f32_lt c f 8 f.a l)
    rw [natPair, hres]
    exact ⟨hlt, _, h1⟩
  · rw [natPair, hres]
    exact (fpExtract_is f.m4 (src32_f32_lt c f 8 f.a l)).1

/-! ### Conversions (R89, R90) -/

/-- The source of a `cvt` in a lane, at 64 bits. -/
def cvtSrc (c : Crew) (f : Form) (l : Nat) : DWord :=
  if ((cvtRegs f.modN).getD (1, 1)).1 = 2 then c.src64 f (cvtImmTy (cvtPair f.modN).2) f.a l
  else (c.src32 f (cvtImmTy (cvtPair f.modN).2) f.a l).setWidth 64

theorem cvt_laneOp (f : Form) : LaneOp (.cvt f) f ((cvtRegs f.modN).getD (1, 1)).2 (fun c l => cvtOne f.modN (modeOf f) (cvtSrc c f l)) :=
  ⟨_, fun _ => rfl, fun _ => rfl⟩

/-- The pairings of R89 in the model. -/
theorem floatPairs_eq : ∀ p ∈ floatPairs, cvtPair p.1 = (.flt (fmtOf p.2.1), .flt (fmtOf p.2.2)) ∧ cvtRegs p.1 = some (1, 1) ∧
    cvtImmTy (.flt (fmtOf p.2.2)) = p.2.2 := by decide

theorem fromPairs_eq : ∀ p ∈ fromPairs, cvtPair p.1 = (.flt (fmtOf p.2.1), .int p.2.2.1 p.2.2.2.1) ∧
    cvtRegs p.1 = some (if p.2.2.1 = 64 then 2 else 1, 1) ∧ cvtImmTy (.int p.2.2.1 p.2.2.2.1) = p.2.2.2.2 ∧
    (p.2.2.1 = 32 ∨ p.2.2.1 = 64) := by decide

theorem intoPairs_eq : ∀ p ∈ intoPairs, cvtPair p.1 = (.int p.2.1 p.2.2.1, .flt (fmtOf p.2.2.2)) ∧
    cvtRegs p.1 = some (1, if p.2.1 = 64 then 2 else 1) ∧ cvtImmTy (.flt (fmtOf p.2.2.2)) = p.2.2.2 ∧
    (p.2.1 = 8 ∨ p.2.1 = 16 ∨ p.2.1 = 32 ∨ p.2.1 = 64) := by decide

/-- A float source of `cvt`. -/
theorem cvtSrc_float {ty : Nat} {t : CvtTy} {n : Nat} (hpair : cvtPair f.modN = (t, .flt (fmtOf ty))) (hregs : cvtRegs f.modN = some (1, n))
    (hty : cvtImmTy (.flt (fmtOf ty)) = ty) (c : Crew) (l : Nat) :
    (cvtSrc c f l).toNat % 2 ^ (1 + (fmtOf ty).wE + (fmtOf ty).wF) = fbitsAt c f ty f.a l := by
  have hbound := bound_eq ty
  simp only [Fmt.bound] at hbound
  rw [cvtSrc, hpair, hregs, hty, hbound]
  simp only [Option.getD_some, fbitsAt]
  rw [if_neg (by decide), BitVec.toNat_setWidth_of_le (by decide)]

section
variable {p : Nat × Nat × Nat} (hp : p ∈ floatPairs) (hm : f.modN = p.1)
include hp hm

/-- A conversion between formats. -/
theorem cvt_float_laneOp : LaneOp (.cvt f) f 1 (fun c l =>
    natPair (fpConvert (fmtOf p.2.2) (fmtOf p.2.1) (modeOf f) (fbitsAt c f p.2.2 f.a l))) := by
  obtain ⟨hpair, hregs, hty⟩ := floatPairs_eq p hp
  rw [← hm] at hpair hregs
  have h := cvt_laneOp f
  rw [hregs] at h
  refine h.congr fun c l => ?_
  simp only [cvtOne, hpair, cvtSrc_float hpair hregs hty]

end

section
variable {p : Nat × Nat × Nat × Bool × Nat} (hp : p ∈ fromPairs) (hm : f.modN = p.1)
include hp hm

/-- A conversion from an integer. -/
theorem cvt_from_laneOp : LaneOp (.cvt f) f 1 (fun c l =>
    let x : DWord := if p.2.2.1 = 64 then c.src64 f p.2.2.2.2 f.a l else (c.src32 f p.2.2.2.2 f.a l).setWidth 64
    natPair (fpOfInt (fmtOf p.2.1) (modeOf f) (if p.2.2.2.1 then (x.setWidth p.2.2.1).toInt else x.toNat))) := by
  obtain ⟨hpair, hregs, hty, hw⟩ := fromPairs_eq p hp
  rw [← hm] at hpair hregs
  have h := cvt_laneOp f
  rw [hregs] at h
  refine h.congr fun c l => ?_
  have hsrc : cvtSrc c f l = if p.2.2.1 = 64 then c.src64 f p.2.2.2.2 f.a l else (c.src32 f p.2.2.2.2 f.a l).setWidth 64 := by
    rw [cvtSrc, hpair, hregs, hty]
    rcases hw with hw | hw
    · simp [hw]
    · simp [hw]
  have hmod : (cvtSrc c f l).toNat % 2 ^ p.2.2.1 = (cvtSrc c f l).toNat := by
    rcases hw with hw | hw
    · rw [hsrc, hw, if_neg (by decide), BitVec.toNat_setWidth_of_le (by decide)]
      exact Nat.mod_eq_of_lt (BitVec.isLt _)
    · rw [hw]
      exact Nat.mod_eq_of_lt (BitVec.isLt _)
  rw [hsrc] at hmod
  simp only [cvtOne, hpair, hsrc, hmod, BitVec.ofNat_toNat]

end

section
variable {p : Nat × Nat × Bool × Nat} (hp : p ∈ intoPairs) (hm : f.modN = p.1)
include hp hm

/-- A conversion to an integer. -/
theorem cvt_into_laneOp : LaneOp (.cvt f) f (if p.2.1 = 64 then 2 else 1) (fun c l =>
    let r := fpToInt (fmtOf p.2.2.2) (modeOf f) (if p.2.2.1 then -2 ^ (p.2.1 - 1) else 0)
      (if p.2.2.1 then 2 ^ (p.2.1 - 1) - 1 else 2 ^ p.2.1 - 1) (fbitsAt c f p.2.2.2 f.a l)
    (if p.2.1 = 64 then BitVec.ofInt 64 r.1 else (BitVec.ofInt 32 r.1).setWidth 64, r.2)) := by
  obtain ⟨hpair, hregs, hty, hw⟩ := intoPairs_eq p hp
  rw [← hm] at hpair hregs
  have h := cvt_laneOp f
  rw [hregs] at h
  refine h.congr fun c l => ?_
  have hstore : ∀ r : Int, BitVec.ofNat 64 (r % 2 ^ max p.2.1 32).toNat =
      if p.2.1 = 64 then BitVec.ofInt 64 r else (BitVec.ofInt 32 r).setWidth 64 := fun r => by
    have h32 : BitVec.ofNat 64 (r % 2 ^ 32).toNat = (BitVec.ofInt 32 r).setWidth 64 := by
      apply BitVec.eq_of_toNat_eq
      rw [BitVec.toNat_ofNat, BitVec.toNat_setWidth, BitVec.toNat_ofInt]
      rfl
    rcases hw with hw | hw | hw | hw
    · rw [hw]
      exact h32
    · rw [hw]
      exact h32
    · rw [hw]
      exact h32
    · rw [hw, if_pos rfl]
      apply BitVec.eq_of_toNat_eq
      rw [BitVec.toNat_ofNat, BitVec.toNat_ofInt, Nat.mod_eq_of_lt]
      · rfl
      · change (r % 2 ^ 64).toNat < 2 ^ 64
        omega
  have hrange : intRange p.2.1 p.2.2.1 = (if p.2.2.1 then -2 ^ (p.2.1 - 1) else 0, if p.2.2.1 then 2 ^ (p.2.1 - 1) - 1 else 2 ^ p.2.1 - 1) := by
    unfold intRange
    split <;> rfl
  simp only [cvtOne, hpair, cvtSrc_float hpair hregs hty, hstore, hrange]

end

/-- A range of integers holds one. -/
theorem range_le (w : Nat) (sg : Bool) :
    (if sg then -2 ^ (w - 1) else 0 : Int) ≤ if sg then 2 ^ (w - 1) - 1 else 2 ^ w - 1 := by
  have h1 : (1 : Int) ≤ 2 ^ (w - 1) := by exact_mod_cast Nat.one_le_two_pow
  have h2 : (1 : Int) ≤ 2 ^ w := by exact_mod_cast Nat.one_le_two_pow
  cases sg
  · simpa using h2
  · simp only [if_true]
    omega

section
variable (hmode : f.x.toNat % 8 < 5)
include hmode

theorem cvt_float {p : Nat × Nat × Nat} (hp : p ∈ floatPairs) (hm : f.modN = p.1) :
    LanesHave (.cvt f) f 1 (fun c l v => ConvertedIs (fieldsOf p.2.2) (fieldsOf p.2.1) (f.x.toNat % 8) (fbitsAt c f p.2.2 f.a l) v.toNat) ∧
      LanesRaise (.cvt f) f (fun c l r x =>
        x = convertFlags (fieldsOf p.2.2) (fieldsOf p.2.1) (f.x.toNat % 8) (fbitsAt c f p.2.2 f.a l) r) := by
  have hop := cvt_float_laneOp hp hm
  refine ⟨hop.lanesHave fun c l => ?_, hop.lanesRaise fun c l => ?_⟩
  all_goals
    obtain ⟨h1, h2, hlt⟩ := fpConvert_gives (fmtOf_usual p.2.2) (fmtOf_usual p.2.1) (modeOf f) (fbitsAt c f p.2.2 f.a l)
    rw [modeOf_code hmode, fmtOf_fields, fmtOf_fields] at h1 h2
    rw [natPair, toNat_ofNat_of_bound hlt]
  · exact h1
  · exact h2

theorem cvt_from {p : Nat × Nat × Nat × Bool × Nat} (hp : p ∈ fromPairs) (hm : f.modN = p.1) :
    LanesHave (.cvt f) f 1 (fun c l v =>
      let x : DWord := if p.2.2.1 = 64 then c.src64 f p.2.2.2.2 f.a l else (c.src32 f p.2.2.2.2 f.a l).setWidth 64
      let n : Int := if p.2.2.2.1 then (x.setWidth p.2.2.1).toInt else x.toNat
      RoundsTo (fieldsOf p.2.1) (f.x.toNat % 8) (n * 2 ^ unitExp (fieldsOf p.2.1)) 0 false v.toNat) ∧
    LanesRaise (.cvt f) f (fun c l r x =>
      let w : DWord := if p.2.2.1 = 64 then c.src64 f p.2.2.2.2 f.a l else (c.src32 f p.2.2.2.2 f.a l).setWidth 64
      let n : Int := if p.2.2.2.1 then (w.setWidth p.2.2.1).toInt else w.toNat
      x = roundFlags (fieldsOf p.2.1) (f.x.toNat % 8) (n * 2 ^ unitExp (fieldsOf p.2.1)) 0 r) := by
  have hop := cvt_from_laneOp hp hm
  refine ⟨hop.lanesHave fun c l => ?_, hop.lanesRaise fun c l => ?_⟩
  all_goals
    intro w n
    obtain ⟨h1, h2, hlt⟩ := fpOfInt_gives (fmtOf_usual p.2.1) (modeOf f) n
    rw [modeOf_code hmode, fmtOf_fields] at h1 h2
    rw [natPair, toNat_ofNat_of_bound hlt]
  · exact h1
  · exact h2

theorem cvt_into {p : Nat × Nat × Bool × Nat} (hp : p ∈ intoPairs) (hm : f.modN = p.1) :
    LanesHave (.cvt f) f (if p.2.1 = 64 then 2 else 1) (fun c l v =>
      let lo : Int := if p.2.2.1 then -2 ^ (p.2.1 - 1) else 0
      let hi : Int := if p.2.2.1 then 2 ^ (p.2.1 - 1) - 1 else 2 ^ p.2.1 - 1
      ∃ i, TruncatedIs (fieldsOf p.2.2.2) (f.x.toNat % 8) lo hi (fbitsAt c f p.2.2.2 f.a l) i ∧
        v = if p.2.1 = 64 then BitVec.ofInt 64 i else (BitVec.ofInt 32 i).setWidth 64) ∧
    LanesRaise (.cvt f) f (fun c l _ x =>
      let lo : Int := if p.2.2.1 then -2 ^ (p.2.1 - 1) else 0
      let hi : Int := if p.2.2.1 then 2 ^ (p.2.1 - 1) - 1 else 2 ^ p.2.1 - 1
      TruncateFlags (fieldsOf p.2.2.2) (f.x.toNat % 8) lo hi (fbitsAt c f p.2.2.2 f.a l) x) := by
  have hop := cvt_into_laneOp hp hm
  have his := fun c l => fpToInt_is (fmtOf_usual p.2.2.2) (modeOf f) (range_le p.2.1 p.2.2.1) (fbitsAt c f p.2.2.2 f.a l)
  simp only [modeOf_code hmode, fmtOf_fields] at his
  exact ⟨hop.lanesHave fun c l => ⟨_, (his c l).1, rfl⟩, hop.lanesRaise fun c l => (his c l).2⟩

end

/-- R78, R79, R81 to R87, R89, R90, R99: the values of the float words. -/
theorem floatRounding : FloatRounding := by
  refine ⟨fadd_opGives.floatWord fun _ _ => rfl, fsub_opGives.floatWord fun _ _ => rfl, fmul_opGives.floatWord fun _ _ => rfl,
    ffma_opGives.floatWord fun _ _ => rfl, (fminmax_opGives false).floatWord fun _ _ => rfl,
    (fminmax_opGives true).floatWord fun _ _ => rfl, ?_, fun f hty => fcmp_mask hty, fun f => ⟨fsqrt_lanes f, fscl_lanes f⟩, ?_⟩
  · exact fun f hty h5 => ⟨fclamp_lanes hty h5, frnd_lanes hty h5, fcls_lanes hty⟩
  · exact fun f hmode => ⟨fun p hp hm => (cvt_float hmode hp hm).1, fun p hp hm => (cvt_from hmode hp hm).1,
      fun p hp hm => (cvt_into hmode hp hm).1⟩

/-- R79, R80, R82, R83, R85 to R87, R90: the flags of the float words. -/
theorem floatFlags : FloatFlags := by
  refine ⟨floatRaises_of_gives (fun _ => fadd_opGives) fun _ _ => rfl, floatRaises_of_gives (fun _ => fsub_opGives) fun _ _ => rfl,
    floatRaises_of_gives (fun _ => fmul_opGives) fun _ _ => rfl, floatRaises_of_gives (fun _ => ffma_opGives) fun _ _ => rfl,
    floatRaises_of_gives (fun _ => fminmax_opGives false) fun _ _ => rfl,
    floatRaises_of_gives (fun _ => fminmax_opGives true) fun _ _ => rfl, floatRaises_of_gives (fun _ => fneg_opGives) fun _ _ => rfl,
    floatRaises_of_gives (fun _ => fabs_opGives) fun _ _ => rfl, floatRaises_of_gives (fun _ => fclamp_opGives) fun _ _ => rfl,
    floatRaises_of_gives (fun f => frnd_opGives (modeOf f)) fun _ _ => rfl, fun f hty => fcmp_flags hty,
    fun f => ⟨fsqrt_flags f, fscl_flags f⟩, ?_⟩
  exact fun f hmode => ⟨fun p hp hm => (cvt_float hmode hp hm).2, fun p hp hm => (cvt_from hmode hp hm).2,
    fun p hp hm => (cvt_into hmode hp hm).2⟩

end Sys2Proof.Machine
end

section
/-! PROOF. Values of the words across lanes and on masks (R130 to R132, R135 to R137). -/

namespace Sys2Proof.Machine
open Sys2Proof Sys2Proof.Stated
variable {s : State} {id : Nat} {c d : Crew} {f : Form} {i : Instr}

/-! ### Permutes and votes (R130 to R132) -/

theorem bne_eq_decide_ne (x y : Word) : (x != y) = decide (x ≠ y) := by simp [bne, beq_eq_decide]

theorem sum_map_range (n : Nat) (g : Nat → Nat) : ((List.range n).map g).sum = ∑ l ∈ Finset.range n, g l := rfl

theorem maskBy_eq (p : Nat → Bool) : maskBy p = bitsWhere p := by
  have hsum : ((List.range 32).map (fun l => if p l then 2 ^ l else 0)).sum = (maskBy p).toNat % 2 ^ 32 := by
    rw [← sum_bits, sum_map_range]
    refine Finset.sum_congr rfl fun l hl => ?_
    rw [BitVec.testBit_toNat, getLsbD_maskBy p (Finset.mem_range.1 hl)]
  rw [bitsWhere, hsum, Nat.mod_eq_of_lt (maskBy p).isLt, BitVec.ofNat_toNat, BitVec.setWidth_eq]

theorem perm_lanes (f : Form) : LanesHave (.perm f) f (regsOf f.ty) (fun c l v =>
    let i := (c.src32 f 0 f.b l).toNat
    v = if f.m4 = true ∧ 32 ≤ i then 0 else c.srcTy f f.ty f.a (i % 32)) :=
  lanesHave_of_result (fun _ => rfl) (fun _ => rfl) fun c l _ _ => by simp only [Bool.and_eq_true, decide_eq_true_eq]

theorem voteAny_uniform (f : Form) : UniformHas (.voteAny f) f (fun c v =>
    ((∃ l < 32, c.isActive l = true ∧ c.src32 f 0 f.a l ≠ 0) → v = 1) ∧
    ((∀ l < 32, c.isActive l = true → c.src32 f 0 f.a l = 0) → v = 0)) := by
  refine uniformHas_of_result (fun _ => rfl) (fun _ => rfl) fun c => ⟨fun ⟨l, hl, ha, hne⟩ => if_pos ?_, fun h => if_neg ?_⟩
  · exact List.any_eq_true.2 ⟨l, List.mem_range.2 hl, by simpa [ha] using hne⟩
  · rw [List.any_eq_true]
    rintro ⟨l, hl, hv⟩
    simp only [Bool.and_eq_true, bne_iff_ne] at hv
    exact hv.2 (h l (List.mem_range.1 hl) hv.1)

theorem voteAll_uniform (f : Form) : UniformHas (.voteAll f) f (fun c v =>
    ((∀ l < 32, c.isActive l = true → c.src32 f 0 f.a l ≠ 0) → v = 1) ∧
    ((∃ l < 32, c.isActive l = true ∧ c.src32 f 0 f.a l = 0) → v = 0)) := by
  refine uniformHas_of_result (fun _ => rfl) (fun _ => rfl) fun c => ⟨fun h => if_pos ?_, fun ⟨l, hl, ha, hz⟩ => if_neg ?_⟩
  · refine List.all_eq_true.2 fun l hl => ?_
    cases ha : c.isActive l with
    | false => rfl
    | true => simpa using h l (List.mem_range.1 hl) ha
  · rw [List.all_eq_true]
    intro hall
    simpa [ha, hz] using hall l (List.mem_range.2 hl)

theorem Crew.pushUniform_inner (c : Crew) (v : DWord) : Inner c (c.pushUniform v) := rfl

/-- What a ballot gives. -/
def ballotOf (c : Crew) (f : Form) : Word := bitsWhere (fun l => c.isActive l && ballotBit c f l)

theorem exec_voteBallot (f : Form) (s : State) : exec (.voteBallot f) s = runLocal (.voteBallot f) f s (fun c =>
    if f.m4 then (if f.nd then c.mset f.dst.toNat (ballotOf c f) else c).pushUniform ((ballotOf c f).setWidth 64)
    else c.resultUniform f ((ballotOf c f).setWidth 64)) := by
  have hbit : ∀ (c : Crew) (l : Nat), (if f.b = .zero then c.src32 f 0 f.a l != 0
      else (c.ballotSrc f l).getLsbD ((c.uni f 0 f.b).toNat % 64)) = ballotBit c f l := fun c l => by
    unfold ballotBit
    split
    · exact bne_eq_decide_ne _ _
    · rfl
  simp only [ballotOf, ← maskBy_eq, ← hbit]
  rfl

theorem voteBallot_uniform (h4 : f.m4 = false) : UniformHas (.voteBallot f) f (fun c v =>
    v = (bitsWhere (fun l => c.isActive l && ballotBit c f l)).setWidth 64) :=
  uniformHas_of_result (r := fun c => (ballotOf c f).setWidth 64) (exec_voteBallot f) (fun c => by rw [h4, if_neg Bool.false_ne_true])
    fun _ => rfl

theorem voteBallot_mask (h4 : f.m4 = true) (hnd : f.nd = true) (hd : f.dst.toNat ≤ 7) (hr : Runs s id c)
    (hp : Ready c (.voteBallot f) f) : ∃ d, exec (.voteBallot f) s = .next (After s id d) ∧ Passed c d f ∧
      d.mget f.dst.toNat = ballotOf c f ∧ d.k = c.k ∧ ∀ l < 32, pushed d l = (ballotOf c f).setWidth 64 := by
  have h8 : f.dst.toNat ≠ 8 := by omega
  refine ⟨_, (exec_voteBallot f s).trans (runLocal_after hr hp), ?_⟩
  simp only [h4, hnd, if_true]
  generalize ballotOf c f = w
  refine ⟨((c.mset_inner _ _).trans (Crew.pushUniform_inner _ _)).passed f, ?_, ?_, fun l hl => ?_⟩
  · change (c.mset f.dst.toNat w).mget f.dst.toNat = w
    exact c.mget_mset_same w h8
  · change (c.mset f.dst.toNat w).k = c.k
    rw [c.mset_low _ h8]
  · change laneOf (lanesAll (w.setWidth 64)) l = _
    exact laneOf_lanesAll _ hl

theorem permAndVotes : PermAndVotes := fun f =>
  ⟨perm_lanes f, voteAny_uniform f, voteAll_uniform f, voteBallot_uniform, fun h4 hnd hd _ _ _ hr hp => voteBallot_mask h4 hnd hd hr hp⟩

/-! ### Ranks (R135) -/

/-- How many below a bound meet a condition, counted in a longer range. -/
theorem countP_range_below {n l : Nat} (hl : l ≤ n) (p : Nat → Bool) :
    (List.range n).countP (fun j => p j && decide (j < l)) = (List.range l).countP p := by
  obtain ⟨k, rfl⟩ := Nat.exists_eq_add_of_le hl
  have hbelow : (List.range l).countP (fun j => p j && decide (j < l)) = (List.range l).countP p :=
    List.countP_congr fun j hj => by simp [List.mem_range.1 hj]
  have habove : ((List.range k).map (l + ·)).countP (fun j => p j && decide (j < l)) = 0 := by
    rw [List.countP_eq_zero]
    intro j hj
    obtain ⟨m, -, rfl⟩ := List.mem_map.1 hj
    simp
  rw [List.range_add, List.countP_append, hbelow, habove, Nat.add_zero]

theorem keyRanks : KeyRanks := by
  intro f
  refine lanesHave_of_result (fun _ => rfl) (fun _ => rfl) fun c l hl ha => ?_
  obtain ⟨p, hp⟩ : ∃ p : Nat → Bool, p = fun j => c.isActive j && c.src32 f 0 f.a j == c.src32 f 0 f.a l := ⟨_, rfl⟩
  have hpl : p l = true := by simp [hp, ha]
  obtain ⟨lead, hlead⟩ : ∃ lead, (List.range 32).find? p = some lead := by
    rw [← Option.isSome_iff_exists, List.find?_isSome]
    exact ⟨l, List.mem_range.2 hl, hpl⟩
  obtain ⟨h1, -, h2⟩ := List.find?_range_eq_some.1 hlead
  have hmin : ∀ j < lead, p j = false := fun j hj => by simpa using h2 j hj
  rw [hp] at h1 hmin
  refine ⟨lead, not_lt.1 fun hlt => by simp [hp, hmin l hlt] at hpl, h1, hmin, ?_⟩
  simp only [← hp]
  rw [← List.countP_eq_length_filter, ← List.countP_eq_length_filter, List.countP_filter, List.headD_eq_head?_getD, List.head?_filter,
    hlead]
  simp only [Bool.and_comm (decide _)]
  rw [countP_range_below hl.le]
  rfl

/-! ### Masks (R136, R137) -/

/-- A word that writes masks alone. -/
theorem masksAre_of {g : Crew → Crew} {em : Crew → Word} {mm : Crew → PMap Word} {m : Crew → Nat → Word}
    (hexec : ∀ s, exec i s = runLocal i f s g) (hg : ∀ c, g c = { c with em := em c, m := mm c })
    (hm : ∀ c, ∀ r < 8, pget 0 (mm c) r = m c r) : MasksAre i f em m := by
  intro s id c hr hp
  refine ⟨_, (hexec s).trans (runLocal_after hr hp), ?_⟩
  rw [hg]
  exact ⟨⟨rfl, rfl, rfl, rfl, rfl⟩, rfl, fun r hr => (if_neg (by omega)).trans (hm c r hr), rfl, rfl, rfl⟩

theorem Crew.mget_of_lt (c : Crew) {r : Nat} (h : r < 8) : c.mget r = pget 0 c.m r := if_neg (by omega)

theorem pget_pset_mask (c : Crew) {n r : Nat} (x : Word) (hr : r < 8) : pget 0 (pset 0 c.m n x) r = if r = n then x else c.mget r := by
  split
  · next h => rw [h, pget_pset_same]
  · next h => rw [pget_pset_other _ _ x h, c.mget_of_lt hr]

/-- A mask word writes its mask register, or `em`. -/
theorem masksAre_mset {x : Crew → Word} (hexec : ∀ s, exec i s = runLocal i f s (fun c => c.mset f.dst.toNat (x c))) :
    MasksAre i f (fun c => if f.dst.toNat = 8 then x c else c.em) (fun c r => if r = f.dst.toNat then x c else c.mget r) := by
  by_cases h8 : f.dst.toNat = 8
  · refine masksAre_of (mm := fun c => c.m) hexec (fun c => by simp [Crew.mset, h8]) fun c r hr => ?_
    rw [if_neg (by omega), c.mget_of_lt hr]
  · exact masksAre_of (mm := fun c => pset 0 c.m f.dst.toNat (x c)) hexec (fun c => by simp [Crew.mset, h8])
      fun c r hr => pget_pset_mask c _ hr

/-- The execution mask changes, the old one saved below it. -/
theorem masksAre_save {x : Crew → Word} (hd : f.dst.toNat ≤ 7)
    (hexec : ∀ s, exec i s = runLocal i f s (fun c => { c.mset f.dst.toNat c.em with em := x c })) :
    MasksAre i f x (fun c r => if r = f.dst.toNat then c.em else c.mget r) := by
  have h8 : f.dst.toNat ≠ 8 := by omega
  exact masksAre_of (mm := fun c => pset 0 c.m f.dst.toNat c.em) hexec (fun c => by simp [Crew.mset, h8])
    fun c r hr => pget_pset_mask c _ hr

theorem masksAre_em {x : Crew → Word} (hexec : ∀ s, exec i s = runLocal i f s (fun c => { c with em := x c })) :
    MasksAre i f x (fun c r => c.mget r) :=
  masksAre_of (mm := fun c => c.m) hexec (fun _ => rfl) fun c _ hr => (c.mget_of_lt hr).symm

theorem mcnt_uniform (f : Form) :
    UniformWord (.mcnt f) f (fun c => BitVec.ofNat 64 ((List.range 32).countP (c.maskSrc f.a).getLsbD)) := fun s _ c hr hp =>
  uniform_complete hr hp (show exec (.mcnt f) s = execMcnt f s from rfl) (by rw [popBits_eq]; rfl)

theorem mmovToUniform_result (hr : Runs s id c) (hp : Ready c (.mmovToUniform f) f) :
    ∃ d, exec (.mmovToUniform f) s = .next (After s id d) ∧ Passed c d f ∧ d.hist = c.hist ∧ d.em = c.em ∧ d.m = c.m ∧
      d.kget f.dst.toNat = if f.nd then (c.maskSrc f.a).setWidth 64 else c.kget f.dst.toNat := by
  refine ⟨_, Eq.trans (show _ = execMmovToUniform f s from rfl) (runLocal_after hr hp), ?_⟩
  cases f.nd
  · exact ⟨⟨rfl, rfl, rfl, rfl, rfl⟩, rfl, rfl, rfl, rfl⟩
  · exact ⟨⟨rfl, rfl, rfl, rfl, rfl⟩, rfl, rfl, rfl, c.kget_kset_same _ _⟩

theorem mskIf_masks (hd : f.dst.toNat ≤ 7) :
    MasksAre (.mskIf f) f (fun c => bitsWhere (fun l => c.isActive l && decide (c.src32 f 0 f.a l ≠ 0)))
      (fun c r => if r = f.dst.toNat then c.em else c.mget r) :=
  masksAre_save hd fun s => by
    simp only [← maskBy_eq, ← bne_eq_decide_ne]
    rfl

theorem maskWords : MaskWords := by
  intro f
  refine ⟨fun hd => ⟨mskIf_masks hd, masksAre_save hd fun _ => rfl⟩, masksAre_em fun _ => rfl, masksAre_em fun _ => rfl, ?_,
    mcnt_uniform f, fun s id c hr hp => mmovToUniform_result hr hp⟩
  simp only [List.forall_mem_cons, List.not_mem_nil, false_imp_iff, implies_true, and_true]
  exact ⟨fun _ _ => masksAre_mset fun _ => rfl, fun _ _ => masksAre_mset fun _ => rfl, fun _ _ => masksAre_mset fun _ => rfl,
    fun _ _ => masksAre_mset fun _ => rfl, fun _ _ => masksAre_mset fun _ => rfl, fun _ _ => masksAre_mset fun _ => rfl⟩

end Sys2Proof.Machine
end

section
/-! PROOF. Values and flags of the packed words (R80, R127 to R129). -/

namespace Sys2Proof.Machine
open Sys2Proof Sys2Proof.Stated
variable {s : State} {id : Nat} {c d : Crew} {f : Form} {i : Instr} {mk : Form → Instr}

/-! ### Pairs of halves -/

/-- Two halves with their flags as a lane's result. -/
def packed (p q : Half × FFlags) : DWord × FFlags := ((halves p.1 q.1).setWidth 64, p.2 ||| q.2)

/-- A packed word whose operation on a half is `one` (R127). -/
def PackOp (i : Instr) (f : Form) (one : Half → Half → Half → Half × FFlags) : Prop :=
  LaneOp i f 1 (fun c l => packed (one (halfOf c f f.a l 0) (halfOf c f f.b l 0) (halfOf c f f.c l 0))
    (one (halfOf c f f.a l 1) (halfOf c f f.b l 1) (halfOf c f f.c l 1)))

theorem packed_halves (p q : Half × FFlags) :
    (packed p q).1.toNat / 2 ^ (16 * 0) % 2 ^ 16 = p.1.toNat ∧ (packed p q).1.toNat / 2 ^ (16 * 1) % 2 ^ 16 = q.1.toNat := by
  have hp := p.1.isLt
  have hq := q.1.isLt
  have h : (packed p q).1.toNat = q.1.toNat * 2 ^ 16 + p.1.toNat := by
    rw [packed, halves, BitVec.toNat_setWidth_of_le (by decide), BitVec.toNat_append, Nat.shiftLeft_eq, Nat.mul_comm,
      ← Nat.two_pow_add_eq_or_of_lt hp, Nat.mul_comm]
  rw [h]
  omega

section
variable {one : Half → Half → Half → Half × FFlags} (h : PackOp i f one)
include h

theorem PackOp.lanesRaise {fl : Nat → Nat → Nat → Nat → FFlags}
    (hone : ∀ a b x, (one a b x).2 = fl a.toNat b.toNat x.toNat (one a b x).1.toNat) :
    LanesRaise i f (fun c l r x =>
      let g (h : Nat) : FFlags := fl (halfOf c f f.a l h).toNat (halfOf c f f.b l h).toNat (halfOf c f f.c l h).toNat
        (r / 2 ^ (16 * h) % 2 ^ 16)
      x = g 0 ||| g 1) :=
  LaneOp.lanesRaise h fun c l => by
    intro g
    obtain ⟨h0, h1⟩ := packed_halves (one (halfOf c f f.a l 0) (halfOf c f f.b l 0) (halfOf c f f.c l 0))
      (one (halfOf c f f.a l 1) (halfOf c f f.b l 1) (halfOf c f f.c l 1))
    simp only [g, h0, h1, ← hone]
    rfl

theorem PackOp.lanesQuiet (hone : ∀ a b x, (one a b x).2 = 0) : LanesRaise i f (fun _ _ _ x => x = 0) :=
  LaneOp.lanesRaise h fun c l => by
    simp only [packed, hone]
    rfl

end

theorem packedWord_of {one : Form → Half → Half → Half → Half × FFlags} {tys : Nat → Prop}
    {is : Form → Half → Half → Half → Half → Prop} (h : ∀ f, PackOp (mk f) f (one f))
    (hone : ∀ f, tys f.ty → ∀ a b x, is f a b x (one f a b x).1) : PackedWord mk tys is := fun f hty =>
  (h f).lanesHave fun _ _ => ⟨_, _, rfl, hone f hty .., hone f hty ..⟩

/-! ### Operations on a half -/

/-- A half as a number, and numbers clamped to a half. -/
theorem halfInt_eq (ty : Nat) (x : Half) : halfInt ty x = halfNum ty x := rfl

theorem halfSat_eq (ty : Nat) (n : Int) : BitVec.ofInt 16 (halfSat ty n) = halfClamp ty n := rfl

theorem halfNum_halfClamp (ty : Nat) (n : Int) : halfNum ty (halfClamp ty n) = halfSat ty n := by
  rw [← halfSat_eq, halfNum, halfSat]
  split
  · rw [BitVec.toInt_ofInt, Int.bmod_eq_of_le] <;> omega
  · rw [BitVec.toNat_ofInt]
    omega

/-- The operation of a packed word on a half, in integers or in floats (R127). -/
def packHalf (f : Form) (iop : Int → Int → Int → Int) (fop : Fmt → Nat → Nat → Nat → Nat × FFlags) (a b x : Half) : Half × FFlags :=
  if f.ty < 8 then (halfStore f.ty f.m4 (iop (halfInt f.ty a) (halfInt f.ty b) (halfInt f.ty x)), 0)
  else (BitVec.ofNat 16 (fop (fmtOf f.ty) a.toNat b.toNat x.toNat).1, (fop (fmtOf f.ty) a.toNat b.toNat x.toNat).2)

theorem packOp_of_packEff {iop : Int → Int → Int → Int} {fop : Fmt → Nat → Nat → Nat → Nat × FFlags}
    (hexec : ∀ s, exec i s = runLocal i f s (packEff f iop fop)) : PackOp i f (packHalf f iop fop) := ⟨_, hexec, fun _ => rfl⟩

/-- The types of packed floats. -/
theorem half_bound {ty : Nat} (h : ty = 9 ∨ ty = 10) : (fmtOf ty).bound = 2 ^ 16 := by
  rcases h with rfl | rfl <;> rfl

theorem packHalf_int {iop : Int → Int → Int → Int} {fop : Fmt → Nat → Nat → Nat → Nat × FFlags} (hty : f.ty = 4 ∨ f.ty = 5)
    (a b x : Half) : packHalf f iop fop a b x = (if f.m4 then halfClamp f.ty (iop (halfNum f.ty a) (halfNum f.ty b) (halfNum f.ty x))
      else BitVec.ofInt 16 (iop (halfNum f.ty a) (halfNum f.ty b) (halfNum f.ty x)), 0) := by
  rw [packHalf, if_pos (by omega)]
  cases hm : f.m4
  · rfl
  · rfl

theorem packHalf_float {iop : Int → Int → Int → Int} {fop : Fmt → Nat → Nat → Nat → Nat × FFlags}
    {is : Nat × Nat → Nat → Nat → Nat → Nat → Prop} {fl : Nat × Nat → Nat → Nat → Nat → Nat → FFlags} (h : OpGives fop is fl)
    (hty : f.ty = 9 ∨ f.ty = 10) (a b x : Half) :
    is (fieldsOf f.ty) a.toNat b.toNat x.toNat (packHalf f iop fop a b x).1.toNat ∧
      (packHalf f iop fop a b x).2 = fl (fieldsOf f.ty) a.toNat b.toNat x.toNat (packHalf f iop fop a b x).1.toNat := by
  have hbound := half_bound hty
  obtain ⟨h1, h2, hlt⟩ := h (fmtOf_usual f.ty) (a.isLt.trans_eq hbound.symm) (b.isLt.trans_eq hbound.symm) (x.isLt.trans_eq hbound.symm)
  rw [packHalf, if_neg (by omega), BitVec.toNat_ofNat, Nat.mod_eq_of_lt (hlt.trans_eq hbound), ← fmtOf_fields]
  exact ⟨h1, h2⟩

section
variable {iop : Int → Int → Int → Int} {fop : Fmt → Nat → Nat → Nat → Nat × FFlags}
  (hexec : ∀ f s, exec (mk f) s = runLocal (mk f) f s (packEff f iop fop))
include hexec

theorem packedInts_of {op : Int → Int → Int} (hop : ∀ a b x, iop a b x = op a b) : PackedInts mk op :=
  packedWord_of (fun f => packOp_of_packEff (hexec f)) fun f hty a b x => by simp only [packHalf_int hty, hop]

theorem OpGives.packedFloats {is : Nat × Nat → Nat → Nat → Nat → Nat → Prop} {fl : Nat × Nat → Nat → Nat → Nat → Nat → FFlags}
    (h : OpGives fop is fl) : PackedFloats mk is :=
  packedWord_of (fun f => packOp_of_packEff (hexec f)) fun _ hty a b x => (packHalf_float h hty a b x).1

end

/-- The flags of a packed word: those of both halves, in floats alone. -/
def PackedRaises (mk : Form → Instr) (fl : Form → Nat × Nat → Nat → Nat → Nat → Nat → FFlags) : Prop :=
  ∀ f : Form, ((f.ty = 9 ∨ f.ty = 10) → LanesRaise (mk f) f (fun c l r x =>
      let g (h : Nat) : FFlags := fl f (fieldsOf f.ty) (halfOf c f f.a l h).toNat (halfOf c f f.b l h).toNat
        (halfOf c f f.c l h).toNat (r / 2 ^ (16 * h) % 2 ^ 16)
      x = g 0 ||| g 1)) ∧
    ((f.ty = 4 ∨ f.ty = 5) → LanesRaise (mk f) f (fun _ _ _ x => x = 0))

theorem OpGives.packedRaises {iop : Int → Int → Int → Int} {fop : Fmt → Nat → Nat → Nat → Nat × FFlags}
    {is : Nat × Nat → Nat → Nat → Nat → Nat → Prop} {fl : Nat × Nat → Nat → Nat → Nat → Nat → FFlags} (h : OpGives fop is fl)
    (hexec : ∀ f s, exec (mk f) s = runLocal (mk f) f s (packEff f iop fop)) : PackedRaises mk (fun _ => fl) := fun f =>
  ⟨fun hty => (packOp_of_packEff (hexec f)).lanesRaise (fl := fl (fieldsOf f.ty)) fun a b x => (packHalf_float h hty a b x).2,
    fun hty => (packOp_of_packEff (hexec f)).lanesQuiet fun a b x => by rw [packHalf_int hty]⟩

/-! ### `hcmp2` and `acs2` (R128, R129) -/

/-- `hcmp2` on a half. -/
def cmpHalf (f : Form) (a b : Half) : Half × FFlags :=
  let r : Bool × FFlags :=
    if f.ty < 8 then
      let x := halfInt f.ty a
      let y := halfInt f.ty b
      ((match f.hi with
        | 0 => decide (x = y)
        | 1 => decide (x < y)
        | _ => decide (x ≤ y)), 0)
    else fpCmp (fmtOf f.ty) f.hi a.toNat b.toNat
  (if r.1 != f.xBit 0 then 0xFFFF else 0, r.2)

theorem hcmp2_packOp (f : Form) : PackOp (.hcmp2 f) f (fun a b _ => cmpHalf f a b) := ⟨_, fun _ => rfl, fun _ => rfl⟩

theorem cmpHalf_int (hty : f.ty < 8) (a b : Half) : cmpHalf f a b = (if (match f.hi with
    | 0 => decide (halfNum f.ty a = halfNum f.ty b)
    | 1 => decide (halfNum f.ty a < halfNum f.ty b)
    | _ => decide (halfNum f.ty a ≤ halfNum f.ty b)) != f.xBit 0 then 0xFFFF else 0, 0) := by
  simp only [cmpHalf, if_pos hty, halfInt_eq]
  rfl

theorem cmpHalf_float (hty : 8 ≤ f.ty) (a b : Half) : cmpHalf f a b =
    (if fcond (fieldsOf f.ty) f.hi a.toNat b.toNat != f.xBit 0 then 0xFFFF else 0, compareFlags (fieldsOf f.ty) f.hi a.toNat b.toNat) := by
  simp only [cmpHalf, if_neg (not_lt.2 hty), fpCmp_eq (fmtOf_usual f.ty), fmtOf_fields]

theorem hcmp2_packed : PackedWord .hcmp2 (fun ty => ty = 4 ∨ ty = 5 ∨ ty = 9 ∨ ty = 10) (fun f a b _ r =>
    (4 ≤ f.ty → f.ty ≤ 5 → f.hi < 3 → r = if (match f.hi with
        | 0 => decide (halfNum f.ty a = halfNum f.ty b)
        | 1 => decide (halfNum f.ty a < halfNum f.ty b)
        | _ => decide (halfNum f.ty a ≤ halfNum f.ty b)) != f.xBit 0 then 0xFFFF else 0) ∧
    (9 ≤ f.ty → r = if fcond (fieldsOf f.ty) f.hi a.toNat b.toNat != f.xBit 0 then 0xFFFF else 0)) :=
  packedWord_of hcmp2_packOp fun f _ a b _ =>
    ⟨fun _ h5 _ => by rw [cmpHalf_int (by omega)], fun h9 => by rw [cmpHalf_float (by omega)]⟩

theorem hcmp2_raises : PackedRaises .hcmp2 (fun f F a b _ _ => compareFlags F f.hi a b) := fun f =>
  ⟨fun hty => (hcmp2_packOp f).lanesRaise (fl := fun a b _ _ => compareFlags (fieldsOf f.ty) f.hi a b) fun a b _ => by
      rw [cmpHalf_float (by omega)],
    fun hty => (hcmp2_packOp f).lanesQuiet fun a b _ => by rw [cmpHalf_int (by omega)]⟩

/-- One half of `acs2` (R128). -/
theorem acsHalf_eq (f : Form) (a b x y : Half) : acsHalf f.ty f.m5 a b x y = selected f a b x y := by
  simp only [acsHalf, selected, halfNum_halfClamp]
  exact Prod.ext (apply_ite (BitVec.ofInt 16) _ _ _) rfl

/-- Two halves and their decisions, below and above. -/
theorem acs_entry (p q : Half × Bool) :
    ((BitVec.ofNat 32 ((if p.2 then 1 else 0) + (if q.2 then 2 else 0)) : Word) ++ halves p.1 q.1 : BitVec 64)
      = BitVec.ofNat 64 (p.1.toNat + 2 ^ 16 * q.1.toNat + (if p.2 then 2 ^ 32 else 0) + (if q.2 then 2 ^ 33 else 0)) := by
  have hp := p.1.isLt
  have hq := q.1.isLt
  have hlow : (halves p.1 q.1).toNat = p.1.toNat + 2 ^ 16 * q.1.toNat := by
    rw [halves, BitVec.toNat_append, Nat.shiftLeft_eq, Nat.mul_comm, ← Nat.two_pow_add_eq_or_of_lt hp, Nat.add_comm]
  apply BitVec.eq_of_toNat_eq
  rw [BitVec.toNat_append, Nat.shiftLeft_eq, Nat.mul_comm, ← Nat.two_pow_add_eq_or_of_lt (halves p.1 q.1).isLt, hlow,
    BitVec.toNat_ofNat, BitVec.toNat_ofNat]
  cases p.2 <;> cases q.2 <;> simp <;> omega

theorem acs2_lanes (f : Form) : LanesHave (.acs2 f) f 1 (fun c l v =>
    let lo := selected f (halfOf c f f.a l 0) (halfOf c f f.b l 0) (halfOf c f f.c l 0) (halfOf c f f.c l 1)
    let hi := selected f (halfOf c f f.a l 1) (halfOf c f f.b l 1) (halfOf c f f.c l 1) (halfOf c f f.c l 0)
    v = BitVec.ofNat 64 (lo.1.toNat + 2 ^ 16 * hi.1.toNat + (if lo.2 then 2 ^ 32 else 0) + (if hi.2 then 2 ^ 33 else 0))) :=
  lanesHave_of_result (fun _ => rfl) (fun _ => rfl) fun c l _ _ => by
    intro lo hi
    rw [acs_entry, acsHalf_eq, acsHalf_eq]
    rfl

/-! ### The packed words together -/

theorem packedWords : PackedWords :=
  ⟨packedInts_of (fun _ _ => rfl) fun _ _ _ => rfl, packedInts_of (fun _ _ => rfl) fun _ _ _ => rfl,
    packedInts_of (fun _ _ => rfl) fun _ _ _ => rfl, packedInts_of (fun _ _ => rfl) fun _ _ _ => rfl,
    packedInts_of (fun _ _ => rfl) fun _ _ _ => rfl, OpGives.packedFloats (fun _ _ => rfl) fadd_opGives,
    OpGives.packedFloats (fun _ _ => rfl) fsub_opGives, OpGives.packedFloats (fun _ _ => rfl) fmul_opGives,
    OpGives.packedFloats (fun _ _ => rfl) (fminmax_opGives false), OpGives.packedFloats (fun _ _ => rfl) (fminmax_opGives true),
    OpGives.packedFloats (fun _ _ => rfl) ffma_opGives, OpGives.packedFloats (fun _ _ => rfl) ffma_opGives, hcmp2_packed,
    fun f _ => acs2_lanes f⟩

theorem packedFlags : PackedFlags := by
  simp only [PackedFlags, List.forall_mem_cons, List.not_mem_nil, false_imp_iff, implies_true, and_true]
  exact ⟨fadd_opGives.packedRaises fun _ _ => rfl, fsub_opGives.packedRaises fun _ _ => rfl, fmul_opGives.packedRaises fun _ _ => rfl,
    (fminmax_opGives false).packedRaises fun _ _ => rfl, (fminmax_opGives true).packedRaises fun _ _ => rfl,
    ffma_opGives.packedRaises fun _ _ => rfl, ffma_opGives.packedRaises fun _ _ => rfl, hcmp2_raises⟩

end Sys2Proof.Machine
end

section
/-! PROOF. Values of the words on strings (R138, R140 to R142). -/

namespace Sys2Proof.Machine
open Sys2Proof Sys2Proof.Stated
variable {c : Crew} {f : Form} {q r : BitVec 8} {l : Nat}

/-! ### Segments (R138) -/

theorem ofNat_div_eq_byte (w : Word) (j : Nat) : BitVec.ofNat 8 (w.toNat / 256 ^ j) = w.extractLsb' (8 * j) 8 := by
  apply BitVec.eq_of_toNat_eq
  rw [BitVec.toNat_ofNat, BitVec.extractLsb'_toNat, Nat.shiftRight_eq_div_pow, show (256 : Nat) = 2 ^ 8 from rfl, ← pow_mul]

theorem leBytes_word (n : Nat) (w : Word) : leBytes n w.toNat = (List.range n).map (fun j => w.extractLsb' (8 * j) 8) := by
  refine List.ext_getElem (by simp) fun j h1 h2 => ?_
  have hj : j < n := by simpa using h1
  rw [← List.getD_eq_getElem _ 0 h1, getD_leBytes n _ j hj, ofNat_div_eq_byte, List.getElem_map, List.getElem_range]

theorem segBytes_eq {o : Operand} (h : o.src = .v q) : c.segBytes o l = (List.range 16).map (segByte c q l) := by
  simp only [Crew.segBytes, h, leBytes_word]
  rfl

theorem lengthOf_le (x : Nat) : lengthOf x ≤ 16 := Nat.min_le_right _ _

theorem getD_map_range (A : Nat → Byte) {k : Nat} (h : k < 16) : ((List.range 16).map A).getD k 0 = A k := by
  rw [List.getD_eq_getElem _ _ (by simpa using h), List.getElem_map, List.getElem_range]

/-! ### Compares and searches (R140, R141) -/

theorem scmpVal_eq (A B : Nat → Byte) {la lb : Nat} (ha : la ≤ 16) :
    scmpVal ((List.range 16).map A) ((List.range 16).map B) la lb = compared A B la lb := by
  have hdiff : firstDiff ((List.range 16).map A) ((List.range 16).map B) (min la lb)
      = (List.range (min la lb)).find? (fun k => A k != B k) :=
    List.find?_congr fun k hk => by
      have hk16 : k < 16 := (List.mem_range.1 hk).trans_le ((Nat.min_le_left _ _).trans ha)
      rw [getD_map_range A hk16, getD_map_range B hk16]
  rw [scmpVal, compared, hdiff]
  cases h : (List.range (min la lb)).find? (fun k => A k != B k) with
  | none => rfl
  | some k =>
    have hk16 : k < 16 := (List.mem_range.1 (List.mem_of_find?_eq_some h)).trans_le ((Nat.min_le_left _ _).trans ha)
    simp only [getD_map_range A hk16, getD_map_range B hk16]
    rfl

theorem scmp_lanes (ha : f.a.src = .v q) (hb : f.b.src = .v r) : LanesHave (.scmp f) f 1 (fun c l v =>
    let fold (x : Byte) : Byte := if f.m4 = true ∧ 0x41 ≤ x.toNat ∧ x.toNat ≤ 0x5A then x + 0x20 else x
    let n := (c.src32 f 0 f.c l).toNat
    v = BitVec.ofNat 64 (compared (fun k => fold (segByte c q l k)) (fun k => fold (segByte c r l k)) (lengthOf n)
      (lengthOf (n / 256)))) :=
  lanesHave_of_result (fun _ => rfl) (fun _ => rfl) fun c l _ _ => by
    intro fold n
    have hfold : ∀ A : Nat → Byte, (if f.m4 then ((List.range 16).map A).map foldCase else (List.range 16).map A)
        = (List.range 16).map (fun k => fold (A k)) := fun A => by
      cases h4 : f.m4 with
      | false => simp [fold, h4]
      | true => simp [fold, h4, foldCase]
    simp only [segBytes_eq ha, segBytes_eq hb, hfold]
    rw [← scmpVal_eq _ _ (lengthOf_le n)]
    rfl

theorem sfnd_lanes (ha : f.a.src = .v q) : LanesHave (.sfnd f) f 1 (fun c l v =>
    let len := lengthOf (c.src32 f 0 f.c l).toNat
    let hit (k : Nat) : Bool := (List.range (f.hi + 1)).any (fun j => segByte c q l k == (c.src32 f 0 f.b l).extractLsb' (8 * j) 8)
    v = match (List.range len).find? hit with
      | some k => BitVec.ofNat 64 (k + 2 ^ 8)
      | none => BitVec.ofNat 64 len) :=
  lanesHave_of_result (fun _ => rfl) (fun _ => rfl) fun c l _ _ => by
    intro len hit
    have hfind : (List.range len).find? (fun k => (leBytes (f.hi + 1) (c.src32 f 0 f.b l).toNat).contains
        (((List.range 16).map (segByte c q l)).getD k 0)) = (List.range len).find? hit :=
      List.find?_congr fun k hk => by
        rw [getD_map_range _ ((List.mem_range.1 hk).trans_le (lengthOf_le _)), leBytes_word, List.contains_eq_any_beq, List.any_map]
        rfl
    rw [segBytes_eq ha, sfndVal, show segLen (c.src32 f 0 f.c l).toNat = len from rfl, hfind]
    cases (List.range len).find? hit <;> rfl

/-! ### Hashes (R142) -/

theorem leNat_take (n : Nat) (bs : List Byte) :
    leNat (bs.take n) = ((List.range n).map (fun j => (bs.getD j 0).toNat * 256 ^ j)).sum := by
  induction n generalizing bs with
  | zero => rfl
  | succ n ih =>
    cases bs with
    | nil => simp [leNat]
    | cons b bs =>
      rw [List.take_succ_cons, leNat, ih, List.range_succ_eq_map, List.map_cons, List.map_map, List.sum_cons, ← List.sum_map_mul_left]
      simp only [List.getD_cons_zero, pow_zero, mul_one, Function.comp_def, List.getD_cons_succ, Nat.succ_eq_add_one, pow_succ]
      congr 3
      funext j
      ring

theorem shashSteps_eq (ws : List Nat) (h : Word) :
    shashSteps ws h = ws.foldl (fun h w => ((h ^^^ BitVec.ofNat 32 w).rotateLeft 13) * 0x8F1BBCDD) h := by
  induction ws generalizing h with
  | nil => rfl
  | cons w ws ih => rw [shashSteps.eq_def, List.foldl_cons, ← ih]

theorem shashVal_eq (A : Nat → Byte) {len : Nat} (hlen : len ≤ 16) (seed : Word) :
    shashVal ((List.range 16).map A) len seed = hashed A len seed := by
  have hword : ∀ i, leNat (((((List.range 16).map A).take len).drop (4 * i)).take 4)
      = ((List.range 4).map (fun j => if 4 * i + j < len then (A (4 * i + j)).toNat * 256 ^ j else 0)).sum := fun i => by
    rw [leNat_take]
    congr 2
    funext j
    rw [List.getD_eq_getElem?_getD, List.getElem?_drop, List.getElem?_take]
    split
    · next h => rw [← List.getD_eq_getElem?_getD, getD_map_range A (h.trans_le hlen)]
    · simp
  simp only [shashVal, hashed, shashSteps_eq, List.foldl_map, hword]

theorem shash_lanes (ha : f.a.src = .v q) : LanesHave (.shash f) f 1 (fun c l v =>
    v = (hashed (segByte c q l) (lengthOf (c.src32 f 0 f.c l).toNat) (c.src32 f 0 f.b l)).setWidth 64) :=
  lanesHave_of_result (fun _ => rfl) (fun _ => rfl) fun c l _ _ => by
    rw [segBytes_eq ha, ← shashVal_eq _ (lengthOf_le _)]
    rfl

theorem stringsAndHashes : StringsAndHashes := fun _ => ⟨fun _ _ => scmp_lanes, fun _ => sfnd_lanes, fun _ => shash_lanes⟩

end Sys2Proof.Machine
end

section
/-! PROOF. Reductions and scans (R97, R133, R134), and the obligation on values across lanes (O7). -/

namespace Sys2Proof.Machine
open Sys2Proof Sys2Proof.Stated
variable {s : State} {id : Nat} {c d : Crew} {f : Form} {ty op : Nat} {x y : DWord}

/-! ### One combination (R133) -/

theorem fits_atType (g : (w : Nat) → BitVec w → BitVec w → BitVec w → BitVec w) (ty : Nat) (a b x : DWord) : Fits ty (atType g ty a b x) :=
  fun h => by rw [atType, if_neg h, lowWord_setWidth]

/-- The smaller and the larger of two values of a type. -/
theorem atType_min (hx : Fits ty x) (hy : Fits ty y) :
    atType (fun w a b _ => if lessAt ty w b a then b else a) ty x y 0 = if tyVal ty x ≤ tyVal ty y then x else y := by
  unfold atType
  simp only [← not_lt, ite_not]
  by_cases hr : regsOf ty = 2
  · simp only [if_pos hr, lessAt_eq, tyVal_wide hr, decide_eq_true_eq]
  · simp only [if_neg hr, lessAt_eq, tyVal_narrow hr, decide_eq_true_eq, apply_ite (BitVec.setWidth 64), ← hx hr, ← hy hr]

theorem tyVal_inj (hx : Fits ty x) (hy : Fits ty y) (h : tyVal ty x = tyVal ty y) : x = y := by
  by_cases hr : regsOf ty = 2
  · rw [tyVal_wide hr, tyVal_wide hr] at h
    exact valAt_inj.1 h
  · rw [tyVal_narrow hr, tyVal_narrow hr] at h
    rw [hx hr, hy hr, valAt_inj.1 h]

theorem ofNat_toNat_dword (x : DWord) : BitVec.ofNat 64 x.toNat = x := by rw [BitVec.ofNat_toNat, BitVec.setWidth_eq]

theorem atType_max (hx : Fits ty x) (hy : Fits ty y) :
    atType (fun w a b _ => if lessAt ty w a b then b else a) ty x y 0 = if tyVal ty x ≤ tyVal ty y then y else x := by
  have hlt : atType (fun w a b _ => if lessAt ty w a b then b else a) ty x y 0 = if tyVal ty x < tyVal ty y then y else x := by
    unfold atType
    by_cases hr : regsOf ty = 2
    · simp only [if_pos hr, lessAt_eq, tyVal_wide hr, decide_eq_true_eq]
    · simp only [if_neg hr, lessAt_eq, tyVal_narrow hr, decide_eq_true_eq, apply_ite (BitVec.setWidth 64), ← hx hr, ← hy hr]
  rw [hlt]
  by_cases heq : tyVal ty x = tyVal ty y
  · rw [tyVal_inj hx hy heq, ite_self, ite_self]
  · simp only [Int.le_iff_lt_or_eq, heq, or_false]

theorem combine_ints (hty : intTys ty = true) (hop : op < 3) (hx : Fits ty x) (hy : Fits ty y) :
    combine ty op x.toNat y.toNat = ((atType (fun w a b _ => combAt ty op w a b) ty x y 0).toNat, 0) := by
  have h8 : ty ≠ 8 := by
    rintro rfl
    exact absurd hty (by decide)
  have hbits : bitTys ty = false := by rcases lt_four_of_intTys hty with rfl | rfl | rfl | rfl <;> rfl
  have hcases : op = 0 ∨ op = 1 ∨ op = 2 := by omega
  simp only [combine, combAt, if_neg h8, hbits, Bool.false_eq_true, if_false, ofNat_toNat_dword]
  rcases hcases with rfl | rfl | rfl
  · exact congrArg (fun z : DWord => (z.toNat, (0 : FFlags)))
      (add_computes.atType ownType ownType (a := x) (b := y) (x := 0) hty hy fun _ => by decide)
  · simp only [atType_min hx hy, apply_ite BitVec.toNat]
  · simp only [atType_max hx hy, apply_ite BitVec.toNat]

theorem combine_bits (hty : bitTys ty = true) (hop : op < 3) (hx : Fits ty x) (hy : Fits ty y) :
    combine ty op x.toNat y.toNat = ((atType (fun w a b _ => combAt ty op w a b) ty x y 0).toNat, 0) := by
  have h8 : ty ≠ 8 := by
    rintro rfl
    exact absurd hty (by decide)
  have hcases : op = 0 ∨ op = 1 ∨ op = 2 := by omega
  simp only [combine, combAt, if_neg h8, hty, if_true, atType]
  by_cases hr : regsOf ty = 2
  · rcases hcases with rfl | rfl | rfl
    · simp only [if_pos hr, BitVec.toNat_and]
    · simp only [if_pos hr, BitVec.toNat_or]
    · simp only [if_pos hr, BitVec.toNat_xor]
  · have hx' : x.toNat = (lowWord x).toNat := by
      conv_lhs => rw [hx hr, BitVec.toNat_setWidth_of_le (by decide)]
    have hy' : y.toNat = (lowWord y).toNat := by
      conv_lhs => rw [hy hr, BitVec.toNat_setWidth_of_le (by decide)]
    rcases hcases with rfl | rfl | rfl
    · simp only [if_neg hr, BitVec.toNat_setWidth_of_le (show 32 ≤ 64 by decide), BitVec.toNat_and, hx', hy']
    · simp only [if_neg hr, BitVec.toNat_setWidth_of_le (show 32 ≤ 64 by decide), BitVec.toNat_or, hx', hy']
    · simp only [if_neg hr, BitVec.toNat_setWidth_of_le (show 32 ≤ 64 by decide), BitVec.toNat_xor, hx', hy']

theorem fits_of_lt {r : Nat} (h : r < 2 ^ 32) : Fits ty (BitVec.ofNat 64 r) := fun _ => by
  apply BitVec.eq_of_toNat_eq
  rw [BitVec.toNat_setWidth_of_le (by decide), lowWord, BitVec.toNat_setWidth, BitVec.toNat_ofNat]
  omega

theorem Fits.lt (h : Fits ty x) (hr : regsOf ty ≠ 2) : x.toNat < 2 ^ 32 := by
  rw [h hr, BitVec.toNat_setWidth_of_le (by decide)]
  exact (lowWord x).isLt

/-- A combination of floats. -/
theorem combine_floats (hop : op < 3) (hx : Fits 8 x) (hy : Fits 8 y) :
    ∃ z : DWord, combine 8 op x.toNat y.toNat = (z.toNat, combineFlags 8 op x y z) ∧ Fits 8 z ∧ Combines 8 op x y z := by
  have hx32 : x.toNat < f32.bound := hx.lt (by decide)
  have hy32 : y.toNat < f32.bound := hy.lt (by decide)
  have hz : ∀ r : Nat × FFlags, r.1 < f32.bound → r.2 = combineFlags 8 op x y (BitVec.ofNat 64 r.1) →
      r = ((BitVec.ofNat 64 r.1).toNat, combineFlags 8 op x y (BitVec.ofNat 64 r.1)) := fun r hlt hfl => by
    rw [toNat_ofNat_f32 hlt, ← hfl]
  have hcases : op = 0 ∨ op = 1 ∨ op = 2 := by omega
  rcases hcases with rfl | rfl | rfl
  · obtain ⟨h1, h2, hlt⟩ := fpAdd_gives f32_usual hx32 hy32
    refine ⟨BitVec.ofNat 64 (fpAdd f32 x.toNat y.toNat).1, hz _ hlt ?_, fits_of_lt hlt, ?_⟩
    · change (fpAdd f32 x.toNat y.toNat).2 = combineFlags 8 0 x y (BitVec.ofNat 64 (fpAdd f32 x.toNat y.toNat).1)
      rw [combineFlags, if_pos rfl, if_pos rfl, toNat_ofNat_f32 hlt]
      exact h2
    · rw [Combines, if_pos rfl, if_pos rfl, toNat_ofNat_f32 hlt]
      exact h1
  · obtain ⟨h1, h2, hlt⟩ := fpMinMax_gives f32_usual false hx32 hy32
    refine ⟨BitVec.ofNat 64 (fpMinMax f32 false x.toNat y.toNat).1, hz _ hlt h2, fits_of_lt hlt, ?_⟩
    exact (toNat_ofNat_f32 hlt).trans h1
  · obtain ⟨h1, h2, hlt⟩ := fpMinMax_gives f32_usual true hx32 hy32
    refine ⟨BitVec.ofNat 64 (fpMinMax f32 true x.toNat y.toNat).1, hz _ hlt h2, fits_of_lt hlt, ?_⟩
    exact (toNat_ofNat_f32 hlt).trans h1

/-- The types and operations of a reduction. -/
def ReduceTy (ty op : Nat) : Prop := (intTys ty = true ∨ ty = 8 ∨ bitTys ty = true) ∧ op < 3

/-- One combination of values of a type: a value of the type, with its flags. -/
theorem combine_is (h : ReduceTy ty op) (hx : Fits ty x) (hy : Fits ty y) :
    ∃ z : DWord, combine ty op x.toNat y.toNat = (z.toNat, combineFlags ty op x y z) ∧ Fits ty z ∧ Combines ty op x y z := by
  obtain ⟨hty, hop⟩ := h
  have hother : ty ≠ 8 → combine ty op x.toNat y.toNat = ((atType (fun w a b _ => combAt ty op w a b) ty x y 0).toNat, 0) →
      ∃ z : DWord, combine ty op x.toNat y.toNat = (z.toNat, combineFlags ty op x y z) ∧ Fits ty z ∧ Combines ty op x y z :=
    fun h8 hc => ⟨_, by rw [hc, combineFlags, if_neg h8], fits_atType _ ty x y 0, by rw [Combines, if_neg h8]⟩
  rcases hty with hty | rfl | hty
  · exact hother (by rintro rfl; exact absurd hty (by decide)) (combine_ints hty hop hx hy)
  · exact combine_floats hop hx hy
  · exact hother (by rintro rfl; exact absurd hty (by decide)) (combine_bits hty hop hx hy)

/-- What inactive lanes contribute (R133). -/
theorem identity_eq (h : ReduceTy ty op) : identity ty op = (neutral ty op).toNat ∧ Fits ty (neutral ty op) := by
  obtain ⟨hty, hop⟩ := h
  have hcases : op = 0 ∨ op = 1 ∨ op = 2 := by omega
  have htys : ty = 0 ∨ ty = 1 ∨ ty = 2 ∨ ty = 3 ∨ ty = 8 ∨ ty = 11 ∨ ty = 12 := by
    rcases hty with hty | rfl | hty
    · have := lt_four_of_intTys hty
      omega
    · omega
    · simp only [bitTys, Bool.or_eq_true, beq_iff_eq] at hty
      omega
  unfold Fits
  rcases htys with rfl | rfl | rfl | rfl | rfl | rfl | rfl <;> rcases hcases with rfl | rfl | rfl <;> decide

/-! ### Steps of a reduction (R133, R134) -/

/-- The values after a step that combines at a distance. -/
def stepVals (ty op : Nat) (take : Nat → Option (Nat × Nat)) (P : Nat → DWord) (l : Nat) : DWord :=
  (take l).elim (P l) fun q => BitVec.ofNat 64 (combine ty op (P q.1).toNat (P q.2).toNat).1

/-- The flags of such a step, lane by lane. -/
def stepFlags (ty op : Nat) (take : Nat → Option (Nat × Nat)) (P : Nat → DWord) (l : Nat) : FFlags :=
  (take l).elim 0 fun q => combineFlags ty op (P q.1) (P q.2) (stepVals ty op take P l)

/-- The values after k steps at the distances 1, 2, 4 and so on. -/
def valsAfter (ty op : Nat) (take : Nat → Nat → Option (Nat × Nat)) (P : Nat → DWord) : Nat → Nat → DWord
  | 0 => P
  | k + 1 => stepVals ty op (take (2 ^ k)) (valsAfter ty op take P k)

/-- Values of a type as a list of the lanes' numbers. -/
def numbers (P : Nat → DWord) : List Nat := (List.range 32).map (fun l => (P l).toNat)

theorem getD_numbers (P : Nat → DWord) {l : Nat} (h : l < 32) : (numbers P).getD l 0 = (P l).toNat := by
  rw [numbers, List.getD_eq_getElem _ _ (by simpa using h), List.getElem_map, List.getElem_range]

/-- What one lane gets in a step of the model on a list of numbers. -/
def listLane (ty op : Nat) (take : Nat → Option (Nat × Nat)) (p : List Nat) (l : Nat) : Nat × FFlags :=
  (take l).elim (p.getD l 0, 0) fun q => combine ty op (p.getD q.1 0) (p.getD q.2 0)

/-- A step of the model on a list of numbers. -/
def listStep (ty op : Nat) (take : Nat → Option (Nat × Nat)) (p : List Nat) : List Nat × FFlags :=
  let r := (List.range p.length).map (listLane ty op take p)
  (r.map (·.1), (r.map (·.2)).foldl (· ||| ·) 0)

theorem reduceStep_eq (ty op : Nat) : reduceStep ty op = fun s => listStep ty op (treePairs s) := by
  funext s p
  have hlane : listLane ty op (treePairs s) p = fun l =>
      if l % (2 * s) = 0 then combine ty op (p.getD l 0) (p.getD (l + s) 0) else (p.getD l 0, 0) := by
    funext l
    unfold listLane treePairs
    split <;> rfl
  rw [listStep, hlane]
  rfl

theorem scanStep_eq (ty op : Nat) : scanStep ty op = fun s => listStep ty op (scanPairs s) := by
  funext s p
  have hlane : listLane ty op (scanPairs s) p = fun l =>
      if s ≤ l then combine ty op (p.getD (l - s) 0) (p.getD l 0) else (p.getD l 0, 0) := by
    funext l
    unfold listLane scanPairs
    split <;> rfl
  rw [listStep, hlane]
  rfl

/-- The lanes that combine are lanes. -/
def Within (take : Nat → Option (Nat × Nat)) : Prop := ∀ l < 32, ∀ q, take l = some q → q.1 < 32 ∧ q.2 < 32

theorem treePairs_within {k : Nat} (hk : k < 5) : Within (treePairs (2 ^ k)) := by
  intro l hl q hq
  unfold treePairs at hq
  split at hq
  · next h =>
    cases hq
    refine ⟨hl, ?_⟩
    interval_cases k <;> omega
  · exact absurd hq (by simp)

theorem scanPairs_within (s : Nat) : Within (scanPairs s) := by
  intro l hl q hq
  unfold scanPairs at hq
  split at hq
  · cases hq
    exact ⟨(Nat.sub_le ..).trans_lt hl, hl⟩
  · exact absurd hq (by simp)

section
variable {take : Nat → Option (Nat × Nat)} {P : Nat → DWord} (hty : ReduceTy ty op) (hw : Within take) (hP : ∀ l < 32, Fits ty (P l))
include hty hw hP

/-- What a lane gets, as a value of the type. -/
theorem listLane_numbers {l : Nat} (hl : l < 32) :
    listLane ty op take (numbers P) l = ((stepVals ty op take P l).toNat, stepFlags ty op take P l) ∧
      Fits ty (stepVals ty op take P l) ∧ match take l with
        | some (x, y) => Combines ty op (P x) (P y) (stepVals ty op take P l)
        | none => stepVals ty op take P l = P l := by
  cases h : take l with
  | none =>
    have hval : stepVals ty op take P l = P l := by rw [stepVals, h, Option.elim_none]
    rw [listLane, stepFlags, h, Option.elim_none, Option.elim_none, getD_numbers P hl, hval]
    exact ⟨rfl, hP l hl, rfl⟩
  | some q =>
    obtain ⟨hx, hy⟩ := hw l hl q h
    obtain ⟨z, hz, hfits, his⟩ := combine_is hty (hP q.1 hx) (hP q.2 hy)
    have hval : stepVals ty op take P l = z := by rw [stepVals, h, Option.elim_some, hz, ofNat_toNat_dword]
    rw [listLane, stepFlags, h, Option.elim_some, Option.elim_some, getD_numbers P hx, getD_numbers P hy, hz, hval]
    exact ⟨rfl, hfits, his⟩

theorem listStep_numbers : listStep ty op take (numbers P) =
    (numbers (stepVals ty op take P), (List.range 32).foldl (fun x l => x ||| stepFlags ty op take P l) 0) := by
  have hmap : (List.range (numbers P).length).map (listLane ty op take (numbers P))
      = (List.range 32).map (fun l => ((stepVals ty op take P l).toNat, stepFlags ty op take P l)) := by
    rw [numbers, List.length_map, List.length_range]
    exact List.map_congr_left fun l hl => (listLane_numbers hty hw hP (List.mem_range.1 hl)).1
  rw [listStep, hmap, List.map_map, List.map_map, List.foldl_map]
  rfl

end

section
variable {take : Nat → Nat → Option (Nat × Nat)} {P : Nat → DWord} (hty : ReduceTy ty op) (hw : ∀ k < 5, Within (take (2 ^ k)))
  (hP : ∀ l < 32, Fits ty (P l))
include hty hw hP

theorem fits_valsAfter {k : Nat} (hk : k ≤ 5) : ∀ l < 32, Fits ty (valsAfter ty op take P k l) := by
  induction k with
  | zero => exact hP
  | succ k ih => exact fun l hl => (listLane_numbers hty (hw k hk) (ih (Nat.le_of_succ_le hk)) hl).2.1

/-- The flags of the step at distance 2^k. -/
def flagsAt (ty op : Nat) (take : Nat → Nat → Option (Nat × Nat)) (P : Nat → DWord) (k : Nat) : FFlags :=
  (List.range 32).foldl (fun x l => x ||| stepFlags ty op (take (2 ^ k)) (valsAfter ty op take P k) l) 0

theorem listStep_valsAfter {k : Nat} (hk : k < 5) : listStep ty op (take (2 ^ k)) (numbers (valsAfter ty op take P k)) =
    (numbers (valsAfter ty op take P (k + 1)), flagsAt ty op take P k) :=
  listStep_numbers hty (hw k hk) (fits_valsAfter hty hw hP hk.le)

/-- The five steps of the model. -/
theorem runSteps_numbers : runSteps (fun s => listStep ty op (take s)) [1, 2, 4, 8, 16] (numbers P) 0 =
    (numbers (valsAfter ty op take P 5), (List.range 5).foldl (fun x k => x ||| flagsAt ty op take P k) 0) := by
  have h0 := listStep_valsAfter hty hw hP (show 0 < 5 by decide)
  have h1 := listStep_valsAfter hty hw hP (show 1 < 5 by decide)
  have h2 := listStep_valsAfter hty hw hP (show 2 < 5 by decide)
  have h3 := listStep_valsAfter hty hw hP (show 3 < 5 by decide)
  have h4 := listStep_valsAfter hty hw hP (show 4 < 5 by decide)
  simp only [runSteps]
  rw [show numbers P = numbers (valsAfter ty op take P 0) from rfl]
  norm_num at h0 h1 h2 h3 h4
  simp only [h0, h1, h2, h3, h4]
  rfl

/-- The steps of the model are those of R133 and R134. -/
theorem steps_valsAfter (hred : f.ty = ty ∧ f.hi = op) (hP0 : ∀ l < 32, P l = if c.isActive l then c.srcTy f f.ty f.a l else neutral f.ty f.hi) :
    Steps c f take (valsAfter ty op take P) := by
  obtain ⟨rfl, rfl⟩ := hred
  exact ⟨hP0, fun k hk l hl => (listLane_numbers hty (hw k hk) (fits_valsAfter hty hw hP hk.le) hl).2.2⟩

end

theorem getLsbD_foldl_or_all {w : Nat} (g : Nat → BitVec w) (ls : List Nat) (n : Nat) :
    (ls.foldl (fun x l => x ||| g l) 0).getLsbD n = ls.any (fun l => (g l).getLsbD n) := by
  simpa using getLsbD_foldl_or (fun _ => true) g ls 0 n

theorem stepFlags_of_fxs {take : Nat → Nat → Option (Nat × Nat)} {P : Nat → DWord}
    (h : d.fxs = c.fxs ||| ((List.range 5).foldl (fun x k => x ||| flagsAt f.ty f.hi take P k) 0).setWidth 64) :
    StepFlags c d f take (valsAfter f.ty f.hi take P) := fun n hn => by
  rw [h, BitVec.getLsbD_or, BitVec.getLsbD_setWidth, decide_eq_true hn, Bool.true_and, getLsbD_foldl_or_all]
  simp only [flagsAt, getLsbD_foldl_or_all]
  refine congrArg _ (congrArg (List.any _) (funext fun k => congrArg (List.any _) (funext fun l => ?_)))
  unfold stepFlags
  cases take (2 ^ k) l with
  | none => exact BitVec.getLsbD_zero
  | some q => rfl

/-! ### `lred` and `lscan` -/

/-- The values that enter a reduction. -/
def entering (c : Crew) (f : Form) (l : Nat) : DWord := if c.isActive l then c.srcTy f f.ty f.a l else neutral f.ty f.hi

theorem reduceIn_eq (h : ReduceTy f.ty f.hi) (c : Crew) : c.reduceIn f = numbers (entering c f) := by
  refine List.map_congr_left fun l _ => ?_
  unfold entering
  split
  · rfl
  · exact (identity_eq h).1

theorem fits_entering (h : ReduceTy f.ty f.hi) (c : Crew) (l : Nat) : Fits f.ty (entering c f l) := by
  unfold entering
  split
  · exact c.srcTy_fits f f.ty f.a l
  · exact (identity_eq h).2

/-- A scanned value as it comes out (R97). -/
theorem scanOut_eq (ty : Nat) (x : DWord) : BitVec.ofNat 64 (scanOut ty x.toNat) = scanned ty x := by
  by_cases h8 : ty = 8
  · subst h8
    cases hn : fisNan (8, 23) x.toNat with
    | true =>
      rw [scanOut, if_pos rfl, unpack_nan f32_usual hn, scanned, if_pos ⟨rfl, hn⟩]
      change BitVec.ofNat 64 (quiet f32 x.toNat) = _
      rw [quiet_eq]
      apply BitVec.eq_of_toNat_eq
      rw [BitVec.toNat_ofNat, BitVec.toNat_or]
      exact Nat.mod_eq_of_lt (Nat.or_lt_two_pow x.isLt (by decide))
    | false =>
      have hout : scanOut 8 x.toNat = x.toNat := by
        rcases unpack_kind f32_usual hn with ⟨-, hu⟩ | ⟨-, -, m, e, hu⟩ <;> rw [scanOut, if_pos rfl, hu]
      rw [hout, ofNat_toNat_dword, scanned, if_neg (by simp [hn])]
  · rw [scanOut, if_neg h8, scanned, if_neg fun hc => h8 hc.1, ofNat_toNat_dword]

section
variable (h : ReduceTy f.ty f.hi)
include h

theorem lred_result (hr : Runs s id c) (hp : Ready c (.lred f) f) :
    ∃ d p, exec (.lred f) s = .next (After s id d) ∧ Passed c d f ∧ Steps c f treePairs p ∧ StepFlags c d f treePairs p ∧
      d.kget f.dst.toNat = (if f.nd then p 5 0 else c.kget f.dst.toNat) ∧ ∀ l < 32, pushed d l = p 5 0 := by
  have hP := fun l (_ : l < 32) => fits_entering h c l
  have hsteps := runSteps_numbers (take := treePairs) h (fun k hk => treePairs_within hk) hP
  obtain ⟨d, hd, hpass, hk, hpush, hfxs⟩ := fltUniform_complete (r := valsAfter f.ty f.hi treePairs (entering c f) 5 0) hr hp
    (show exec (.lred f) s = execLred f s from rfl) (by
      simp only [reduceStep_eq, reduceIn_eq h, hsteps, List.headD_eq_head?_getD, List.head?_eq_getElem?, ← List.getD_eq_getElem?_getD,
        getD_numbers _ (show 0 < 32 by decide), ofNat_toNat_dword]
      rfl)
  exact ⟨d, valsAfter f.ty f.hi treePairs (entering c f), hd, hpass,
    steps_valsAfter h (fun k hk => treePairs_within hk) hP ⟨rfl, rfl⟩ fun _ _ => rfl, stepFlags_of_fxs hfxs, hk, hpush⟩

theorem lscan_result (hr : Runs s id c) (hp : Ready c (.lscan f) f) :
    ∃ d r p, exec (.lscan f) s = .next (After s id d) ∧ Passed c d f ∧ LaneResult c d f (regsOf f.ty) r ∧
      Steps c f scanPairs p ∧ StepFlags c d f scanPairs p ∧
      ∀ l < 32, c.isActive l = true →
        r l = if f.xBit 0 then (if l = 0 then neutral f.ty f.hi else scanned f.ty (p 5 (l - 1))) else scanned f.ty (p 5 l) := by
  have hP := fun l (_ : l < 32) => fits_entering h c l
  have hw : ∀ k < 5, Within (scanPairs (2 ^ k)) := fun k _ => scanPairs_within (2 ^ k)
  have hsteps := runSteps_numbers (take := scanPairs) h hw hP
  obtain ⟨d, hd, hpass, hres, hfxs⟩ := lanesRaised_complete hr hp (show exec (.lscan f) s = execLscan f s from rfl) (by
    simp only [scanStep_eq, reduceIn_eq h, hsteps]
    rfl)
  refine ⟨d, _, valsAfter f.ty f.hi scanPairs (entering c f), hd, hpass, hres,
    steps_valsAfter h hw hP ⟨rfl, rfl⟩ fun _ _ => rfl, stepFlags_of_fxs hfxs, fun l hl _ => ?_⟩
  have hout : ∀ j < 32, BitVec.ofNat 64 (scanOut f.ty ((numbers (valsAfter f.ty f.hi scanPairs (entering c f) 5)).getD j 0))
      = scanned f.ty (valsAfter f.ty f.hi scanPairs (entering c f) 5 j) := fun j hj => by
    rw [getD_numbers _ hj, scanOut_eq]
  simp only [apply_ite (BitVec.ofNat 64), hout l hl, hout (l - 1) (by omega), (identity_eq h).1, ofNat_toNat_dword]

end

theorem reductions : Reductions := fun _ h =>
  ⟨fun _ _ _ hr hp => lred_result h hr hp, fun _ _ _ hr hp => lscan_result h hr hp⟩

/-- Settles O7: every word is the common lane, mask or uniform result of its operation, and the float operations are those of R99. -/
theorem laneValues : Obligations.LaneValues :=
  ⟨permAndVotes, reductions, keyRanks, maskWords, packedWords, packedFlags, stringsAndHashes, floatRounding⟩

end Sys2Proof.Machine
end

section
/-! SUPPORT. Results of the approximate units next to an exact real (R86): bracketing values, and values close to it. -/

namespace Sys2Proof.Machine
open Sys2Proof Sys2Proof.Stated
variable {x : Dy} {b c : Nat}

/-- The number of a finite pattern of f32 as a rational. -/
def ratOf (r : Nat) : ℚ := (fint (8, 23) r : ℚ) / 2 ^ 149

theorem realOf_eq (r : Nat) : realOf r = (ratOf r : ℝ) := by
  rw [realOf, ratOf]
  push_cast
  rfl

/-- The step between the patterns around a real of a given size. -/
theorem magInt_succ_of_size {Q : ℚ} {K : Nat} (hb : FloorPat 23 Q b) (hlo : 2 ^ (K + 23) ≤ Q) (hhi : Q < 2 ^ (K + 24)) :
    (magInt 23 (b + 1) : ℚ) = magInt 23 b + 2 ^ K := by
  obtain ⟨e, n, rfl, hn, he⟩ := exists_block 23 b
  obtain ⟨h1, h2⟩ := hb
  rw [add_assoc] at h2
  rw [magInt_block hn.le he] at h1
  rw [magInt_block hn (by omega)] at h2
  have hup : 2 ^ (K + 23) < (n + 1) * 2 ^ e := by exact_mod_cast hlo.trans_lt h2
  have hdown : n * 2 ^ e < 2 ^ (K + 24) := by exact_mod_cast h1.trans_lt hhi
  have heK : e = K := by
    have hKe : K + 23 < 24 + e := by
      refine (Nat.pow_lt_pow_iff_right (show 1 < 2 by decide)).1 (hup.trans_le ?_)
      rw [pow_add]
      exact Nat.mul_le_mul_right _ hn
    rcases he with rfl | he
    · omega
    · have heK : 23 + e < K + 24 := by
        refine (Nat.pow_lt_pow_iff_right (show 1 < 2 by decide)).1 (lt_of_le_of_lt ?_ hdown)
        rw [pow_add]
        exact Nat.mul_le_mul_right _ he
      omega
  rw [add_assoc, magInt_block hn.le he, magInt_block hn (by omega), heK]
  push_cast
  ring

/-- A value that brackets a real lies less than one step from it. -/
theorem pickBracket_near (hx : x.m ≠ 0) (hlo : -126 ≤ x.log2) (hhi : x.log2 ≤ 100) (draw : Nat) :
    pickBracket x draw < f32.bound ∧ ffin (8, 23) (pickBracket x draw) = true ∧ fneg (8, 23) (pickBracket x draw) = decide (x.m < 0) ∧
      |ratOf (pickBracket x draw) - x.rat| < 2 ^ (x.log2 - 23) := by
  obtain ⟨K, hK⟩ : ∃ K : Nat, x.log2 = (K : Int) - 126 := ⟨(x.log2 + 126).toNat, by omega⟩
  obtain ⟨h1, h2⟩ := Dy.log2_spec hx
  have hunits : x.units f32 = |x.rat| * 2 ^ (149 : Int) := by rw [Dy.units, unitExp_f32, ← zpow_natCast]; rfl
  have hQlo : 2 ^ (K + 23) ≤ x.units f32 := by
    rw [hunits, ← zpow_natCast, show ((K + 23 : Nat) : Int) = x.log2 + 149 by push_cast; omega, two_zpow_add]
    exact mul_le_mul_of_nonneg_right h1 (two_zpow_pos _).le
  have hQhi : x.units f32 < 2 ^ (K + 24) := by
    rw [hunits, ← zpow_natCast, show ((K + 24 : Nat) : Int) = x.log2 + 1 + 149 by push_cast; omega, two_zpow_add]
    exact mul_lt_mul_of_pos_right h2 (two_zpow_pos _)
  obtain ⟨b, hb, -⟩ := roundTo_eq f32_usual .rtz false hx
  have hb : FloorPat 23 (x.units f32) b := hb
  have hstep := magInt_succ_of_size hb hQlo hQhi
  have hbfin : b < K * 2 ^ 23 + 2 ^ 24 := by
    rw [← magInt_lt_iff (p := 23), magInt_block (by norm_num) (.inr (by norm_num)), ← Nat.cast_lt (α := ℚ), ← pow_add, add_comm 24]
    push_cast
    exact hb.1.trans_lt hQhi
  have hfin : b + 1 < f32.infBits := by
    rw [show f32.infBits = 255 * 2 ^ 23 from rfl]
    omega
  obtain ⟨hb1, hb2⟩ := hb
  obtain ⟨B, hB, hBfin, hnear⟩ : ∃ B, pickBracket x draw = fsign f32.fields (decide (x.m < 0)) B ∧ B < f32.infBits ∧
      |(magInt 23 B : ℚ) - x.units f32| < 2 ^ K := by
    rcases pickBracket_cases hx ⟨hb1, hb2⟩ hfin draw with h | ⟨h, hne⟩
    · refine ⟨b, h, by omega, ?_⟩
      rw [abs_lt]
      constructor <;> linarith
    · refine ⟨b + 1, h, hfin, ?_⟩
      have hlt := lt_of_le_of_ne hb1 hne
      rw [abs_lt]
      constructor <;> linarith
  have hlt : B < 2 ^ (f32.fields.1 + f32.fields.2) := hBfin.trans (finf_lt f32.fields)
  rw [hB]
  refine ⟨fsign_lt _ hlt, by rw [← show f32.fields = (8, 23) from rfl, ffin, fmag_fsign _ hlt]; exact decide_eq_true hBfin,
    fneg_fsign _ hlt, ?_⟩
  have hsame : |(fint f32.fields (fsign f32.fields (decide (x.m < 0)) B) : ℚ) - x.rat * 2 ^ 149|
      = |(magInt 23 B : ℚ) - x.units f32| := by
    rw [fint_fsign _ hlt, show f32.fields.2 = 23 from rfl, hunits, zpow_ofNat]
    rcases lt_or_ge x.m 0 with hneg | hpos
    · rw [decide_eq_true hneg, if_pos rfl, abs_of_neg (Dy.rat_neg_iff.2 hneg), ← abs_neg]
      congr 1
      push_cast
      ring
    · rw [decide_eq_false hpos.not_gt, if_neg Bool.false_ne_true, abs_of_nonneg (not_lt.1 (mt Dy.rat_neg_iff.1 hpos.not_gt))]
      rfl
  have hscale : ratOf (fsign f32.fields (decide (x.m < 0)) B) - x.rat
      = ((fint f32.fields (fsign f32.fields (decide (x.m < 0)) B) : ℚ) - x.rat * 2 ^ 149) / 2 ^ 149 := by
    rw [ratOf, sub_div, mul_div_cancel_right₀ _ (by positivity)]
    rfl
  rw [hscale, abs_div, hsame, abs_of_pos (show (0 : ℚ) < 2 ^ 149 by positivity), div_lt_iff₀ (by positivity)]
  refine hnear.trans_eq ?_
  rw [← zpow_natCast, ← zpow_natCast, ← two_zpow_add, hK]
  congr 1
  push_cast
  ring

/-- What the model's comparison of a free value with a real says. -/
theorem near_of_lt {n : Bool} {m : Nat} {e : Int} {u : Dy} (hu : unpack f32 c = .fin n m e)
    (h : Dy.lt ((FVal.dy (.fin n m e)).add x.neg).abs u = true) : ffin (8, 23) c = true ∧ |ratOf c - x.rat| < u.rat := by
  have hfin : ffin f32.fields c = true := by
    rcases kind_cases f32.fields c with ⟨hn, -⟩ | ⟨-, hi, -⟩ | ⟨-, -, hf⟩
    · rw [unpack_nan f32_usual hn] at hu
      cases hu
    · rw [unpack_inf hi] at hu
      cases hu
    · exact hf
  have hrat := unpack_rat f32_usual hfin
  rw [hu, unitExp_f32] at hrat
  refine ⟨hfin, ?_⟩
  rw [Dy.lt_eq, decide_eq_true_eq, Dy.rat_abs, Dy.rat_add, Dy.rat_neg, ← sub_eq_add_neg] at h
  rwa [ratOf, ← show f32.fields = (8, 23) from rfl, ← hrat, mul_div_cancel_right₀ _ (by positivity)]

end Sys2Proof.Machine
end

section
/-! SUPPORT. `fexpf` (R86): the model's power of two against the true one. -/

namespace Sys2Proof.Machine
open Sys2Proof Sys2Proof.Stated
variable {a c k l n t acc W : Nat} {A C : ℝ}

/-! ### Truncated products and roots -/

/-- n approximates W X from below, up to k parts in W. -/
def Approx (W n : Nat) (X : ℝ) (k : Nat) : Prop := (W - k) * X ≤ n ∧ (n : ℝ) ≤ W * X

theorem Approx.mono (h : Approx W n A k) (hA : 0 ≤ A) (hkl : k ≤ l) : Approx W n A l := by
  have hkl' : (k : ℝ) ≤ l := Nat.cast_le.2 hkl
  exact ⟨(mul_le_mul_of_nonneg_right (by linarith) hA).trans h.1, h.2⟩

theorem Approx.root (h : Approx W c C k) (hC : 1 ≤ C) (hk : k ≤ W) : Approx W (isqrt (c * W)) √C (k + 1) := by
  obtain ⟨hlo, hhi⟩ := h
  obtain ⟨hq1, hq2⟩ := sqrt_bounds (c * W)
  rw [← isqrt_eq] at hq1 hq2
  have hS : 1 ≤ √C := Real.one_le_sqrt.2 hC
  have hS2 : √C ^ 2 = C := Real.sq_sqrt (by linarith)
  have hW : (0 : ℝ) ≤ W := Nat.cast_nonneg W
  have hk0 : (0 : ℝ) ≤ k := Nat.cast_nonneg k
  have hkW : (0 : ℝ) ≤ W - k := sub_nonneg.2 (Nat.cast_le.2 hk)
  constructor
  · have hroot : (W - k) * √C ≤ √((c * W : Nat) : ℝ) := by
      refine Real.le_sqrt_of_sq_le ?_
      push_cast
      calc ((W - k) * √C) ^ 2 = (W - k) * C * (W - k) := by
            rw [mul_pow, hS2]
            ring
        _ ≤ (W - k) * C * W := mul_le_mul_of_nonneg_left (by linarith) (by positivity)
        _ ≤ c * W := mul_le_mul_of_nonneg_right hlo hW
    push_cast
    linarith
  · refine hq1.trans ?_
    rw [Real.sqrt_le_left (by positivity), mul_pow, hS2]
    push_cast
    calc (c : ℝ) * W ≤ W * C * W := mul_le_mul_of_nonneg_right hhi hW
      _ = W ^ 2 * C := by ring

theorem Approx.product (ha : Approx W acc A l) (hc : Approx W c C k) (hA : 1 ≤ A) (hC : 1 ≤ C) (hl : l ≤ W) (hk : k ≤ W)
    (hW : 0 < W) : Approx W (acc * c / W) (A * C) (l + k + 1) := by
  obtain ⟨ha1, ha2⟩ := ha
  obtain ⟨hc1, hc2⟩ := hc
  have hW' : (0 : ℝ) < W := Nat.cast_pos.2 hW
  have hfloor1 : ((acc * c / W : Nat) : ℝ) * W ≤ acc * c := by exact_mod_cast Nat.div_mul_le_self (acc * c) W
  have hfloor2 : (acc * c : ℝ) ≤ ((acc * c / W : Nat) : ℝ) * W + W := by
    exact_mod_cast (Nat.lt_div_mul_add hW : acc * c < acc * c / W * W + W).le
  have hAC : 1 ≤ A * C := one_le_mul_of_one_le_of_one_le hA hC
  have hlW : (0 : ℝ) ≤ W - l := sub_nonneg.2 (Nat.cast_le.2 hl)
  have hkW : (0 : ℝ) ≤ W - k := sub_nonneg.2 (Nat.cast_le.2 hk)
  constructor
  · have hmul : (W - l) * A * ((W - k) * C) ≤ (acc * c : ℝ) :=
      mul_le_mul ha1 hc1 (mul_nonneg hkW (by linarith)) (Nat.cast_nonneg _)
    have hcross : (0 : ℝ) ≤ l * k * (A * C) := by positivity
    have hone : (W : ℝ) ≤ W * (A * C) := le_mul_of_one_le_right hW'.le hAC
    refine le_of_mul_le_mul_right ?_ hW'
    push_cast
    linarith
  · refine le_of_mul_le_mul_right (hfloor1.trans ?_) hW'
    calc (acc * c : ℝ) ≤ W * A * (W * C) := mul_le_mul ha2 hc2 (Nat.cast_nonneg _) (by positivity)
      _ = W * (A * C) * W := by ring

/-! ### The bits of a power -/

/-- 2^(n / 2^150). -/
noncomputable def power (n : ℝ) : ℝ := 2 ^ (n / 2 ^ 150)

theorem power_add (x y : ℝ) : power (x + y) = power x * power y := by rw [power, add_div, Real.rpow_add two_pos, power, power]

theorem power_zero : power 0 = 1 := by rw [power, zero_div, Real.rpow_zero]

theorem one_le_power {x : ℝ} (h : 0 ≤ x) : 1 ≤ power x := Real.one_le_rpow one_le_two (by positivity)

theorem power_two_pow : power (2 ^ 150) = 2 := by rw [power, div_self (by positivity), Real.rpow_one]

theorem sqrt_power (x : ℝ) : √(power x) = power (x / 2) := by
  rw [power, power, Real.sqrt_eq_rpow, ← Real.rpow_mul two_pos.le]
  congr 1
  ring

/-- The bits of t below bit n, each by its root, on top of what the bits above gave. -/
theorem exp2Bits_approx (n : Nat) (hc : Approx (2 ^ 200) c (power (2 ^ n / 2)) k) (hacc : Approx (2 ^ 200) acc A l) (hA : 1 ≤ A)
    (hsmall : l + n * (k + n + 1) ≤ 2 ^ 200) :
    Approx (2 ^ 200) (exp2Bits n t c acc) (A * power (t % 2 ^ n : Nat)) (l + n * (k + n + 1)) := by
  induction n generalizing c acc A k l with
  | zero => simpa [exp2Bits, Nat.mod_one, power_zero] using hacc
  | succ n ih =>
    have hC : 1 ≤ power (2 ^ (n + 1) / 2) := one_le_power (by positivity)
    have hgrow : (n + 1) * (k + (n + 1) + 1) = k + n + 2 + n * (k + 1 + n + 1) := by ring
    rw [hgrow] at hsmall ⊢
    obtain ⟨acc', hacc'def⟩ : ∃ acc', acc' = if t / 2 ^ n % 2 = 1 then acc * c / 2 ^ 200 else acc := ⟨_, rfl⟩
    obtain ⟨A', hA', hA'def, hacc'⟩ : ∃ A', 1 ≤ A' ∧ A' * power (t % 2 ^ n : Nat) = A * power (t % 2 ^ (n + 1) : Nat) ∧
        Approx (2 ^ 200) acc' A' (l + k + 1) := by
      rw [Nat.mod_pow_succ, hacc'def]
      rcases Nat.mod_two_eq_zero_or_one (t / 2 ^ n) with h | h
      · rw [h, if_neg (by decide)]
        exact ⟨A, hA, by simp, hacc.mono (by linarith) (by omega)⟩
      · rw [h, if_pos rfl]
        refine ⟨A * power (2 ^ (n + 1) / 2), one_le_mul_of_one_le_of_one_le hA hC, ?_,
          hacc.product hc hA hC (by omega) (by omega) (Nat.two_pow_pos _)⟩
        rw [mul_assoc, ← power_add]
        congr 2
        push_cast
        ring
    have hA0 : 0 ≤ A * power (t % 2 ^ (n + 1) : Nat) := by
      rw [← hA'def]
      have := one_le_power (Nat.cast_nonneg (α := ℝ) (t % 2 ^ n))
      exact mul_nonneg (by linarith) (by linarith)
    rw [exp2Bits]
    simp only [← hacc'def]
    split
    · next h0 =>
      rw [h0, Nat.cast_zero, power_zero, mul_one] at hA'def
      rw [hA'def] at hacc'
      exact hacc'.mono hA0 (by omega)
    · have hroot := hc.root hC (by omega)
      rw [sqrt_power, show (2 : ℝ) ^ (n + 1) / 2 = 2 ^ n by rw [pow_succ]; ring] at hroot
      have h := ih hroot hacc' hA' (by omega)
      rw [hA'def] at h
      exact h.mono hA0 (by omega)

theorem exp2Bits_lower (n : Nat) (hc : 2 ^ 200 ≤ c) (hacc : 2 ^ 200 ≤ acc) : 2 ^ 200 ≤ exp2Bits n t c acc := by
  induction n generalizing c acc with
  | zero => exact hacc
  | succ n ih =>
    obtain ⟨acc', hacc'def⟩ : ∃ acc', acc' = if t / 2 ^ n % 2 = 1 then acc * c / 2 ^ 200 else acc := ⟨_, rfl⟩
    have hacc' : 2 ^ 200 ≤ acc' := by
      rw [hacc'def]
      split
      · rw [Nat.le_div_iff_mul_le (Nat.two_pow_pos _)]
        exact Nat.mul_le_mul hacc hc
      · exact hacc
    rw [exp2Bits]
    simp only [← hacc'def]
    split
    · exact hacc'
    · refine ih ?_ hacc'
      rw [isqrt_eq, Nat.le_sqrt]
      exact Nat.mul_le_mul_right _ hc

/-- The power of a fraction. -/
theorem exp2Bits_bounds (ht : t < 2 ^ 150) : Approx (2 ^ 200) (exp2Bits 150 t (isqrt (2 * 2 ^ 400)) (2 ^ 200)) (power t) 22800 ∧
    2 ^ 200 ≤ exp2Bits 150 t (isqrt (2 * 2 ^ 400)) (2 ^ 200) := by
  have hone : Approx (2 ^ 200) (2 ^ 200) 1 0 := ⟨by simp, by simp⟩
  have htwo : Approx (2 ^ 200) (2 * 2 ^ 200) (power (2 ^ 150)) 0 := by
    rw [power_two_pow]
    constructor <;> push_cast <;> linarith
  have hroot := htwo.root (one_le_power (by positivity)) (Nat.zero_le _)
  have hc : 2 * 2 ^ 200 * 2 ^ 200 = 2 * 2 ^ 400 := by rw [mul_assoc, show 400 = 200 + 200 from rfl, pow_add]
  rw [sqrt_power, hc] at hroot
  have h := exp2Bits_approx (t := t) 150 hroot hone le_rfl (by norm_num)
  rw [Nat.mod_eq_of_lt ht, one_mul] at h
  refine ⟨h, exp2Bits_lower 150 ?_ le_rfl⟩
  rw [isqrt_eq, Nat.le_sqrt, ← pow_add]
  exact Nat.le_mul_of_pos_left _ (by decide)

/-! ### The model's power of two -/

/-- The exact real that `fexpf` rounds, for ±t / 2^150. -/
theorem exp2Dy_fraction {R : Nat} {Y : ℝ} {base : Int} (h : Approx (2 ^ 200) R Y 22800) (hR : 2 ^ 200 ≤ R) (hY : Y < 2) (hbase : base ≤ 0) :
    let x : Dy := ⟨(2 * R + 1 : Nat), base - 201⟩
    0 < x.m ∧ x.log2 = base ∧ |(x.rat : ℝ) - 2 ^ base * Y| ≤ 1 / 2 ^ 180 := by
  obtain ⟨h1, h2⟩ := h
  have hbpos : (0 : ℝ) < 2 ^ base := zpow_pos (by norm_num) base
  have hbone : (2 : ℝ) ^ base ≤ 1 := zpow_le_one_of_nonpos₀ (by norm_num) hbase
  have hRlt : R < 2 ^ 201 := by
    have : (R : ℝ) < ((2 ^ 201 : Nat) : ℝ) := by
      refine h2.trans_lt ?_
      push_cast
      linarith
    exact Nat.cast_lt.1 this
  intro x
  have hm : (0 : Int) < x.m := by
    change (0 : Int) < ((2 * R + 1 : Nat) : Int)
    omega
  refine ⟨hm, ?_, ?_⟩
  · have hlog : Nat.log2 (2 * R + 1) = 201 := by
      rw [Nat.log2_eq_iff (by omega)]
      omega
    change ((Nat.log2 ((2 * R + 1 : Nat) : Int).natAbs : Nat) : Int) + (base - 201) = base
    rw [Int.natAbs_natCast, hlog]
    omega
  · have hx : (x.rat : ℝ) = 2 ^ base * ((2 * R + 1) / 2 ^ 201) := by
      rw [Dy.rat_mk]
      push_cast
      rw [zpow_sub₀ two_ne_zero, zpow_ofNat]
      ring
    have hY1 : Y < 2 := hY
    push_cast at h1 h2
    rw [hx, ← mul_sub, abs_mul, abs_of_pos hbpos]
    have hdiff : |(2 * R + 1) / 2 ^ 201 - Y| ≤ 1 / 2 ^ 180 := by
      rw [abs_le]
      constructor
      · have : Y ≤ (R + 22800 * Y) / 2 ^ 200 := by
          rw [le_div_iff₀ (by positivity)]
          linarith
        have h3 : ((2 * R + 1) / 2 ^ 201 : ℝ) = R / 2 ^ 200 + 1 / 2 ^ 201 := by
          field_simp
        rw [h3]
        rw [add_div] at this
        have h4 : 22800 * Y / 2 ^ 200 ≤ 1 / 2 ^ 180 := by
          rw [div_le_div_iff₀ (by positivity) (by positivity)]
          linarith
        have h5 : (0 : ℝ) < 1 / 2 ^ 201 := by positivity
        linarith
      · rw [sub_le_iff_le_add, div_le_iff₀ (by positivity), add_mul]
        linarith
    calc 2 ^ base * |(2 * R + 1) / 2 ^ 201 - Y| ≤ 1 * |(2 * R + 1) / 2 ^ 201 - Y| := mul_le_mul_of_nonneg_right hbone (abs_nonneg _)
      _ ≤ 1 / 2 ^ 180 := by rwa [one_mul]

/-- The exponent of the model's power: −1 below 1, else 0, and 1 at 2. -/
def powerLog (neg : Bool) (t : Nat) : Int := if neg then -1 else if t = 2 ^ 150 then 1 else 0

theorem exp2Dy_near {m e : Nat} (neg : Bool) (ht0 : 0 < m * 2 ^ (e + 1)) (ht : m * 2 ^ (e + 1) ≤ 2 ^ 150) :
    let x := exp2Dy neg m ((e : Int) - 149)
    0 < x.m ∧ x.log2 = powerLog neg (m * 2 ^ (e + 1)) ∧
      |(x.rat : ℝ) - power (if neg then -(m * 2 ^ (e + 1) : Nat) else (m * 2 ^ (e + 1) : Nat))| ≤ 1 / 2 ^ 180 := by
  have hshift : (shl2 m ((e : Int) - 149 + 150)).toNat = m * 2 ^ (e + 1) := by
    rw [shl2, show ((e : Int) - 149 + 150).toNat = e + 1 by omega]
    exact_mod_cast Int.toNat_natCast _
  obtain ⟨t, htdef⟩ : ∃ t, t = m * 2 ^ (e + 1) := ⟨_, rfl⟩
  rw [← htdef] at ht0 ht hshift ⊢
  have hneg : power (-(t : ℝ)) = 2 ^ (-1 : Int) * power ((2 ^ 150 - t : Nat) : ℝ) := by
    have hsum : power (-(t : ℝ)) * 2 = power ((2 ^ 150 - t : Nat) : ℝ) := by
      rw [← power_two_pow, ← power_add, Nat.cast_sub ht]
      congr 1
      push_cast
      ring
    rw [← hsum, zpow_neg_one]
    ring
  rcases ht.lt_or_eq with hlt | heq
  · have hx : exp2Dy neg m ((e : Int) - 149) = ⟨(2 * exp2Bits 150 (if neg then 2 ^ 150 - t else t) (isqrt (2 * 2 ^ 400)) (2 ^ 200) + 1 : Nat),
        (if neg then -1 else 0) - 201⟩ := by
      simp only [exp2Dy, hshift, if_neg ht0.ne', if_neg hlt.ne]
      cases neg <;> rfl
    have hpow : ∀ u : Nat, u < 2 ^ 150 → power u < 2 := fun u hu => by
      rw [← power_two_pow]
      refine Real.rpow_lt_rpow_of_exponent_lt one_lt_two (div_lt_div_of_pos_right ?_ (by positivity))
      exact_mod_cast hu
    rw [hx]
    cases neg with
    | true =>
      have hu : 2 ^ 150 - t < 2 ^ 150 := by omega
      obtain ⟨h1, h2⟩ := exp2Bits_bounds hu
      have h := exp2Dy_fraction (base := -1) h1 h2 (hpow _ hu) (by decide)
      rw [← hneg] at h
      exact h
    | false =>
      obtain ⟨h1, h2⟩ := exp2Bits_bounds hlt
      have h := exp2Dy_fraction (base := 0) h1 h2 (hpow _ hlt) le_rfl
      rw [zpow_zero, one_mul] at h
      rw [powerLog, if_neg Bool.false_ne_true, if_neg hlt.ne]
      exact h
  · have hx : exp2Dy neg m ((e : Int) - 149) = ⟨1, if neg then -1 else 1⟩ := by
      simp only [exp2Dy, hshift, if_neg ht0.ne', if_pos heq]
    have hlog : ∀ e : Int, (⟨1, e⟩ : Dy).log2 = e := fun e => by
      change ((Nat.log2 1 : Nat) : Int) + e = e
      rw [show Nat.log2 1 = 0 by decide]
      exact Int.zero_add e
    rw [hx, heq]
    cases neg with
    | true =>
      refine ⟨by decide, hlog _, ?_⟩
      rw [heq, Nat.sub_self, Nat.cast_zero, power_zero, mul_one] at hneg
      simp only [if_true]
      rw [hneg, Dy.rat_mk, Int.cast_one, one_mul, Rat.cast_zpow, Rat.cast_ofNat, sub_self, abs_zero]
      positivity
    | false =>
      have htwo : power ((2 ^ 150 : Nat) : ℝ) = 2 := by
        rw [Nat.cast_pow, Nat.cast_ofNat]
        exact power_two_pow
      refine ⟨by decide, hlog _, ?_⟩
      simp only [Bool.false_eq_true, if_false]
      rw [htwo, Dy.rat_mk, Int.cast_one, one_mul, zpow_one, Rat.cast_ofNat, sub_self, abs_zero]
      positivity

/-! ### `fexpf` -/

theorem lt_finf_of_pos {r : Nat} (h : r < f32.bound) (hfin : ffin (8, 23) r = true) (hpos : fneg (8, 23) r = false) : r < finf (8, 23) := by
  have hr := fsign_fneg_fmag (F := (8, 23)) h
  rw [hpos] at hr
  rw [← hr]
  exact of_decide_eq_true hfin

/-- A value close to a positive real is positive. -/
theorem fneg_of_near {r : Nat} {x : Dy} {u : ℚ} (h : |ratOf r - x.rat| < u) (hu : u ≤ x.rat) : fneg (8, 23) r = false := by
  cases hs : fneg (8, 23) r with
  | false => rfl
  | true =>
    have hle : ratOf r ≤ 0 := div_nonpos_of_nonpos_of_nonneg (by exact_mod_cast fint_nonpos hs) (by positivity)
    rw [abs_lt] at h
    linarith

/-- A finite pattern against 1, 1/2 and what lies between. -/
theorem magInt_one : magInt 23 0x3F800000 = 2 ^ 149 := by
  rw [show (0x3F800000 : Nat) = 126 * 2 ^ 23 + 2 ^ 23 by norm_num, magInt_two_pow, ← pow_add]

theorem magInt_half : magInt 23 0x3F000000 = 2 ^ 148 := by
  rw [show (0x3F000000 : Nat) = 125 * 2 ^ 23 + 2 ^ 23 by norm_num, magInt_two_pow, ← pow_add]

theorem dy_rat_scaled (m e : Nat) : (⟨m, (e : Int) - 149⟩ : Dy).rat * 2 ^ 149 = (m * 2 ^ e : Nat) := by
  rw [Dy.rat_mk, mul_assoc, ← zpow_natCast, ← two_zpow_add, show (e : Int) - 149 + ((149 : Nat) : Int) = (e : Nat) by push_cast; ring,
    zpow_natCast]
  push_cast
  rfl

theorem lt_one_iff {m e : Nat} (h : m * 2 ^ e = magInt 23 n) : Dy.lt ⟨1, 0⟩ ⟨m, (e : Int) - 149⟩ = decide (0x3F800000 < n) := by
  rw [Dy.lt_eq, decide_eq_decide, ← mul_lt_mul_iff_left₀ (show (0 : ℚ) < 2 ^ 149 by positivity), dy_rat_scaled, h, Dy.rat_mk, Int.cast_one,
    zpow_zero, one_mul, one_mul, ← magInt_lt_iff (p := 23), magInt_one, ← Nat.cast_lt (α := ℚ), Nat.cast_pow, Nat.cast_ofNat]

theorem le_half_iff {m e : Nat} (h : m * 2 ^ e = magInt 23 n) : Dy.le ⟨m, (e : Int) - 149⟩ ⟨1, -1⟩ = decide (n ≤ 0x3F000000) := by
  have hhalf : (⟨1, -1⟩ : Dy).rat * 2 ^ 149 = (2 ^ 148 : Nat) := by
    rw [Dy.rat_mk]
    norm_num
  rw [Dy.le_eq, decide_eq_decide, ← mul_le_mul_iff_left₀ (show (0 : ℚ) < 2 ^ 149 by positivity), dy_rat_scaled, h, hhalf, Nat.cast_le,
    ← magInt_half, magInt_le_iff]

/-- The bounds of R86 for a result of `fexpf`, at a distance from the exact real. -/
theorem power_bound {r : Nat} {x : Dy} {L : Int} {V : ℝ} {w : ℚ} (hr : |ratOf r - x.rat| < w * 2 ^ (L - 23))
    (hx : |(x.rat : ℝ) - V| ≤ 1 / 2 ^ 180) : |realOf r - V| < w * 2 ^ (L - 23) + 1 / 2 ^ 150 := by
  have h1 : |(ratOf r : ℝ) - x.rat| < w * 2 ^ (L - 23) := by
    have h := (Rat.cast_lt (K := ℝ)).2 hr
    push_cast at h
    exact h
  rw [realOf_eq]
  have h2 : (1 : ℝ) / 2 ^ 180 < 1 / 2 ^ 150 := by norm_num
  calc |(ratOf r : ℝ) - V| ≤ |(ratOf r : ℝ) - x.rat| + |(x.rat : ℝ) - V| := abs_sub_le ..
    _ < w * 2 ^ (L - 23) + 1 / 2 ^ 150 := by linarith

/-- What `fexpf` gives for 0 < |a| ≤ 1: less than one step off up to 1/2, and less than two above. -/
def exp2Pick (a draw : Nat) (x : Dy) (half : Bool) : Nat :=
  if half then pickBracket x draw
  else if nearBy x (Config.freeWord (BitVec.ofNat 32 a) draw).toNat then (Config.freeWord (BitVec.ofNat 32 a) draw).toNat
  else pickBracket x draw

theorem exp2Pick_near {x : Dy} (hm : 0 < x.m) (hlo : -1 ≤ x.log2) (hhi : x.log2 ≤ 1) (draw : Nat) (half : Bool) :
    exp2Pick a draw x half < finf (8, 23) ∧
      |ratOf (exp2Pick a draw x half) - x.rat| < (if half then 1 else 2) * 2 ^ (x.log2 - 23) := by
  obtain ⟨hlt, hfin, hneg, hnear⟩ := pickBracket_near hm.ne' (by omega) (by omega) draw
  rw [decide_eq_false hm.not_gt] at hneg
  have hpos : (0 : ℚ) < 2 ^ (x.log2 - 23) := two_zpow_pos _
  unfold exp2Pick
  split
  · exact ⟨lt_finf_of_pos hlt hfin hneg, by rwa [one_mul]⟩
  · next hh =>
    split
    · next hn =>
      generalize Config.freeWord (BitVec.ofNat 32 a) draw = c at hn ⊢
      obtain ⟨n, m, e, hu, hlt'⟩ : ∃ n m e, unpack f32 c.toNat = .fin n m e ∧
          Dy.lt ((FVal.dy (.fin n m e)).add x.neg).abs ⟨2, x.log2 - 23⟩ = true := by
        unfold nearBy at hn
        split at hn
        · next n m e hu => exact ⟨n, m, e, hu, hn⟩
        · exact absurd hn Bool.false_ne_true
      obtain ⟨hfin', hnear'⟩ := near_of_lt hu hlt'
      rw [show (⟨2, x.log2 - 23⟩ : Dy).rat = 2 * 2 ^ (x.log2 - 23) from Dy.rat_mk 2 _] at hnear'
      refine ⟨lt_finf_of_pos c.isLt hfin' (fneg_of_near hnear' ?_), hnear'⟩
      have hx := (Dy.log2_spec hm.ne').1
      rw [abs_of_pos (lt_of_not_ge fun hle => absurd (Dy.rat_nonpos_iff.1 hle) hm.not_ge)] at hx
      refine le_trans ?_ hx
      rw [← zpow_one_add₀ two_ne_zero]
      exact two_zpow_le (by omega)
    · exact ⟨lt_finf_of_pos hlt hfin hneg, by linarith⟩

theorem fpExp2_is (ha : a < f32.bound) (draw : Nat) : PowerIs a (fpExp2 a draw).1 (fpExp2 a draw).2 ∧ (fpExp2 a draw).1 < f32.bound := by
  have hF := f32_usual
  have hfields : f32.fields = (8, 23) := rfl
  rcases kind_cases f32.fields a with ⟨hna, hia, hfa⟩ | ⟨hna, hia, hfa⟩ | ⟨hna, hia, hfa⟩
  · simp [fpExp2, unpack_nan hF hna, PowerIs, ← hfields, hna, quiet_eq, fquiet_lt ha, invalidIf]
  · have hbig : 0x3F800000 < fmag f32.fields a := by
      rw [fisInf, decide_eq_true_eq] at hia
      rw [hia]
      decide
    simp [fpExp2, unpack_inf hia, PowerIs, ← hfields, hna, hbig, defaultNan_eq, fnan_lt hF]
  · obtain ⟨m, e, hu, hm, hmlt, hm0, -, he⟩ := unpack_fin hF hfa
    rw [unitExp_f32, Nat.cast_ofNat] at hu
    have hm : m * 2 ^ e = magInt 23 (fmag f32.fields a) := hm
    by_cases h0 : m = 0
    · simp [fpExp2, hu, h0, PowerIs, ← hfields, hna, hm0.1 h0]
      decide
    · by_cases hbig : 0x3F800000 < fmag f32.fields a
      · simp [fpExp2, hu, h0, lt_one_iff hm, PowerIs, ← hfields, hna, hbig, defaultNan_eq, fnan_lt hF]
      · have hfp : fpExp2 a draw = (exp2Pick a draw (exp2Dy (fneg f32.fields a) m ((e : Int) - 149))
            (decide (fmag f32.fields a ≤ 0x3F000000)), 0) := by
          simp only [fpExp2, hu, if_neg h0, lt_one_iff hm, decide_eq_true_eq, if_neg hbig, le_half_iff hm, exp2Pick]
          split
          · rfl
          · rfl
        have ht0 : 0 < m * 2 ^ (e + 1) := by positivity
        have ht2 : m * 2 ^ (e + 1) = 2 * magInt 23 (fmag f32.fields a) := by
          rw [← hm]
          ring
        have ht : m * 2 ^ (e + 1) ≤ 2 ^ 150 := by
          have hle := magInt_le_iff (p := 23).2 (not_lt.1 hbig)
          rw [magInt_one] at hle
          omega
        have hone : m * 2 ^ (e + 1) = 2 ^ 150 ↔ fmag f32.fields a = 0x3F800000 := by
          rw [ht2, ← magInt_inj (p := 23) (a := fmag f32.fields a), magInt_one]
          omega
        obtain ⟨hpos, hlog, hval⟩ := exp2Dy_near (fneg f32.fields a) ht0 ht
        have hreal : power (if fneg f32.fields a then -(m * 2 ^ (e + 1) : Nat) else (m * 2 ^ (e + 1) : Nat)) = 2 ^ realOf a := by
          rw [power, realOf, ← hfields, fint_eq, show f32.fields.2 = 23 from rfl, ← hm]
          congr 1
          split
          · push_cast
            ring
          · push_cast
            ring
        rw [hreal] at hval
        have hL : -1 ≤ powerLog (fneg f32.fields a) (m * 2 ^ (e + 1)) ∧ powerLog (fneg f32.fields a) (m * 2 ^ (e + 1)) ≤ 1 := by
          unfold powerLog
          split
          · decide
          · split <;> decide
        obtain ⟨hlt, hnear⟩ := exp2Pick_near (a := a) hpos (by omega) (by omega) draw (decide (fmag f32.fields a ≤ 0x3F000000))
        have hbound := power_bound hnear hval
        have hulp : (2 : ℝ) ^ (powerLog (fneg f32.fields a) (m * 2 ^ (e + 1)) - 23) =
            if fneg f32.fields a then 1 / 2 ^ 24 else if fmag f32.fields a = 0x3F800000 then 1 / 2 ^ 22 else 1 / 2 ^ 23 := by
          simp only [powerLog, hone]
          split
          · norm_num
          · split <;> norm_num
        rw [hlog, hulp] at hbound
        rw [hfp]
        simp only [PowerIs, ← hfields, hna, hbig, hm0.not.1 h0, if_false, Bool.false_eq_true]
        refine ⟨⟨trivial, hlt, ?_⟩, hlt.trans (by decide)⟩
        by_cases hhalf : fmag f32.fields a ≤ 0x3F000000
        · simpa [hhalf] using hbound
        · simpa [hhalf] using hbound

end Sys2Proof.Machine
end

section
/-! SUPPORT. `flog2` (R86): the model's binary logarithm against the true one. -/

namespace Sys2Proof.Machine
open Sys2Proof Sys2Proof.Stated
variable {a m n acc : Nat}

/-! ### The bits of a logarithm -/

/-- log2 of m / 2^160. -/
noncomputable def fracLog (m : Nat) : ℝ := Real.logb 2 (m / 2 ^ 160)

/-- Numbers from 1 up to 2, in units of 2^−160. -/
def InOctave (m : Nat) : Prop := 2 ^ 160 ≤ m ∧ m < 2 ^ 161

theorem InOctave.pos (h : InOctave m) : (0 : ℝ) < m := Nat.cast_pos.2 ((Nat.two_pow_pos 160).trans_le h.1)

theorem InOctave.fracLog_nonneg (h : InOctave m) : 0 ≤ fracLog m := by
  refine Real.logb_nonneg one_lt_two ?_
  rw [one_le_div (by positivity)]
  exact_mod_cast h.1

theorem InOctave.fracLog_lt_one (h : InOctave m) : fracLog m < 1 := by
  rw [fracLog, Real.logb_lt_iff_lt_rpow one_lt_two (div_pos h.pos (by positivity)), Real.rpow_one, div_lt_iff₀ (by positivity)]
  exact_mod_cast h.2

/-- A unit more changes the logarithm by little. -/
theorem fracLog_succ (h : InOctave m) : fracLog (m + 1) ≤ fracLog m + 1 / 2 ^ 159 := by
  have hm := h.pos
  have hm160 : (2 : ℝ) ^ 160 ≤ m := by exact_mod_cast h.1
  have hsplit : ((m + 1 : Nat) : ℝ) / 2 ^ 160 = m / 2 ^ 160 * (1 + 1 / m) := by
    push_cast
    field_simp
  have hlog : Real.logb 2 (1 + 1 / m) ≤ 1 / 2 ^ 159 := by
    rw [Real.logb, div_le_iff₀ (Real.log_pos one_lt_two)]
    have h1 : Real.log (1 + 1 / m) ≤ 1 / m := by
      have := Real.log_le_sub_one_of_pos (show (0 : ℝ) < 1 + 1 / m by positivity)
      linarith
    have h2 : (1 : ℝ) / m ≤ 1 / 2 ^ 160 := one_div_le_one_div_of_le (by positivity) hm160
    have h3 := Real.log_two_gt_d9
    have h4 : (1 : ℝ) / 2 ^ 159 = 2 * (1 / 2 ^ 160) := by norm_num
    rw [h4]
    nlinarith [show (0 : ℝ) < 1 / 2 ^ 160 by positivity]
  rw [fracLog, hsplit, Real.logb_mul (by positivity) (by positivity)]
  exact add_le_add le_rfl hlog

theorem fracLog_sq (h : InOctave m) : Real.logb 2 (((m * m : Nat) : ℝ) / 2 ^ 160 / 2 ^ 160) = 2 * fracLog m := by
  have hm := h.pos
  rw [show ((m * m : Nat) : ℝ) / 2 ^ 160 / 2 ^ 160 = (m / 2 ^ 160) ^ 2 by push_cast; ring, Real.logb_pow, fracLog]
  push_cast
  rfl

/-- One bit more: the octave's half in which the square lies, and where. -/
theorem fracLog_step (h : InOctave m) {m' b : Nat} (hm' : InOctave m') (hlo : 2 ^ b * m' ≤ m * m / 2 ^ 160)
    (hhi : m * m / 2 ^ 160 + 1 ≤ 2 ^ b * (m' + 1)) :
    b + fracLog m' ≤ 2 * fracLog m ∧ 2 * fracLog m ≤ b + fracLog m' + 1 / 2 ^ 159 := by
  have hm := h.pos
  have hm'0 := hm'.pos
  have hbits : ∀ k : Nat, 0 < k → Real.logb 2 (((2 ^ b * k : Nat) : ℝ) / 2 ^ 160) = b + fracLog k := fun k hk => by
    have hk' : (0 : ℝ) < k := Nat.cast_pos.2 hk
    rw [show ((2 ^ b * k : Nat) : ℝ) / 2 ^ 160 = 2 ^ b * (k / 2 ^ 160) by push_cast; ring, Real.logb_mul (by positivity) (by positivity),
      Real.logb_pow, Real.logb_self_eq_one one_lt_two, mul_one, fracLog]
  have hsq1 : ((m * m / 2 ^ 160 : Nat) : ℝ) ≤ ((m * m : Nat) : ℝ) / 2 ^ 160 := by
    rw [le_div_iff₀ (by positivity)]
    exact_mod_cast Nat.div_mul_le_self (m * m) (2 ^ 160)
  have hsq2 : ((m * m : Nat) : ℝ) / 2 ^ 160 ≤ ((m * m / 2 ^ 160 + 1 : Nat) : ℝ) := by
    rw [div_le_iff₀ (by positivity)]
    have hceil : m * m ≤ (m * m / 2 ^ 160 + 1) * 2 ^ 160 := by
      rw [add_mul, one_mul]
      exact (Nat.lt_div_mul_add (Nat.two_pow_pos 160)).le
    exact_mod_cast hceil
  have hmm : (0 : ℝ) < ((m * m : Nat) : ℝ) / 2 ^ 160 / 2 ^ 160 := by
    push_cast
    positivity
  rw [← fracLog_sq h]
  constructor
  · rw [← hbits m' (Nat.cast_pos.1 hm'0)]
    refine Real.logb_le_logb_of_le one_lt_two (by push_cast; positivity) ?_
    exact div_le_div_of_nonneg_right ((Nat.cast_le.2 hlo).trans hsq1) (by positivity)
  · have h1 : Real.logb 2 (((m * m : Nat) : ℝ) / 2 ^ 160 / 2 ^ 160) ≤ b + fracLog (m' + 1) := by
      rw [← hbits (m' + 1) (Nat.succ_pos _)]
      refine Real.logb_le_logb_of_le one_lt_two hmm ?_
      exact div_le_div_of_nonneg_right (hsq2.trans (Nat.cast_le.2 hhi)) (by positivity)
    have h2 := fracLog_succ hm'
    linarith

/-- n bits of a logarithm below those found: they lie below it, by less than one of their units and a rest. -/
theorem log2Bits_bounds (n : Nat) (h : InOctave m) : ∃ B, log2Bits n m acc = acc * 2 ^ n + B ∧ B < 2 ^ n ∧
    (B : ℝ) ≤ 2 ^ n * fracLog m ∧ 2 ^ n * fracLog m ≤ B + 1 + 2 ^ n * (1 / 2 ^ 159) := by
  induction n generalizing m acc with
  | zero =>
    have h0 := h.fracLog_nonneg
    have h1 := h.fracLog_lt_one
    refine ⟨0, by simp [log2Bits], by simp, by simpa using h0, ?_⟩
    have : (0 : ℝ) < 1 / 2 ^ 159 := by positivity
    simp only [pow_zero, one_mul, Nat.cast_zero, zero_add]
    linarith
  | succ n ih =>
    have hsq : 2 ^ 160 ≤ m * m / 2 ^ 160 ∧ m * m / 2 ^ 160 < 2 ^ 162 := by
      obtain ⟨h1, h2⟩ := h
      rw [Nat.le_div_iff_mul_le (Nat.two_pow_pos _), Nat.div_lt_iff_lt_mul (Nat.two_pow_pos _)]
      refine ⟨Nat.mul_le_mul h1 h1, (Nat.mul_lt_mul'' h2 h2).trans_le ?_⟩
      rw [← pow_add, ← pow_add]
    obtain ⟨b, m', hb, hm', hlo, hhi, hstep⟩ : ∃ b m', b < 2 ∧ InOctave m' ∧ 2 ^ b * m' ≤ m * m / 2 ^ 160 ∧
        m * m / 2 ^ 160 + 1 ≤ 2 ^ b * (m' + 1) ∧ log2Bits (n + 1) m acc = log2Bits n m' (2 * acc + b) := by
      rw [log2Bits]
      generalize m * m / 2 ^ 160 = s at hsq ⊢
      split
      · next hc => exact ⟨1, s / 2, by decide, ⟨by omega, by omega⟩, by omega, by omega, rfl⟩
      · next hc => exact ⟨0, s, by decide, ⟨hsq.1, by omega⟩, by omega, by omega, rfl⟩
    obtain ⟨B, hB, hBlt, h1, h2⟩ := ih (acc := 2 * acc + b) hm'
    obtain ⟨h3, h4⟩ := fracLog_step h hm' hlo hhi
    have hpow : (0 : ℝ) < 2 ^ n := by positivity
    have hb1 : b * 2 ^ n ≤ 1 * 2 ^ n := Nat.mul_le_mul_right _ (by omega)
    refine ⟨b * 2 ^ n + B, by rw [hstep, hB]; ring, by rw [pow_succ]; omega, ?_, ?_⟩
    · push_cast
      rw [pow_succ, mul_assoc]
      have := mul_le_mul_of_nonneg_left h3 hpow.le
      linarith
    · push_cast
      rw [pow_succ, mul_assoc, mul_assoc]
      have := mul_le_mul_of_nonneg_left h4 hpow.le
      have hr : (0 : ℝ) < 1 / 2 ^ 159 := by positivity
      linarith [mul_pos hpow hr]

/-! ### The model's logarithm -/

theorem log2_mul_two_pow {m : Nat} (h : m ≠ 0) (e : Nat) : (m * 2 ^ e).log2 = m.log2 + e := by
  rw [Nat.log2_eq_iff (Nat.mul_ne_zero h (Nat.two_pow_pos e).ne'), pow_add, add_right_comm, pow_add]
  exact ⟨Nat.mul_le_mul_right _ (Nat.log2_self_le h), Nat.mul_lt_mul_of_pos_right Nat.lt_log2_self (Nat.two_pow_pos e)⟩

/-- The significand of the model: in the octave from 1, and 1 for a power of two alone. -/
theorem mant_octave {m : Nat} (h0 : m ≠ 0) (hlt : m < 2 ^ 24) : InOctave (m * 2 ^ (160 - m.log2)) ∧
    (m * 2 ^ (160 - m.log2) = 2 ^ 160 ↔ m = 2 ^ m.log2) := by
  have hlog : m.log2 < 24 := (Nat.log2_lt h0).2 hlt
  have hsplit : ∀ k ≤ 160, 2 ^ 160 = 2 ^ k * 2 ^ (160 - k) := fun k hk => by rw [← pow_add, Nat.add_sub_cancel' hk]
  have hpos := Nat.two_pow_pos (160 - m.log2)
  refine ⟨⟨?_, ?_⟩, ?_⟩
  · rw [hsplit m.log2 (by omega)]
    exact Nat.mul_le_mul_right _ (Nat.log2_self_le h0)
  · have h161 : 2 ^ 161 = 2 ^ (m.log2 + 1) * 2 ^ (160 - m.log2) := by
      rw [← pow_add]
      congr 1
      omega
    rw [h161]
    exact Nat.mul_lt_mul_of_pos_right Nat.lt_log2_self hpos
  · rw [hsplit m.log2 (by omega)]
    exact Nat.mul_left_inj hpos.ne'

/-- The true logarithm: the exponent, and that of the significand. -/
theorem logb_value {m e : Nat} (h0 : m ≠ 0) (hlt : m < 2 ^ 24) :
    Real.logb 2 (((m * 2 ^ e : Nat) : ℝ) / 2 ^ 149) = ((m.log2 + e : Nat) : ℝ) - 149 + fracLog (m * 2 ^ (160 - m.log2)) := by
  have hlog : m.log2 < 24 := (Nat.log2_lt h0).2 hlt
  obtain ⟨hoct, -⟩ := mant_octave h0 hlt
  have hval : ((m * 2 ^ e : Nat) : ℝ) / 2 ^ 149 = 2 ^ (m.log2 + e) / 2 ^ 149 * (((m * 2 ^ (160 - m.log2) : Nat) : ℝ) / 2 ^ 160) := by
    have hsplit : (2 : ℝ) ^ 160 = 2 ^ m.log2 * 2 ^ (160 - m.log2) := by rw [← pow_add, Nat.add_sub_cancel' (by omega)]
    rw [hsplit, pow_add]
    push_cast
    field_simp
  have hpow : Real.logb 2 ((2 : ℝ) ^ (m.log2 + e) / 2 ^ 149) = ((m.log2 + e : Nat) : ℝ) - 149 := by
    rw [Real.logb_div (by positivity) (by positivity), Real.logb_pow, Real.logb_pow, Real.logb_self_eq_one one_lt_two]
    push_cast
    ring
  rw [hval, Real.logb_mul (by positivity) (div_pos hoct.pos (by positivity)).ne', hpow, fracLog]

/-- The exponent of the value of a logarithm with integer part L (R86). -/
def logSize (L : Int) : Int := if 1 ≤ L then L.natAbs.log2 else if L ≤ -2 then (-L - 1).natAbs.log2 else -1

/-- The binary logarithm of a number strictly between two neighbouring integers. -/
theorem log2_between {x : Dy} {L : Int} (h1 : (L : ℚ) < x.rat) (h2 : x.rat < L + 1) : max x.log2 (-1) = logSize L := by
  have hcast : ∀ {k : Int} (_ : 1 ≤ k), (2 : ℚ) ^ ((k.natAbs.log2 : Nat) : Int) ≤ k ∧ (k : ℚ) + 1 ≤ 2 ^ (((k.natAbs.log2 : Nat) : Int) + 1) := by
    intro k hk
    have hk' : (k : ℚ) = k.natAbs := by
      rw [Nat.cast_natAbs, abs_of_nonneg (by omega)]
    have hne : k.natAbs ≠ 0 := by omega
    rw [hk', zpow_natCast, show ((k.natAbs.log2 : Nat) : Int) + 1 = ((k.natAbs.log2 + 1 : Nat) : Int) by push_cast; rfl, zpow_natCast]
    exact ⟨by exact_mod_cast Nat.log2_self_le hne, by exact_mod_cast (Nat.lt_log2_self : k.natAbs < _)⟩
  unfold logSize
  split
  · next hL =>
    obtain ⟨hlo, hhi⟩ := hcast hL
    have hpos : (0 : ℚ) < x.rat := lt_trans (by exact_mod_cast (by omega : 0 < L)) h1
    rw [Dy.log2_eq (L := L.natAbs.log2) (by rw [abs_of_pos hpos]; linarith) (by rw [abs_of_pos hpos]; linarith)]
    omega
  · split
    · next hL =>
      obtain ⟨hlo, hhi⟩ := hcast (k := -L - 1) (by omega)
      push_cast at hlo hhi
      have hL' : (L : ℚ) + 1 ≤ -1 := by exact_mod_cast (by omega : L + 1 ≤ -1)
      have hneg : x.rat < 0 := by linarith
      rw [Dy.log2_eq (L := (-L - 1).natAbs.log2) (by rw [abs_of_neg hneg]; linarith) (by rw [abs_of_neg hneg]; linarith)]
      omega
    · next hL hL' =>
      have hne : x.rat ≠ 0 ∧ |x.rat| < 1 := by
        obtain rfl | rfl : L = 0 ∨ L = -1 := by omega
        · push_cast at h1 h2
          exact ⟨by linarith, by rw [abs_lt]; constructor <;> linarith⟩
        · push_cast at h1 h2
          exact ⟨by linarith, by rw [abs_lt]; constructor <;> linarith⟩
      have hspec := (Dy.log2_spec (mt Dy.rat_eq_zero_iff.2 hne.1)).1
      have hlt : x.log2 < 0 := two_zpow_lt_iff.1 (by rw [zpow_zero]; exact hspec.trans_lt hne.2)
      omega

theorem dyLog2_fin (m e : Nat) : Dy.log2 ⟨m, (e : Int) - 149⟩ = ((m.log2 + e : Nat) : Int) - 149 := by
  rw [Dy.log2, Int.natAbs_natCast]
  push_cast
  ring

/-- The model's logarithm of a power of two. -/
theorem log2Dy_power {m e : Nat} (h0 : m ≠ 0) (hlt : m < 2 ^ 24) (hp : m = 2 ^ m.log2) :
    log2Dy m ((e : Int) - 149) = ⟨((m.log2 + e : Nat) : Int) - 149, 0⟩ := by
  rw [log2Dy, if_pos ((mant_octave h0 hlt).2.2 hp), dyLog2_fin]

/-- The model's logarithm of another number: between the integers around it, and close to the true one. -/
theorem log2Dy_other {m e : Nat} {L : Int} (h0 : m ≠ 0) (hlt : m < 2 ^ 24) (hp : m ≠ 2 ^ m.log2) (hL : L = ((m.log2 + e : Nat) : Int) - 149) :
    let x := log2Dy m ((e : Int) - 149)
    x.e = -97 ∧ (L : ℚ) < x.rat ∧ x.rat < L + 1 ∧ |(x.rat : ℝ) - Real.logb 2 (((m * 2 ^ e : Nat) : ℝ) / 2 ^ 149)| ≤ 1 / 2 ^ 96 := by
  obtain ⟨hoct, hone⟩ := mant_octave h0 hlt
  obtain ⟨A, hA, hAlt, h1, h2⟩ := log2Bits_bounds (acc := 0) 96 hoct
  rw [zero_mul, zero_add] at hA
  have hx : log2Dy m ((e : Int) - 149) = ⟨L * 2 ^ 97 + (2 * A + 1 : Nat), -97⟩ := by
    rw [log2Dy, if_neg (mt hone.1 hp), dyLog2_fin, hA, hL]
  have hrat : (⟨L * 2 ^ 97 + (2 * A + 1 : Nat), -97⟩ : Dy).rat = L + (2 * A + 1) / 2 ^ 97 := by
    rw [Dy.rat_mk, zpow_neg, zpow_ofNat]
    push_cast
    field_simp
    norm_num
  have hA97 : (2 * A + 1 : ℚ) < 2 ^ 97 := by exact_mod_cast (by omega : 2 * A + 1 < 2 ^ 97)
  rw [hx]
  refine ⟨rfl, ?_, ?_, ?_⟩
  · rw [hrat]
    exact lt_add_of_pos_right _ (by positivity)
  · rw [hrat]
    exact add_lt_add_of_le_of_lt le_rfl ((div_lt_one (by positivity)).2 hA97)
  · rw [hrat, logb_value h0 hlt, hL]
    generalize fracLog (m * 2 ^ (160 - m.log2)) = φ at h1 h2
    push_cast
    have h3 : (A : ℝ) / 2 ^ 96 ≤ φ := by
      rw [div_le_iff₀ (by positivity)]
      linarith
    have h4 : φ ≤ (A + 1) / 2 ^ 96 + 1 / 2 ^ 159 := by
      rw [← sub_le_iff_le_add, le_div_iff₀ (by positivity), sub_mul]
      linarith
    have h5 : ((2 * A + 1) / 2 ^ 97 : ℝ) = A / 2 ^ 96 + 1 / 2 ^ 97 := by
      field_simp
    have h6 : ((A + 1) / 2 ^ 96 : ℝ) = A / 2 ^ 96 + 1 / 2 ^ 96 := add_div ..
    have h7 : (1 : ℝ) / 2 ^ 96 = 2 * (1 / 2 ^ 97) := by norm_num
    have h8 : (1 : ℝ) / 2 ^ 159 ≤ 1 / 2 ^ 97 := one_div_le_one_div_of_le (by positivity) (by norm_num)
    rw [h5, abs_le]
    constructor <;> linarith

/-! ### `flog2` -/

/-- What `flog2` gives for a number that is no power of two. -/
def log2Pick (a draw : Nat) (x : Dy) : Nat :=
  match unpack f32 (Config.freeWord (BitVec.ofNat 32 a) draw).toNat with
  | .fin n m e => if Dy.lt ((FVal.dy (.fin n m e)).add x.neg).abs ⟨1, max (x.log2 - 23) (-24)⟩
      then (Config.freeWord (BitVec.ofNat 32 a) draw).toNat else pickBracket x draw
  | _ => pickBracket x draw

theorem log2Pick_near {x : Dy} (hm : x.m ≠ 0) (hlo : -126 ≤ x.log2) (hhi : x.log2 ≤ 100) (draw : Nat) :
    log2Pick a draw x < f32.bound ∧ ffin (8, 23) (log2Pick a draw x) = true ∧
      |ratOf (log2Pick a draw x) - x.rat| < 2 ^ max (x.log2 - 23) (-24) := by
  obtain ⟨hlt, hfin, -, hnear⟩ := pickBracket_near hm hlo hhi draw
  have hnear' := hnear.trans_le (two_zpow_le (le_max_left (x.log2 - 23) (-24)))
  unfold log2Pick
  generalize Config.freeWord (BitVec.ofNat 32 a) draw = c
  split
  · next n m e hu =>
    split
    · next hc =>
      obtain ⟨h1, h2⟩ := near_of_lt hu hc
      rw [show (⟨1, max (x.log2 - 23) (-24)⟩ : Dy).rat = 2 ^ max (x.log2 - 23) (-24) by rw [Dy.rat_mk, Int.cast_one, one_mul]] at h2
      exact ⟨c.isLt, h1, h2⟩
    · exact ⟨hlt, hfin, hnear'⟩
  · exact ⟨hlt, hfin, hnear'⟩

theorem logSize_le {L : Int} (hL : L.natAbs < 2 ^ 24) : logSize L ≤ 23 := by
  have hlog : ∀ n : Nat, n ≠ 0 → n < 2 ^ 24 → n.log2 ≤ 23 := fun n h0 hn => Nat.le_of_lt_succ ((Nat.log2_lt h0).2 hn)
  unfold logSize
  split
  · exact_mod_cast hlog _ (by omega) hL
  · split
    · exact_mod_cast hlog _ (by omega) (by omega)
    · decide

/-- The bound of R86 for a result of `flog2`, at a distance from the exact real. -/
theorem log2Pick_bound {x : Dy} {L : Int} {V : ℝ} (hL : L.natAbs < 2 ^ 24) (hxe : x.e = -97) (h1 : (L : ℚ) < x.rat) (h2 : x.rat < L + 1)
    (h3 : |(x.rat : ℝ) - V| ≤ 1 / 2 ^ 96) (draw : Nat) :
    log2Pick a draw x < f32.bound ∧ ffin (8, 23) (log2Pick a draw x) = true ∧
      |realOf (log2Pick a draw x) - V| ≤ 2 ^ logSize L / 2 ^ 23 + 1 / 2 ^ 90 := by
  have hsize := log2_between h1 h2
  have hm : x.m ≠ 0 := fun h0 => by
    rw [Dy.rat_eq_zero_iff.2 h0] at h1 h2
    have hneg : L < 0 := by exact_mod_cast h1
    have hpos : 0 < L + 1 := by exact_mod_cast h2
    omega
  have hlo : -126 ≤ x.log2 := by
    rw [Dy.log2, hxe]
    omega
  have hle := logSize_le hL
  obtain ⟨hlt, hfin, hnear⟩ := log2Pick_near (a := a) hm hlo (by omega) draw
  rw [show max (x.log2 - 23) (-24) = logSize L - 23 by omega] at hnear
  refine ⟨hlt, hfin, ?_⟩
  have hnear' : |(ratOf (log2Pick a draw x) : ℝ) - x.rat| < 2 ^ (logSize L - 23) := by
    have h := (Rat.cast_lt (K := ℝ)).2 hnear
    push_cast at h
    exact h
  rw [zpow_sub₀ two_ne_zero, zpow_ofNat] at hnear'
  rw [realOf_eq]
  have h90 : (1 : ℝ) / 2 ^ 96 < 1 / 2 ^ 90 := by norm_num
  calc |(ratOf (log2Pick a draw x) : ℝ) - V| ≤ |(ratOf (log2Pick a draw x) : ℝ) - x.rat| + |(x.rat : ℝ) - V| := abs_sub_le ..
    _ ≤ 2 ^ logSize L / 2 ^ 23 + 1 / 2 ^ 90 := by linarith

/-- An integer of few bits as an exact real. -/
theorem roundTo_integer {L : Int} (hL : L.natAbs < 2 ^ 24) : let r := (roundTo f32 ⟨L, 0⟩ .rne false).1
    r < f32.bound ∧ ffin (8, 23) r = true ∧ fint (8, 23) r = L * 2 ^ 149 ∧ (L = 0 → r = 0) := by
  intro r
  by_cases h0 : L = 0
  · have hr : r = 0 := by
      change (roundTo f32 ⟨L, 0⟩ .rne false).1 = 0
      rw [roundTo_zero _ _ (by exact h0)]
      rfl
    rw [hr, h0]
    exact ⟨by decide, by decide, by decide, fun _ => rfl⟩
  · obtain ⟨B, hB⟩ := exists_magInt (p := 23) hL 149
    have hfin : B < f32.infBits := by
      have hlt : B < 149 * 2 ^ 23 + 2 ^ 24 := by
        rw [← magInt_lt_iff (p := 23), hB, magInt_block (by norm_num) (.inr (by norm_num))]
        exact Nat.mul_lt_mul_of_pos_right hL (Nat.two_pow_pos _)
      rw [show f32.infBits = 255 * 2 ^ 23 from rfl]
      omega
    have hunits : (magInt f32.wF B : ℚ) = (⟨L, 0⟩ : Dy).units f32 := by
      rw [show f32.wF = 23 from rfl, hB, Dy.units, Dy.abs_rat, unitExp_f32, zpow_zero, mul_one]
      push_cast
      rfl
    have hlt : B < 2 ^ (f32.fields.1 + f32.fields.2) := hfin.trans (finf_lt f32.fields)
    have hr : r = fsign f32.fields (decide (L < 0)) B := by
      change (roundTo f32 ⟨L, 0⟩ .rne false).1 = _
      rw [roundTo_exact f32_usual h0 hunits hfin]
    rw [hr]
    refine ⟨fsign_lt _ hlt, (ffin_fsign (F := f32.fields) _ hlt).trans (decide_eq_true hfin), ?_, fun h => absurd h h0⟩
    rw [← show f32.fields = (8, 23) from rfl, fint_fsign _ hlt, show f32.fields.2 = 23 from rfl, hB]
    push_cast
    rcases lt_or_ge L 0 with hneg | hpos
    · rw [decide_eq_true hneg, if_pos rfl, abs_of_neg hneg]
      ring
    · rw [decide_eq_false hpos.not_gt, if_neg Bool.false_ne_true, abs_of_nonneg hpos]

theorem fpLog2_is (ha : a < f32.bound) (draw : Nat) :
    LogarithmIs a (fpLog2 a draw).1 (fpLog2 a draw).2 ∧ (fpLog2 a draw).1 < f32.bound := by
  have hF := f32_usual
  have hfields : f32.fields = (8, 23) := rfl
  rcases kind_cases f32.fields a with ⟨hna, hia, hfa⟩ | ⟨hna, hia, hfa⟩ | ⟨hna, hia, hfa⟩
  · simp [fpLog2, unpack_nan hF hna, LogarithmIs, ← hfields, hna, quiet_eq, fquiet_lt ha, invalidIf]
  · have hmag : fmag f32.fields a ≠ 0 := by
      rw [fisInf, decide_eq_true_eq] at hia
      rw [hia]
      decide
    cases hs : fneg f32.fields a with
    | true => simp [fpLog2, unpack_inf hia, LogarithmIs, ← hfields, hna, hs, hmag, defaultNan_eq, fnan_lt hF]
    | false => simp [fpLog2, unpack_inf hia, LogarithmIs, ← hfields, hna, hia, hs, hmag, ha]
  · obtain ⟨m, e, hu, hm, hmlt, hm0, -, he⟩ := unpack_fin hF hfa
    rw [unitExp_f32, Nat.cast_ofNat] at hu
    by_cases h0 : m = 0
    · simp [fpLog2, hu, h0, LogarithmIs, ← hfields, hna, hm0.1 h0, signed_eq, infBits_eq, inf_lt]
    · cases hs : fneg f32.fields a with
      | true => simp [fpLog2, hu, h0, LogarithmIs, ← hfields, hna, hs, hm0.not.1 h0, defaultNan_eq, fnan_lt hF]
      | false =>
        have hn : (fint f32.fields a).natAbs = m * 2 ^ e := by rw [natAbs_fint, hm]
        have hpow : m * 2 ^ e = 2 ^ (m.log2 + e) ↔ m = 2 ^ m.log2 := by
          rw [pow_add]
          exact Nat.mul_left_inj (Nat.two_pow_pos e).ne'
        obtain ⟨L, hL⟩ : ∃ L : Int, L = ((m.log2 + e : Nat) : Int) - 149 := ⟨_, rfl⟩
        have hmlog : m.log2 < 24 := (Nat.log2_lt h0).2 hmlt
        have he' : e ≤ 253 := he
        simp only [LogarithmIs, ← hfields, hna, hm0.not.1 h0, hs, hia, hn, log2_mul_two_pow h0, hpow, ← hL, if_false, Bool.false_eq_true]
        by_cases hp : m = 2 ^ m.log2
        · have hfp : fpLog2 a draw = ((roundTo f32 ⟨L, 0⟩ .rne false).1, 0) := by
            simp only [fpLog2, hu, if_neg h0, hs, Bool.false_eq_true, if_false, log2Dy_power h0 hmlt hp, ← hL, if_true]
          obtain ⟨h1, h2, h3, h4⟩ := roundTo_integer (L := L) (by omega)
          rw [hfp, if_pos hp]
          exact ⟨⟨rfl, h1, h2, h3, h4⟩, h1⟩
        · obtain ⟨hxe, h1, h2, h3⟩ := log2Dy_other h0 hmlt hp hL
          have hfp : fpLog2 a draw = (log2Pick a draw (log2Dy m ((e : Int) - 149)), 0) := by
            simp only [fpLog2, hu, if_neg h0, hs, Bool.false_eq_true, if_false]
            rw [if_neg (by rw [hxe]; decide)]
            cases hc : unpack f32 (Config.freeWord (BitVec.ofNat 32 a) draw).toNat with
            | nan s => simp only [log2Pick, hc]
            | inf n => simp only [log2Pick, hc]
            | fin n m e => simp only [log2Pick, hc]
          have hreal : realOf a = ((m * 2 ^ e : Nat) : ℝ) / 2 ^ 149 := by
            rw [realOf, ← hfields, fint_of_fneg_eq_false hs, hn]
            rfl
          rw [← hreal] at h3
          obtain ⟨h4, h5, h6⟩ := log2Pick_bound (a := a) (by omega) hxe h1 h2 h3 draw
          rw [hfp, if_neg hp]
          exact ⟨⟨rfl, h4, h5, h6⟩, h4⟩

end Sys2Proof.Machine
end

section
/-! PROOF. The approximate units (R79, R86). -/

namespace Sys2Proof.Machine
open Sys2Proof Sys2Proof.Stated
variable {f : Form} {mk : Form → Instr}

/-- A unit whose operation meets a relation at every argument and every draw gives in each lane what that relation allows. -/
theorem unitLanes_of {op : Nat → Nat → Nat × FFlags} {allows : Nat → Nat → FFlags → Prop}
    (h : ∀ {a : Nat}, a < f32.bound → ∀ draw, allows a (op a draw).1 (op a draw).2 ∧ (op a draw).1 < f32.bound)
    (hexec : ∀ s, exec (mk f) s = runUnit (mk f) f s op) : UnitLanes (mk f) f allows := by
  intro s id c hr hp
  refine ⟨_, _, fun l => (op (c.src32 f 8 f.a l).toNat (s.free + l)).2, (hexec s).trans (runUnit_after hr hp), ?_,
    c.resultLanes_laneResult f 1 _, flagsAre_of_fxs ?_, fun l _ _ => ?_⟩
  · exact ((c.resultLanes_inner f 1 _).trans (Crew.raiseFlags_inner _ _)).passed f
  · exact congrArg (· ||| _) (c.resultLanes_fxs f 1 _)
  · obtain ⟨his, hlt⟩ := h (src32_f32_lt c f 8 f.a l) (s.free + l)
    change allows _ (BitVec.ofNat 64 _).toNat _
    rwa [toNat_ofNat_f32 hlt]

theorem frcp_lanes (f : Form) : UnitLanes (.frcp f) f ReciprocalIs := unitLanes_of fpRcp_is fun _ => rfl
theorem frsq_lanes (f : Form) : UnitLanes (.frsq f) f InverseRootIs := unitLanes_of fpRsq_is fun _ => rfl
theorem fexpf_lanes (f : Form) : UnitLanes (.fexpf f) f PowerIs := unitLanes_of fpExp2_is fun _ => rfl
theorem flog2_lanes (f : Form) : UnitLanes (.flog2 f) f LogarithmIs := unitLanes_of fpLog2_is fun _ => rfl

/-- Settles O5: each unit's operation meets its relation at every pattern of f32 and for every draw of the free values. -/
theorem unitBounds : Obligations.UnitBounds := fun f => ⟨frcp_lanes f, frsq_lanes f, fexpf_lanes f, flog2_lanes f⟩

end Sys2Proof.Machine
end

section
/-! PROOF. Sign operations, the first NaN and the special arguments of the units (R79, R81, R86). -/

namespace Sys2Proof.Machine
open Sys2Proof Sys2Proof.Stated
variable {s : State} {id : Nat} {c d : Crew} {f : Form} {i : Instr} {mk : Form → Instr} {a : Word}

/-! ### Patterns of f32 as words -/

theorem mag_eq (a : Word) : mag a = fmag (8, 23) a.toNat := Nat.and_two_pow_sub_one_eq_mod a.toNat 31

theorem nan32_eq (a : Word) : nan32 a = fisNan (8, 23) a.toNat :=
  congrArg (fun m => decide (0x7F800000 < m)) (mag_eq a)

theorem toNat_quiet (a : Word) : (a ||| 0x00400000).toNat = fquiet (8, 23) a.toNat := BitVec.toNat_or ..

/-- The sign bit of a word. -/
theorem and_sign (a : Word) : a &&& 0x80000000 = if fneg (8, 23) a.toNat then 0x80000000 else 0 := by
  have h : (a &&& 0x80000000).toNat = (a.toNat.testBit 31).toNat * 2 ^ 31 := by
    rw [BitVec.toNat_and]
    exact Nat.and_two_pow a.toNat 31
  refine BitVec.eq_of_toNat_eq (h.trans ?_)
  rw [show fneg (8, 23) a.toNat = a.toNat.testBit 31 from rfl]
  cases a.toNat.testBit 31 <;> rfl

theorem toNat_sign (a : Word) : (a &&& 0x80000000).toNat = fsign (8, 23) (fneg (8, 23) a.toNat) 0 := by
  rw [and_sign]
  cases fneg (8, 23) a.toNat <;> rfl

theorem toNat_sign_or_inf (a : Word) :
    (a &&& 0x80000000 ||| 0x7F800000).toNat = fsign (8, 23) (fneg (8, 23) a.toNat) (finf (8, 23)) := by
  rw [and_sign]
  cases fneg (8, 23) a.toNat <;> rfl

/-- A zero is its sign. -/
theorem eq_sign_of_mag_eq_zero (h : mag a = 0) : a = a &&& 0x80000000 := by
  refine BitVec.eq_of_toNat_eq ?_
  rw [toNat_sign, ← h, mag_eq, fsign_fneg_fmag (F := (8, 23)) a.isLt]

/-- A negative number but −0, or −∞. -/
theorem fneg_fmag_of_negative (h1 : 0x80000000 < a.toNat) (h2 : a.toNat ≤ 0xFF800000) :
    fneg (8, 23) a.toNat = true ∧ fmag (8, 23) a.toNat ≠ 0 ∧ fisNan (8, 23) a.toNat = false := by
  obtain ⟨m, hsum⟩ : ∃ m, a.toNat = 2 ^ 31 + m := ⟨a.toNat - 2 ^ 31, by omega⟩
  have hm : a.toNat = fsign (8, 23) true m := hsum
  have hlt : m < 2 ^ 31 := by omega
  have hmag : fmag (8, 23) a.toNat = m := by rw [hm, fmag_fsign (F := (8, 23)) true hlt]
  refine ⟨by rw [hm, fneg_fsign (F := (8, 23)) true hlt], by omega, decide_eq_false ?_⟩
  rw [hmag, show finf (8, 23) = 0x7F800000 from rfl]
  omega

theorem fmag_kinds {x : Nat} (h : fmag (8, 23) x ≤ finf (8, 23)) : fisNan (8, 23) x = false := decide_eq_false h.not_gt

/-! ### The units at their special arguments -/

/-- A flag that an active lane raises is set. -/
theorem flags_raised {g : Nat → FFlags} (h : FlagsAre c d g) {l : Nat} (hl : l < 32) (ha : c.isActive l = true) :
    d.fxs &&& (g l).setWidth 64 = (g l).setWidth 64 := by
  refine BitVec.eq_of_getLsbD_eq fun n hn => ?_
  rw [BitVec.getLsbD_and, h n hn, BitVec.getLsbD_setWidth, decide_eq_true hn, Bool.true_and]
  cases hg : (g l).getLsbD n with
  | false => exact Bool.and_false _
  | true =>
    have hany : (List.range 32).any (fun l => c.isActive l && (g l).getLsbD n) = true :=
      List.any_eq_true.2 ⟨l, List.mem_range.2 hl, by rw [ha, hg]; rfl⟩
    rw [hany, Bool.or_true]
    rfl

/-- What a unit gives at the arguments that its relation decides. -/
theorem unitAt_of {allows : Nat → Nat → FFlags → Prop} (h : UnitLanes (mk f) f allows) {ok : Word → Prop} {r : Word → Word} {x : FFlags}
    (hok : ∀ a, ok a → ∀ y g, allows a.toNat y g → y = (r a).toNat ∧ (x = 0 ∨ g = x)) : UnitAt mk f ok r x := by
  intro s id c hr hp
  obtain ⟨d, v, g, hd, -, hres, hfl, hall⟩ := h s id c hr hp
  refine ⟨d, v, hd, hres, fun l hl ha hla => ?_⟩
  obtain ⟨hv, hx⟩ := hok _ hla _ _ (hall l hl ha)
  refine ⟨BitVec.eq_of_toNat_eq ?_, ?_⟩
  · rw [hv, BitVec.toNat_setWidth, Nat.mod_eq_of_lt ((BitVec.isLt _).trans (by decide))]
  · rcases hx with rfl | rfl
    · simp
    · exact flags_raised hfl hl ha

theorem fexpf_special (f : Form) : UnitAt .fexpf f (fun a => mag a = 0) (fun _ => 0x3F800000) 0 ∧
    UnitAt .fexpf f (fun a => 0x3F800000 < mag a ∧ mag a ≤ 0x7F800000) (fun _ => 0x7FC00000) flagNv := by
  refine ⟨unitAt_of (fexpf_lanes f) fun a ha y g h => ?_, unitAt_of (fexpf_lanes f) fun a ha y g h => ?_⟩
  · rw [mag_eq] at ha
    have hn : fisNan (8, 23) a.toNat = false := fmag_kinds (ha.trans_le (Nat.zero_le _))
    simp only [PowerIs, hn, ha, if_true, if_false, Bool.false_eq_true] at h
    exact ⟨h.1, .inl rfl⟩
  · rw [mag_eq] at ha
    have hn : fisNan (8, 23) a.toNat = false := fmag_kinds ha.2
    simp only [PowerIs, hn, ha.1, if_true, if_false, Bool.false_eq_true] at h
    exact ⟨h.1, .inr h.2⟩

theorem flog2_special (f : Form) : UnitAt .flog2 f (fun a => mag a = 0) (fun _ => 0xFF800000) flagDz ∧
    UnitAt .flog2 f (fun a => a = 0x7F800000) (fun _ => 0x7F800000) 0 ∧
    UnitAt .flog2 f (fun a => 0x80000000 < a.toNat ∧ a.toNat ≤ 0xFF800000) (fun _ => 0x7FC00000) flagNv := by
  refine ⟨unitAt_of (flog2_lanes f) fun a ha y g h => ?_, unitAt_of (flog2_lanes f) fun a ha y g h => ?_,
    unitAt_of (flog2_lanes f) fun a ha y g h => ?_⟩
  · rw [mag_eq] at ha
    have hn : fisNan (8, 23) a.toNat = false := fmag_kinds (ha.trans_le (Nat.zero_le _))
    simp only [LogarithmIs, hn, ha, if_true, if_false, Bool.false_eq_true] at h
    exact ⟨h.1, .inr h.2⟩
  · subst ha
    exact ⟨h.1, .inl rfl⟩
  · obtain ⟨hs, h0, hn⟩ := fneg_fmag_of_negative ha.1 ha.2
    simp only [LogarithmIs, hn, h0, hs, if_true, if_false, Bool.false_eq_true] at h
    exact ⟨h.1, .inr h.2⟩

theorem frcp_special (f : Form) : UnitAt .frcp f (fun a => mag a = 0) (fun a => a ||| 0x7F800000) flagDz ∧
    UnitAt .frcp f (fun a => mag a = 0x7F800000) (fun a => a &&& 0x80000000) 0 ∧
    UnitAt .frcp f (fun a => 0 < mag a ∧ mag a ≤ 0x00200000) (fun a => (a &&& 0x80000000) ||| 0x7F800000) flagOf := by
  refine ⟨unitAt_of (frcp_lanes f) fun a ha y g h => ?_, unitAt_of (frcp_lanes f) fun a ha y g h => ?_,
    unitAt_of (frcp_lanes f) fun a ha y g h => ?_⟩
  · rw [eq_sign_of_mag_eq_zero ha, toNat_sign_or_inf]
    rw [mag_eq] at ha
    have hn : fisNan (8, 23) a.toNat = false := fmag_kinds (ha.trans_le (Nat.zero_le _))
    have hi : fisInf (8, 23) a.toNat = false := decide_eq_false (by rw [ha]; decide)
    simp only [ReciprocalIs, hn, hi, ha, if_true, if_false, Bool.false_eq_true] at h
    exact ⟨h.1, .inr h.2⟩
  · rw [toNat_sign]
    rw [mag_eq] at ha
    have hn : fisNan (8, 23) a.toNat = false := fmag_kinds ha.le
    have hi : fisInf (8, 23) a.toNat = true := decide_eq_true ha
    simp only [ReciprocalIs, hn, hi, if_true, if_false, Bool.false_eq_true] at h
    exact ⟨h.1, .inl rfl⟩
  · rw [toNat_sign_or_inf]
    rw [mag_eq] at ha
    have hn : fisNan (8, 23) a.toNat = false := fmag_kinds (ha.2.trans (by decide))
    have hi : fisInf (8, 23) a.toNat = false := decide_eq_false (ha.2.trans_lt (by decide)).ne
    simp only [ReciprocalIs, hn, hi, ha.1.ne', ha.2, if_true, if_false, Bool.false_eq_true] at h
    exact ⟨h.1, .inr h.2⟩

theorem frsq_special (f : Form) : UnitAt .frsq f (fun a => mag a = 0) (fun a => a ||| 0x7F800000) flagDz ∧
    UnitAt .frsq f (fun a => a = 0x7F800000) (fun _ => 0) 0 ∧
    UnitAt .frsq f (fun a => 0x80000000 < a.toNat ∧ a.toNat ≤ 0xFF800000) (fun _ => 0x7FC00000) flagNv := by
  refine ⟨unitAt_of (frsq_lanes f) fun a ha y g h => ?_, unitAt_of (frsq_lanes f) fun a ha y g h => ?_,
    unitAt_of (frsq_lanes f) fun a ha y g h => ?_⟩
  · rw [eq_sign_of_mag_eq_zero ha, toNat_sign_or_inf]
    rw [mag_eq] at ha
    have hn : fisNan (8, 23) a.toNat = false := fmag_kinds (ha.trans_le (Nat.zero_le _))
    simp only [InverseRootIs, hn, ha, if_true, if_false, Bool.false_eq_true] at h
    exact ⟨h.1, .inr h.2⟩
  · subst ha
    exact ⟨h.1, .inl rfl⟩
  · obtain ⟨hs, h0, hn⟩ := fneg_fmag_of_negative ha.1 ha.2
    simp only [InverseRootIs, hn, h0, hs, if_true, if_false, Bool.false_eq_true] at h
    exact ⟨h.1, .inr h.2⟩

/-- A unit whose relation quiets a NaN. -/
theorem unitAt_nan {allows : Nat → Nat → FFlags → Prop} (h : UnitLanes (mk f) f allows)
    (hq : ∀ a y g, fisNan (8, 23) a = true → allows a y g → y = fquiet (8, 23) a) :
    UnitAt mk f (fun a => nan32 a = true) (fun a => a ||| 0x00400000) 0 :=
  unitAt_of h fun a ha _ _ hy => ⟨(hq _ _ _ (nan32_eq a ▸ ha) hy).trans (toNat_quiet a).symm, .inl rfl⟩

theorem unitSpecialCases : UnitSpecialCases := by
  intro f
  refine ⟨fexpf_special f, flog2_special f, frcp_special f, frsq_special f, ?_⟩
  simp only [unitWords, List.forall_mem_cons, List.not_mem_nil, false_imp_iff, implies_true, and_true]
  refine ⟨unitAt_nan (fexpf_lanes f) fun a y g hn h => ?_, unitAt_nan (flog2_lanes f) fun a y g hn h => ?_,
    unitAt_nan (frcp_lanes f) fun a y g hn h => ?_, unitAt_nan (frsq_lanes f) fun a y g hn h => ?_⟩
  · simp only [PowerIs, hn, if_true] at h
    exact h.1
  · simp only [LogarithmIs, hn, if_true] at h
    exact h.1
  · simp only [ReciprocalIs, hn, if_true] at h
    exact h.1
  · simp only [InverseRootIs, hn, if_true] at h
    exact h.1

/-! ### Signs and the first NaN -/

theorem LaneOp.laneWord {regs : Nat} {op : Crew → Nat → DWord × FFlags} {r : Crew → Nat → DWord} (h : LaneOp i f regs op)
    (hop : ∀ c l, (op c l).1 = r c l) : LaneWord i f regs (fun _ => True) r := by
  obtain ⟨g, hexec, hg⟩ := h
  intro s id c hr hp _
  obtain ⟨d, hd, hpass, hres, -⟩ := fltLanes_complete hr hp (hexec s) (hg c)
  exact ⟨d, hd, hpass, (funext (hop c)) ▸ hres⟩

/-- R81: `fneg` and `fabs` of an f32. -/
theorem floatSign : FloatSign := by
  intro f hty h5
  have hf : floatTy f.ty := .inl hty
  refine ⟨(laneOp_of_fltEff (i := .fneg f) (fun _ => rfl) hf h5).laneWord fun c l => ?_,
    (laneOp_of_fltEff (i := .fabs f) (fun _ => rfl) hf h5).laneWord fun c l => ?_⟩
  · rw [hty, fbitsAt_f32, ← BitVec.ofNat_toNat, BitVec.toNat_xor]
    exact congrArg (BitVec.ofNat 64) (fpNeg_eq (F := f32) (src32_f32_lt c f 8 f.a l))
  · rw [hty, fbitsAt_f32, ← BitVec.ofNat_toNat]
    exact congrArg (BitVec.ofNat 64) (mag_eq (c.src32 f 8 f.a l)).symm

/-- An operation that gives its first NaN, quieted. -/
def QuietsFirstNan (is : Nat × Nat → Nat → Nat → Nat → Nat → Prop) : Prop :=
  ∀ F a b c r, is F a b c r → (fisNan F a = true → r = fquiet F a) ∧ (fisNan F a = false → fisNan F b = true → r = fquiet F b)

theorem sumIs_quietsFirstNan : QuietsFirstNan (fun F a b _ => SumIs F a b) := fun F a b _ r h =>
  ⟨fun ha => by simpa [SumIs, ha] using h, fun ha hb => by simpa [SumIs, ha, hb] using h⟩

theorem differenceIs_quietsFirstNan : QuietsFirstNan (fun F a b _ => DifferenceIs F a b) := fun F a b _ r h => by
  refine ⟨fun ha => ?_, fun ha hb => by simpa [DifferenceIs, SumIs, ha, hb] using h⟩
  cases hb : fisNan F b with
  | true => simpa [DifferenceIs, SumIs, ha, hb] using h
  | false => simpa [DifferenceIs, SumIs, ha, hb] using h

theorem productIs_quietsFirstNan : QuietsFirstNan (fun F a b _ => ProductIs F a b) := fun F a b _ r h =>
  ⟨fun ha => by simpa [ProductIs, ha] using h, fun ha hb => by simpa [ProductIs, ha, hb] using h⟩

theorem pushed_firstNan {is : Nat × Nat → Nat → Nat → Nat → Nat → Prop} (hw : FloatWord mk is) (hq : QuietsFirstNan is)
    (hr : Runs s id c) (hp : Ready c (mk f) f) (hty : f.ty = 8) (h5 : f.m5 = false) :
    ∃ d, exec (mk f) s = .next (After s id d) ∧ ∀ l < 32, c.isActive l = true →
      (nan32 (c.src32 f 8 f.a l) = true → pushed d l = (c.src32 f 8 f.a l ||| 0x00400000).setWidth 64) ∧
      (nan32 (c.src32 f 8 f.a l) = false → nan32 (c.src32 f 8 f.b l) = true →
        pushed d l = (c.src32 f 8 f.b l ||| 0x00400000).setWidth 64) := by
  obtain ⟨d, v, hd, -, ⟨hpush, -⟩, hv⟩ := (hw f (.inl hty)).1 h5 s id c hr hp
  refine ⟨d, hd, fun l hl ha => ?_⟩
  obtain ⟨-, hlane⟩ := hv l hl ha
  rw [hty, fbitsAt_f32, fbitsAt_f32] at hlane
  obtain ⟨h1, h2⟩ := hq _ _ _ _ _ hlane
  have hword : ∀ {x : Word}, (v l).toNat = fquiet (8, 23) x.toNat → v l = (x ||| 0x00400000).setWidth 64 := fun {x} hx => by
    rw [← BitVec.ofNat_toNat, toNat_quiet, ← hx, BitVec.ofNat_toNat, BitVec.setWidth_eq]
  rw [hpush l hl, if_pos ha, nan32_eq, nan32_eq]
  exact ⟨fun hna => hword (h1 hna), fun hna hnb => hword (h2 hna hnb)⟩

/-- R79: the first NaN of `fadd`, `fsub` and `fmul`. -/
theorem floatFirstNan : FloatFirstNan := by
  intro mk hmem f s id c hr hp hty h5
  simp only [List.mem_cons, List.not_mem_nil, or_false] at hmem
  rcases hmem with rfl | rfl | rfl
  · exact pushed_firstNan (fadd_opGives.floatWord fun _ _ => rfl) sumIs_quietsFirstNan hr hp hty h5
  · exact pushed_firstNan (fsub_opGives.floatWord fun _ _ => rfl) differenceIs_quietsFirstNan hr hp hty h5
  · exact pushed_firstNan (fmul_opGives.floatWord fun _ _ => rfl) productIs_quietsFirstNan hr hp hty h5

/-- Settles O6: signs and the first NaN from the operations' results, the special arguments from the units' relations, and the flags
from each operation's own. -/
theorem floatValues : Obligations.FloatValues := ⟨floatSign, floatFirstNan, unitSpecialCases, floatParts, floatFlags⟩

end Sys2Proof.Machine
end
